-- ==== Sys2Proof/Word.lean ====
section
/-! DEFINITION. The word types of the manual's registers and the plainest arithmetic on them. -/

namespace Sys2Proof

/-- One byte of memory (R5). -/
abbrev Byte := BitVec 8

/-- One 32-bit element of a vector register (R131). -/
abbrev Word := BitVec 32

/-- One 64-bit scalar register (R107). -/
abbrev DWord := BitVec 64

/-- A mask over the 64 lanes of a warp: bit L is lane L. -/
abbrev Mask := BitVec 64

/-- The elements of one vector register, lane 0 first (R131). -/
abbrev Vec := List Word

/-- The lanes of a warp, in ascending order. -/
def lanes : List Nat := List.range 64

/-- Element L of a vector. -/
def Vec.at (v : Vec) (l : Nat) : Word := v.getD l 0

/-- The vector whose element L is `f L`. -/
def Vec.ofFn (f : Nat → Word) : Vec := lanes.map f

/-- The vector of 64 zeros. -/
def Vec.zero : Vec := List.replicate 64 0

end Sys2Proof
end

