-- ==== Sys2Proof/Config.lean ====
section
/-! DEFINITION. What an STD-VX8 B0 module fixes, and the free values: constants with no body, so that no proof can see what
they are. -/

namespace Sys2Proof.Config

/-- Free value: what an agent outside the package (a PCIe device, a host, another package) returns for one byte of a read,
at the n-th time the machine asks (R341). Assumption 3. -/
opaque outsideByte : Nat → Byte

/-- Free value: the device's pick at the n-th occurrence of a behaviour that is stated as two alternatives (R3).
Assumption 4. -/
opaque pick : Nat → Bool

/-- Free value: the special-function pipe's candidate for VL1 function fn (R153) of an FP32 operand under fm.ftz, the one
field of `fm` that these functions read (R140, R155, R156); the model keeps only what R155 bounds. Assumption 5. -/
opaque specialFn (fn : Nat) (x : Word) (ftz : Bool) : Word

/-- Free value: the signature of a message under the device's Ed25519 key (R447). Assumption 6. -/
opaque signEd25519 : List Nat → Nat

/-- Free value: the signature of a message under the device's ML-DSA-65 key (R447). Assumption 6. -/
opaque signMlDsa : List Nat → Nat

/-- Free values: the SHA-384 measurements that the Kryfilum hart keeps (R447), of copy n of the firmware images, of the fuse
state, and of vxcap values. Assumption 6. -/
opaque measurement : Nat → Nat
opaque fuseMeasurement : Nat
opaque capMeasurement : List DWord → Nat

/-- Physical base of the launch lines of a column (R387): firmware fixes it at daylight, the manual gives no value.
DESIGN CHOICE: one 1 KiB block per column just below offset 2^37 of the LD. Assumption 7. -/
def launchBase (ld col : Nat) : Nat := ld * 2 ^ 38 + 0x1F_FFF0_0000 + col * 1024

/-- The column whose slice is the home of a line of an LD, among the columns exposed at daylight (R320, R21): the hash is fixed
at daylight; any choice gives the same values. The lines of a launch block map to the block's own column (R387). DESIGN CHOICE.
Assumption 8. -/
def homeCol (homes : BitVec 48) (ld line : Nat) : Nat :=
  let b := line * 64
  let col := (b - launchBase ld 0) / 1024
  if launchBase ld 0 ≤ b ∧ b < launchBase ld 48 ∧ homes.getLsbD col then col
  else if homes = BitVec.allOnes 48 then line % 48
  else
    let cs := (List.range 48).filter homes.getLsbD
    cs.getD (line % cs.length) 0

/-- Free value: the module of an edge direction that carries a request for a line (R373): a hash over the modules in service.
Assumption 60. -/
opaque moduleHash (edge line : Nat) : Nat

/-- Free value: the stack that holds a line of memory (R333): the interleaving of a region's lines across the four stacks is
not given. Assumption 10. -/
opaque stackOf : Nat → Fin 4

/-- Free value: which of the lines that a lost slice poisons POISONLOG keeps (R335, R442): a line number from which the first one is
sought. Assumption 76. -/
opaque lostLine : Nat → Nat

/-- FE cycles of 0.625 ns in one microsecond (R8). -/
def cyclesPerUs : Nat := 1600

end Sys2Proof.Config
end

