-- ==== Sys2Proof/Machine/Cells.lean ====
section
/-! DEFINITION. Sparse maps in one canonical form: pairs with strictly rising keys, none of which holds the value that an
unlisted key reads as. Memory, register files, tiles and buffers are held this way, so that equal contents are equal data. -/

namespace Sys2Proof.Machine

/-- A sparse map from keys to values of α. -/
abbrev Cells (α : Type) := List (Nat × α)

namespace Cells
variable {α : Type}

/-- The value at a key; an unlisted key reads as d. -/
def get (d : α) (c : Cells α) (k : Nat) : α :=
  match c with
  | [] => d
  | (j, v) :: r => if j = k then v else get d r k

/-- The map with no entry for a key. -/
def erase (c : Cells α) (k : Nat) : Cells α :=
  match c with
  | [] => []
  | (j, v) :: r => if j = k then erase r k else (j, v) :: erase r k

/-- The map with one more entry, put before the first larger key. -/
def insert (c : Cells α) (k : Nat) (v : α) : Cells α :=
  match c with
  | [] => [(k, v)]
  | (j, x) :: r => if k < j then (k, v) :: (j, x) :: r else (j, x) :: insert r k v

/-- The map in which a key holds v: writing what an unlisted key reads as removes the entry. -/
def set [DecidableEq α] (d : α) (c : Cells α) (k : Nat) (v : α) : Cells α :=
  if v = d then erase c k else insert (erase c k) k v

/-- Every key of the map exceeds k. -/
def above (k : Nat) (c : Cells α) : Bool := c.all fun e => k < e.1

/-- The canonical form. -/
def wf [DecidableEq α] (d : α) : Cells α → Bool
  | [] => true
  | (k, v) :: r => above k r && v ≠ d && wf d r

end Cells
end Sys2Proof.Machine
end

