-- ==== Sys2Proof/Syntax.lean ====
section
/-! DEFINITION. The steps of the Stedom VX-8: one constructor per row of spec/opcode_table.json. The first 261 are the
instruction and hint words of R34 to R61; the last 71 are the device's own steps, which have no encoding. -/

namespace Sys2Proof

/-- The place of a warp: LD, column, core and slot (R25, R105). -/
structure Place where
  ld : BitVec 2
  col : BitVec 6
  core : BitVec 3
  slot : BitVec 4
deriving DecidableEq, Repr

/-- A cluster: LD, column and bit [2] of its core numbers (R24). -/
structure Cluster where
  ld : BitVec 2
  col : BitVec 6
  cl : BitVec 1
deriving DecidableEq, Repr

/-- A workgroup of the launch that its queue runs: GANG and WGRP of R105. -/
structure GroupKey where
  ld : BitVec 2
  queue : BitVec 6
  gang : BitVec 32
  wgrp : BitVec 3
deriving DecidableEq, Repr

/-- A column hart (R25). -/
structure HartId where
  ld : BitVec 2
  col : BitVec 6
deriving DecidableEq, Repr

/-- The privilege mode a column hart accesses a CSR in (R342). -/
inductive HartMode
  | m | hs | u | vs | vu
deriving DecidableEq, Repr

/-- The four edges between base dies (R17). -/
inductive Edge
  | e01 | e23 | e02 | e13
deriving DecidableEq, Repr

/-- The permission an access needs (R344), with the codes of ACC in R356. -/
inductive Access
  | read | write | rw | exec
deriving DecidableEq, Repr

/-- The agent of a read that is performed at a home slice (R328). -/
inductive Reader
  | warp (p : Place) | hart (h : HartId) (n : BitVec 7) (allow : Bool) | port (n : BitVec 6)
deriving DecidableEq, Repr

/-- An access of a column hart to a physical address; `allow` says that its translation and its PMP let it through (R19). -/
structure HartAt where
  hart : HartId
  allow : Bool
  pa : BitVec 56
deriving DecidableEq, Repr

/-- What a hart does with a line that it owns (R328, R329): it only obtains it, stores bytes, performs an AMO with the function
of an atomic, or executes a Zicbom instruction. -/
inductive HartOp
  | own | store (data : List (BitVec 8)) | amo (fn : BitVec 4) (x : BitVec 64) (y : BitVec 64) | clean | flush | inval
deriving DecidableEq, Repr

/-- A port that sends requests to home slices (R330). -/
inductive ReqPort
  | core (ld : BitVec 2) (col : BitVec 6) (core : BitVec 3) | copyEngine (c : Cluster) | atomicUnit (c : Cluster)
  | slice (ld : BitVec 2) (col : BitVec 6) | hart (h : HartId) | link (n : BitVec 6)
deriving DecidableEq, Repr

/-- A request at a home slice (R330): it arrives, is sent again with its ticket, or leaves its tracker. -/
inductive TicketStep
  | arrive | again | done
deriving DecidableEq, Repr

/-- The slice a request is sent to (R330). -/
structure SliceId where
  ld : BitVec 2
  col : BitVec 6
deriving DecidableEq, Repr

/-- A request of a port at a home slice, which one of its requests it is, and what becomes of it (R330). -/
structure PortRequest where
  port : ReqPort
  tag : Nat
  act : TicketStep
deriving DecidableEq, Repr

/-- A request that enters through a UALink or PCIe port (R378, R380). -/
inductive PortReq
  | read (n : Nat)
  | write (data : List (BitVec 8))
  | atomic (fn : BitVec 4) (x y : BitVec 64)
deriving DecidableEq, Repr

/-- One copy of a firmware image as the Kryfilum hart finds it (R446): the SHA-384 hashes of the public keys that it is checked
against, whether each of its two signatures verifies under its key, and its version. -/
structure ImageCopy where
  edKey : Nat
  mlKey : Nat
  edSigned : Bool
  mlSigned : Bool
  version : Nat
deriving DecidableEq, Repr

/-- What is fused in base die 0 (R446): the hashes of both public keys, and the anti-rollback counter. -/
structure Fuses where
  edKey : Nat
  mlKey : Nat
  rollback : Nat
deriving DecidableEq, Repr

/-- What the start-up of R444 finds: the fuses and the copies of the firmware images in pairs (R446), the step that does not end if
one does not, the physical columns of each compute die that fail test (LD, die, position), the pseudo-channels that fail test
(LD, stack, number) of R443, and the values of TICK at which steps 6, 7 and 8 end. -/
structure StartInput where
  fuses : Fuses
  images : List ImageCopy
  stopStep : Option Nat
  failedCols : List (BitVec 2 × BitVec 1 × Nat)
  retired : List (BitVec 2 × Nat × Nat)
  ends : Nat × Nat × Nat
deriving DecidableEq, Repr

/-- A column hart and the privilege mode in which it accesses a custom CSR (R342). -/
structure HartBy where
  hart : HartId
  mode : HartMode
deriving DecidableEq, Repr

/-- The steps of the device. -/
inductive Instr where
  /-- HINT_IMM (R50). Hint word that adds 22 immediate bits above the target's own immediate field. -/
  | hintImm (p : BitVec 22)
  /-- HINT_IMMH (R50). Hint word that supplies immediate bits 53:32 of an SI target, together with an IMM hint. -/
  | hintImmh (p : BitVec 22)
  /-- HINT_RC (R48). Hint word that gives the reconvergence offset of a brd. -/
  | hintRc (o : BitVec 22)
  /-- HINT_REP (R51). Hint word that repeats its target n times, stepping the vector register fields by t. -/
  | hintRep (t : BitVec 4) (n : BitVec 6)
  /-- HINT_MOD (R54). Hint word that carries the modifiers of vtopk, mtopk or cpy.2d. -/
  | hintMod (p : BitVec 22)
  /-- HINT_CP (R53). Hint word that sets the word span and the cache policy of the target's accesses. -/
  | hintCp (p : BitVec 3) (s : BitVec 16)
  /-- HINT_SCH (R52). Hint word that lowers the warp's priority class when its target issues. -/
  | hintSch (c : BitVec 3)
  /-- HINT_KV (R54). Hint word that gives the valid K count of a matrix tail. -/
  | hintKv (k : BitVec 8)
  /-- ADD (R113). Scalar 64-bit add. -/
  | add (d : BitVec 6) (a : BitVec 6) (b : BitVec 6)
  /-- SUB (R113). Scalar 64-bit subtract. -/
  | sub (d : BitVec 6) (a : BitVec 6) (b : BitVec 6)
  /-- MUL (R113). Scalar multiply that keeps the low 64 bits. -/
  | mul (d : BitVec 6) (a : BitVec 6) (b : BitVec 6)
  /-- MULH (R113). Scalar signed multiply that keeps the high 64 bits. -/
  | mulh (d : BitVec 6) (a : BitVec 6) (b : BitVec 6)
  /-- MULHN (R113). Scalar natural multiply that keeps the high 64 bits. -/
  | mulhn (d : BitVec 6) (a : BitVec 6) (b : BitVec 6)
  /-- DIV (R113). Scalar signed divide, rounded toward zero. -/
  | div (d : BitVec 6) (a : BitVec 6) (b : BitVec 6)
  /-- DIVN (R113). Scalar natural divide. -/
  | divn (d : BitVec 6) (a : BitVec 6) (b : BitVec 6)
  /-- REM (R113). Scalar signed remainder. -/
  | rem (d : BitVec 6) (a : BitVec 6) (b : BitVec 6)
  /-- REMN (R113). Scalar natural remainder. -/
  | remn (d : BitVec 6) (a : BitVec 6) (b : BitVec 6)
  /-- AND (R113). Scalar bitwise and. -/
  | and (d : BitVec 6) (a : BitVec 6) (b : BitVec 6)
  /-- OR (R113). Scalar bitwise or. -/
  | or (d : BitVec 6) (a : BitVec 6) (b : BitVec 6)
  /-- XOR (R113). Scalar bitwise exclusive or. -/
  | xor (d : BitVec 6) (a : BitVec 6) (b : BitVec 6)
  /-- ANDN (R113). Scalar and with the complement of sb. -/
  | andn (d : BitVec 6) (a : BitVec 6) (b : BitVec 6)
  /-- SHL (R113). Scalar shift left. -/
  | shl (d : BitVec 6) (a : BitVec 6) (b : BitVec 6)
  /-- SHR (R113). Scalar logical shift right. -/
  | shr (d : BitVec 6) (a : BitVec 6) (b : BitVec 6)
  /-- SAR (R113). Scalar arithmetic shift right. -/
  | sar (d : BitVec 6) (a : BitVec 6) (b : BitVec 6)
  /-- ROL (R113). Scalar rotate left. -/
  | rol (d : BitVec 6) (a : BitVec 6) (b : BitVec 6)
  /-- MIN (R113). Scalar signed minimum. -/
  | min (d : BitVec 6) (a : BitVec 6) (b : BitVec 6)
  /-- MAX (R113). Scalar signed maximum. -/
  | max (d : BitVec 6) (a : BitVec 6) (b : BitVec 6)
  /-- MINN (R113). Scalar natural minimum. -/
  | minn (d : BitVec 6) (a : BitVec 6) (b : BitVec 6)
  /-- MAXN (R113). Scalar natural maximum. -/
  | maxn (d : BitVec 6) (a : BitVec 6) (b : BitVec 6)
  /-- CLZ (R113). Scalar count of leading zero bits. -/
  | clz (d : BitVec 6) (a : BitVec 6)
  /-- CTZ (R113). Scalar count of trailing zero bits. -/
  | ctz (d : BitVec 6) (a : BitVec 6)
  /-- POPC (R113). Scalar count of one bits. -/
  | popc (d : BitVec 6) (a : BitVec 6)
  /-- SEXT_B (R113). Scalar sign extension from 8 bits. -/
  | sextB (d : BitVec 6) (a : BitVec 6)
  /-- SEXT_H (R113). Scalar sign extension from 16 bits. -/
  | sextH (d : BitVec 6) (a : BitVec 6)
  /-- SEXT_W (R113). Scalar sign extension from 32 bits. -/
  | sextW (d : BitVec 6) (a : BitVec 6)
  /-- BFX (R114). Scalar bit-field extract, with position and width taken from sb. -/
  | bfx (d : BitVec 6) (a : BitVec 6) (b : BitVec 6)
  /-- BFI (R114). Scalar bit-field insert into sd. -/
  | bfi (d : BitVec 6) (a : BitVec 6) (b : BitVec 6)
  /-- MOV (R113). Scalar register move. -/
  | mov (d : BitVec 6) (a : BitVec 6)
  /-- CMP_EQ (R113). Scalar compare for equality, writing 1 or 0. -/
  | cmpEq (d : BitVec 6) (a : BitVec 6) (b : BitVec 6)
  /-- CMP_NE (R113). Scalar compare for inequality. -/
  | cmpNe (d : BitVec 6) (a : BitVec 6) (b : BitVec 6)
  /-- CMP_LT (R113). Scalar signed less-than compare. -/
  | cmpLt (d : BitVec 6) (a : BitVec 6) (b : BitVec 6)
  /-- CMP_LE (R113). Scalar signed less-or-equal compare. -/
  | cmpLe (d : BitVec 6) (a : BitVec 6) (b : BitVec 6)
  /-- CMP_LTN (R113). Scalar natural less-than compare. -/
  | cmpLtn (d : BitVec 6) (a : BitVec 6) (b : BitVec 6)
  /-- CMP_LEN (R113). Scalar natural less-or-equal compare. -/
  | cmpLen (d : BitVec 6) (a : BitVec 6) (b : BitVec 6)
  /-- SEL (R113). Scalar select of sa or sb, by whether the old sd is nonzero. -/
  | sel (d : BitVec 6) (a : BitVec 6) (b : BitVec 6)
  /-- ADDI (R116). Scalar add of an immediate. -/
  | addi (d : BitVec 6) (a : BitVec 6) (i : BitVec 10)
  /-- ANDI (R116). Scalar and with an immediate. -/
  | andi (d : BitVec 6) (a : BitVec 6) (i : BitVec 10)
  /-- ORI (R116). Scalar or with an immediate. -/
  | ori (d : BitVec 6) (a : BitVec 6) (i : BitVec 10)
  /-- XORI (R116). Scalar exclusive or with an immediate. -/
  | xori (d : BitVec 6) (a : BitVec 6) (i : BitVec 10)
  /-- SHLI (R116). Scalar shift left by an immediate. -/
  | shli (d : BitVec 6) (a : BitVec 6) (i : BitVec 10)
  /-- SHRI (R116). Scalar logical shift right by an immediate. -/
  | shri (d : BitVec 6) (a : BitVec 6) (i : BitVec 10)
  /-- SARI (R116). Scalar arithmetic shift right by an immediate. -/
  | sari (d : BitVec 6) (a : BitVec 6) (i : BitVec 10)
  /-- SLTI (R116). Scalar signed less-than compare with an immediate. -/
  | slti (d : BitVec 6) (a : BitVec 6) (i : BitVec 10)
  /-- SLTNI (R116). Scalar natural less-than compare with an immediate. -/
  | sltni (d : BitVec 6) (a : BitVec 6) (i : BitVec 10)
  /-- LI (R116). Loads an immediate into a scalar register. -/
  | li (d : BitVec 6) (i : BitVec 10)
  /-- ADR (R116). Writes the PC-relative address PC + imm × 4, taken modulo 2^48. -/
  | adr (d : BitVec 6) (i : BitVec 10)
  /-- SLD_B64 (R118). Weak scalar load of a doubleword, committed by la. -/
  | sldB64 (l : BitVec 4) (d : BitVec 6) (a : BitVec 6) (i : BitVec 6)
  /-- SLD_B32 (R118). Weak scalar load of a word, zero-extended. -/
  | sldB32 (l : BitVec 4) (d : BitVec 6) (a : BitVec 6) (i : BitVec 6)
  /-- SST_B64 (R118). Weak scalar store of a doubleword. -/
  | sstB64 (d : BitVec 6) (a : BitVec 6) (i : BitVec 6)
  /-- SST_B32 (R118). Weak scalar store of a word. -/
  | sstB32 (d : BitVec 6) (a : BitVec 6) (i : BitVec 6)
  /-- SLD_ST (R297). Strong scalar doubleword load at the encoded scope. -/
  | sldSt (l : BitVec 4) (d : BitVec 6) (a : BitVec 6) (s : BitVec 3)
  /-- SST_ST (R297). Strong scalar doubleword store at the encoded scope. -/
  | sstSt (d : BitVec 6) (a : BitVec 6) (s : BitVec 3)
  /-- CASM (R311). Locks, compares and, if all entries match, replaces up to sixteen scattered doublewords as one element of M. -/
  | casm (l : BitVec 4) (d : BitVec 6) (a : BitVec 6) (n : BitVec 4)
  /-- CLAIM (R314). Re-homes the arena pages of a range to the caller's LD, after a package-scope full fence. -/
  | claim (d : BitVec 6) (a : BitVec 6) (b : BitVec 6)
  /-- BR (R120). Unconditional uniform branch. -/
  | br (o : BitVec 20)
  /-- BR_ANY (R120). Uniform branch, taken when any lane of EM & G is set. -/
  | brAny (g : BitVec 4) (o : BitVec 20)
  /-- BR_ALL (R120). Uniform branch, taken when EM & G equals EM. -/
  | brAll (g : BitVec 4) (o : BitVec 20)
  /-- BR_NONE (R120). Uniform branch, taken when EM & G is zero. -/
  | brNone (g : BitVec 4) (o : BitVec 20)
  /-- BRD (R186). Divergent branch that splits the path by its guard and pushes join and sibling entries. -/
  | brd (g : BitVec 4) (o : BitVec 20)
  /-- CALL (R121). Unconditional jump that writes the return address to lk. -/
  | call (o : BitVec 20)
  /-- RSR (R104). Reads a special register into a scalar register. -/
  | rsr (d : BitVec 6) (n : BitVec 12)
  /-- WSR (R126). Writes a scalar register to a special register under the field access codes. -/
  | wsr (n : BitVec 12) (b : BitVec 6)
  /-- TRAP (R408). Raises the software trap, cause 0x0A. -/
  | trap (n : BitVec 6)
  /-- TRET (R409). Leaves a trap handler: returns, vacates, or ends the launch with FAULTED. -/
  | tret
  /-- FENCE_ACQ (R315). Acquire fence at the encoded scope. -/
  | fenceAcq (s : BitVec 3)
  /-- FENCE_REL (R315). Release fence at the encoded scope. -/
  | fenceRel (s : BitVec 3)
  /-- FENCE_FULL (R315). Full fence at the encoded scope. -/
  | fenceFull (s : BitVec 3)
  /-- WAIT (R300). Parks until an arrival counter falls to an immediate threshold, and optionally reads and clears its ERR. -/
  | wait (d : BitVec 6) (n : BitVec 4) (t : BitVec 6)
  /-- WAITR (R300). Parks until an arrival counter falls to a threshold held in a register. -/
  | waitr (d : BitVec 6) (n : BitVec 4) (b : BitVec 6)
  /-- NAP (R99). Parks the warp for a stated number of FE cycles. -/
  | nap (a : BitVec 6)
  /-- REFILL (R79). At depth 0, gives empty lanes new items through an ItemTake. -/
  | refill (d : BitVec 6)
  /-- EXIT_I (R84). Ends the items of the lanes in EM; pops, continues, restarts with new items or retires. -/
  | exitI
  /-- SUCC (R93). Records the successor stage of the workgroup. -/
  | succ (n : BitVec 3)
  /-- SUCC_CLR (R93). Clears the workgroup's successor record. -/
  | succClr
  /-- RETIRE (R90). Ends the warp at once and abandons its items. -/
  | retire
  /-- YIELD (R196). Performs a fair swap at once. -/
  | yield
  /-- JR (R122). Jumps to a register address and writes a link. -/
  | jr (d : BitVec 6) (a : BitVec 6)
  /-- STK_SAVE (R200). Writes the reconvergence stack image to memory. -/
  | stkSave (d : BitVec 6) (a : BitVec 6)
  /-- STK_LOAD (R201). Replaces the reconvergence stack from a checked image. -/
  | stkLoad (a : BitVec 6)
  /-- ACGET (R301). Reads an arrival counter's value. -/
  | acget (d : BitVec 6) (n : BitVec 4)
  /-- ACSET (R301). Writes an arrival counter's error summary. -/
  | acset (n : BitVec 4) (b : BitVec 6)
  /-- QDROP (R307). Returns the occupancy of a stream queue and removes all its entries. -/
  | qdrop (d : BitVec 6) (q : BitVec 2)
  /-- VADD (R138). Vector integer add. -/
  | vadd (d : BitVec 7) (a : BitVec 7) (b : BitVec 7)
  /-- VSUB (R138). Vector integer subtract. -/
  | vsub (d : BitVec 7) (a : BitVec 7) (b : BitVec 7)
  /-- VMUL (R138). Vector integer multiply, low 32 bits. -/
  | vmul (d : BitVec 7) (a : BitVec 7) (b : BitVec 7)
  /-- VMULH (R138). Vector signed multiply, high 32 bits. -/
  | vmulh (d : BitVec 7) (a : BitVec 7) (b : BitVec 7)
  /-- VMULHN (R138). Vector natural multiply, high 32 bits. -/
  | vmulhn (d : BitVec 7) (a : BitVec 7) (b : BitVec 7)
  /-- VMAD (R138). Vector integer multiply-add into vd. -/
  | vmad (d : BitVec 7) (a : BitVec 7) (b : BitVec 7)
  /-- VMIN (R138). Vector signed minimum. -/
  | vmin (d : BitVec 7) (a : BitVec 7) (b : BitVec 7)
  /-- VMAX (R138). Vector signed maximum. -/
  | vmax (d : BitVec 7) (a : BitVec 7) (b : BitVec 7)
  /-- VMINN (R138). Vector natural minimum. -/
  | vminn (d : BitVec 7) (a : BitVec 7) (b : BitVec 7)
  /-- VMAXN (R138). Vector natural maximum. -/
  | vmaxn (d : BitVec 7) (a : BitVec 7) (b : BitVec 7)
  /-- VABS (R138). Vector integer absolute value. -/
  | vabs (d : BitVec 7) (a : BitVec 7)
  /-- VAND (R138). Vector bitwise and. -/
  | vand (d : BitVec 7) (a : BitVec 7) (b : BitVec 7)
  /-- VOR (R138). Vector bitwise or. -/
  | vor (d : BitVec 7) (a : BitVec 7) (b : BitVec 7)
  /-- VXOR (R138). Vector bitwise exclusive or. -/
  | vxor (d : BitVec 7) (a : BitVec 7) (b : BitVec 7)
  /-- VANDN (R138). Vector and with a complement. -/
  | vandn (d : BitVec 7) (a : BitVec 7) (b : BitVec 7)
  /-- VSHL (R138). Vector shift left. -/
  | vshl (d : BitVec 7) (a : BitVec 7) (b : BitVec 7)
  /-- VSHR (R138). Vector logical shift right. -/
  | vshr (d : BitVec 7) (a : BitVec 7) (b : BitVec 7)
  /-- VSAR (R138). Vector arithmetic shift right. -/
  | vsar (d : BitVec 7) (a : BitVec 7) (b : BitVec 7)
  /-- VROL (R138). Vector rotate left. -/
  | vrol (d : BitVec 7) (a : BitVec 7) (b : BitVec 7)
  /-- VCLZ (R138). Vector count of leading zero bits. -/
  | vclz (d : BitVec 7) (a : BitVec 7)
  /-- VPOPC (R138). Vector count of one bits. -/
  | vpopc (d : BitVec 7) (a : BitVec 7)
  /-- VADDSAT (R138). Vector signed saturating add. -/
  | vaddsat (d : BitVec 7) (a : BitVec 7) (b : BitVec 7)
  /-- VSUBSAT (R138). Vector signed saturating subtract. -/
  | vsubsat (d : BitVec 7) (a : BitVec 7) (b : BitVec 7)
  /-- VADDSATN (R138). Vector natural saturating add. -/
  | vaddsatn (d : BitVec 7) (a : BitVec 7) (b : BitVec 7)
  /-- VSUBSATN (R138). Vector natural saturating subtract. -/
  | vsubsatn (d : BitVec 7) (a : BitVec 7) (b : BitVec 7)
  /-- VDOT4 (R138). Vector signed four-byte dot product accumulated into vd. -/
  | vdot4 (d : BitVec 7) (a : BitVec 7) (b : BitVec 7)
  /-- VDOT4N (R138). Vector natural four-byte dot product accumulated into vd. -/
  | vdot4n (d : BitVec 7) (a : BitVec 7) (b : BitVec 7)
  /-- VMOV (R138). Vector register move. -/
  | vmov (d : BitVec 7) (a : BitVec 7)
  /-- VBFX (R139). Vector bit-field extract. -/
  | vbfx (d : BitVec 7) (a : BitVec 7) (b : BitVec 7)
  /-- VBFI (R139). Vector bit-field insert. -/
  | vbfi (d : BitVec 7) (a : BitVec 7) (b : BitVec 7)
  /-- VADD_X (R138). Vector integer add with a scalar or immediate operand. -/
  | vaddX (d : BitVec 7) (a : BitVec 7) (x : BitVec 1) (b : BitVec 6)
  /-- VSUB_X (R138). Vector integer subtract with a scalar or immediate operand. -/
  | vsubX (d : BitVec 7) (a : BitVec 7) (x : BitVec 1) (b : BitVec 6)
  /-- VMUL_X (R138). Vector multiply with a scalar or immediate operand. -/
  | vmulX (d : BitVec 7) (a : BitVec 7) (x : BitVec 1) (b : BitVec 6)
  /-- VMULH_X (R138). Vector signed high multiply with a scalar or immediate operand. -/
  | vmulhX (d : BitVec 7) (a : BitVec 7) (x : BitVec 1) (b : BitVec 6)
  /-- VMULHN_X (R138). Vector natural high multiply with a scalar or immediate operand. -/
  | vmulhnX (d : BitVec 7) (a : BitVec 7) (x : BitVec 1) (b : BitVec 6)
  /-- VMAD_X (R138). Vector multiply-add with a scalar or immediate operand. -/
  | vmadX (d : BitVec 7) (a : BitVec 7) (x : BitVec 1) (b : BitVec 6)
  /-- VMIN_X (R138). Vector signed minimum with a scalar or immediate operand. -/
  | vminX (d : BitVec 7) (a : BitVec 7) (x : BitVec 1) (b : BitVec 6)
  /-- VMAX_X (R138). Vector signed maximum with a scalar or immediate operand. -/
  | vmaxX (d : BitVec 7) (a : BitVec 7) (x : BitVec 1) (b : BitVec 6)
  /-- VMINN_X (R138). Vector natural minimum with a scalar or immediate operand. -/
  | vminnX (d : BitVec 7) (a : BitVec 7) (x : BitVec 1) (b : BitVec 6)
  /-- VMAXN_X (R138). Vector natural maximum with a scalar or immediate operand. -/
  | vmaxnX (d : BitVec 7) (a : BitVec 7) (x : BitVec 1) (b : BitVec 6)
  /-- VAND_X (R138). Vector and with a scalar or immediate operand. -/
  | vandX (d : BitVec 7) (a : BitVec 7) (x : BitVec 1) (b : BitVec 6)
  /-- VOR_X (R138). Vector or with a scalar or immediate operand. -/
  | vorX (d : BitVec 7) (a : BitVec 7) (x : BitVec 1) (b : BitVec 6)
  /-- VXOR_X (R138). Vector exclusive or with a scalar or immediate operand. -/
  | vxorX (d : BitVec 7) (a : BitVec 7) (x : BitVec 1) (b : BitVec 6)
  /-- VANDN_X (R138). Vector and-not with a scalar or immediate operand. -/
  | vandnX (d : BitVec 7) (a : BitVec 7) (x : BitVec 1) (b : BitVec 6)
  /-- VSHL_X (R138). Vector shift left by a scalar or immediate. -/
  | vshlX (d : BitVec 7) (a : BitVec 7) (x : BitVec 1) (b : BitVec 6)
  /-- VSHR_X (R138). Vector logical shift right by a scalar or immediate. -/
  | vshrX (d : BitVec 7) (a : BitVec 7) (x : BitVec 1) (b : BitVec 6)
  /-- VSAR_X (R138). Vector arithmetic shift right by a scalar or immediate. -/
  | vsarX (d : BitVec 7) (a : BitVec 7) (x : BitVec 1) (b : BitVec 6)
  /-- VROL_X (R138). Vector rotate left by a scalar or immediate. -/
  | vrolX (d : BitVec 7) (a : BitVec 7) (x : BitVec 1) (b : BitVec 6)
  /-- VADDSAT_X (R138). Vector signed saturating add with a scalar or immediate operand. -/
  | vaddsatX (d : BitVec 7) (a : BitVec 7) (x : BitVec 1) (b : BitVec 6)
  /-- VSUBSAT_X (R138). Vector signed saturating subtract with a scalar or immediate operand. -/
  | vsubsatX (d : BitVec 7) (a : BitVec 7) (x : BitVec 1) (b : BitVec 6)
  /-- VADDSATN_X (R138). Vector natural saturating add with a scalar or immediate operand. -/
  | vaddsatnX (d : BitVec 7) (a : BitVec 7) (x : BitVec 1) (b : BitVec 6)
  /-- VSUBSATN_X (R138). Vector natural saturating subtract with a scalar or immediate operand. -/
  | vsubsatnX (d : BitVec 7) (a : BitVec 7) (x : BitVec 1) (b : BitVec 6)
  /-- VDOT4_X (R138). Vector signed byte dot product with a scalar or immediate operand. -/
  | vdot4X (d : BitVec 7) (a : BitVec 7) (x : BitVec 1) (b : BitVec 6)
  /-- VDOT4N_X (R138). Vector natural byte dot product with a scalar or immediate operand. -/
  | vdot4nX (d : BitVec 7) (a : BitVec 7) (x : BitVec 1) (b : BitVec 6)
  /-- VMOVS (R138). Moves a scalar or immediate into every lane of EM. -/
  | vmovs (d : BitVec 7) (x : BitVec 1) (b : BitVec 6)
  /-- VBFX_X (R139). Vector bit-field extract with the field taken from a scalar or immediate. -/
  | vbfxX (d : BitVec 7) (a : BitVec 7) (x : BitVec 1) (b : BitVec 6)
  /-- VBFI_X (R139). Vector bit-field insert with the field taken from a scalar or immediate. -/
  | vbfiX (d : BitVec 7) (a : BitVec 7) (x : BitVec 1) (b : BitVec 6)
  /-- VFADD (R143). FP32 add, rounded by fm. -/
  | vfadd (d : BitVec 7) (a : BitVec 7) (b : BitVec 7)
  /-- VFSUB (R143). FP32 subtract. -/
  | vfsub (d : BitVec 7) (a : BitVec 7) (b : BitVec 7)
  /-- VFMUL (R143). FP32 multiply. -/
  | vfmul (d : BitVec 7) (a : BitVec 7) (b : BitVec 7)
  /-- VFFMA (R143). FP32 fused multiply-add. -/
  | vffma (d : BitVec 7) (a : BitVec 7) (b : BitVec 7)
  /-- VFFMS (R143). FP32 fused multiply-subtract. -/
  | vffms (d : BitVec 7) (a : BitVec 7) (b : BitVec 7)
  /-- VFMIN (R144). FP32 minimumNumber. -/
  | vfmin (d : BitVec 7) (a : BitVec 7) (b : BitVec 7)
  /-- VFMAX (R144). FP32 maximumNumber. -/
  | vfmax (d : BitVec 7) (a : BitVec 7) (b : BitVec 7)
  /-- VFABS (R143). Clears the FP32 sign bit. -/
  | vfabs (d : BitVec 7) (a : BitVec 7)
  /-- VFNEG (R143). Inverts the FP32 sign bit. -/
  | vfneg (d : BitVec 7) (a : BitVec 7)
  /-- VFRND (R144). Rounds an FP32 value to an integral value. -/
  | vfrnd (d : BitVec 7) (a : BitVec 7)
  /-- VFCLASS (R144). Writes the class mask of an FP32 value. -/
  | vfclass (d : BitVec 7) (a : BitVec 7)
  /-- VFSCL (R145). Scales an FP32 value by a power of two. -/
  | vfscl (d : BitVec 7) (a : BitVec 7) (b : BitVec 7)
  /-- VFCPYS (R143). Copies a sign bit onto an FP32 value. -/
  | vfcpys (d : BitVec 7) (a : BitVec 7) (b : BitVec 7)
  /-- VFADD_X (R146). FP32 add with a scalar or immediate operand. -/
  | vfaddX (d : BitVec 7) (a : BitVec 7) (x : BitVec 1) (b : BitVec 6)
  /-- VFSUB_X (R146). FP32 subtract with a scalar or immediate operand. -/
  | vfsubX (d : BitVec 7) (a : BitVec 7) (x : BitVec 1) (b : BitVec 6)
  /-- VFMUL_X (R146). FP32 multiply with a scalar or immediate operand. -/
  | vfmulX (d : BitVec 7) (a : BitVec 7) (x : BitVec 1) (b : BitVec 6)
  /-- VFFMA_X (R146). FP32 fused multiply-add with a scalar or immediate operand. -/
  | vffmaX (d : BitVec 7) (a : BitVec 7) (x : BitVec 1) (b : BitVec 6)
  /-- VFFMS_X (R146). FP32 fused multiply-subtract with a scalar or immediate operand. -/
  | vffmsX (d : BitVec 7) (a : BitVec 7) (x : BitVec 1) (b : BitVec 6)
  /-- VFMIN_X (R146). FP32 minimumNumber with a scalar or immediate operand. -/
  | vfminX (d : BitVec 7) (a : BitVec 7) (x : BitVec 1) (b : BitVec 6)
  /-- VFMAX_X (R146). FP32 maximumNumber with a scalar or immediate operand. -/
  | vfmaxX (d : BitVec 7) (a : BitVec 7) (x : BitVec 1) (b : BitVec 6)
  /-- VFSCL_X (R146). FP32 power-of-two scale with a scalar or immediate operand. -/
  | vfsclX (d : BitVec 7) (a : BitVec 7) (x : BitVec 1) (b : BitVec 6)
  /-- VFCPYS_X (R146). Sign copy from a scalar or immediate operand. -/
  | vfcpysX (d : BitVec 7) (a : BitVec 7) (x : BitVec 1) (b : BitVec 6)
  /-- VHADD_F16 (R147). Packed FP16 add. -/
  | vhaddF16 (d : BitVec 7) (a : BitVec 7) (b : BitVec 7)
  /-- VHMUL_F16 (R147). Packed FP16 multiply. -/
  | vhmulF16 (d : BitVec 7) (a : BitVec 7) (b : BitVec 7)
  /-- VHFMA_F16 (R147). Packed FP16 fused multiply-add. -/
  | vhfmaF16 (d : BitVec 7) (a : BitVec 7) (b : BitVec 7)
  /-- VHADD_BF16 (R147). Packed BF16 add. -/
  | vhaddBf16 (d : BitVec 7) (a : BitVec 7) (b : BitVec 7)
  /-- VHMUL_BF16 (R147). Packed BF16 multiply. -/
  | vhmulBf16 (d : BitVec 7) (a : BitVec 7) (b : BitVec 7)
  /-- VHFMA_BF16 (R147). Packed BF16 fused multiply-add. -/
  | vhfmaBf16 (d : BitVec 7) (a : BitVec 7) (b : BitVec 7)
  /-- VHMIN_F16 (R147). Packed FP16 minimumNumber. -/
  | vhminF16 (d : BitVec 7) (a : BitVec 7) (b : BitVec 7)
  /-- VHMAX_F16 (R147). Packed FP16 maximumNumber. -/
  | vhmaxF16 (d : BitVec 7) (a : BitVec 7) (b : BitVec 7)
  /-- VHMIN_BF16 (R147). Packed BF16 minimumNumber. -/
  | vhminBf16 (d : BitVec 7) (a : BitVec 7) (b : BitVec 7)
  /-- VHMAX_BF16 (R147). Packed BF16 maximumNumber. -/
  | vhmaxBf16 (d : BitVec 7) (a : BitVec 7) (b : BitVec 7)
  /-- VHDOT2_BF16 (R148). Two-term BF16 dot product accumulated into FP32, rounded once. -/
  | vhdot2Bf16 (d : BitVec 7) (a : BitVec 7) (b : BitVec 7)
  /-- VCMP (R149). Compares two vector registers per lane and writes the lane mask to a scalar register. -/
  | vcmp (c : BitVec 4) (d : BitVec 6) (a : BitVec 7) (b : BitVec 7) (t : BitVec 2)
  /-- VSEL (R152). Guarded select, copying va where the selector is nonzero. -/
  | vsel (g : BitVec 4) (d : BitVec 7) (a : BitVec 7) (b : BitVec 7)
  /-- VRCP (R153). Per-lane FP32 reciprocal. -/
  | vrcp (l : BitVec 4) (d : BitVec 7) (a : BitVec 7)
  /-- VRSQ (R153). Per-lane FP32 reciprocal square root. -/
  | vrsq (l : BitVec 4) (d : BitVec 7) (a : BitVec 7)
  /-- VSQRT (R153). Per-lane FP32 square root, correctly rounded. -/
  | vsqrt (l : BitVec 4) (d : BitVec 7) (a : BitVec 7)
  /-- VEX2 (R153). Per-lane FP32 power of two. -/
  | vex2 (l : BitVec 4) (d : BitVec 7) (a : BitVec 7)
  /-- VLG2 (R153). Per-lane FP32 base-2 logarithm. -/
  | vlg2 (l : BitVec 4) (d : BitVec 7) (a : BitVec 7)
  /-- VSIN (R153). Per-lane FP32 sine. -/
  | vsin (l : BitVec 4) (d : BitVec 7) (a : BitVec 7)
  /-- VCOS (R153). Per-lane FP32 cosine. -/
  | vcos (l : BitVec 4) (d : BitVec 7) (a : BitVec 7)
  /-- VTANH (R153). Per-lane FP32 hyperbolic tangent. -/
  | vtanh (l : BitVec 4) (d : BitVec 7) (a : BitVec 7)
  /-- VDIV (R153). Per-lane FP32 division of va by va+1, correctly rounded. -/
  | vdiv (l : BitVec 4) (d : BitVec 7) (a : BitVec 7)
  /-- VSHFL (R205). Cross-lane shuffle by a lane index. -/
  | vshfl (l : BitVec 4) (d : BitVec 7) (a : BitVec 7) (m : BitVec 3)
  /-- VSHFLX (R205). Cross-lane shuffle by lane exclusive or. -/
  | vshflx (l : BitVec 4) (d : BitVec 7) (a : BitVec 7) (m : BitVec 3)
  /-- VBCAST (R205). Broadcasts the lowest member lane. -/
  | vbcast (l : BitVec 4) (d : BitVec 7) (a : BitVec 7) (m : BitVec 3)
  /-- VRED_ADD (R205). Sum reduction over the members, i32 or f32. -/
  | vredAdd (l : BitVec 4) (d : BitVec 7) (a : BitVec 7) (v : BitVec 1) (m : BitVec 3)
  /-- VRED_MIN (R205). Minimum reduction over the members. -/
  | vredMin (l : BitVec 4) (d : BitVec 7) (a : BitVec 7) (v : BitVec 1) (m : BitVec 3)
  /-- VRED_MAX (R205). Maximum reduction over the members. -/
  | vredMax (l : BitVec 4) (d : BitVec 7) (a : BitVec 7) (v : BitVec 1) (m : BitVec 3)
  /-- VRED_AND (R205). And reduction over the members. -/
  | vredAnd (l : BitVec 4) (d : BitVec 7) (a : BitVec 7) (m : BitVec 3)
  /-- VRED_OR (R205). Or reduction over the members. -/
  | vredOr (l : BitVec 4) (d : BitVec 7) (a : BitVec 7) (m : BitVec 3)
  /-- VRED_XOR (R205). Exclusive-or reduction over the members. -/
  | vredXor (l : BitVec 4) (d : BitVec 7) (a : BitVec 7) (m : BitVec 3)
  /-- VSCAN_ADD (R205). Inclusive or exclusive i32 prefix sum over the members. -/
  | vscanAdd (l : BitVec 4) (d : BitVec 7) (a : BitVec 7) (v : BitVec 1) (m : BitVec 3)
  /-- VSCAN_ADDF (R205). Inclusive or exclusive f32 prefix sum, each rounded once. -/
  | vscanAddf (l : BitVec 4) (d : BitVec 7) (a : BitVec 7) (v : BitVec 1) (m : BitVec 3)
  /-- VBALLOT (R205). Writes the 64-bit ballot of nonzero members to a register pair. -/
  | vballot (l : BitVec 4) (d : BitVec 7) (a : BitVec 7) (m : BitVec 3)
  /-- VTOPK (R206). Merges member candidates into a best-first list of k value and index pairs. -/
  | vtopk (l : BitVec 4) (d : BitVec 7) (a : BitVec 7) (m : BitVec 3)
  /-- VCOMPACT (R205). Compacts the selected members' values into the low member lanes. -/
  | vcompact (l : BitVec 4) (d : BitVec 7) (a : BitVec 7) (m : BitVec 3)
  /-- VCVT (R177). Converts each element of a run from the source format to the destination format. -/
  | vcvt (t : BitVec 4) (l : BitVec 4) (d : BitVec 7) (a : BitVec 7) (s : BitVec 4)
  /-- VQNT (R178). Divides FP32 values by a block scale and rounds them into the A format. -/
  | vqnt (l : BitVec 4) (d : BitVec 7) (a : BitVec 7) (b : BitVec 2)
  /-- VSCL (R179). Computes the E8M0 block scale of the largest magnitude for the A format. -/
  | vscl (l : BitVec 4) (d : BitVec 7) (a : BitVec 7) (b : BitVec 2)
  /-- VI4XE (R180). Encodes 32 E4M3 elements per lane into an I4X block. -/
  | vi4xe (l : BitVec 4) (d : BitVec 7) (a : BitVec 7)
  /-- VI4XD (R181). Decodes an I4X block per lane into 32 E4M3 elements. -/
  | vi4xd (l : BitVec 4) (d : BitVec 7) (a : BitVec 7)
  /-- LD (R296). Weak vector load of the encoded width. -/
  | ld (w : BitVec 3) (l : BitVec 4) (d : BitVec 7) (a : BitVec 7) (b : BitVec 5)
  /-- LD_B32_ST (R296). Strong 32-bit vector load at the encoded scope. -/
  | ldB32St (s : BitVec 3) (l : BitVec 4) (d : BitVec 7) (a : BitVec 7) (b : BitVec 5)
  /-- LD_B64_ST (R296). Strong 64-bit vector load at the encoded scope. -/
  | ldB64St (s : BitVec 3) (l : BitVec 4) (d : BitVec 7) (a : BitVec 7) (b : BitVec 5)
  /-- LDP (R302). Split-phase weak load charged to an arrival counter. -/
  | ldp (c : BitVec 4) (w : BitVec 3) (d : BitVec 7) (a : BitVec 7) (b : BitVec 5)
  /-- ST (R296). Guarded weak vector store of the encoded width. -/
  | st (w : BitVec 3) (g : BitVec 4) (v : BitVec 7) (a : BitVec 7) (b : BitVec 5)
  /-- ST_B32_ST (R296). Guarded strong 32-bit vector store at the encoded scope. -/
  | stB32St (s : BitVec 3) (g : BitVec 4) (v : BitVec 7) (a : BitVec 7) (b : BitVec 5)
  /-- GATH (R305). Gathers one element per lane into the tail entry of a stream queue. -/
  | gath (c : BitVec 4) (q : BitVec 2) (w : BitVec 3) (a : BitVec 7) (b : BitVec 5)
  /-- ATOM_CO (R309). Memory atomic of core scope, performed at the core's L1 atomic unit. -/
  | atomCo (g : BitVec 4) (l : BitVec 4) (f : BitVec 4) (d : BitVec 7) (a : BitVec 7)
  /-- ATOM_CL (R309). Memory atomic of cluster scope, performed at the cluster atomic unit. -/
  | atomCl (g : BitVec 4) (l : BitVec 4) (f : BitVec 4) (d : BitVec 7) (a : BitVec 7)
  /-- ATOM_CM (R309). Memory atomic of column scope, performed at the column slice. -/
  | atomCm (g : BitVec 4) (l : BitVec 4) (f : BitVec 4) (d : BitVec 7) (a : BitVec 7)
  /-- ATOM_LD (R309). Memory atomic of device scope, performed at the home slice. -/
  | atomLd (g : BitVec 4) (l : BitVec 4) (f : BitVec 4) (d : BitVec 7) (a : BitVec 7)
  /-- ATOM_PK (R309). Memory atomic of package scope, performed at the home slice. -/
  | atomPk (g : BitVec 4) (l : BitVec 4) (f : BitVec 4) (d : BitVec 7) (a : BitVec 7)
  /-- ATOM_SY (R309). Memory atomic of system scope, performed at the home slice or the port. -/
  | atomSy (g : BitVec 4) (l : BitVec 4) (f : BitVec 4) (d : BitVec 7) (a : BitVec 7)
  /-- BLD (R214). Loads words from the A or W allotment. -/
  | bld (l : BitVec 4) (u : BitVec 1) (d : BitVec 7) (a : BitVec 7) (w : BitVec 2)
  /-- BST (R214). Guarded store of words into the A or W allotment. -/
  | bst (g : BitVec 4) (u : BitVec 1) (v : BitVec 7) (a : BitVec 7) (w : BitVec 2)
  /-- BATOM_ADD (R215). Buffer atomic add, lane by lane in ascending order. -/
  | batomAdd (l : BitVec 4) (u : BitVec 1) (d : BitVec 7) (a : BitVec 7) (w : BitVec 1)
  /-- BATOM_MIN (R215). Buffer atomic signed minimum. -/
  | batomMin (l : BitVec 4) (u : BitVec 1) (d : BitVec 7) (a : BitVec 7) (w : BitVec 1)
  /-- BATOM_MAX (R215). Buffer atomic signed maximum. -/
  | batomMax (l : BitVec 4) (u : BitVec 1) (d : BitVec 7) (a : BitVec 7) (w : BitVec 1)
  /-- BATOM_EXCH (R215). Buffer atomic exchange. -/
  | batomExch (l : BitVec 4) (u : BitVec 1) (d : BitVec 7) (a : BitVec 7) (w : BitVec 1)
  /-- BATOM_CAS (R215). Buffer atomic compare-and-swap. -/
  | batomCas (l : BitVec 4) (u : BitVec 1) (d : BitVec 7) (a : BitVec 7) (w : BitVec 1)
  /-- BAR_INIT (R222). Sets the membership of a barrier word, limited to live warps. -/
  | barInit (a : BitVec 6) (b : BitVec 4)
  /-- BAR_ARW (R222). Arrives at a barrier word and waits on the token just written. -/
  | barArw (a : BitVec 6) (b : BitVec 4)
  /-- BAR_ARRIVE (R222). Arrives at a barrier word, returns the phase token and releases at core scope. -/
  | barArrive (a : BitVec 6) (b : BitVec 4)
  /-- BAR_WAIT (R222). Parks until the barrier word's phase differs from the token. -/
  | barWait (a : BitVec 6) (b : BitVec 4)
  /-- BAR_JOIN (R222). Makes the warp a member of a barrier word. -/
  | barJoin (b : BitVec 4)
  /-- BAR_DROP (R222). Removes the warp from a barrier word. -/
  | barDrop (b : BitVec 4)
  /-- MMA (R237). Posts matrix multiply-accumulate requests for the acting octets and charges the tile's counter. -/
  | mma (r : BitVec 1) (c : BitVec 4) (a : BitVec 7) (b : BitVec 5)
  /-- MMAS (R237). Posts matrix multiply requests that read no C input. -/
  | mmas (r : BitVec 1) (c : BitVec 4) (a : BitVec 7) (b : BitVec 5)
  /-- MDIST (R237). Posts squared-distance accumulate requests. -/
  | mdist (r : BitVec 1) (c : BitVec 4) (a : BitVec 7) (b : BitVec 5)
  /-- MTOPK (R240). Selects per lane the k largest elements of its tile row. -/
  | mtopk (l : BitVec 4) (c : BitVec 4) (d : BitVec 7)
  /-- MREL (R241). Empties the warp's A latch. -/
  | mrel
  /-- TCFG (R259). Configures a tile with a shape and zeroes it. -/
  | tcfg (c : BitVec 4) (s : BitVec 6)
  /-- TZERO (R259). Zeroes a configured tile. -/
  | tzero (c : BitVec 4)
  /-- TROW (R260). Copies a tile row into a vector register. -/
  | trow (c : BitVec 4) (v : BitVec 7) (s : BitVec 6) (l : BitVec 4)
  /-- TCOL (R260). Copies a tile column into a vector register. -/
  | tcol (c : BitVec 4) (v : BitVec 7) (s : BitVec 6) (l : BitVec 4)
  /-- TSETR (R261). Writes a vector register into a tile row. -/
  | tsetr (c : BitVec 4) (v : BitVec 7) (s : BitVec 6)
  /-- TSETC (R261). Writes a vector register into a tile column. -/
  | tsetc (c : BitVec 4) (v : BitVec 7) (s : BitVec 6)
  /-- TLD (R262). Loads tile rows from memory, one row per lane. -/
  | tld (c : BitVec 4) (v : BitVec 7) (s : BitVec 6)
  /-- TST (R262). Stores tile rows to memory, one row per lane. -/
  | tst (c : BitVec 4) (v : BitVec 7) (s : BitVec 6)
  /-- TSAVE (R263). Writes a tile image to memory. -/
  | tsave (c : BitVec 4) (s : BitVec 6)
  /-- TLOAD (R263). Reads a tile image from memory. -/
  | tload (c : BitVec 4) (s : BitVec 6)
  /-- TDROP (R259). Unconfigures a tile and clears its dirty bit. -/
  | tdrop (c : BitVec 4)
  /-- CPY (R362). Queues a byte copy between memory ranges on the cluster copy engine. -/
  | cpy (n : BitVec 4) (d : BitVec 6) (a : BitVec 6) (b : BitVec 6)
  /-- CPY_2D (R363). Queues a strided copy of rows on the copy engine. -/
  | cpy2d (n : BitVec 4) (d : BitVec 6) (a : BitVec 6) (b : BitVec 6)
  /-- MLR (R369). Queues a multicast load of BF16 elements from every group member, reduced to FP32 in local memory. -/
  | mlr (n : BitVec 4) (d : BitVec 6) (a : BitVec 6) (b : BitVec 6)
  /-- MST (R371). Queues a multicast store of local bytes to every group member. -/
  | mst (n : BitVec 4) (d : BitVec 6) (a : BitVec 6) (b : BitVec 6)
  /-- CPYW (R364). Queues a copy from memory into the W allotment. -/
  | cpyw (n : BitVec 4) (d : BitVec 6) (a : BitVec 6) (b : BitVec 6)
  /-- CPYA (R364). Queues a copy from memory into the A allotment. -/
  | cpya (n : BitVec 4) (d : BitVec 6) (a : BitVec 6) (b : BitVec 6)
  /-- CPYO (R364). Queues a copy from the A allotment to memory. -/
  | cpyo (n : BitVec 4) (d : BitVec 6) (a : BitVec 6) (b : BitVec 6)
  /-- ITEM_TAKE (R74). Indivisible take of up to n items from the launch's item counter at its home slice. -/
  | itemTake (n : BitVec 7)
  /-- START_TAKE (R77). A stage-0 warp takes its first items into lanes from 0 upward, or retires when none remain. -/
  | startTake
  /-- WARP_RETIREMENT (R88). After its counters reach zero, the warp releases at device scope, drops its barriers and stops issuing. -/
  | warpRetirement
  /-- SUCCESSOR_START (R94). A workgroup of the recorded stage starts in place on the same core, in the next cycle. -/
  | successorStart
  /-- POP_AT_ARRIVAL (R187). A path whose next word lies at CRPC pops the stack, skipping entries of exited lanes. -/
  | popAtArrival
  /-- FAIR_SWAP (R195). When the path count reaches 4 096, the current path is exchanged with the deepest waiting path. -/
  | fairSwap
  /-- NAP_EXPIRY (R99). A napping warp becomes ready after its stated number of FE cycles. -/
  | napExpiry (p : Place)
  /-- ALLOWANCE_CYCLE (R421). Each FE cycle the cluster refills its allowance counter, grants a matrix entry, withholds warps and
  charges the units issued. -/
  | allowanceCycle (c : Cluster)
  /-- LDP_REPLY (R303). A split-phase reply writes its lane, and the last reply completes the operation. -/
  | ldpReply (op : Nat) (lane : BitVec 6)
  /-- GATHER_COMPLETION (R305). A gather's lanes are written and its queue entry becomes complete, releasing its charge. -/
  | gatherCompletion (op : Nat)
  /-- ENTRY_CREATION (R242). The cycle after the A read ends, a matrix instruction's requests take a reservation-table entry. -/
  | entryCreation (op : Nat)
  /-- ARBITER_GRANT (R244). The arbiter grants the first eligible entry by effective priority, age and core. -/
  | arbiterGrant (c : Cluster)
  /-- PASS_COMPLETION (R238). When all rows of an instruction's passes are written, its counter charge is released and its flags
  enter FSTAT. -/
  | passCompletion (op : Nat)
  /-- COPY_COMPLETION (R365). A copy operation completes, setting its error bits and releasing its arrival counter. -/
  | copyCompletion (op : Nat)
  /-- MLR_COMPLETION (R370). A multicast load-reduce writes its sums, or fails as a whole when any member fails. -/
  | mlrCompletion (op : Nat)
  /-- ASYNC_REPORT_TRAP (R198). A pending asynchronous report is taken at a trap-unit boundary. -/
  | asyncReportTrap
  /-- LAUNCH_RECORD (R391). The distributor checks a record handed on by a launch store and accepts it at the tail of its queue or
  refuses it. -/
  | launchRecord (ld : BitVec 2)
  /-- KERNEL_OBJECT_READ (R394). A launch at the head of its queue has its kernel object read, checked and its variant chosen. -/
  | kernelObjectRead (ld : BitVec 2) (q : BitVec 6)
  /-- GANG_PLACEMENT (R399). The distributor places a gang on distinct cores of one column with save blocks. -/
  | gangPlacement (ld : BitVec 2)
  /-- TIME_SLICE_EXPIRY (R410). The slice timer reaching SLICE pre-empts the launch when an equal or higher priority launch waits. -/
  | timeSliceExpiry (ld : BitVec 2) (q : BitVec 6)
  /-- PREEMPTION (R412). Each resident warp of a pre-empted launch takes the pre-emption trap at its next boundary. -/
  | preemption (p : Place)
  /-- WORKGROUP_SAVE (R415). When all warps have vacated, the workgroup's header, barriers and allotments are saved and its
  resources freed. -/
  | workgroupSave (g : GroupKey)
  /-- GANG_RESTORE (R419). A saved gang is placed again and its warps start at TVEC + 4 from their saved state. -/
  | gangRestore (ld : BitVec 2)
  /-- EARLY_END (R404). A launch ends early with a status: its warps stop, drain and retire, and its completion word is written. -/
  | earlyEnd (ld : BitVec 2) (q : BitVec 6) (status : BitVec 8)
  /-- QUEUE_CANCEL (R397). A write of CANCEL ends every launch of the queue with CANCELLED. -/
  | queueCancel (ld : BitVec 2) (q : BitVec 6)
  /-- QUEUE_SUSPEND (R397). A write of SUSPEND stops placement of the queue and pre-empts its current launch. -/
  | queueSuspend (ld : BitVec 2) (q : BitVec 6)
  /-- STORE_AT_HOME (R325). The home slice applies a store and forwards the bytes to every recorded copy before acknowledging. -/
  | storeAtHome (x : HartAt) (data : List (BitVec 8))
  /-- TICKETED_REQUEST (R330). A refused request sent again with its ticket is accepted in ticket order. -/
  | ticketedRequest (home : SliceId) (r : PortRequest)
  /-- COLUMN_SCOPE_STORE (R326). A cluster- or column-scope store is applied at the column slice, acknowledged and sent on to the home. -/
  | columnScopeStore (ld : BitVec 2) (col : BitVec 6) (pa : BitVec 56) (data : List (BitVec 8))
  /-- READ_AT_HOME (R328). A read performed at the home slice, checked by CRC and served after any hart recall. -/
  | readAtHome (who : Reader) (pa : BitVec 56) (errs : List (BitVec 8 × BitVec 8))
  /-- HART_OWNERSHIP_REQUEST (R328). A hart's ownership request invalidates every SIMT and visitor copy before it is granted. -/
  | hartOwnershipRequest (x : HartAt) (op : HartOp)
  /-- DIRECTORY_EVICTION (R324). The home evicts a directory entry after invalidating every copy it records. -/
  | directoryEviction (pa : BitVec 56)
  /-- PARITY_ALERT (R336). A DRAM alert on a command parity error rewinds and replays commands from the history. -/
  | parityAlert (ld : BitVec 2) (channel : BitVec 9) (again : Bool)
  /-- PAGE_WALK (R346). The walker reads page-table entries with strong loads and sets A and D bits by compare-and-swap. -/
  | pageWalk (ld : BitVec 2) (stall : BitVec 10) (va : BitVec 64) (acc : Access)
  /-- FAULT_POST (R356). A held fault entry is written to the ring and PROD advanced, with a release between. -/
  | faultPost (ld : BitVec 2)
  /-- CONS_STORE (R356). A strong store to CONS makes the device read CONS again and post held entries. -/
  | consStore (ld : BitVec 2) (stall : BitVec 10) (v : BitVec 64)
  /-- RESUME_RETRY (R357). A matching retry command makes the parked warp execute its faulting unit again. -/
  | resumeRetry (ld : BitVec 2) (stall : BitVec 10) (fnum : BitVec 16) (p : Place)
  /-- RESUME_ABORT (R357). A matching abort command makes the parked warp take trap 0x05. -/
  | resumeAbort (ld : BitVec 2) (stall : BitVec 10) (fnum : BitVec 16) (p : Place)
  /-- VXINVAL_STALL (R350). Drops every cached translation, record and handle table of one stall in the LD. -/
  | vxinvalStall (h : HartBy) (stall : BitVec 10)
  /-- VXINVAL_PAGE (R350). Drops the translations of one stall for one virtual page. -/
  | vxinvalPage (h : HartBy) (stall : BitVec 10) (page : BitVec 47)
  /-- VXINVAL_GPAGE (R350). Drops the translations of one stall whose G-stage used one guest page. -/
  | vxinvalGpage (h : HartBy) (stall : BitVec 10) (page : BitVec 47)
  /-- VXINVAL_ALL (R350). Drops every cached translation of every stall of the LD. -/
  | vxinvalAll (h : HartBy)
  /-- VXPOOLTOP_WRITE (R349). A write to vxpooltop takes the LD's free-frame stack lock, indivisibly toward claim. -/
  | vxpooltopWrite (h : HartId) (mode : HartMode) (v : BitVec 64)
  /-- PEER_REQUEST (R353). A peer-window request is translated at the owner LD's exchange port in the owner stall's context. -/
  | peerRequest (ld : BitVec 2) (stall : BitVec 10) (va : BitVec 64) (acc : Access)
  /-- INBOUND_PORT_REQUEST (R378). A request entering through a UALink or PCIe port is served as a system-scope access. -/
  | inboundPortRequest (port : BitVec 6) (pa : BitVec 56) (req : PortReq)
  /-- FLIT_CRC_MISMATCH (R375). A flit that fails its CRC is discarded with later flits, and the transmitter replays. -/
  | flitCrcMismatch (e : Edge) (module : BitVec 7) (dir : Bool)
  /-- LANE_TEST (R376). At the end of retraining, lanes are repaired, the module degraded to x32 or taken out of service. -/
  | laneTest (e : Edge) (module : BitVec 7) (out : BitVec 7) (back : BitVec 7) (halfOk : Bool)
  /-- ENTER_TRAINING (R379). A port whose link-level replay cannot recover enters training. -/
  | enterTraining (port : BitVec 6)
  /-- TRAINING_COMPLETE (R379). A port that completes training returns to up. -/
  | trainingComplete (port : BitVec 6)
  /-- TRAINING_TIMEOUT (R379). A port still training after 4 ms goes down. -/
  | trainingTimeout (port : BitVec 6)
  /-- PORT_ENABLE (R385). A 0-to-1 write of a port's EN bit starts training. -/
  | portEnable (port : BitVec 6)
  /-- PORT_DISABLE (R385). A 1-to-0 write of a port's EN bit disables the port and loses its outstanding requests. -/
  | portDisable (port : BitVec 6)
  /-- FENCE_COMPLETION (R288). A fence completes when every access it orders before it has been performed. -/
  | fenceCompletion
  /-- GOVERNOR_EVALUATION (R425). Every 10 us the column governor moves its level by at most one step. -/
  | governorEvaluation (ld : BitVec 2) (col : BitVec 6) (temp : Nat) (power : Nat)
  /-- THERMAL_TRIP (R428). A sensor at 115 °C removes power from every die except the Kryfilum hart. -/
  | thermalTrip
  /-- QUIESCE_POINT (R429). Once its pipes and crossings are empty, a cluster switches to its effective lane rate and resumes issue. -/
  | quiescePoint (c : Cluster)
  /-- VXGOV_WRITE (R430). A write to vxgov sets CAP, BUDGET, FLOOR and the requested rates and clears the replay cap. -/
  | vxgovWrite (h : HartId) (mode : HartMode) (v : BitVec 64)
  /-- CLUSTER_GATING (R431). A cluster idle for 50 us gates, losing its buffers and L1 contents. -/
  | clusterGating (c : Cluster)
  /-- WAKE_END (R432). A cluster wake ends and the placed gang's warps start. -/
  | wakeEnd (c : Cluster)
  /-- TIMING_ERROR_REPLAY (R434). A failing beat or send at double rate is repeated, tagged sends receiving their recorded results. -/
  | timingErrorReplay (c : Cluster)
  /-- STALL_END (R438). Ending a stall disables its queues, ends their launches, invalidates it and posts a report. -/
  | stallEnd (ld : BitVec 2) (stall : BitVec 10) (poison : Bool)
  /-- VXERR_POP (R437). A write to vxerr removes the head report. -/
  | vxerrPop (ld : BitVec 2)
  /-- COMPUTE_DIE_FAILURE (R440). A failed compute die enters reset and its resident launches end with FAULTED. -/
  | computeDieFailure (ld : BitVec 2) (die : BitVec 1)
  /-- BASE_DIE_FAILURE (R440). A failed base die enters reset with its LD, ending every launch and making its memory unreachable. -/
  | baseDieFailure (ld : BitVec 2)
  /-- CORES_LOST (R442). A column's cores fail while its hart and slice stay in service. -/
  | coresLost (ld : BitVec 2) (col : BitVec 6)
  /-- BASE_DIE_PART_LOST (R442). A column's slice or hart fails, poisoning the lines homed in the slice. -/
  | baseDiePartLost (ld : BitVec 2) (col : BitVec 6)
  /-- FIRST_LIGHT (R444). From power-good the module runs the start-up steps through daylight. -/
  | firstLight (inp : StartInput)
  /-- ATTESTATION_REQUEST (R447). The Kryfilum hart answers an SPDM request with doubly signed measurements. -/
  | attestationRequest (nonce : BitVec 256)
  /-- RGNCTL_WRITE (R338). A write to a region's RGNCTL takes the region offline, changes its mode or brings it online, scrubbing it. -/
  | rgnctlWrite (ld : BitVec 2) (k : BitVec 8) (v : BitVec 64)
  /-- CSR_WRITE (R342). A write to a device CSR that has no row of its own, under the privilege rules. -/
  | csrWrite (h : HartId) (mode : HartMode) (csr : BitVec 12) (v : BitVec 64)
  /-- TICK (R128). The TICK count grows by one every 0.625 ns of wall-clock time, whatever the lane clock, level, allowance or gating. -/
  | tick
deriving DecidableEq, Repr

end Sys2Proof
end

