-- ==== Sys2Proof/Machine/State.lean ====
section
/-! DEFINITION. The state of the module as plain data, the reasons a step can stop, and the state after reset. -/

namespace Sys2Proof.Machine

/-- The reasons a step stops with a fault. -/
inductive Fault
  /-- Raised by `step` when the list of coming events, which is the model's own input, names an instruction word instead
  of an event. Safe: the device has no such input. -/
  | notAnEvent
deriving DecidableEq, Repr

/-- The reasons a step is refused. -/
inductive Refusal
  /-- Raised by `exec` for a constructor without a meaning. Safe: nothing can be proved of that instruction. -/
  | notModelled (mnemonic : String)
deriving DecidableEq, Repr

/-- A hint word of a trap unit (R48). -/
inductive Hint
  | imm (p : BitVec 22) | immh (p : BitVec 22) | rc (o : BitVec 22) | rep (t : BitVec 4) (n : BitVec 6)
  | mod (p : BitVec 22) | cp (p : BitVec 3) (s : BitVec 16) | sch (c : BitVec 3) | kv (k : BitVec 8)
deriving DecidableEq, Repr

/-- An entry of the reconvergence stack (R184). -/
structure Entry where
  pc : BitVec 48
  mask : Mask
  rpc : BitVec 48
  fm : BitVec 19
  k : Bool
deriving DecidableEq, Repr

/-- A register result: a scalar register, or the lanes m of a vector register (R43). -/
inductive RegWrite
  | s (r : Nat) (v : DWord)
  | v (r : Nat) (m : Mask) (x : Vec)
deriving DecidableEq, Repr

/-- Which loads a fence that commits pending results tells apart (R288): of memory, of a buffer, or none. -/
inductive LoadKind
  | none | memory | buffer
deriving DecidableEq, Repr

/-- An open lookahead window (R41): the instructions left before the commit point, whether the results are those of loads,
which a fence commits (R288), and the results. -/
structure Window where
  left : Nat
  kind : LoadKind
  writes : List RegWrite
deriving DecidableEq, Repr

/-- An arrival counter (R298): ERR is FAULT, UNREACH, PEER from bit 2 down. -/
structure Counter where
  cnt : BitVec 16
  err : BitVec 3
deriving DecidableEq, Repr

/-- An entry of a stream queue (R304): the gather it is reserved for, and its elements once complete. -/
structure QEntry where
  op : Nat
  value : Option Vec
deriving DecidableEq, Repr

/-- A tile register (R248): its shape byte (0 unconfigured) and elements, element (i, j) at key 64i + j. -/
structure Tile where
  shape : BitVec 8
  elems : Cells Word
deriving DecidableEq, Repr

/-- The A reuse latch (R239). -/
structure Latch where
  va : Nat
  fmt : BitVec 4
  block : BitVec 2
  rows : List Vec
deriving DecidableEq, Repr

/-- The page fault a warp is parked at (R356), whose entry the device still holds while it has no FNUM, and the command that has matched
it in this cycle (R357, R358): abort, or not. -/
structure FaultInfo where
  fnum : Option (BitVec 16)
  acc : Access
  stage : BitVec 2
  va : DWord
  gpa : BitVec 59
  lanes : Mask
  cmd : Option Bool
deriving DecidableEq, Repr

/-- Why a warp is parked (R98); at stream queues, until the first n entries of each are complete (R306). -/
inductive Park
  | none
  | nap (until_ : Nat)
  | barrier (b : BitVec 4) (token : Word)
  | barrierArw (b : BitVec 4) (token : Word) (two : Bool)
  | counter (n : BitVec 4) (thr : BitVec 16)
  | queue (qs : List Nat) (n : Nat)
  | fault (i : FaultInfo)
deriving DecidableEq, Repr

/-- Where a warp is in its life (R77, R88, R404, R414). -/
inductive Life
  | empty | start | run | retiring | retired | vacating | stopping
deriving DecidableEq, Repr

/-- A pending asynchronous report (R198): its cause, its TVAL and the issue number of the instruction that caused it. -/
structure Report where
  cause : BitVec 8
  tval : DWord
  order : Nat
deriving DecidableEq, Repr

/-- A location: a physical address, whether requesters may cache it, and the LD and stall that own the page (R270, R439). -/
structure Loc where
  pa : Nat
  nc : Bool
  ld : Nat
  stall : Nat
deriving DecidableEq, Repr

/-- Where a lane of a split-phase load or gather reads, as translated at issue (R302, R305): its location, or the ERR bits of
a failure that R353 places after issue, with the address. -/
inductive Aim
  | at_ (l : Loc) | lost (err : BitVec 3) (va : DWord)
deriving DecidableEq, Repr

/-- Whose access it is (R267): a warp, by its launch and index, which stay its own across placements; an operation of a warp;
the distributor's completion word, with the LD, the stall, the words of its error report and the launch (R402); or the device. -/
inductive Owner
  | warp (key : GroupKey) (seq : Word) (idx : BitVec 4)
  | op (id : Nat)
  | word (ld : BitVec 2) (writer : BitVec 10) (info : Nat) (launch : Nat)
  | device
deriving DecidableEq, Repr

/-- A posted write that a port has taken and not yet sent (R379 to R382): its number, its owner, the issue number of its
instruction, where it goes and its bytes, its scope when it is a strong store, and the requester port that sent it (R330). -/
structure HeldWrite where
  id : Nat
  owner : Owner
  order : Nat
  loc : Loc
  data : List Byte
  scope : Option (BitVec 3)
  sender : Option ReqPort
deriving DecidableEq, Repr

/-- A request at a home slice (R330): one of a port outside, or an access of an agent to a line, by the issue number of its
instruction. -/
inductive ReqId
  | outside (p : ReqPort) (tag : Nat) | access (p : ReqPort) (o : Owner) (order line : Nat)
deriving DecidableEq, Repr

/-- The port that sends a request. -/
def ReqId.port : ReqId → ReqPort
  | .outside p _ => p
  | .access p _ _ _ => p

/-- A reservation ticket (R330): its number and the request that it stands for. -/
structure Ticket where
  no : Nat
  req : ReqId
deriving DecidableEq, Repr

/-- Who waits for an acknowledgement (R338, R350, R438): a column hart, a warp, or the end of a stall of an LD. -/
inductive Waiter
  | hart (h : HartId) | warp (o : Owner) | stall (ld stall : Nat)
deriving DecidableEq, Repr

/-- An invalidation, or a write that clears ONL, that is not yet acknowledged: who waits, and the operations and held writes whose
accesses must be performed first (R338, R351). -/
structure Wait where
  who : Waiter
  ids : List Nat
deriving DecidableEq, Repr

/-- The lanes not yet complete of a unit that faulted (R268): the address of its first word, and whether it is a handler's. -/
structure LeftLanes where
  pc : BitVec 48
  lanes : Mask
  inh : Bool
deriving DecidableEq, Repr

/-- A `casm` in progress (R313): the location, expected and new value of each entry, the fields to be written when it fails, and the
lines that it has locked. -/
structure CasmHold where
  entries : List (Loc × Nat × Nat)
  fields : List Loc
  locks : List Nat
deriving DecidableEq, Repr

/-- A warp in its slot. -/
structure Warp where
  place : Place
  life : Life
  idx : BitVec 4
  key : GroupKey
  /-- Scalar registers (R107); s55 is `fm`, s56 is `em`, s57 to s63 are k1 to k7. -/
  sregs : Cells DWord
  /-- Vector registers (R131). -/
  vregs : Cells Vec
  /-- OCC, ITEM and AGE (R72). -/
  occ : Mask
  item : Cells (BitVec 48)
  age : Cells Word
  pc : BitVec 48
  /-- CRPC, STKDEPTH, the on-chip entries from the top down, and STKSPILL (R183, R191). -/
  crpc : BitVec 48
  depth : Nat
  stack : List Entry
  spill : BitVec 48
  /-- The hint words of the trap unit being read, and the place and word of the first illegal one (R47, R57). -/
  hints : List Hint
  badHint : Option (Nat × Word)
  windows : List Window
  counters : Cells Counter
  q0 : List QEntry
  q1 : List QEntry
  q2 : List QEntry
  q3 : List QEntry
  tiles : Cells Tile
  dirty : BitVec 16
  latch : Option Latch
  fstat : BitVec 8
  mstat : BitVec 4
  evmask : BitVec 2
  grp : Cells DWord
  /-- Trap registers (R406), Dh and the recorded CRPC (R197). -/
  tvec : BitVec 48
  tcause : BitVec 8
  epc : BitVec 48
  tval : DWord
  inh : Bool
  pre : Bool
  rst : Bool
  abort : Bool
  saveptr : BitVec 48
  dh : Nat
  crpcSaved : BitVec 48
  /-- Its asynchronous reports in issue order: the first 32 are pending, and any more wait for their places (R407). DESIGN CHOICE,
  assumption 78. -/
  reports : List Report
  /-- The restored `bar.arw` wait (R225): word, token and TWO. -/
  arw : Option (BitVec 4 × Word × Bool)
  park : Park
  /-- Units of the warp that faulted with lanes not yet complete (R268, R358): one for each path and handler. -/
  left : List LeftLanes
  /-- The scalar and vector registers as the unit that parked the warp read them, under the windows that its parking closed (R44). -/
  view : Option (Cells DWord × Cells Vec)
  /-- A fence in progress: its kind and scope (R288). -/
  fence : Option (BitVec 2 × BitVec 3)
  /-- A `casm` in progress, from its first lock on (R313). -/
  casm : Option CasmHold
  /-- The lowest port that lost a store of the warp, and a load, since the last system-scope fence that ordered it (R382,
  R383). -/
  lostPort : Option Nat
  lostLoad : Option Nat
  /-- A pre-emption waits for the next boundary (R412). -/
  preempt : Bool
  cls : BitVec 3
  /-- THROTTLE.PREV and CHG (R427). -/
  thrPrev : BitVec 2
  thrChg : Bool
  /-- Path count (R194), wait and withheld counts (R101), the cycle in which it started, for its age (R101), units issued. -/
  pathCount : Nat
  waitCount : Nat
  withheld : Nat
  started : Nat
  issued : Nat
  /-- Tag of the next send, and the recorded results of the last 64 (R317). -/
  tag : BitVec 16
  sent : List (BitVec 16 × DWord)
  /-- PKG as it stood when the warp started (R105). -/
  pkg : BitVec 16
  /-- The model's own field: the next trap unit is not ready, as the last look at it found (R100). -/
  blocked : Bool
deriving DecidableEq, Repr

/-- A barrier word (R219). -/
structure Barrier where
  ph : Word
  arr : BitVec 16
  memb : BitVec 16
deriving DecidableEq, Repr

/-- A workgroup, placed or saved (R69, R208 to R219, R415). -/
structure Group where
  key : GroupKey
  seq : Word
  saved : Bool
  col : BitVec 6
  core : BitVec 3
  stage : BitVec 3
  warps : Nat
  succ : Option (BitVec 3)
  block : Nat
  abase : Nat
  alen : Nat
  wbase : Nat
  wlen : Nat
  abuf : Cells Byte
  wbuf : Cells Byte
  barriers : Cells Barrier
  /-- Warps that have retired, as a mask of indices. -/
  retired : BitVec 16
  /-- Of a saved workgroup, by warp index: the ports that lost a store, and a load, of the warp (R267, R382), and the reports that
  its area has no place for. -/
  lost : Cells (Option Nat × Option Nat × List Report)
deriving DecidableEq, Repr

/-- The kernel object as the distributor read it (R392). -/
structure Kernel where
  base : BitVec 48
  stages : BitVec 8
  entries : List (BitVec 48)
  tiles : Nat
  vregs : Nat
  gang : Nat
  warps : Nat
  abuf : Nat
  wbuf : Nat
  ilive : BitVec 120
deriving DecidableEq, Repr

/-- A launch record (R390). -/
structure Record where
  kobj : DWord
  n : BitVec 48
  prio : BitVec 3
  queue : BitVec 6
  gmax : Word
  shape0 : DWord
  shape1 : DWord
  shape2 : DWord
  argp : DWord
  caddr : DWord
deriving DecidableEq, Repr

/-- An accepted launch (R391, R396, R404). -/
structure Launch where
  ld : BitVec 2
  record : Record
  seq : Word
  /-- The stall that wrote the record, and the column whose line took it (R389, R387). -/
  writer : BitVec 10
  col : BitVec 6
  order : Nat
  kernel : Option Kernel
  /-- The item counter (R74), and whether the distributor has observed IC = N (R97). -/
  ic : BitVec 48
  drainSeen : Bool
  gangs : Nat
  timer : Nat
  ending : Option (BitVec 8)
  /-- One more than the cycle of an early end's cause that found no work left to stop: DONE stands if the launch drains in that
  cycle (R404); 0 otherwise. -/
  endedAt : Nat
  /-- A write of CANCEL has named the launch (R397). -/
  cancelled : Bool
  /-- The completion store stands at a port that has not sent it (R396). -/
  completing : Bool
  /-- A pre-emption has reached the launch since it was last placed or restored (R412). -/
  preempted : Bool
deriving DecidableEq, Repr

/-- A launch queue (R395). -/
structure Queue where
  en : Bool
  suspend : Bool
  cancel : Bool
  nblk : BitVec 16
  slice : BitVec 16
  owner : BitVec 10
  tvec : BitVec 48
  save : DWord
  nextSeq : Word
deriving DecidableEq, Repr

/-- A record handed on to the distributor (R389): its bytes, the writer's stall and the column. -/
structure Handed where
  words : List DWord
  writer : BitVec 10
  col : BitVec 6
deriving DecidableEq, Repr

/-- An error report (R437). -/
structure ErrReport where
  kind : BitVec 3
  stall : BitVec 10
  info : BitVec 49
  ovf : Bool
deriving DecidableEq, Repr

/-- A fault entry held until the ring has room (R356). -/
structure HeldFault where
  place : Place
  stall : Nat
deriving DecidableEq, Repr

/-- A cached translation (R350): the column and which of its caches holds it (0 to 7 the micro-TLB of a core, 8 the column TLB, 9
the exchange port's peer cache), the stall, the virtual page, the guest pages that its G-stage used, the arena entry it read, and
what it gives: frame, permissions R, W, X and D from bit 0 up, and NC. -/
structure TlbEntry where
  ld : BitVec 2
  col : BitVec 6
  holder : BitVec 4
  stall : Nat
  page : Nat
  gpages : List Nat
  arena : Option Nat
  frame : Nat
  perms : BitVec 4
  nc : Bool
deriving DecidableEq, Repr

/-- A doubleword of a stall record, a handle table, a non-leaf entry or the arena table that a column keeps (R350). -/
structure WalkWord where
  ld : BitVec 2
  col : BitVec 6
  stall : Nat
  pa : Nat
  value : Nat
deriving DecidableEq, Repr

/-- The trackers of a home slice in use, its ticket counter and its ticket queue (R330). -/
structure Slice where
  busy : Nat
  nextTicket : Nat
  tickets : List Ticket
deriving DecidableEq, Repr

/-- The exceptions that the spec names for a column hart (R319, R335, R342): they are taken by its own RISC-V rules. -/
inductive HartCause
  | loadAccessFault | storeAccessFault | illegalInstruction | virtualInstruction
deriving DecidableEq, Repr

/-- What a column adds to its cores (R387, R425 to R430, R441). `temp` is the hottest of its sensors in °C, an input. -/
structure Column where
  cap : BitVec 16
  budget : BitVec 16
  level : BitVec 2
  floor : BitVec 2
  temp : Nat
  clk1 : BitVec 2
  clk0 : BitVec 2
  vxqsel : BitVec 6
  vxstall : BitVec 10
  coresLost : Bool
  hartLost : Bool
  /-- What the column's hart last read, and the last exception that this document makes it take. -/
  got : List Byte
  exc : Option HartCause
  slice : Slice
deriving DecidableEq, Repr

/-- The power state of a cluster (R431). -/
inductive Gate
  | on | gated | waking
deriving DecidableEq, Repr

/-- A request for one octet or more in the reservation table (R242): one pass. -/
structure MxEntry where
  place : Place
  fn : BitVec 3
  tile : BitVec 4
  off : Nat
  kv : Nat
  fm : BitVec 19
  /-- Operations whose requests the entry holds: op number, lane set and A rows (16 to 18 vectors). -/
  parts : List (Nat × Mask × List Vec)
  cls : BitVec 3
  created : Nat
  granted : Bool
  grantedAt : Nat
deriving DecidableEq, Repr

/-- A cluster: allowance counter, rates, the cycles of its replays of the last millisecond, gating and reservation table (R421,
R429, R434, R431, R242). `idle` is the last cycle in which it was not idle, or the cycle in which its wake ends. `begun` says that
the cycle's refill and grant are done, `spent` is the cost of the units issued since. -/
structure ClusterState where
  c : Int
  begun : Bool
  spent : Nat
  rate : BitVec 2
  replayCap : Bool
  replays : List Nat
  changing : Bool
  gate : Gate
  idle : Nat
  entries : List MxEntry
deriving DecidableEq, Repr

/-- The operands of an operation charged to a counter, or of a posted matrix instruction. -/
inductive OpKind
  /-- Split-phase load (R302): width code, first register, lanes not yet written, where each lane reads, CP span and policy. -/
  | ldp (w : BitVec 3) (vd : Nat) (left : Mask) (aims : List (Nat × Aim)) (cp : Nat × Nat)
  /-- Gather (R305): width code, queue, lanes, where each lane reads, CP span and policy. -/
  | gath (w : BitVec 3) (q : Nat) (lanes : Mask) (aims : List (Nat × Aim)) (cp : Nat × Nat)
  /-- Copies (R362 to R364): the form's fn, the three register operands and the MOD payload. -/
  | copy (fn : Nat) (d a b : DWord) (mod : BitVec 22)
  /-- Multicast load-reduce and store (R369, R371), with GRPg as read at issue. -/
  | multi (store : Bool) (d a b grp : DWord)
  /-- A copy or multicast that is done but for writes that a port still holds (R365): those of the members of an `mst`, or not. -/
  | posted (members : Bool)
  /-- A matrix instruction (R237, R240): posted, then in the table; flags gathered by its passes. -/
  | matrix (fn : BitVec 3) (tile : BitVec 4) (off kv : Nat) (fm : BitVec 19) (lanes left : Mask) (rows : List Vec)
      (cls : BitVec 3) (flags : BitVec 8) (inTable : Bool)
deriving DecidableEq, Repr

/-- An outstanding operation: its number, warp, counter, the cycle from which it may complete, its gathered ERR bits, the issue
number of its instruction, and the old words of its panel that copies have overwritten since, by their offsets (R238). -/
structure Op where
  id : Nat
  place : Place
  ac : BitVec 4
  ready : Nat
  err : BitVec 3
  order : Nat
  kind : OpKind
  old : Cells (Option Word)
deriving DecidableEq, Repr

/-- The state of a port (R379). -/
inductive PortState
  | down | training | up | disabled
deriving DecidableEq, Repr

/-- A port, UALink 0 to 17 or PCIe 32, 33, with its training time and the posted writes it holds (R379, R382). -/
structure Port where
  state : PortState
  since : Nat
  held : List HeldWrite
deriving DecidableEq, Repr

/-- One direction of a UCIe module (R374, R376): whether it runs at x32, and its redundant lanes in use. -/
structure Direction where
  half : Bool
  spares : Nat
deriving DecidableEq, Repr

/-- A UCIe module (R374 to R376), with its directions: `replays` holds the cycles of its replays of the last millisecond. -/
structure Module where
  out : Bool
  replaying : Bool
  replays : List Nat
  retraining : Bool
  there : Direction
  back : Direction
deriving DecidableEq, Repr

/-- A copy of a line (R321, R324): who holds it, which words, and its retention (R323: 0 lowest, 1, 2 highest). Holder 0 is the
column slice, 1 + core an L1, 9 + core the write buffers of a core. -/
structure Copy where
  line : Nat
  ld : BitVec 2
  col : BitVec 6
  holder : Nat
  words : BitVec 16
  keep : BitVec 2
deriving DecidableEq, Repr

/-- A line in a column hart's caches (R328, R329): owned or shared, and the bytes it has not written back. -/
structure HartLine where
  hart : HartId
  line : Nat
  owned : Bool
  dirty : Cells Byte
deriving DecidableEq, Repr

/-- What one LD holds besides its columns (R342, R356, R385, R389, R395, R436, R437, R337). -/
structure LdState where
  stalltab : BitVec 56
  vxinval : DWord
  vxpool : BitVec 56
  vxpooltop : Word
  vxpoolcap : Word
  fnum : BitVec 16
  heldFaults : List HeldFault
  queues : Cells Queue
  handed : List Handed
  accepted : Nat
  errors : List ErrReport
  errLost : Bool
  stallEnd : BitVec 10
  endings : List (BitVec 10 × Bool)
  replace : Bool
  day : Bool
  /-- Retired pseudo-channels, number p of stack t at bit 64t + p (R443). -/
  retiredPcs : BitVec 256
  /-- Physical positions of each compute die whose columns failed test: the logical columns are the others, in order (R21). -/
  failed0 : BitVec 25
  failed1 : BitVec 25
  cols : BitVec 48
  /-- Columns exposed at daylight, among which the home hash chooses (R320, R442). -/
  homes : BitVec 48
  /-- RGNCTL k, 3 bits; and whether the mode of an offline region changed (R338). -/
  rgnctl : Cells (BitVec 3)
  modeChanged : Cells Bool
  memerr : DWord
  poisonlog : DWord
  edgedrop : DWord
  dieReset : BitVec 2
  baseReset : Bool
  channels : Cells (Nat × Bool)
  wakes : List Cluster
deriving DecidableEq, Repr

/-- How far start-up has come (R444): off, at a step from 5 on that has ended, stopped at a step, at daylight, or tripped. -/
inductive Phase
  | off | starting (step : Nat) | stopped (step : Nat) | daylight | tripped
deriving DecidableEq, Repr

/-- What the Kryfilum hart sends through the management interface or SPDM (R428, R444, R447). -/
inductive MgmtMsg
  | stopStep (n : Nat) | thermTrip | attestation (nonce : BitVec 256) (meas : List Nat) (ed mldsa : Nat)
deriving DecidableEq, Repr

/-- The module. -/
structure State where
  /-- The warp that the next word belongs to, its workgroup and its launch. -/
  w : Warp
  wg : Group
  lc : Launch
  /-- Every other warp, workgroup and launch. -/
  warps : List Warp
  groups : List Group
  launches : List Launch
  lds : Cells LdState
  columns : Cells Column
  clusters : Cells ClusterState
  ports : Cells Port
  modules : Cells Module
  retrains : Cells (BitVec 16)
  mem : Cells Byte
  /-- Poisoned lines (R335), and lines of a lost slice that a full store has cleared since (R442). -/
  poison : List Nat
  healed : List Nat
  copies : List Copy
  hartLines : List HartLine
  /-- What memory errors have changed in the stored bytes since they were written (R334): each byte's difference. -/
  flips : Cells Byte
  tlb : List TlbEntry
  walkWords : List WalkWord
  ops : List Op
  nextOp : Nat
  /-- Requests whose tickets their slices have accepted and that are not yet performed (R330). -/
  accepted : List ReqId
  /-- Acknowledgements that someone waits for (R338, R350, R438). -/
  waits : List Wait
  vxarena : BitVec 56
  vxarenan : Word
  vxpkg : BitVec 16
  pkgFixed : Bool
  vxualen : BitVec 20
  vxualdrop : DWord
  tick : DWord
  /-- The module's power in W, averaged over the last millisecond, an input (R425). -/
  power : Nat
  phase : Phase
  /-- What the start-up under way finds (R444). -/
  start : Option StartInput
  /-- What the Kryfilum hart measured (R447): the accepted image copies, and vxcap of the four LDs at DAY. -/
  images : List Nat
  dayCaps : List DWord
  mgmt : List MgmtMsg
  /-- Writes and replies that left the module at a port: port, address, bytes. -/
  outbox : List (Nat × BitVec 56 × List Byte)
  /-- The model's own fields: the warp w has been selected; clusters still to serve in this cycle; warps selected to issue;
  coming events, each with the FE cycles before it; the event of this step waits and comes again (R330, R351, R377); the number of
  free values taken; the cycles an operation takes. -/
  sel : Bool
  cycle : Option (List Cluster)
  issueQ : List Place
  agenda : List (Nat × Instr)
  again : Bool
  fresh : Nat
  opLatency : Nat
deriving DecidableEq, Repr

/-- NONE of R183. -/
def noneRpc : BitVec 48 := 1

def Place.zero : Place := ⟨0, 0, 0, 0⟩
def GroupKey.zero : GroupKey := ⟨0, 0, 0, 0⟩
def Counter.zero : Counter := ⟨0, 0⟩
def Tile.zero : Tile := ⟨0, []⟩

/-- A warp slot at the start values of Table 1 of 03_items.md (R77). DESIGN CHOICE (assumption 11): ITEM and AGE of a lane that
the start take leaves empty start at 0, so that its first refill gives age 1 (R132). -/
def Warp.fresh (p : Place) : Warp where
  place := p
  life := .empty
  idx := 0
  key := GroupKey.zero
  sregs := []
  vregs := []
  occ := 0
  item := []
  age := []
  pc := 0
  crpc := noneRpc
  depth := 0
  stack := []
  spill := 0
  hints := []
  badHint := none
  windows := []
  counters := []
  q0 := []
  q1 := []
  q2 := []
  q3 := []
  tiles := []
  dirty := 0
  latch := none
  fstat := 0
  mstat := 0
  evmask := 0
  grp := []
  tvec := 0
  tcause := 0
  epc := 0
  tval := 0
  inh := false
  pre := false
  rst := false
  abort := false
  saveptr := 0
  dh := 0
  crpcSaved := noneRpc
  reports := []
  arw := none
  park := .none
  left := []
  view := none
  fence := none
  casm := none
  lostPort := none
  lostLoad := none
  preempt := false
  cls := 0
  thrPrev := 0
  thrChg := false
  pathCount := 0
  waitCount := 0
  withheld := 0
  started := 0
  issued := 0
  tag := 0
  sent := []
  pkg := 0
  blocked := false

/-- No workgroup. -/
def Group.none : Group where
  key := GroupKey.zero
  seq := 0
  saved := false
  col := 0
  core := 0
  stage := 0
  warps := 0
  succ := Option.none
  block := 0
  abase := 0
  alen := 0
  wbase := 0
  wlen := 0
  abuf := []
  wbuf := []
  barriers := []
  retired := 0
  lost := []

def Record.zero : Record := ⟨0, 0, 0, 0, 0, 0, 0, 0, 0, 0⟩

/-- No launch. -/
def Launch.none : Launch where
  ld := 0
  record := Record.zero
  seq := 0
  writer := 0
  col := 0
  order := 0
  kernel := Option.none
  ic := 0
  drainSeen := false
  gangs := 0
  timer := 0
  ending := Option.none
  endedAt := 0
  cancelled := false
  completing := false
  preempted := false

/-- A queue at daylight (R395). -/
def Queue.reset : Queue := ⟨false, false, false, 0, 0, 0, 0, 0, 0⟩

def Slice.reset : Slice := ⟨0, 0, []⟩

/-- A column at daylight (R430, R395, R436). -/
def Column.reset : Column where
  cap := 0x4000
  budget := 0x0080
  level := 0
  floor := 0
  temp := 0
  clk1 := 1
  clk0 := 1
  vxqsel := 0
  vxstall := 0
  coresLost := false
  hartLost := false
  got := []
  exc := none
  slice := Slice.reset

/-- A cluster that has started: C is 0 (R421) and the rate is the requested one (R429, R430). -/
def ClusterState.reset : ClusterState := ⟨0, false, 0, 1, false, [], false, .on, 0, []⟩

/-- A port at daylight: step 7 of R444 has begun its training. -/
def Port.reset : Port := ⟨.training, 0, []⟩
def Direction.reset : Direction := ⟨false, 0⟩
def Module.reset : Module := ⟨false, false, [], false, Direction.reset, Direction.reset⟩

/-- An LD at daylight with all 48 columns and 240 regions usable (R342, R337, R385, R395, R436). -/
def LdState.reset : LdState where
  stalltab := 0
  vxinval := 0
  vxpool := 0
  vxpooltop := 0
  vxpoolcap := 0
  fnum := 0
  heldFaults := []
  queues := []
  handed := []
  accepted := 0
  errors := []
  errLost := false
  stallEnd := 0
  endings := []
  replace := false
  day := true
  retiredPcs := 0
  failed0 := 0
  failed1 := 0
  cols := BitVec.allOnes 48
  homes := BitVec.allOnes 48
  rgnctl := []
  modeChanged := []
  memerr := 0
  poisonlog := 0
  edgedrop := 0
  dieReset := 0
  baseReset := false
  channels := []
  wakes := []

/-- What a byte of memory reads as that nothing has written: daylight scrubs every usable region to 0 (R444). -/
def memDefault : Byte := 0

/-- The module at daylight (R444), nothing placed: every CSR at the value of its Reset column. -/
def State.reset : State where
  w := Warp.fresh Place.zero
  wg := Group.none
  lc := Launch.none
  warps := []
  groups := []
  launches := []
  lds := []
  columns := []
  clusters := []
  ports := []
  modules := []
  retrains := []
  mem := []
  poison := []
  healed := []
  copies := []
  hartLines := []
  flips := []
  tlb := []
  walkWords := []
  ops := []
  nextOp := 0
  accepted := []
  waits := []
  vxarena := 0
  vxarenan := 0
  vxpkg := 0
  pkgFixed := false
  vxualen := BitVec.allOnes 20
  vxualdrop := 0
  tick := 0
  power := 0
  phase := .daylight
  start := none
  images := [0]
  dayCaps := List.replicate 4 0x4000_F000_0000_0030
  mgmt := []
  outbox := []
  sel := false
  cycle := none
  issueQ := []
  agenda := []
  again := false
  fresh := 0
  opLatency := 1

end Sys2Proof.Machine
end

