-- ==== Sys2Proof/Machine/Regs.lean ====
section
/-! DEFINITION. Reads and writes of the registers of a warp, lookahead windows, and the lists of warps, workgroups and
launches. -/

namespace Sys2Proof.Machine

/-- Bit l of a lane mask. -/
def lane (m : Mask) (l : Nat) : Bool := m.getLsbD l

/-- The mask whose bit L is `f L`. -/
def maskOf (f : Nat → Bool) : Mask := lanes.foldl (fun m l => if f l then m ||| (1 <<< l) else m) 0

/-- The lanes of a mask, ascending. -/
def laneList (m : Mask) : List Nat := lanes.filter (lane m)

/-- The number of lanes of a mask. -/
def countLanes (m : Mask) : Nat := (laneList m).length

/-- The mask of lanes 0 to n - 1. -/
def lowLanes (n : Nat) : Mask := BitVec.ofNat 64 (2 ^ n - 1)

/-- Bits lo to lo + n - 1 of a natural number. -/
def bitsOf (x lo n : Nat) : Nat := x / 2 ^ lo % 2 ^ n

/-- The number of 1 bits among the low n bits of x. -/
def popCount (x n : Nat) : Nat := (List.range n).countP fun i => x.testBit i

/-- The low n bits of x read as a signed number. -/
def signed (n x : Nat) : Int := if 2 ^ (n - 1) ≤ x % 2 ^ n then (x % 2 ^ n : Nat) - (2 ^ n : Nat) else (x % 2 ^ n : Nat)

/-! Scalar registers (R107, R108). While a unit that parked under open windows executes again, it reads what it read then (R44);
what it writes goes to the registers and to that view of them, which ends with it. -/

/-- The scalar registers as the next unit reads them. -/
def Warp.sview (w : Warp) : Cells DWord :=
  match w.view with
  | none => w.sregs
  | some x => x.1

/-- S[r]: s0 reads zero (R13). -/
def Warp.s (w : Warp) (r : Nat) : DWord := if r = 0 then 0 else w.sview.get 0 r

/-- What S[r] holds once v is written: `fm` keeps bits [18:0], `em` keeps the bits of occupied lanes (R108). -/
def Warp.keptS (w : Warp) (r : Nat) (v : DWord) : DWord := if r = 55 then v &&& 0x7FFFF else if r = 56 then v &&& w.occ else v

/-- The write of S[r]: s0 discards it (R13). -/
def Warp.setS (w : Warp) (r : Nat) (v : DWord) : Warp :=
  if r = 0 then w
  else { w with
    sregs := w.sregs.set 0 r (w.keptS r v)
    view := w.view.map fun x => (x.1.set 0 r (w.keptS r v), x.2) }

/-- EM is S[56] (R13). -/
def Warp.em (w : Warp) : Mask := w.s 56

/-- The format register, bits [18:0] of S[55]. -/
def Warp.fm (w : Warp) : BitVec 19 := (w.s 55).truncate 19

/-- The guard mask of a guard field (R39). -/
def Warp.guard (w : Warp) (g : BitVec 4) : Mask :=
  if bitsOf g.toNat 0 3 = 0 then BitVec.allOnes 64
  else if g.getLsbD 3 then ~~~ w.s (56 + bitsOf g.toNat 0 3) else w.s (56 + bitsOf g.toNat 0 3)

/-- The member mask K of a VL2 field (R202). -/
def Warp.member (w : Warp) (m : Nat) : Mask := if m = 0 then w.em else w.s (56 + m)

/-! Vector registers (R131, R132). -/

/-- The vector registers as the next unit reads them (R44). -/
def Warp.vview (w : Warp) : Cells Vec :=
  match w.view with
  | none => w.vregs
  | some x => x.2

/-- V[r] of an allocated register. -/
def Warp.v (w : Warp) (r : Nat) : Vec := w.vview.get Vec.zero r

/-- Register r of a register file takes x in the lanes of m. -/
def setLanes (c : Cells Vec) (r : Nat) (m : Mask) (x : Vec) : Cells Vec :=
  c.set Vec.zero r (Vec.ofFn fun l => if lane m l then x.at l else (c.get Vec.zero r).at l)

/-- V[r][L] := x[L] for the lanes of m. -/
def Warp.setV (w : Warp) (r : Nat) (m : Mask) (x : Vec) : Warp :=
  { w with vregs := setLanes w.vregs r m x, view := w.view.map fun y => (y.1, setLanes y.2 r m x) }

/-- The entries of stream queue q. -/
def Warp.queue (w : Warp) (q : Nat) : List QEntry :=
  match q with
  | 0 => w.q0 | 1 => w.q1 | 2 => w.q2 | _ => w.q3

def Warp.setQueue (w : Warp) (q : Nat) (x : List QEntry) : Warp :=
  match q with
  | 0 => { w with q0 := x } | 1 => { w with q1 := x } | 2 => { w with q2 := x } | _ => { w with q3 := x }

/-- The value that repetition i reads from an operand field: v0 to v119, the i-th head entry of a queue, or `lane`, `item`,
`itemh` and `age` (R36, R51, R132). -/
def Warp.src (w : Warp) (f i : Nat) : Vec :=
  if f < 120 then w.v f
  else if f < 124 then (((w.queue (f - 120))[i]?.bind QEntry.value).getD Vec.zero)
  else if f = 124 then Vec.ofFn fun l => BitVec.ofNat 32 l
  else if f = 125 then Vec.ofFn fun l => (w.item.get 0 l).truncate 32
  else if f = 126 then Vec.ofFn fun l => ((w.item.get 0 l) >>> 32).truncate 32
  else Vec.ofFn fun l => w.age.get 0 l

/-- Arrival counter n (R298). -/
def Warp.counter (w : Warp) (n : Nat) : Counter := w.counters.get Counter.zero n
def Warp.setCounter (w : Warp) (n : Nat) (c : Counter) : Warp :=
  { w with counters := w.counters.set Counter.zero n c }

/-- The value of Table 2 of R298. -/
def Counter.value (c : Counter) : DWord := (c.err.zeroExtend 64 <<< 16) ||| c.cnt.zeroExtend 64

def Warp.tile (w : Warp) (n : Nat) : Tile := w.tiles.get Tile.zero n
def Warp.setTile (w : Warp) (n : Nat) (t : Tile) : Warp := { w with tiles := w.tiles.set Tile.zero n t }

/-! Lookahead windows (R41 to R44). -/

/-- One register result. -/
def Warp.apply1 (w : Warp) (x : RegWrite) : Warp :=
  match x with
  | .s r v => w.setS r v
  | .v r m x => w.setV r m x

/-- Register results in order. -/
def Warp.apply (w : Warp) (xs : List RegWrite) : Warp := xs.foldl Warp.apply1 w

/-- Every open window commits, in program order (R44). -/
def Warp.commitAll (w : Warp) : Warp := { w.apply (w.windows.flatMap Window.writes) with windows := [], view := none }

/-- One more instruction of the warp has read its sources: the windows whose count ends commit (R41, R43). -/
def Warp.tickWindows (w : Warp) : Warp :=
  let due := w.windows.filter fun x => x.left ≤ 1
  { w.apply (due.flatMap Window.writes) with
    windows := (w.windows.filter fun x => 1 < x.left).map fun x => { x with left := x.left - 1 }, view := none }

/-- An instruction that parks the warp has read its sources under the open windows, which then commit (R44): when it executes again it
uses what it read. DEDUCED, assumption 58. -/
def Warp.hold (w : Warp) : Warp := if w.windows = [] then w else { w.commitAll with view := some (w.sregs, w.vregs) }

/-- The results of an instruction with lookahead la (R41). -/
def Warp.results (w : Warp) (la : Nat) (kind : LoadKind) (xs : List RegWrite) : Warp :=
  if la = 0 then w.apply xs else { w with windows := w.windows ++ [⟨la, kind, xs⟩] }

/-- A fence commits the pending results of the loads that it orders (R288): those of memory loads, and from core scope up those of
buffer loads. -/
def Warp.commitLoads (w : Warp) (buffers : Bool) : Warp :=
  let due := fun (x : Window) => x.kind = .memory || (buffers && x.kind = .buffer)
  { w.apply ((w.windows.filter due).flatMap Window.writes) with windows := w.windows.filter fun x => ¬ due x }

/-- Hints pending at the trap unit, and the address of its first word (R47, R55). -/
def Warp.unitPc (w : Warp) : BitVec 48 := w.pc - BitVec.ofNat 48 (4 * w.hints.length)
def Warp.dropHints (w : Warp) : Warp := { w with hints := [], badHint := none }

/-- Lanes left belong to the unit at the PC (R268): its address, its handler or not, and lanes of its path, which shares none with
its siblings. -/
def Warp.ownsLeft (w : Warp) (x : LeftLanes) : Bool := x.inh = w.inh && x.pc = w.unitPc && x.lanes &&& w.em ≠ 0

/-- The lanes not yet complete of the unit at the PC, which faulted (R268); none when 0. -/
def Warp.unitLeft (w : Warp) : Mask :=
  match w.left.find? w.ownsLeft with
  | some x => x.lanes
  | none => 0

/-- What is left once the unit at the PC has ended. -/
def Warp.leftAfter (w : Warp) : List LeftLanes := w.left.filter fun x => ¬ w.ownsLeft x

/-- The lanes of the unit at the PC that are not yet complete become m. -/
def Warp.setLeft (w : Warp) (m : Mask) : Warp :=
  { w with left := if m = 0 then w.leftAfter else ⟨w.unitPc, m, w.inh⟩ :: w.leftAfter }

/-! The other warps, workgroups and launches. -/

/-- Every warp that holds a slot. -/
def State.allWarps (s : State) : List Warp := (s.w :: s.warps).filter fun w => w.life ≠ .empty

/-- Every workgroup, placed or saved. -/
def State.allGroups (s : State) : List Group := (s.wg :: s.groups).filter fun g => g.warps ≠ 0

/-- Every accepted launch that has not ended. -/
def State.allLaunches (s : State) : List Launch := (s.lc :: s.launches).filter fun l => l.order ≠ 0

/-- f applied to every warp that holds a slot. -/
def State.mapWarps (f : Warp → Warp) (s : State) : State :=
  { s with w := if s.w.life = .empty then s.w else f s.w, warps := s.warps.map f }

def State.mapGroups (f : Group → Group) (s : State) : State :=
  { s with wg := if s.wg.warps = 0 then s.wg else f s.wg, groups := s.groups.map f }

def State.mapLaunches (f : Launch → Launch) (s : State) : State :=
  { s with lc := if s.lc.order = 0 then s.lc else f s.lc, launches := s.launches.map f }

/-- Warps of the workgroup not yet retired (R222). -/
def Group.live (g : Group) : BitVec 16 := BitVec.ofNat 16 (2 ^ g.warps - 1) &&& ~~~g.retired

/-- A workgroup belongs to a launch. -/
def Group.ofLaunch (g : Group) (l : Launch) : Bool := g.key.ld = l.ld && g.key.queue = l.record.queue && g.seq = l.seq

/-- The launch that is current in its queue: the one accepted first (R396). -/
def State.isHead (s : State) (l : Launch) : Bool :=
  s.allLaunches.all fun m => m.ld ≠ l.ld || m.record.queue ≠ l.record.queue || l.order ≤ m.order

/-- A launch has drained (R96, R403): every item is taken and no workgroup remains. -/
def State.drained (s : State) (l : Launch) : Bool :=
  s.isHead l && (l.record.n = 0 || (l.kernel.isSome && l.ic = l.record.n)) && s.allGroups.all fun g => ¬ g.ofLaunch l

/-- Every warp of a workgroup has retired. -/
def Group.allRetired (g : Group) : Bool := g.live = 0

/-- The workgroup frees what it held (R92): its warps leave their slots. -/
def State.freeGroup (k : GroupKey) (s : State) : State :=
  { s with
    w := if s.w.key = k ∧ s.w.life ≠ .empty then { s.w with life := .empty } else s.w
    warps := s.warps.filter fun w => w.key ≠ k
    wg := if s.wg.key = k ∧ s.wg.warps ≠ 0 then Group.none else s.wg
    groups := s.groups.filter fun g => g.key ≠ k }

/-- The state in which the warp at a place is the running one, with its workgroup and launch. -/
def State.focus (p : Place) (s : State) : State :=
  if s.w.place = p ∧ s.w.life ≠ .empty then s
  else
    match s.allWarps.find? fun x => x.place = p with
    | none => s
    | some x =>
      let ws := s.allWarps.filter fun y => y.place ≠ p
      let g := (s.allGroups.find? fun g => g.key = x.key).getD Group.none
      let gs := s.allGroups.filter fun h => h.key ≠ x.key
      let l := (s.allLaunches.find? fun l => l.ld = x.key.ld ∧ l.record.queue = x.key.queue ∧ l.seq = g.seq).getD Launch.none
      let ls := s.allLaunches.filter fun m => m.order ≠ l.order
      { s with w := x, warps := ws, wg := g, groups := gs, lc := l, launches := ls }

/-- f done with the warp at a place as the running one; the warp that ran before runs again after. -/
def State.atWarp (p : Place) (f : State → State) (s : State) : State := (f (s.focus p)).focus s.w.place

/-! The sparse parts of the module. -/

def State.ldOf (s : State) (n : Nat) : LdState := s.lds.get LdState.reset n
def State.setLd (s : State) (n : Nat) (x : LdState) : State := { s with lds := s.lds.set LdState.reset n x }

/-- Key of a column: its hart ID (R25). -/
def colKey (ld col : Nat) : Nat := 64 * ld + col
def State.colOf (s : State) (ld col : Nat) : Column := s.columns.get Column.reset (colKey ld col)
def State.setCol (s : State) (ld col : Nat) (x : Column) : State :=
  { s with columns := s.columns.set Column.reset (colKey ld col) x }

/-- Package index of a cluster (R25). -/
def clusterIndex (c : Cluster) : Nat := 96 * c.ld.toNat + 2 * c.col.toNat + c.cl.toNat
def clusterAt (p : Place) : Cluster := ⟨p.ld, p.col, (p.core >>> 2).truncate 1⟩
def State.clusterOf (s : State) (c : Cluster) : ClusterState := s.clusters.get ClusterState.reset (clusterIndex c)
def State.setCluster (s : State) (c : Cluster) (x : ClusterState) : State :=
  { s with clusters := s.clusters.set ClusterState.reset (clusterIndex c) x }

def State.portOf (s : State) (n : Nat) : Port := s.ports.get Port.reset n
def State.setPort (s : State) (n : Nat) (x : Port) : State := { s with ports := s.ports.set Port.reset n x }

def State.queueOf (s : State) (ld q : Nat) : Queue := (s.ldOf ld).queues.get Queue.reset q
def State.setQueueOf (s : State) (ld q : Nat) (x : Queue) : State :=
  s.setLd ld { s.ldOf ld with queues := (s.ldOf ld).queues.set Queue.reset q x }

/-- The column whose slice is the home of a line (R320). -/
def State.homeCol (s : State) (line : Nat) : Nat :=
  Config.homeCol (s.ldOf (line * 64 / 2 ^ 38)).homes (line * 64 / 2 ^ 38) line

/-- Two places lie on one core. -/
def sameCore (p q : Place) : Bool := p.ld = q.ld && p.col = q.col && p.core = q.core

/-- The running warp as the owner of its accesses (R267). -/
def State.owner (s : State) : Owner := .warp s.w.key s.wg.seq s.w.idx

/-- The stall that a warp acts for: OWNER of its launch's queue (R435). -/
def State.stallOf (s : State) (w : Warp) : Nat := (s.queueOf w.place.ld.toNat w.key.queue.toNat).owner.toNat

/-- The kernel of the running warp's launch. -/
def State.kernel (s : State) : Kernel := s.lc.kernel.getD ⟨0, 0, [], 0, 120, 1, 1, 0, 0, 0⟩

/-- The registers that a warp's kernel allots (R36, R69). -/
def State.vregs (s : State) : Nat := s.kernel.vregs

end Sys2Proof.Machine
end

