-- ==== Sys2Proof/Machine/Ops.lean ====
section
/-! DEFINITION. What every trap unit shares: the checks of R57, the end of a unit, parking, taking a trap (R407) and leaving
a handler, and the early end of a launch (R404). -/

namespace Sys2Proof.Machine

/-- Status FAULTED (R402). -/
def stFaulted : BitVec 8 := 0x09

/-- A fence or a `casm` of the warp is in progress (R313, R404): what comes at its next boundary waits until it ends. -/
def Warp.inProgress (w : Warp) : Bool := w.fence.isSome || w.casm.isSome

/-- A warp stops for the early end of its launch (R404 step 2); a fence or `casm` in progress first ends. -/
def Warp.stop (w : Warp) : Warp :=
  if w.life = .empty ∨ w.life = .retired ∨ w.life = .retiring ∨ w.inProgress then w
  else { w.commitAll.dropHints with pc := w.unitPc, life := .stopping, park := .none, preempt := false }

/-- The launch l ends early with a status (R404 steps 1 to 3), unless it has drained: saved workgroups are discarded, resident warps
stop, and a workgroup that waits for its successor is freed, since none starts. The completion word follows when no workgroup
remains. -/
def State.endLaunch (ld : BitVec 2) (q : BitVec 6) (seq : Word) (status : BitVec 8) (s : State) : State :=
  let mine := fun (g : Group) => g.key.ld = ld ∧ g.key.queue = q ∧ g.seq = seq
  let gs := s.allGroups.filter fun g => mine g
  let keys := (gs.filter fun g => ¬ g.saved).map Group.key
  let done := ((gs.filter fun g => ¬ g.saved ∧ g.allRetired).map Group.key)
  let cut := gs.any (fun g => g.saved || g.succ.isSome)
    || s.allWarps.any fun w => keys.contains w.key && w.life ≠ .retired && w.life ≠ .retiring
  let s1 := s.mapLaunches fun l =>
    if l.ld = ld ∧ l.record.queue = q ∧ l.seq = seq ∧ l.ending.isNone ∧ ¬ s.drained l then
      { l with ending := some status, endedAt := if cut then 0 else s.tick.toNat + 1 } else l
  let s2 := s1.mapWarps fun w => if keys.contains w.key then w.stop else w
  done.foldl (fun s k => s.freeGroup k)
    { s2 with
      wg := if mine s2.wg ∧ s2.wg.saved then Group.none else s2.wg
      groups := s2.groups.filter fun g => ¬ (mine g ∧ g.saved) }

/-- The launch of the running warp ends early. -/
def State.endOwn (status : BitVec 8) (s : State) : State :=
  let t := s.endLaunch s.lc.ld s.lc.record.queue s.lc.seq status
  { t with w := t.w.stop, lc := { t.lc with ending := some (t.lc.ending.getD status) } }

/-- Trap entry (R407). EVERY trap of a warp is taken here: cause c, TVAL v, EPC e. -/
def State.trapEntry (c : BitVec 8) (v : DWord) (e : BitVec 48) (s : State) : State :=
  if s.w.inh ∨ s.w.tvec = 0 then s.endOwn stFaulted
  else
    { s with
      w := { s.w.commitAll.dropHints with
        latch := none, park := .none, left := s.w.left.filter fun x => ¬ x.inh, tcause := c, tval := v, epc := e, inh := true
        pre := c = 0x0D, rst := false, abort := false, dh := s.w.depth, crpcSaved := s.w.crpc, pc := s.w.tvec
        issued := s.w.issued + 1 } }

/-- A synchronous trap: EPC is the first word of the unit (R55). -/
def State.trap (c : BitVec 8) (v : DWord) (s : State) : State := s.trapEntry c v s.w.unitPc

/-- The unit is not ready (R100): it executes again from its first word. -/
def State.retry (s : State) : State := { s with w := { s.w.dropHints with pc := s.w.unitPc } }

/-- Why a unit does not end as its entry states. -/
inductive Stop
  /-- A synchronous trap with its cause and TVAL. -/
  | trap (c : BitVec 8) (v : DWord)
  /-- Control goes elsewhere: not ready, parked, in a handler, or the warp stops. -/
  | enter (s : State)
deriving Repr

/-- What a trap unit has done when it ends: the state but for its register results, those results, their lookahead,
whether the unit is a closing event (R44), and where the PC goes if not to the next word. -/
structure Eff where
  s : State
  writes : List RegWrite := []
  la : Nat := 0
  load : LoadKind := .none
  close : Bool := false
  next : Option (BitVec 48) := none
deriving Repr

/-- Kind of a hint (R48). -/
def hintKind : Hint → Nat
  | .imm _ => 0 | .immh _ => 1 | .rc _ => 2 | .rep _ _ => 3 | .mod _ => 4 | .cp _ _ => 5 | .sch _ => 6 | .kv _ => 7

/-- The payload of the first hint that f reads. -/
def Warp.hint {α : Type} (w : Warp) (f : Hint → Option α) : Option α := w.hints.findSome? f

def Warp.hintImm (w : Warp) : Option (BitVec 22) := w.hint fun | .imm p => some p | _ => none
def Warp.hintImmh (w : Warp) : Option (BitVec 22) := w.hint fun | .immh p => some p | _ => none
def Warp.hintRc (w : Warp) : Option (BitVec 22) := w.hint fun | .rc p => some p | _ => none
def Warp.hintMod (w : Warp) : Option (BitVec 22) := w.hint fun | .mod p => some p | _ => none
def Warp.hintKv (w : Warp) : Option (BitVec 8) := w.hint fun | .kv p => some p | _ => none
def Warp.hintSch (w : Warp) : Option (BitVec 3) := w.hint fun | .sch p => some p | _ => none
/-- Word span and policy of a CP hint; 0, 0 by default (R53). -/
def Warp.cp (w : Warp) : Nat × Nat := (w.hint fun | .cp p s => some (s.toNat, p.toNat) | _ => none).getD (0, 0)
/-- Count and stride of a REP hint; 1, 0 without (R51). -/
def Warp.rep (w : Warp) : Nat × Nat := (w.hint fun | .rep t n => some (n.toNat + 1, t.toNat) | _ => none).getD (1, 0)

/-- The byte offset of the first word that breaks R49, for a target that accepts the kinds acc besides SCH: a kind not
accepted, a kind that stands before, or IMMH alone; then the target itself when its RC hint is missing. -/
def mismatchAux (acc : List Nat) (hasImm : Bool) : List Nat → List Nat → Nat → Option Nat
  | _, [], _ => none
  | seen, k :: r, o =>
    if (¬ acc.contains k ∧ k ≠ 6) ∨ seen.contains k ∨ (k = 1 ∧ ¬ hasImm) then some o
    else mismatchAux acc hasImm (k :: seen) r (o + 4)

def mismatch (acc : List Nat) (needRc : Bool) (hs : List Hint) : Option Nat :=
  let ks := hs.map hintKind
  match mismatchAux acc (ks.contains 0) [] ks 0 with
  | some o => some o
  | none => if needRc ∧ ¬ ks.contains 2 then some (4 * hs.length) else none

/-- The priority class after the unit issues (R52). -/
def State.classAfter (s : State) : BitVec 3 :=
  match s.w.hintSch with
  | none => s.w.cls
  | some c => if c.toNat ≤ s.lc.record.prio.toNat then c else s.lc.record.prio

/-- The unit parks the warp (R98) and executes again when the warp is ready. It has issued (R52); parking closes the windows, and the
unit keeps what it read under them (R44). -/
def State.parkAt (p : Park) (s : State) : State :=
  { s with w := { s.w.hold.dropHints with pc := s.w.unitPc, park := p, cls := s.classAfter } }

/-- The end of a trap unit that ran: the windows that end commit (all of them at a closing event), then the unit's own
results are written or wait in a window (R41 to R44). Its hints and its address are those that its state e.s still shows. -/
def Eff.finish (e : Eff) : State :=
  let w0 := e.s.w
  let w1 := if e.close then w0.commitAll else w0.tickWindows
  { e.s with
    w := { (w1.results e.la e.load e.writes).dropHints with
      pc := e.next.getD (w0.pc + 4), cls := e.s.classAfter, issued := w0.issued + 1 } }

/-- The unit at the PC of w has ended: no lane of it is left (R268). -/
def Eff.leaves (e : Eff) (w : Warp) : Eff :=
  { e with s := { e.s with w := { e.s.w with left := e.s.w.left.filter fun x => ¬ w.ownsLeft x } } }

/-- The first word of the unit that step 2 of R57 rejects among its hints, for a target whose MOD payload uses its low
`modBits` bits: the rest are reserved payload bits. -/
def State.badWord (s : State) (modBits : Nat) : Option Word :=
  let mods := s.w.hints.zipIdx.filterMap fun h =>
    match h.1 with
    | .mod p => if p.toNat / 2 ^ modBits = 0 then none else some (h.2, BitVec.ofNat 32 (2 ^ 24 + p.toNat))
    | _ => none
  match s.w.badHint, mods.head? with
  | none, m => m.map Prod.snd
  | some b, none => some b.2
  | some b, some m => some (if b.1 < m.1 then b.2 else m.2)

/-- A trap unit: the checks of R57 from step 2 on, then the body. `acc` is the hint kinds that the target accepts besides
SCH, `needRc` whether it needs an RC hint, `priv` whether it is privileged here. -/
def unitMod (modBits : Nat) (acc : List Nat) (needRc priv : Bool) (body : State → Except Stop Eff) (s : State) : State :=
  match s.badWord modBits with
  | some x => s.trap 0x01 (x.zeroExtend 64)
  | none =>
    if priv then s.trap 0x0E 0
    else
      match mismatch acc needRc s.w.hints with
      | some o => s.trap 0x03 (BitVec.ofNat 64 o)
      | none =>
        match body s with
        | .ok e => (e.leaves s.w).finish
        | .error (.trap c v) => s.trap c v
        | .error (.enter t) => t

/-- A trap unit whose target lays out no MOD payload. -/
def unit (acc : List Nat) (needRc priv : Bool) (body : State → Except Stop Eff) (s : State) : State :=
  unitMod 22 acc needRc priv body s

/-- Raise the illegal-operand trap unless b. -/
def need (b : Bool) (v : DWord := 0) : Except Stop Unit := if b then .ok () else .error (.trap 0x02 v)

/-- Raise cause c with TVAL v when b. -/
def trapIf (b : Bool) (c : BitVec 8) (v : DWord) : Except Stop Unit := if b then .error (.trap c v) else .ok ()

/-- Hold the unit until b. -/
def ready (b : Bool) (s : State) : Except Stop Unit := if b then .ok () else .error (.enter s.retry)

/-- A target word that no format decodes: cause 0x01 with the first offending word of the unit (R57 step 2). -/
def State.illegal (x : Word) (s : State) : State := s.trap 0x01 (((s.badWord 22).getD x).zeroExtend 64)

/-- An asynchronous report joins a warp's reports in issue order (R198). -/
def insertReport (r : Report) : List Report → List Report
  | [] => [r]
  | x :: xs => if r.order < x.order then r :: x :: xs else x :: insertReport r xs

def Warp.report (w : Warp) (c : BitVec 8) (v : DWord) (order : Nat) : Warp :=
  { w with reports := insertReport ⟨c, v, order⟩ w.reports }

/-- The pending reports of a warp, 32 at most (R407). -/
def Warp.pending (w : Warp) : List Report := w.reports.take 32

/-- A memory instruction does not issue while 32 reports are pending (R407). -/
def reportsFull (w : Warp) : Bool := 32 ≤ w.reports.length

/-- Take the next of the device's alternatives (R3): the free choice, and the state that has taken it. -/
def State.pick (s : State) : Bool × State := (Config.pick s.fresh, { s with fresh := s.fresh + 1 })

end Sys2Proof.Machine
end

