-- ==== Sys2Proof/Machine/Operands.lean ====
section
/-! DEFINITION. Every operand form: immediates and their hints (R50), register fields and runs (R36), stream-queue pops
(R306), REP units (R51), and the units that only compute registers. -/

namespace Sys2Proof.Machine

/-- An immediate field of n bits as IMM and IMMH hints widen it (R50), extended to 64 bits. -/
def Warp.imm (w : Warp) (n field : Nat) : DWord :=
  match w.hintImm, w.hintImmh with
  | none, _ => BitVec.ofInt 64 (signed n field)
  | some p, none => BitVec.ofInt 64 (signed (n + 22) (p.toNat * 2 ^ n + field))
  | some p, some h => BitVec.ofInt 64 (signed 54 (h.toNat * 2 ^ 32 + p.toNat * 2 ^ 10 + field))

/-- The scalar value given to every lane by a VX word (R35, R50): sb when x = 0, else the immediate. -/
def Warp.xImm (w : Warp) (b : Nat) : Word := (w.imm 6 b).truncate 32

/-- A register field at repetition i with stride t: fields 120 to 127 are not stepped (R51). -/
def stepField (f i t : Nat) : Nat := if f < 120 then f + i * t else f

/-- A run of n destination registers lies in v0 to v119 and below the allocation (R36). -/
def State.destOk (s : State) (f n : Nat) : Bool := f < 120 && f + n ≤ 120 && f + n ≤ s.vregs

/-- A one-register source field names a register below the allocation, a queue or a lane register (R36). -/
def State.srcOk (s : State) (f : Nat) : Bool := 120 ≤ f || f < s.vregs

/-- Every destination run and source of every repetition passes R36, before repetition 0 (R51). Fields of `srcs` are single
sources, `runs` are runs that lie in v0 to v119. -/
def State.regsOk (s : State) (runs : List (Nat × Nat)) (srcs : List Nat) : Bool :=
  let (n, t) := s.w.rep
  (List.range n).all fun i =>
    (runs.all fun r => r.1 < 120 && s.destOk (r.1 + i * t) r.2)
      && srcs.all fun f => 120 ≤ f || (f + i * t < 120 && s.srcOk (f + i * t))

/-- The queues that a list of fields names, each once (R111, R306). -/
def queuesOf (fs : List Nat) : List Nat := [0, 1, 2, 3].filter fun q => fs.contains (120 + q)

/-- The pops of a unit that reads the fields fs n times (R306): cause 0x08 when a queue holds too few entries, parked until
all of them are complete. -/
def State.popCheck (s : State) (fs : List Nat) (n : Nat) : Except Stop Unit :=
  match (queuesOf fs).find? fun q => (s.w.queue q).length < n with
  | some q => .error (.trap 0x08 (BitVec.ofNat 64 q))
  | none =>
    if (queuesOf fs).any fun q => ((s.w.queue q).take n).any fun e => e.value.isNone then
      .error (.enter (s.parkAt (.queue (queuesOf fs) n)))
    else .ok ()

/-- The heads that the unit read are removed. -/
def Warp.popped (w : Warp) (fs : List Nat) (n : Nat) : Warp :=
  (queuesOf fs).foldl (fun w q => w.setQueue q ((w.queue q).drop n)) w

/-- The lanes of register r that a split-phase load of the running warp has still to write (R303). -/
def State.pendingLanes (s : State) (r : Nat) : Bool :=
  s.ops.any fun o =>
    o.place = s.w.place &&
    match o.kind with
    | .ldp w vd left _ _ => left ≠ 0 && vd ≤ r && r < vd + (if w = 6 then 4 else if w = 5 then 2 else 1)
    | _ => false

/-- No register of the unit is pending (R303); otherwise the unit waits. -/
def State.notPending (s : State) (regs : List Nat) : Except Stop Unit := ready (regs.all fun r => ¬ s.pendingLanes r) s

/-- The vector registers named by runs and fields over all repetitions. -/
def State.unitRegs (s : State) (runs : List (Nat × Nat)) (srcs : List Nat) : List Nat :=
  let (n, t) := s.w.rep
  (List.range n).flatMap fun i =>
    (runs.flatMap fun r => (List.range r.2).map fun k => r.1 + i * t + k) ++ (srcs.filter (· < 120)).map (· + i * t)

/-- The repetitions of a unit (R51), each reading the results of earlier ones: their results and flags. -/
def repeatUnit (body : Nat → Warp → List RegWrite × BitVec 8) : Nat → Nat → Warp → List RegWrite × BitVec 8
  | 0, _, _ => ([], 0)
  | k + 1, i, w =>
    let (xs, f) := body i w
    let (ys, g) := repeatUnit body k (i + 1) (w.apply xs)
    (xs ++ ys, f ||| g)

/-- A unit that computes vector registers from registers. `runs` lists its destination runs and source runs, `srcs` its
single sources; `pre` adds the entry's own operand checks; the body of repetition i gives results and FSTAT flags. -/
def vectorUnit (acc : List Nat) (la : Nat) (runs : List (Nat × Nat)) (srcs : List Nat) (pre : State → Except Stop Unit)
    (body : State → Nat → Warp → List RegWrite × BitVec 8) : State → State :=
  unit acc false false fun s => do
    need (s.regsOk runs srcs)
    pre s
    s.notPending (s.unitRegs runs srcs)
    s.popCheck srcs s.w.rep.1
    let (xs, f) := repeatUnit (body s) s.w.rep.1 0 s.w
    .ok { s := { s with w := { s.w.popped srcs s.w.rep.1 with fstat := s.w.fstat ||| f } }, writes := xs, la := la }

/-- A unit that computes one scalar register from scalar registers, after its own checks. -/
def scalarUnit (acc : List Nat) (d : Nat) (pre : State → Except Stop Unit) (f : Warp → DWord) : State → State :=
  unit acc false false fun s => do
    pre s
    .ok { s := s, writes := [.s d (f s.w)] }

/-- The SR forms (R112): A, B and the old D give the value of sd. -/
def srOp (d a b : BitVec 6) (f : DWord → DWord → DWord → DWord) (s : State) : State :=
  scalarUnit [] d.toNat (fun _ => .ok ()) (fun w => f (w.s a.toNat) (w.s b.toNat) (w.s d.toNat)) s

/-- The SI forms (R115): A and the immediate give the value of sd. -/
def siOp (d a : BitVec 6) (i : BitVec 10) (pre : DWord → Bool) (f : DWord → DWord → DWord) (s : State) : State :=
  scalarUnit [0, 1] d.toNat (fun s => need (pre (s.w.imm 10 i.toNat)))
    (fun w => f (w.s a.toNat) (w.imm 10 i.toNat)) s

end Sys2Proof.Machine
end

