-- ==== Sys2Proof/Machine/Lines.lean ====
section
/-! DEFINITION. Physical addresses and their homes (R319, R320, R341), routes over the edges (R17, R377), lines that harts own
(R328), error reports (R437), memory errors and poison (R334 to R336), and the device's own reads and writes of memory. -/

namespace Sys2Proof.Machine

/-- The n bytes of a value, little-endian (R5). -/
def bytesOf (n v : Nat) : List Byte := (List.range n).map fun i => BitVec.ofNat 8 (v / 2 ^ (8 * i))

/-- The value of bytes, little-endian. -/
def ofBytes : List Byte → Nat
  | [] => 0
  | b :: r => b.toNat + 256 * ofBytes r

/-- What a physical address names (R341). -/
inductive PaKind
  | mem (ld : Nat) | ctrl (ld off : Nat) | pcie (port : Nat) | remote | reserved
deriving DecidableEq, Repr

def paKind (pkg pa : Nat) : PaKind :=
  if pa < 2 ^ 40 then
    let o := pa % 2 ^ 38
    if o < 0x3C_0000_0000 then .mem (pa / 2 ^ 38)
    else if o < 0x3C_0000_1000 then .ctrl (pa / 2 ^ 38) (o - 0x3C_0000_0000) else .reserved
  else if pa < 2 ^ 55 then
    if pa / 2 ^ 40 = 1 then .pcie 32 else if pa / 2 ^ 40 = 2 then .pcie 33 else .reserved
  else if pa < 2 ^ 56 ∧ (pa - 2 ^ 55) / 2 ^ 40 ≠ pkg then .remote else .reserved

/-- The edges of the route from one LD to another (R17): 0 is LD0-LD1, 1 is LD2-LD3, 2 is LD0-LD2, 3 is LD1-LD3. -/
def route (a b : Nat) : List Nat :=
  if a = b then []
  else
    let h := fun x => if x < 2 then 0 else 1
    let v := fun x => if x % 2 = 0 then 2 else 3
    if a / 2 = b / 2 then [h a] else if a % 2 = b % 2 then [v a] else [h a, v b]

/-- Key of a module of an edge. -/
def moduleKey (e m : Nat) : Nat := 96 * e + m

/-- An edge with no module in service (R377). -/
def State.edgeDown (s : State) (e : Nat) : Bool := 96 ≤ s.modules.countP fun x => x.1 / 96 = e && x.2.out

/-- Requests of LD a do not reach memory of LD b: an edge of the route is down, or b is in reset (R377, R440). DESIGN CHOICE
(assumption 59): diagonal requests still pass an intermediate LD whose base die is in reset. -/
def State.unreachable (s : State) (a b : Nat) : Bool :=
  (s.ldOf b).baseReset || (route a b).any fun e => s.edgeDown e

/-- An unreachable request whose stores vxedgedrop counts: an edge is down (R377). -/
def State.edgeLost (s : State) (a b : Nat) : Bool := (route a b).any fun e => s.edgeDown e

/-- Pseudo-channel pair i of some stack of an LD is retired (R443). DESIGN CHOICE (assumption 44): pair i is numbers 2i and 2i + 1. -/
def LdState.pairRetired (l : LdState) (i : Nat) : Bool :=
  (List.range 4).any fun t => l.retiredPcs.getLsbD (64 * t + 2 * i) || l.retiredPcs.getLsbD (64 * t + 2 * i + 1)

/-- RGNCTL of the region of an address; ONL is bit 2 and set at daylight unless the region uses a retired pair (R337, R443). -/
def State.rgn (s : State) (ld k : Nat) : BitVec 3 :=
  (s.ldOf ld).rgnctl.get (if (s.ldOf ld).pairRetired (k % 32) then 0 else 4) k

/-- A region is online (R337); until daylight the only memory is region 0 of LD0 (R444). -/
def State.online (s : State) (pa : Nat) : Bool :=
  (s.rgn (pa / 2 ^ 38) (pa % 2 ^ 38 / 2 ^ 30)).getLsbD 2 && (s.phase = .daylight || pa < 2 ^ 30)

/-- A line of a channel that has failed (R336): channel 32t + i serves pair i of stack t, and region k uses pair k mod 32 of
each stack (R443). -/
def State.dead (s : State) (line : Nat) : Bool :=
  (s.ldOf (line * 64 / 2 ^ 38)).channels.any fun c =>
    c.2.2 && c.1 % 32 = line * 64 % 2 ^ 38 / 2 ^ 30 % 32 && c.1 / 32 = (Config.stackOf line).val

/-- A line is poisoned (R335): of itself, or because the slice that was its home is lost (R442). -/
def State.poisoned (s : State) (line : Nat) : Bool :=
  s.poison.contains line
    || ((s.colOf (line * 64 / 2 ^ 38) (s.homeCol line)).hartLost && ¬ s.healed.contains line)

/-- A line that reads as uncorrectable (R334 to R336, R442). -/
def State.bad (s : State) (line : Nat) : Bool := s.poisoned line || s.dead line

/-- Bytes of memory as the home copies hold them. -/
def State.peek (s : State) (pa n : Nat) : Nat := ofBytes ((List.range n).map fun i => s.mem.get memDefault (pa + i))

/-- The home copy of bytes is written. -/
def State.poke (s : State) (pa : Nat) (bs : List Byte) : State :=
  { s with mem := (bs.zipIdx.foldl (fun m b => m.set memDefault (pa + b.2) b.1) s.mem) }

/-- A read at the home recalls the line from a hart that owns it: dirty bytes are written back and the hart keeps a shared copy
(R328). -/
def State.recall (pa : Nat) (s : State) : State :=
  match s.hartLines.find? fun h => h.line = pa / 64 ∧ (h.owned ∨ h.dirty ≠ []) with
  | none => s
  | some h =>
    { s with
      mem := h.dirty.foldl (fun m b => m.set memDefault b.1 b.2) s.mem
      hartLines := s.hartLines.map fun x => if x = h then { x with owned := false, dirty := [] } else x }

/-- Bytes as a read at their home finds them, a hart's dirty bytes among them (R328). -/
def State.homePeek (s : State) (pa n : Nat) : Nat := (s.recall pa).peek pa n

/-- A store that reaches a line held by a hart writes back its dirty bytes and invalidates its copy (R328). -/
def State.evictHart (pa : Nat) (s : State) : State :=
  { s.recall pa with hartLines := (s.recall pa).hartLines.filter fun x => x.line ≠ pa / 64 }

/-- A report enters the LD's queue of 256 entries, or is lost; the next to enter after a loss carries OVF (R437). -/
def State.postError (ld kind stall info : Nat) (s : State) : State :=
  let l := s.ldOf ld
  if 256 ≤ l.errors.length then s.setLd ld { l with errLost := true }
  else
    s.setLd ld
      { l with
        errors := l.errors ++ [⟨BitVec.ofNat 3 kind, BitVec.ofNat 10 stall, BitVec.ofNat 49 info, l.errLost⟩]
        errLost := false }

/-- REPLACE is raised, with a report of kind 6 (R443). -/
def State.raiseReplace (ld : Nat) (s : State) : State :=
  (s.setLd ld { s.ldOf ld with replace := true }).postError ld 6 0 0

/-- Saturating addition to a 16-bit counter field of MEMERR at bit lo (R337). -/
def addMemerr (v : DWord) (lo : Nat) : DWord :=
  if bitsOf v.toNat lo 16 = 0xFFFF then v else v + BitVec.ofNat 64 (2 ^ lo)

def State.countMem (ld lo : Nat) (s : State) : State :=
  s.setLd ld { s.ldOf ld with memerr := addMemerr (s.ldOf ld).memerr lo }

/-- A line becomes poisoned (R334, R335): POISONLOG keeps the first. -/
def State.poisonLine (line : Nat) (s : State) : State :=
  let ld := line * 64 / 2 ^ 38
  let l := s.ldOf ld
  let s1 := s.setLd ld
    { l with poisonlog :=
        if l.poisonlog.getLsbD 63 then l.poisonlog
        else BitVec.ofNat 64 (2 ^ 63 + bitsOf (line * 64) 6 34 * 64) }
  if s1.poison.contains line then s1 else { s1 with poison := line :: s1.poison }

/-- A poisoned line is met (R335): a report of kind 1 to the owner of the page. -/
def State.reportPoison (l : Loc) (s : State) : State := s.postError l.ld 1 l.stall (bitsOf l.pa 6 34)

/-! Memory errors (R334). -/

/-- One bit of a CRC with polynomial 0x8BB7. -/
def crcBit (c : BitVec 16) (b : Bool) : BitVec 16 := if c.getLsbD 15 ^^ b then (c <<< 1) ^^^ 0x8BB7 else c <<< 1

/-- The CRC of an atom's bytes (R334), with initial value 0xFFFF, each byte from its top bit. DESIGN CHOICE for the bit order,
assumption 61. -/
def crc16 (bs : List Byte) : BitVec 16 :=
  bs.foldl (fun c b => [7, 6, 5, 4, 3, 2, 1, 0].foldl (fun c i => crcBit c (b.getLsbD i)) c) 0xFFFF

/-- Bytes of an atom of a region in its mode (R333). -/
def State.atomBytes (s : State) (pa : Nat) : Nat := if bitsOf (s.rgn (pa / 2 ^ 38) (pa % 2 ^ 38 / 2 ^ 30)).toNat 0 2 = 1 then 32 else 64

/-- The CRC of some atom of a line mismatches (R334). -/
def State.crcFails (s : State) (line : Nat) : Bool :=
  let n := s.atomBytes (64 * line)
  (List.range (64 / n)).any fun i =>
    let a := 64 * line + i * n
    crc16 ((List.range n).map fun k => s.mem.get memDefault (a + k))
      ≠ crc16 ((List.range n).map fun k => s.mem.get memDefault (a + k) ^^^ s.flips.get 0 (a + k))

/-- Erroneous bytes of a codeword of the 256-byte group of a line (R334). -/
def State.badBytes (s : State) (line j : Nat) : Nat := s.flips.countP fun c => c.1 / 256 = line / 4 ∧ c.1 % 2 = j

/-- MSTAT.CORR is set in the warp whose access read corrected data (R316, R334). -/
def State.markCorr (o : Owner) (s : State) : State :=
  let mark := fun (p : Warp → Bool) => s.mapWarps fun w => if p w then { w with mstat := w.mstat ||| 8 } else w
  match o with
  | .warp key _ idx => mark fun w => w.key = key ∧ w.idx = idx
  | .op id => mark fun w => s.ops.any fun x => x.id = id ∧ x.place = w.place
  | _ => s

/-- The check of a read of a line (R334): corrected and written back, poisoned, or, where no CRC mismatches, as it is stored. -/
def State.checkLine (o : Owner) (line : Nat) (s : State) : State :=
  if s.flips.all fun c => c.1 / 64 ≠ line then s
  else if ¬ s.crcFails line then
    { s with
      mem := (s.flips.filter fun c => c.1 / 64 = line).foldl (fun m c => m.set memDefault c.1 (m.get memDefault c.1 ^^^ c.2)) s.mem
      flips := s.flips.filter fun c => c.1 / 64 ≠ line }
  else if s.badBytes line 0 ≤ 4 ∧ s.badBytes line 1 ≤ 4 then
    (({ s with flips := s.flips.filter fun c => c.1 / 256 ≠ line / 4 }).countMem (line * 64 / 2 ^ 38) 48).markCorr o
  else (({ s with flips := s.flips.filter fun c => c.1 / 64 ≠ line }).poisonLine line).countMem (line * 64 / 2 ^ 38) 32

/-- Bytes that are written carry no error. -/
def State.clearFlips (pa n : Nat) (s : State) : State :=
  { s with flips := s.flips.filter fun c => ¬ (pa ≤ c.1 ∧ c.1 < pa + n) }

/-! The device's own accesses of memory: walks, records, fault rings, arena entries and frame stacks. -/

/-- A home serves a read of a line: a hart's dirty bytes are written back, and every atom's CRC is checked (R328, R334). -/
def State.serve (o : Owner) (pa : Nat) (s : State) : State := (s.recall pa).checkLine o (pa / 64)

/-- A read meets a line that gives no data: one of a failed channel becomes poisoned (R334 to R336). -/
def State.markBad (line : Nat) (s : State) : State :=
  if s.poisoned line then s else (s.poisonLine line).countMem (line * 64 / 2 ^ 38) 32

/-- A strong load of the device for a stall of an LD (R346, R348): none when the line gives no data, which is reported and ends nothing
(R439). DEDUCED, assumption 66. -/
def State.devRead (ld stall pa n : Nat) (s : State) : State × Option Nat :=
  let s1 := s.serve .device pa
  if s1.bad (pa / 64) then ((s1.markBad (pa / 64)).reportPoison ⟨pa, false, ld, stall⟩, none) else (s1, some (s1.peek pa n))

/-- A write by the device to memory of its own LD, such as a fault ring or an arena entry: dropped where the line takes no partial
store, with a report where it is poisoned (R335, R336, R338, R439). -/
def State.devWrite (ld stall pa : Nat) (bs : List Byte) (s : State) : State :=
  if s.poisoned (pa / 64) then s.reportPoison ⟨pa, false, ld, stall⟩
  else if s.dead (pa / 64) ∨ ¬ s.online pa then s
  else ((s.evictHart pa).poke pa bs).clearFlips pa bs.length

end Sys2Proof.Machine
end

