-- ==== Sys2Proof/Machine/Translate.lean ====
section
/-! DEFINITION. The translation of a warp's virtual addresses (R340 to R353). -/

namespace Sys2Proof.Machine

/-- Why a translation fails: an access fault, a page fault with its STAGE and guest address (R356), a peer whose owner LD is
in reset or unreachable, or a failure of the owner's translation (R353). -/
inductive XFault
  | access | page (stage : BitVec 2) (gpa : Nat) | peerDown | peerFail
deriving DecidableEq, Repr

/-- Whose translation it is: the LD and stall whose tables are used, the column whose caches serve it, and the core whose
micro-TLB does (8 for none; 9 for the exchange port's peer cache) (R340, R350). -/
structure Via where
  ld : Nat
  col : Nat
  core : Nat
  stall : Nat
deriving DecidableEq, Repr

/-- The first n entries of a list that p names, with every other entry: a cache of n places keeps the newest. -/
def keepNewest {α : Type} (p : α → Bool) : Nat → List α → List α
  | _, [] => []
  | n, x :: r =>
    if ¬ p x then x :: keepNewest p n r
    else match n with
      | 0 => keepNewest p 0 r
      | k + 1 => x :: keepNewest p k r

/-- A word that a column keeps for a stall. -/
def WalkWord.of (v : Via) (pa value : Nat) : WalkWord := ⟨BitVec.ofNat 2 v.ld, BitVec.ofNat 6 v.col, v.stall, pa, value⟩

/-- An entry is kept for a stall in a column. -/
def WalkWord.mine (v : Via) (e : WalkWord) : Bool := e.ld.toNat = v.ld && e.col.toNat = v.col && e.stall = v.stall

/-- A column keeps a word that a walk has read, among 1 024 (R350, R359). -/
def State.keepWord (v : Via) (pa value : Nat) (s : State) : State :=
  let others := s.walkWords.filter fun e => ¬ (e.mine v ∧ e.pa = pa)
  { s with walkWords :=
      keepNewest (fun e => e.ld.toNat = v.ld ∧ e.col.toNat = v.col) 1024 (WalkWord.of v pa value :: others) }

/-- What a walk finds where memory holds `now`: an old word that the column has kept, or the new one, as alternatives of R3
(R350). -/
def State.oldOrNew (s : State) (v : Via) (pa now : Nat) : State × Nat :=
  match s.walkWords.find? fun e => e.mine v ∧ e.pa = pa with
  | some e => if e.value = now then (s, now) else (s.pick.2, if s.pick.1 then e.value else now)
  | none => (s, now)

/-- No word of a stall is kept in a column: a translation that faults is never cached (R350). -/
def State.dropWords (v : Via) (s : State) : State := { s with walkWords := s.walkWords.filter fun e => ¬ e.mine v }

/-- The doublewords at offsets 0, 8, 16 and 24 of the stall record with value x, if the stall translates (R343). DESIGN CHOICE
(assumption 67): fields given as 0, and the two low bits of the G-stage root's PPN, are not checked. -/
def recordOk (ld x : Nat) : Option (Nat × Nat × Nat × Nat) :=
  let lo := ld * 2 ^ 38
  let hi := lo + 0x3C_0000_0000
  let d := fun o => bitsOf x (8 * o) 64
  let ring := bitsOf (d 16) 12 44 * 4096
  let log := bitsOf (d 16) 0 4
  let modeOk := fun m => m = 0 || m = 9 || m = 10
  if (d 32).testBit 0 ∧ modeOk (bitsOf (d 0) 60 4) ∧ modeOk (bitsOf (d 8) 60 4) ∧ 6 ≤ log ∧ log ≤ 12 ∧ lo ≤ ring
      ∧ ring + 64 + 32 * 2 ^ log ≤ hi then
    some (d 0, d 8, d 16, d 24)
  else none

/-- Where a stall's record lies, if the device may read it: the whole table in the memory of the LD, and its line online (R343,
R338). -/
def State.recordAt (s : State) (ld stall : Nat) : Option Nat :=
  let tab := (s.ldOf ld).stalltab.toNat
  let lo := ld * 2 ^ 38
  let a := tab + 64 * stall
  if tab < lo ∨ lo + 0x3C_0000_0000 < tab + 65536 ∨ (s.ldOf ld).baseReset ∨ ¬ s.online a then none else some a

/-- The stall record as memory holds it, if the stall translates (R343). -/
def State.stallRec (s : State) (ld stall : Nat) : Option (Nat × Nat × Nat × Nat) :=
  (s.recordAt ld stall).bind fun a => if s.bad (a / 64) then none else recordOk ld (s.homePeek a 40)

/-- The device reads a stall's record (R343). -/
def State.readRec (ld stall : Nat) (s : State) : State :=
  match s.recordAt ld stall with
  | none => s
  | some a => (s.devRead ld stall a 40).1

/-- The record that a translation uses: between the reads of R343 it may be an old copy. -/
def State.recordFor (s : State) (v : Via) : State × Option (Nat × Nat × Nat × Nat) :=
  match s.recordAt v.ld v.stall with
  | none => (s, none)
  | some a =>
    match s.devRead v.ld v.stall a 40 with
    | (s1, none) => (s1, none)
    | (s1, some now) =>
      let (s2, x) := s1.oldOrNew v a now
      (s2.keepWord v a x, recordOk v.ld x)

/-- Permission bits R, W, X that an access needs (R344), as the mask of PTE bits [3:1]. -/
def permNeed : Access → Nat
  | .read => 1 | .write => 2 | .rw => 3 | .exec => 4

def writes : Access → Bool
  | .read => false | .exec => false | _ => true

/-- A page-table entry as R345 reads it at a level: a pointer to the next table, a leaf, or a page fault. DESIGN CHOICE (assumption 67):
bits A, D and U of a pointer are ignored. -/
inductive PteRead
  | next (ppn : Nat) | leaf | bad
deriving DecidableEq, Repr

/-- How R345 reads an entry. -/
def readPte (pte level : Nat) (need : Nat) : PteRead :=
  let r := bitsOf pte 1 3
  let ppn := bitsOf pte 10 44
  if ¬ pte.testBit 0 ∨ bitsOf pte 54 7 ≠ 0 ∨ bitsOf pte 61 2 = 3 ∨ bitsOf r 0 2 = 2 then .bad
  else if r = 0 then if pte.testBit 63 ∨ bitsOf pte 61 2 ≠ 0 ∨ level = 0 then .bad else .next ppn
  else if 2 < level ∨ ppn % 2 ^ (9 * level) ≠ 0 ∨ (pte.testBit 63 ∧ ¬ (level = 0 ∧ ppn % 16 = 8)) then .bad
  else if ¬ pte.testBit 4 ∨ Nat.land r need ≠ need then .bad
  else .leaf

/-- The address that a leaf gives, with the offset bits of its size (R345). -/
def leafAddr (pte level va : Nat) : Nat :=
  let ppn := bitsOf pte 10 44
  if pte.testBit 63 then (ppn / 16) * 65536 + va % 65536
  else ppn * 4096 / 2 ^ (12 + 9 * level) * 2 ^ (12 + 9 * level) + va % 2 ^ (12 + 9 * level)

/-- The walker reads an entry at a package address (R346): its value, or none for an access fault. -/
def State.pteAt (s : State) (v : Via) (a : Nat) : State × Option Nat :=
  match paKind s.vxpkg.toNat a with
  | .mem h => if s.online a ∧ ¬ s.unreachable v.ld h then s.devRead v.ld v.stall a 8 else (s, none)
  | _ => (s, none)

/-- The walker sets A, and D for a store, in the entry it has read (R346). -/
def State.setAD (s : State) (a pte : Nat) (acc : Access) : State :=
  let want := if writes acc then Nat.lor pte 0xC0 else Nat.lor pte 0x40
  if want = pte then s else ((s.evictHart a).poke a (bytesOf 8 want)).clearFlips a 8

/-- What a stage of translation finds: the address, the leaf, its level, its own physical address, the address by which
the walk named it, and the pages in which it named the entries that it read. -/
structure Found where
  addr : Nat
  pte : Nat
  level : Nat
  at_ : Nat
  named : Nat
  path : List Nat
deriving DecidableEq, Repr

/-- The walk of one stage from a table page down the levels. `look` gives the physical address of an entry's own address
(itself, or its G-stage translation for a first-stage table of a guest). A column keeps the non-leaf entries it reads (R350). -/
def walk (v : Via) (look : State → Nat → State × Except XFault Nat) (stage : BitVec 2) (gpa va need : Nat)
    (idx : Nat → Nat) : Nat → Nat → State → State × Except XFault Found
  | level, table, s =>
    let named := table + 8 * idx level
    match look s named with
    | (s1, .error e) => (s1, .error e)
    | (s1, .ok a) =>
      match s1.pteAt v a with
      | (s2, none) => (s2, .error .access)
      | (s2, some now) =>
        let (s3, pte) := s2.oldOrNew v a now
        match readPte pte level need, level with
        | .leaf, _ => (s3, .ok ⟨leafAddr pte level va, pte, level, a, named, [named / 4096]⟩)
        | .next ppn, l + 1 =>
          match walk v look stage gpa va need idx l (ppn * 4096) (s3.keepWord v a pte) with
          | (s4, .ok f) => (s4, .ok { f with path := named / 4096 :: f.path })
          | e => e
        | _, _ => (s3, .error (.page stage gpa))

/-- Index of the entry for an address at a level; the root of a G-stage has two more bits (R344). -/
def vpn (va top : Nat) (x4 : Bool) (level : Nat) : Nat :=
  va / 2 ^ (12 + 9 * level) % 2 ^ (if x4 ∧ level = top then 11 else 9)

/-- The G-stage (R344): a guest physical address to a physical address. -/
def State.gStage (s : State) (v : Via) (g : Nat) (gpa need : Nat) : State × Except XFault Found :=
  let mode := bitsOf g 60 4
  let top := if mode = 9 then 3 else 4
  if mode = 0 then if gpa < 2 ^ 56 then (s, .ok ⟨gpa, 0, 0, 0, 0, []⟩) else (s, .error .access)
  else if 2 ^ (if mode = 9 then 50 else 59) ≤ gpa then (s, .error (.page 1 gpa))
  else walk v (fun s a => (s, .ok a)) 1 gpa gpa need (vpn gpa top true) top (bitsOf g 0 44 * 4096) s

/-- The frame of a final leaf: an arena page for a 4 KiB leaf with MOV (R347, R348), whose entry the column keeps (R350). DESIGN CHOICE
(assumption 67): bits [62:44] of an arena entry are ignored. -/
def State.finalFrame (s : State) (v : Via) (f : Found) (va : Nat) : State × Except XFault (Nat × Option Nat) :=
  if f.pte.testBit 8 ∧ f.level = 0 ∧ ¬ f.pte.testBit 63 then
    let i := bitsOf f.pte 10 44
    let a := s.vxarena.toNat + 8 * i
    if s.vxarenan.toNat ≤ i then (s, .error .access)
    else
      match s.pteAt v a with
      | (s1, none) => (s1, .error .access)
      | (s1, some now) =>
        let (s2, e) := s1.oldOrNew v a now
        if e.testBit 63 then (s2.keepWord v a e, .ok (bitsOf e 0 44 * 4096 + va % 4096, some i)) else (s2, .error (.page 2 0))
  else (s, .ok (f.addr, none))

/-- The first stage of a warp-level access (R344, R345). DEDUCED (assumption 67): MOV of a G-stage leaf that maps a first-stage table
is ignored, since that leaf is not the final one (R347). -/
def State.firstStage (s : State) (v : Via) (r : Nat × Nat × Nat × Nat) (va need : Nat) : State × Except XFault Found :=
  let vmode := bitsOf r.1 60 4
  let gmode := bitsOf r.2.1 60 4
  let top := if vmode = 9 then 3 else 4
  let bits := if vmode = 9 then 48 else 57
  let canon := va < 2 ^ (bits - 1) || 2 ^ 64 - 2 ^ (bits - 1) ≤ va
  if vmode = 0 then if 2 ^ 56 ≤ va then (s, .error .access) else (s, .ok ⟨va, 0, 0, 0, 0, []⟩)
  else if ¬ canon then (s, .error .access)
  else
    walk v
      (fun s a => if gmode = 0 then (s, .ok a) else
        match s.gStage v r.2.1 a 1 with
        | (s1, .ok f) => (s1.setAD f.at_ f.pte .read, .ok f.addr)
        | (s1, .error e) => (s1, .error e))
      0 0 va need (vpn va top false) top (bitsOf r.1 0 44 * 4096) s

/-- The second stage of an access whose first stage gave f (R344); `upd`: A or D of f is to be set, a write to guest memory
(R346). -/
def State.secondStage (s : State) (v : Via) (g : Nat) (f : Found) (need : Nat) (upd : Bool) : State × Except XFault Found :=
  if upd ∧ bitsOf g 60 4 ≠ 0 then
    match s.gStage v g f.named 2 with
    | (s1, .ok x) => (s1.setAD x.at_ x.pte .write).gStage v g f.addr need
    | e => e
  else s.gStage v g f.addr need

/-- A cached entry is of this stall, page and cache. -/
def TlbEntry.mine (v : Via) (page : Nat) (e : TlbEntry) : Bool :=
  e.ld.toNat = v.ld && e.col.toNat = v.col && e.stall = v.stall && e.page = page
    && (e.holder.toNat = v.core || e.holder = 8)

/-- The places of a cache of translations (R28, R359): 128 in a micro-TLB, 8 192 in a column TLB, 1 024 in a peer cache. -/
def tlbPlaces (holder : Nat) : Nat := if holder < 8 then 128 else if holder = 8 then 8192 else 1024

/-- One cache keeps a translation. -/
def State.cacheOne (e : TlbEntry) (s : State) : State :=
  let same := fun (x : TlbEntry) => decide (x.ld = e.ld ∧ x.col = e.col ∧ x.holder = e.holder)
  { s with tlb := keepNewest same (tlbPlaces e.holder.toNat) (e :: s.tlb.filter (· ≠ e)) }

/-- A translation is cached in the micro-TLB of its core, if it has one, and in its column; one of the exchange port in the peer
cache (R350). -/
def State.cacheXlate (v : Via) (e : TlbEntry) (s : State) : State :=
  let s1 := if v.core ≠ 9 then s.cacheOne { e with holder := 8 } else s
  if v.core ≠ 8 then s1.cacheOne { e with holder := BitVec.ofNat 4 v.core } else s1

/-- Both stages for a warp-level access (R344 to R348), without the peer window: leaves record A and D. DESIGN CHOICE (assumption 68):
a cached translation is one page of 4 KiB, whatever the size of its leaf (R350). -/
def State.walkBoth (s : State) (v : Via) (r : Nat × Nat × Nat × Nat) (va : Nat) (acc : Access) : State × Except XFault Loc :=
  let need := permNeed acc
  let vmode := bitsOf r.1 60 4
  let gmode := bitsOf r.2.1 60 4
  match s.firstStage v r va need with
  | (s1, .error e) => (s1, .error e)
  | (s1, .ok f) =>
    let upd := vmode ≠ 0 && (¬ f.pte.testBit 6 || (writes acc && ¬ f.pte.testBit 7))
    match s1.secondStage v r.2.1 f need upd with
    | (s2, .error e) => (s2, .error e)
    | (s2, .ok g) =>
      let fin := if gmode = 0 then f else g
      let paged := vmode ≠ 0 || gmode ≠ 0
      match (if paged then s2.finalFrame v fin va else (s2, .ok (f.addr, none))) with
      | (s3, .error e) => (s3, .error e)
      | (s3, .ok (pa, arena)) =>
        if paged ∧ bitsOf fin.pte 61 2 = 2 then (s3, .error .access)
        else
          let s4 := if upd then s3.setAD f.at_ f.pte acc else s3
          let s5 := if gmode ≠ 0 then s4.setAD g.at_ g.pte acc else s4
          if arena.isNone ∧ pa < 2 ^ 40 ∧ pa / 2 ^ 38 ≠ v.ld then (s5, .error .access) else
          let nc := paged && (bitsOf f.pte 61 2 = 1 || (gmode ≠ 0 && bitsOf g.pte 61 2 = 1))
          let perms := Nat.land (bitsOf f.pte 1 3) (if gmode = 0 then 7 else bitsOf g.pte 1 3)
          let gpages := if gmode = 0 then [] else f.addr / 4096 :: f.path
          let e : TlbEntry :=
            ⟨BitVec.ofNat 2 v.ld, BitVec.ofNat 6 v.col, 8, v.stall, va / 4096, gpages, arena, pa / 4096,
              BitVec.ofNat 4 (perms + if writes acc then 8 else 0), nc⟩
          (if paged then s5.cacheXlate v e else s5, .ok ⟨pa, nc, v.ld, v.stall⟩)

/-- A cached translation of the page that grants the access (R350). -/
def State.cached (s : State) (v : Via) (va : Nat) (acc : Access) : Option TlbEntry :=
  s.tlb.find? fun e => e.mine v (va / 4096)
    ∧ Nat.land (bitsOf e.perms.toNat 0 3) (permNeed acc) = permNeed acc ∧ (writes acc → e.perms.getLsbD 3)

/-- What a walk of a stall's tables leaves in the caches (R350): nothing of a translation that faults, and a page fault removes
the cached entries of the page from the core and the column. -/
def State.walkTables (s : State) (v : Via) (r : Nat × Nat × Nat × Nat) (va : Nat) (acc : Access) : State × Except XFault Loc :=
  match s.walkBoth v r va acc with
  | (s1, .error (.page st g)) =>
    ({ s1.dropWords v with tlb := s1.tlb.filter fun e => ¬ e.mine v (va / 4096) }, .error (.page st g))
  | (s1, .error e) => (s1.dropWords v, .error e)
  | x => x

/-- Translation by a stall's tables: a cached entry or the tables themselves, as alternatives of R3 (R350). -/
def State.byTables (s : State) (v : Via) (va : Nat) (acc : Access) : State × Except XFault Loc :=
  match s.recordFor v with
  | (s0, none) => (s0.dropWords v, .error .access)
  | (s0, some r) =>
    match s0.cached v va acc with
    | none => s0.walkTables v r va acc
    | some e =>
      let (b, s1) := s0.pick
      if b then (s1, .ok ⟨e.frame * 4096 + va % 4096, e.nc, v.ld, v.stall⟩) else s1.walkTables v r va acc

/-- An address in the peer window (R340, R352). -/
def inPeer (va : Nat) : Bool := 0x7000_0000_0000 ≤ va && va ≤ 0x7FFF_FFFF_FFFF

/-- What a handle grants (R352, R353): owner LD, owner stall and owner address; an access fault when a check fails. -/
def handleOk (a b o : Nat) (acc : Access) : Except XFault (Nat × Nat × Nat) :=
  if ¬ a.testBit 63 ∨ bitsOf a 0 25 * 4096 ≤ o ∨ (writes acc ∧ ¬ a.testBit 62) ∨ bitsOf a 25 25 ≠ 0 ∨ bitsOf b 0 12 ≠ 0
  then .error .access
  else .ok (bitsOf a 60 2, bitsOf a 50 10, b + o)

/-- The handle of a peer-window address by the requester's own handle table (R352, R353). -/
def State.handle (s : State) (v : Via) (va : Nat) (acc : Access) : State × Except XFault (Nat × Nat × Nat) :=
  match s.recordFor v with
  | (s0, none) => (s0.dropWords v, .error .access)
  | (s0, some r) =>
    let at_ := bitsOf r.2.2.2 12 44 * 4096 + 16 * ((va - 0x7000_0000_0000) / 2 ^ 36)
    if ¬ r.2.2.2.testBit 0 then (s0, .error .access)
    else
      match s0.pteAt v at_ with
      | (s1, none) => (s1, .error .access)
      | (s1, some a) =>
        let (s2, x) := s1.oldOrNew v at_ (a + 2 ^ 64 * s1.peek (at_ + 8) 8)
        (s2.keepWord v at_ x, handleOk (bitsOf x 0 64) (bitsOf x 64 64) (va % 2 ^ 36) acc)

/-- The translation of a virtual address for a warp or engine of a stall in a column (R340, R353). -/
def State.translate (s : State) (v : Via) (va : DWord) (acc : Access) : State × Except XFault Loc :=
  let a := va.toNat
  if inPeer a then
    match s.handle v a acc with
    | (s0, .error e) => (s0, .error e)
    | (s0, .ok (old, ostall, ova)) =>
      if s0.unreachable v.ld old then (s0, .error .peerDown)
      else if inPeer ova ∨ 2 ^ 64 ≤ ova then (s0, .error .peerFail)
      else
        match s0.byTables ⟨old, 63, 9, ostall⟩ ova acc with
        | (s1, .ok l) => (s1, .ok { l with nc := true })
        | (s1, .error _) => (s1, .error .peerFail)
  else s.byTables v a acc

/-- The running warp translates through its core and column (R340), the engines that work for it through its column (R365). -/
def State.via (s : State) : Via := ⟨s.w.place.ld.toNat, s.w.place.col.toNat, s.w.place.core.toNat, s.stallOf s.w⟩
def State.engineVia (s : State) : Via := { s.via with core := 8 }

/-- The translation of the running warp. -/
def State.xlate (s : State) (va : DWord) (acc : Access) : State × Except XFault Loc := s.translate s.via va acc

end Sys2Proof.Machine
end

