-- ==== Sys2Proof/Machine/Contain.lean ====
section
/-! DEFINITION. The beginning of the end of a stall (R438), which a poisoned line brings about (R335, R439), acknowledgements (R338,
R351) and the registers of the memory control block (R337, R338). -/

namespace Sys2Proof.Machine

/-- Status STALLEND (R402). -/
def stStallEnd : BitVec 8 := 0x0C

/-- The end of a stall begins (R438 steps 1 and 2): its queues are disabled and their launches end. Stall 0 never ends; two
ends of one stall are one. Steps 3 and 4 follow when the completion stores are done. -/
def State.beginStallEnd (ld stall : Nat) (poison : Bool) (s : State) : State :=
  let l := s.ldOf ld
  if stall = 0 ∨ l.endings.any fun e => e.1.toNat = stall then s
  else
    let qs := (List.range 64).filter fun q => (s.queueOf ld q).owner.toNat = stall
    let s1 := s.setLd ld { l with endings := l.endings ++ [(BitVec.ofNat 10 stall, poison)] }
    let s2 := qs.foldl (fun s q => if (s.queueOf ld q).en then s.setQueueOf ld q { s.queueOf ld q with en := false } else s) s1
    ((s2.allLaunches.filter fun x => x.ld.toNat = ld ∧ qs.contains x.record.queue.toNat).foldl
      (fun s x => s.endLaunch x.ld x.record.queue x.seq stStallEnd) s2)

/-- A poisoned line is consumed by a warp, its engines or a column hart (R335, R439): that stall ends. -/
def State.consumePoison (l : Loc) (s : State) : State := (s.reportPoison l).beginStallEnd l.ld l.stall true

/-- Operations in flight whose translated reads p names, and writes so translated that ports hold. -/
def State.accessesOf (s : State) (p : Loc → Bool) : List Nat :=
  let reads := s.ops.filter fun o =>
    match o.kind with
    | .ldp _ _ left aims _ => aims.any fun a => lane left a.1 && (match a.2 with | .at_ l => p l | .lost _ _ => false)
    | .gath _ _ _ aims _ => aims.any fun a => match a.2 with | .at_ l => p l | .lost _ _ => false
    | _ => false
  reads.map Op.id ++ s.ports.flatMap fun x => (x.2.held.filter fun h => p h.loc).map HeldWrite.id

/-- An operation or a held write has not been performed. -/
def State.inFlight (s : State) (id : Nat) : Bool := s.ops.any (fun o => o.id = id) || s.ports.any fun x => x.2.held.any fun h => h.id = id

/-- Someone waits for the acknowledgement that follows some accesses (R338, R350, R351). -/
def State.waitOn (who : Option Waiter) (ids : List Nat) (s : State) : State :=
  match who with
  | none => s
  | some x => if ids = [] then s else { s with waits := s.waits ++ [⟨x, ids⟩] }

/-- Everything that someone waits for has been performed. -/
def State.acked (s : State) (who : Waiter) : Bool := s.waits.all fun x => x.who ≠ who || x.ids.all fun i => ¬ s.inFlight i

/-- Acknowledgements that have come; the end of a stall takes its own (R438). -/
def State.ackWaits (s : State) : State :=
  { s with waits := s.waits.filter fun x => x.ids.any s.inFlight || (match x.who with | .stall _ _ => true | _ => false) }

/-- The caches of an LD drop the translations that f names (R350); who asked waits for the accesses that they translated (R351). -/
def State.dropTlb (who : Option Waiter) (ld : Nat) (f : TlbEntry → Bool) (s : State) : State :=
  let gone := fun (e : TlbEntry) => decide (e.ld.toNat = ld) && f e
  let frames := (s.tlb.filter gone).map TlbEntry.frame
  let ids := s.accessesOf fun l => decide (l.ld = ld) && frames.contains (l.pa / 4096)
  { s with tlb := s.tlb.filter fun e => ¬ gone e }.waitOn who ids

/-- An invalidation of KIND 00 (R350): everything of a stall, its record and handle table among it. -/
def State.dropStall (who : Option Waiter) (ld stall : Nat) (s : State) : State :=
  let s1 := s.dropTlb who ld fun e => decide (e.stall = stall)
  { s1 with walkWords := s1.walkWords.filter fun e => ¬ (e.ld.toNat = ld ∧ e.stall = stall) }

/-- Every byte of a region reads 0 (R338). -/
def State.scrub (ld k : Nat) (s : State) : State :=
  let lo := ld * 2 ^ 38 + k * 2 ^ 30
  let inside := fun a => decide (lo ≤ a ∧ a < lo + 2 ^ 30)
  { s with
    mem := s.mem.filter fun c => ¬ inside c.1
    poison := s.poison.filter fun p => ¬ inside (p * 64)
    flips := s.flips.filter fun c => ¬ inside c.1
    copies := s.copies.filter fun c => ¬ inside (c.line * 64)
    hartLines := s.hartLines.filter fun h => ¬ inside (h.line * 64) }

/-- A write to RGNCTL k (R338); one that clears ONL is acknowledged when the accesses in flight to the region are performed. -/
def State.writeRgnctl (who : Option Waiter) (ld k : Nat) (v : DWord) (s : State) : State :=
  if 240 ≤ k ∨ 2 ≤ bitsOf v.toNat 0 2 then s
  else
    let l := s.ldOf ld
    let retired := l.pairRetired (k % 32)
    let dflt : BitVec 3 := if retired then 0 else 4
    let old := s.rgn ld k
    let onl := v.getLsbD 2 && ¬ retired
    let modeMay := ¬ old.getLsbD 2 || ¬ v.getLsbD 2
    let mode := if modeMay then bitsOf v.toNat 0 2 else bitsOf old.toNat 0 2
    let changed := l.modeChanged.get false k || mode ≠ bitsOf old.toNat 0 2
    let s0 := if onl ∧ ¬ old.getLsbD 2 ∧ changed then s.scrub ld k else s
    let s1 := if old.getLsbD 2 ∧ ¬ onl then
        s0.waitOn who (s.accessesOf fun x => decide (x.pa / 2 ^ 38 = ld ∧ x.pa % 2 ^ 38 / 2 ^ 30 = k)) else s0
    s1.setLd ld
      { s1.ldOf ld with
        rgnctl := l.rgnctl.set dflt k (BitVec.ofNat 3 (mode + if onl then 4 else 0))
        modeChanged := l.modeChanged.set false k (changed && ¬ onl) }

/-- A register of the memory control block at an offset (R337); none where there is none. -/
def State.ctrlRead (s : State) (ld off : Nat) : Option DWord :=
  if off < 0x780 then some ((s.rgn ld (off / 8)).zeroExtend 64)
  else if off = 0x800 then some (s.ldOf ld).memerr
  else if off = 0x808 then some (s.ldOf ld).poisonlog
  else none

/-- A write to it (R337), for whose acknowledgement someone waits. -/
def State.ctrlWrite (who : Option Waiter) (ld off : Nat) (v : DWord) (s : State) : State :=
  if off < 0x780 then s.writeRgnctl who ld (off / 8) v
  else if off = 0x800 then s.setLd ld { s.ldOf ld with memerr := v }
  else if off = 0x808 ∧ v.getLsbD 63 then
    s.setLd ld { s.ldOf ld with poisonlog := (s.ldOf ld).poisonlog &&& 0x7FFF_FFFF_FFFF_FFFF }
  else s

end Sys2Proof.Machine
end

