-- ==== Sys2Proof/Machine/Memory.lean ====
section
/-! DEFINITION. Performing accesses: reads and writes of located bytes (R325 to R335, R377, R382), the copies that caches hold
(R321 to R324), recoverable faults (R354 to R356), and the shared course of synchronous memory instructions (R294). -/

namespace Sys2Proof.Machine

/-- Who performs an access (R267): the LD it starts from, whose it is, the port that sends it to home slices (R330), its scope when it
is strong, and the issue number of its instruction. -/
structure Agent where
  ld : Nat
  owner : Owner
  port : Option ReqPort
  scope : Option (BitVec 3)
  order : Nat
deriving DecidableEq, Repr

/-- The device itself at an LD. -/
def Agent.device (ld : Nat) : Agent := ⟨ld, .device, none, some 6, 0⟩

/-- Who waits for the acknowledgement of an agent's store (R338). -/
def Agent.waiter (ag : Agent) : Option Waiter :=
  match ag.port, ag.owner with
  | some (.hart h), _ => some (.hart h)
  | _, .warp key seq idx => some (.warp (.warp key seq idx))
  | _, _ => none

/-- The warp at a place, as the owner of its accesses (R267). -/
def State.ownerOf (s : State) (w : Warp) : Owner :=
  .warp w.key (((s.allGroups.find? fun g => g.key = w.key).map Group.seq).getD 0) w.idx

/-- A write is one of the agent of an access: its own, or one of the warp that issued its operation (R267, R289). -/
def State.sameAgent (s : State) (o : Owner) (h : HeldWrite) : Bool :=
  h.owner = o ||
    match o with
    | .op id => s.ops.any fun x => x.id = id && s.allWarps.any fun w => w.place = x.place && s.ownerOf w = h.owner
    | _ => false

/-- The port that holds an earlier write of an agent to a line: what the agent sends next to that line follows it (R276). -/
def State.behind (s : State) (ag : Agent) (line : Nat) : Option Nat :=
  s.ports.findSome? fun x => if x.2.held.any fun h => h.loc.pa / 64 = line && s.sameAgent ag.owner h then some x.1 else none

/-- A port that is up sends what it holds (R380). -/
def State.sendHeld (s : State) (n : Nat) : State :=
  let p := s.portOf n
  if p.state = .up ∧ p.held ≠ [] then
    { s.setPort n { p with held := [] } with outbox := s.outbox ++ p.held.map fun h => (n, BitVec.ofNat 56 h.loc.pa, h.data) }
  else s

/-- Why a located access does not take place: its home or port cannot be reached, the line is poisoned, a port in training holds
the request, or it waits for a retraining module (R377) or for its port's ticket (R330). -/
inductive Lost
  | unreach (edge : Bool) | port (n : Nat) | poison | hold (n : Nat) | link | ticket
deriving DecidableEq, Repr

/-- Checks on a location that count as an access fault in the translation step (R294): a reserved address, an offline
region (R338), or a control register not accessed as R337 allows. -/
def State.locOk (s : State) (pa n : Nat) (ctrl : Bool) : Bool :=
  match paKind s.vxpkg.toNat pa with
  | .mem _ => s.online pa
  | .ctrl ld off => ctrl && n = 8 && pa % 8 = 0 && (s.ctrlRead ld off).isSome
  | .pcie _ => true
  | .remote => true
  | .reserved => false

/-- The LD of a port (R378, R380). -/
def portLd (n : Nat) : Nat :=
  if n = 32 then 0 else if n = 33 then 3 else if n < 5 then 0 else if n < 9 then 1 else if n < 14 then 2 else 3

/-- The lowest UALink port that is up, enabled and reached from an LD; the lowest that is up and enabled otherwise (R379). DESIGN
CHOICE, assumption 32. -/
def State.upPort (s : State) (ld : Nat) : Option Nat :=
  let up := (List.range 18).filter fun k => (s.portOf k).state = .up ∧ s.vxualen.getLsbD k
  (up.find? fun k => ¬ s.unreachable ld (portLd k)).orElse fun _ => up.head?

/-- The port by which a request leaves the module, or why none takes it (R379 to R382): behind an earlier write of its agent to the
line, by the same port (R276). -/
def State.portFor (s : State) (ag : Agent) (line : Nat) : PaKind → Except Lost Nat
  | .pcie p => if (s.portOf p).state = .up ∨ (s.portOf p).state = .training then .ok p else .error (.port p)
  | _ =>
    match s.behind ag line, s.upPort ag.ld with
    | some p, _ => if (s.portOf p).state = .up then .ok p else .error (.hold p)
    | none, some p => .ok p
    | none, none => .error (.port (((List.range 18).find? fun k => (s.portOf k).state = .down).getD 0))

/-- The module of an edge that carries the requests for a line: one of those in service (R373), none when the edge is down. -/
def State.carrier (s : State) (e line : Nat) : Option Nat :=
  let out := fun (m : Nat) => s.modules.any fun x => x.1 = moduleKey e m ∧ x.2.out
  let up := (List.range 96).filter fun m => ¬ out m
  up[Config.moduleHash e line % up.length]?

/-- A module that carries the requests of LD a for a line of LD b is retraining (R375, R377). -/
def State.linkWaits (s : State) (a b line : Nat) : Bool :=
  (s.modules.any fun x => x.2.retraining) && (route a b).any fun e =>
    match s.carrier e line with
    | some m => s.modules.any fun x => x.1 = moduleKey e m ∧ x.2.retraining
    | none => false

/-- The home slice of a line. -/
def State.sliceOf (s : State) (line : Nat) : Slice := (s.colOf (line * 64 / 2 ^ 38) (s.homeCol line)).slice
def State.setSlice (line : Nat) (x : Slice) (s : State) : State :=
  s.setCol (line * 64 / 2 ^ 38) (s.homeCol line) { s.colOf (line * 64 / 2 ^ 38) (s.homeCol line) with slice := x }

/-- A port holds a ticket at a slice (R330). -/
def Slice.holds (x : Slice) (p : ReqPort) : Bool := x.tickets.any fun t => t.req.port = p

/-- A slice accepts a request now (R330): a tracker is free, and its port holds no ticket there, or the request's own is at the head. -/
def Slice.accepts (x : Slice) (r : ReqId) : Bool :=
  x.busy < 448 && (¬ x.holds r.port || x.tickets.head?.any fun t => t.req = r)

/-- A slice refuses a request whose port holds no ticket there: the refusal carries the next one (R330). -/
def Slice.refuse (x : Slice) (r : ReqId) : Slice :=
  { x with nextTicket := x.nextTicket + 1, tickets := x.tickets ++ [⟨x.nextTicket, r⟩] }

/-- The request of an access to a line (R330). -/
def Agent.request (ag : Agent) (line : Nat) : Option ReqId := ag.port.map fun p => .access p ag.owner ag.order line

/-- A line is locked by a `casm` of another agent (R312). -/
def State.lockedOut (s : State) (o : Owner) (line : Nat) : Bool :=
  s.allWarps.any fun w => (w.casm.any fun c => c.locks.contains line) && s.ownerOf w ≠ o

/-- A request of the agent for a line waits for a tracker or for its ticket (R330), or for the release of a lock (R312). -/
def State.ticketWaits (s : State) (ag : Agent) (line : Nat) : Bool :=
  match ag.request line with
  | none => false
  | some r => s.lockedOut ag.owner line || (¬ s.accepted.contains r && ¬ (s.sliceOf line).accepts r)

/-- A request that is accepted uses up its ticket (R330). -/
def State.accept (ag : Agent) (line : Nat) (s : State) : State :=
  match ag.request line with
  | none => s
  | some r =>
    let x := s.sliceOf line
    if s.accepted.contains r then { s with accepted := s.accepted.filter (· ≠ r) }
    else if x.tickets.any fun t => t.req = r then s.setSlice line { x with tickets := x.tickets.filter fun t => t.req ≠ r }
    else s

/-- A request that its slice does not accept is refused: REFUSE counts it and its port draws a ticket, one at most (R330, R337). -/
def State.refused (ag : Agent) (line : Nat) (s : State) : State :=
  match ag.request line with
  | none => s
  | some r =>
    let x := s.sliceOf line
    if x.holds r.port ∨ x.accepts r ∨ s.accepted.contains r then s else (s.setSlice line (x.refuse r)).countMem (line * 64 / 2 ^ 38) 0

/-- A slice with a free tracker accepts the access whose ticket is at the head (R330): it keeps its place until it is performed. -/
def State.acceptHead (k : Nat) (x : Slice) (s : State) : State :=
  match x.tickets with
  | ⟨_, .access p o n line⟩ :: r =>
    if x.busy < 448 then
      { s.setCol (k / 64) (k % 64) { s.colOf (k / 64) (k % 64) with slice := { x with tickets := r } } with
        accepted := s.accepted ++ [.access p o n line] }
    else s
  | _ => s

/-- The tickets that the slices serve in a cycle. -/
def State.admitTickets (s : State) : State :=
  (s.columns.filter fun c => c.2.slice.tickets ≠ []).foldl (fun s c => s.acceptHead c.1 c.2.slice) s

/-- Whether a request reaches LD h and its home slice now: lost, waiting, or on its way (R330, R377). -/
def State.reach (s : State) (ag : Agent) (h line : Nat) : Except Lost Unit :=
  if s.unreachable ag.ld h then .error (.unreach (s.edgeLost ag.ld h))
  else if s.linkWaits ag.ld h line then .error .link
  else if s.ticketWaits ag line then .error .ticket
  else .ok ()

/-- The port that takes a request beyond the package, reached from the agent's LD (R377, R379). -/
def State.egress (s : State) (ag : Agent) (k : PaKind) (line : Nat) : Except Lost Nat :=
  match s.portFor ag line k with
  | .error e => .error e
  | .ok p =>
    if s.unreachable ag.ld (portLd p) then .error (.unreach (s.edgeLost ag.ld (portLd p)))
    else if s.linkWaits ag.ld (portLd p) line then .error .link
    else .ok p

/-! Reads and writes. -/

/-- Read n bytes at a location (R328, R334, R335, R377). Reads outside the package return free values; the port has sent what it held
before (R276). -/
def State.readLoc (s : State) (ag : Agent) (l : Loc) (n : Nat) : State × Except Lost Nat :=
  match paKind s.vxpkg.toNat l.pa with
  | .mem h =>
    match s.reach ag h (l.pa / 64) with
    | .error e => (s, .error e)
    | .ok _ =>
      let s0 := (s.accept ag (l.pa / 64)).serve ag.owner l.pa
      if s0.bad (l.pa / 64) then (s0.markBad (l.pa / 64), .error .poison) else (s0, .ok (s0.peek l.pa n))
  | .ctrl h off =>
    match s.reach { ag with port := none } h (l.pa / 64) with
    | .error e => (s, .error e)
    | .ok _ => (s, .ok ((s.ctrlRead h off).getD 0).toNat)
  | k =>
    match s.egress ag k (l.pa / 64) with
    | .error e => (s, .error e)
    | .ok p =>
      if (s.portOf p).state = .training then (s, .error (.hold p))
      else
        let s1 := s.sendHeld p
        ({ s1 with fresh := s1.fresh + n }, .ok (ofBytes ((List.range n).map fun i => Config.outsideByte (s1.fresh + i))))

/-- A store of all 64 bytes clears the poison of a line (R335). -/
def State.clearPoison (line : Nat) (s : State) : State :=
  let s1 := { s with poison := s.poison.filter (· ≠ line) }
  if s1.poisoned line then { s1 with healed := line :: s1.healed } else s1

/-- Write bytes at a location (R325, R328, R335, R336, R377, R382). `full`: the request covers its whole line. A write beyond the
package stands at its port until the port sends it (R380). -/
def State.writeLoc (s : State) (ag : Agent) (l : Loc) (bs : List Byte) (full : Bool) : State × Except Lost Unit :=
  match paKind s.vxpkg.toNat l.pa with
  | .mem h =>
    match s.reach ag h (l.pa / 64) with
    | .error e => (s, .error e)
    | .ok _ =>
      let s0 := s.accept ag (l.pa / 64)
      if s0.poisoned (l.pa / 64) ∧ ¬ full then (s0, .error .poison)
      else if s0.dead (l.pa / 64) then (s0, .ok ())
      else
        let s1 := ((s0.evictHart l.pa).poke l.pa bs).clearFlips l.pa bs.length
        (if full then s1.clearPoison (l.pa / 64) else s1, .ok ())
  | .ctrl h off =>
    match s.reach { ag with port := none } h (l.pa / 64) with
    | .error e => (s, .error e)
    | .ok _ => (s.ctrlWrite ag.waiter h off (BitVec.ofNat 64 (ofBytes bs)), .ok ())
  | k =>
    match s.egress ag k (l.pa / 64) with
    | .error e => (s, .error e)
    | .ok p =>
      ({ s.setPort p { s.portOf p with held := (s.portOf p).held ++ [⟨s.nextOp, ag.owner, ag.order, l, bs, ag.scope, ag.port⟩] } with
          nextOp := s.nextOp + 1 }, .ok ())

/-- The store of an atomic (R308): beyond the package it leaves with the read, by the port that performs both. -/
def State.writeAtomic (s : State) (ag : Agent) (l : Loc) (bs : List Byte) : State :=
  let (s1, r) := s.writeLoc ag l bs false
  match r, s1.behind ag (l.pa / 64) with
  | .ok _, some p => if l.pa < 2 ^ 40 then s1 else s1.sendHeld p
  | _, _ => s1

/-- A write in memory takes effect: it reaches its home, and no poison or failed channel drops it (R335, R336, R357). -/
def State.applied (s : State) (ag : Agent) (l : Loc) (bs : List Byte) : Bool :=
  l.pa < 2 ^ 40 && ¬ s.dead (l.pa / 64) && (match (s.writeLoc ag l bs false).2 with | .ok _ => true | .error _ => false)

/-! The copies that caches hold. -/

/-- Lines that a cache holds: 16 MiB in a slice, 64 KiB in an L1, eight write buffers (R20, R28, R321). -/
def copyPlaces (holder : Nat) : Nat := if holder = 0 then 262144 else if holder < 9 then 1024 else 8

/-- Two copies are held by one cache. -/
def Copy.sameCache (c d : Copy) : Bool := c.ld = d.ld && c.col = d.col && c.holder = d.holder

/-- The last copy that p names is removed. -/
def dropLast (p : Copy → Bool) (cs : List Copy) : List Copy :=
  let r := cs.reverse
  (r.takeWhile (fun c => ¬ p c) ++ (r.dropWhile fun c => ¬ p c).drop 1).reverse

/-- Room for a new copy (R323): a full cache drops the oldest of its copies with the lowest retention. The cache is modelled as one
set. DESIGN CHOICE, assumption 62. -/
def makeRoom (c : Copy) (cs : List Copy) : List Copy :=
  let mine := cs.filter c.sameCache
  if mine.length < copyPlaces c.holder then cs
  else
    let low := mine.foldl (fun m x => min m x.keep.toNat) 3
    dropLast (fun x => c.sameCache x && x.keep.toNat = low) cs

/-- A holder of a line has some words of it (R322, R324). A line kept at the highest retention takes at most half a cache (R323). -/
def State.addCopy (c : Copy) (s : State) : State :=
  let others := s.copies.filter fun x => ¬ (c.sameCache x ∧ x.line = c.line)
  let old := (s.copies.find? fun x => c.sameCache x ∧ x.line = c.line).map Copy.words
  let high := others.countP fun x => c.sameCache x && x.keep = 2
  let keep := if c.keep = 2 ∧ copyPlaces c.holder / 2 ≤ high then 1 else c.keep
  { s with copies := { c with words := c.words ||| old.getD 0, keep := keep } :: makeRoom c others }

/-- A holder has every word of a mask: a load of them hits (R322). -/
def State.hits (s : State) (line : Nat) (ld : BitVec 2) (col : BitVec 6) (holder : Nat) (words : BitVec 16) : Bool :=
  s.copies.any fun c => c.line = line && c.ld = ld && c.col = col && c.holder = holder && c.words &&& words = words

/-- What a load request for a line allocates under its policy (R322, R323): `touched` are the words that its lanes read, `words` its
effective span. Only the slice tells retain from default. -/
def State.allocate (p : Place) (l : Loc) (touched words : BitVec 16) (policy : Nat) (s : State) : State :=
  let line := l.pa / 64
  if l.nc ∨ 2 ^ 40 ≤ l.pa ∨ s.hits line p.ld p.col (1 + p.core.toNat) touched then s
  else
    let s1 := if policy = 2 then s
      else s.addCopy ⟨line, p.ld, p.col, 1 + p.core.toNat, words, if policy = 1 then 0 else 1⟩
    let home := l.pa / 2 ^ 38 = p.ld.toNat ∧ s.homeCol line = p.col.toNat
    if policy = 1 ∨ home ∨ s.hits line p.ld p.col 0 touched then s1
    else s1.addCopy ⟨line, p.ld, p.col, 0, words, if policy = 3 then 2 else 1⟩

/-- The words of its line that n bytes at an address cover. -/
def wordsOf (pa n : Nat) : BitVec 16 :=
  BitVec.ofNat 16 ((2 ^ ((pa % 64 + n + 3) / 4) - 1) / 2 ^ (pa % 64 / 4) * 2 ^ (pa % 64 / 4))

/-- The words of a line that reads of n bytes touch. -/
def touchedWords (n line : Nat) (ls : List Loc) : BitVec 16 :=
  ls.foldl (fun m l => if l.pa / 64 = line then m ||| wordsOf l.pa n else m) 0

/-- The requests of an instruction that reads n bytes at each of some locations (R322): one for each line, whose effective span is the
words that its lanes touch, ORed with the CP span. -/
def State.fill (p : Place) (n span policy : Nat) (ls : List Loc) (s : State) : State :=
  let step := fun (x : State × List Nat) (l : Loc) =>
    if x.2.contains (l.pa / 64) then x
    else
      let t := touchedWords n (l.pa / 64) ls
      (x.1.allocate p l t (BitVec.ofNat 16 span ||| t) policy, l.pa / 64 :: x.2)
  (ls.foldl step (s, [])).1

/-- A weak store passes through the write buffers of its core (R321). -/
def State.buffer (l : Loc) (n : Nat) (s : State) : State :=
  if l.nc ∨ 2 ^ 40 ≤ l.pa then s
  else s.addCopy ⟨l.pa / 64, s.w.place.ld, s.w.place.col, 9 + s.w.place.core.toNat, wordsOf l.pa n, 1⟩

/-- The write buffers of a core drain. -/
def State.drain (p : Place) (s : State) : State :=
  { s with copies := s.copies.filter fun c => ¬ (c.ld = p.ld ∧ c.col = p.col ∧ c.holder = 9 + p.core.toNat) }

/-! The running warp. -/

/-- The running warp as an agent, with the scope of a strong access. -/
def State.me (s : State) (scope : Option (BitVec 3)) : Agent :=
  ⟨s.w.place.ld.toNat, s.owner, some (.core s.w.place.ld s.w.place.col s.w.place.core), scope, s.w.issued⟩

/-- The copy engine of its cluster, for an operation of the running warp. -/
def State.engine (s : State) (op : Nat) : Agent := ⟨s.w.place.ld.toNat, .op op, some (.copyEngine (clusterAt s.w.place)), none, op⟩

/-- Why a request waits, if that is why it does not take place: for a link or port in training (true), or for its slice. -/
def Lost.waits : Lost → Option Bool
  | .hold _ => some true
  | .link => some true
  | .ticket => some false
  | _ => none

/-! Column harts, whose accesses are strong at system scope (R271) and act for the hart's stall (R435). -/

/-- A hart that runs: its column is exposed, and its part of the base die is in service (R21, R440, R442). -/
def State.hartUp (s : State) (h : HartId) : Bool :=
  h.col.toNat < 48 && (s.ldOf h.ld.toNat).homes.getLsbD h.col.toNat && ¬ (s.colOf h.ld.toNat h.col.toNat).hartLost
    && ¬ (s.ldOf h.ld.toNat).baseReset

def Agent.hart (h : HartId) : Agent := ⟨h.ld.toNat, .device, some (.hart h), some 6, 0⟩

/-- A physical address as a hart names it. -/
def State.hartLoc (s : State) (h : HartId) (pa : Nat) : Loc :=
  ⟨pa, false, h.ld.toNat, (s.colOf h.ld.toNat h.col.toNat).vxstall.toNat⟩

/-- A hart takes an exception that this document names; the rest of its entry is RISC-V's. -/
def State.hartExc (h : HartId) (c : HartCause) (s : State) : State :=
  s.setCol h.ld.toNat h.col.toNat { s.colOf h.ld.toNat h.col.toNat with exc := some c }

/-- What a hart has read. -/
def State.hartGot (h : HartId) (bs : List Byte) (s : State) : State :=
  s.setCol h.ld.toNat h.col.toNat { s.colOf h.ld.toNat h.col.toNat with got := bs }

/-! The running warp's marks. -/

/-- MSTAT bits are set in the running warp (R316). -/
def State.setMstat (b : BitVec 4) (s : State) : State := { s with w := { s.w with mstat := s.w.mstat ||| b } }

/-- An asynchronous report of the running warp for the unit it executes: a cause that several lanes raise is one report, of the
lowest of them (R198). -/
def State.reportNow (c : BitVec 8) (v : DWord) (s : State) : State :=
  if s.w.reports.any fun r => r.cause = c ∧ r.order = s.w.issued then s else { s with w := s.w.report c v s.w.issued }

/-- The lower of two ports. -/
def lowerPort (old : Option Nat) (n : Nat) : Option Nat := some (match old with | some m => min m n | none => n)

/-- A store of the running warp was lost at a port (R382, R383). -/
def State.loseAt (n : Nat) (s : State) : State := { s with w := { s.w with lostPort := lowerPort s.w.lostPort n } }

/-- A load of the running warp was lost at a port. -/
def Lost.note (e : Lost) (s : State) : State :=
  match e with
  | .port n => { s with w := { s.w with lostLoad := lowerPort s.w.lostLoad n } }
  | _ => s

/-- The same of an atomic, which is a load and a store (R271). -/
def Lost.noteBoth (e : Lost) (s : State) : State :=
  match e with
  | .port n => (e.note s).loseAt n
  | _ => s

/-- The drop register of a store that was not performed counts it, up to its largest value (R377, R382). -/
def State.countDrop (ld : Nat) (e : Lost) (s : State) : State :=
  match e with
  | .unreach true =>
    let d := s.ldOf ld
    s.setLd ld { d with edgedrop := if d.edgedrop = BitVec.allOnes 64 then d.edgedrop else d.edgedrop + 1 }
  | .port _ => { s with vxualdrop := if s.vxualdrop = BitVec.allOnes 64 then s.vxualdrop else s.vxualdrop + 1 }
  | _ => s

/-- A store of the running warp that was not performed: the drop is marked and counted (R335, R377, R382). -/
def State.dropStore (va : DWord) (l : Loc) (e : Lost) (s : State) : State :=
  let s1 := (s.setMstat 2).countDrop s.w.place.ld.toNat e
  match e with
  | .port n => s1.loseAt n
  | .poison => (s1.reportNow 0x06 va).consumePoison l
  | _ => s1

/-- A stall's fault ring can be used (R354): its record translates, and its control line is online and not poisoned. -/
def State.ringUsable (s : State) (ld stall : Nat) : Bool :=
  match s.stallRec ld stall with
  | none => false
  | some r => s.online (bitsOf r.2.2.1 12 44 * 4096) && ¬ s.bad (bitsOf r.2.2.1 12 44 * 64)

/-- The device reads a stall's record and the control line of its fault ring (R343, R356). -/
def State.readRing (ld stall : Nat) (s : State) : State :=
  let s1 := s.readRec ld stall
  match s1.stallRec ld stall with
  | none => s1
  | some r =>
    let b := bitsOf r.2.2.1 12 44 * 4096
    if s1.online b then (s1.devRead ld stall b 64).1 else s1

/-- The running warp meets a page fault (R354 to R356): it parks and its entry is held for the ring, or it takes trap 0x05
when the ring cannot be used. -/
def State.faultPark (va : DWord) (acc : Access) (stage : BitVec 2) (gpa : Nat) (lanes : Mask) (s : State) : State :=
  let ld := s.w.place.ld.toNat
  let stall := s.stallOf s.w
  let s1 := s.readRing ld stall
  if s1.ringUsable ld stall then
    (s1.setLd ld { s1.ldOf ld with heldFaults := (s1.ldOf ld).heldFaults ++ [⟨s.w.place, stall⟩] }).parkAt
      (.fault ⟨none, acc, stage, va, BitVec.ofNat 59 gpa, lanes, none⟩)
  else s1.trap 0x05 va

/-- A page fault of the lanes of a unit: those are left for its next execution (R268). Partial results of the unit are in s. -/
def State.pageFault (va : DWord) (acc : Access) (stage : BitVec 2) (gpa : Nat) (lanes : Mask) (s : State) : State :=
  ({ s with w := s.w.setLeft lanes }).faultPark va acc stage gpa lanes

/-- What the translation step of R294 finds for one address. -/
inductive Found1
  | loc (l : Loc) | fault | page (stage : BitVec 2) (gpa : Nat)
deriving DecidableEq, Repr

/-- Translate and check one access of n bytes. -/
def State.locate (s : State) (va : DWord) (n : Nat) (acc : Access) (ctrl : Bool) : State × Found1 :=
  match s.xlate va acc with
  | (s1, .ok l) => (s1, if s1.locOk l.pa n ctrl then .loc l else .fault)
  | (s1, .error (.page st g)) => (s1, .page st g)
  | (s1, .error _) => (s1, .fault)

/-- Translate a list of accesses (tag, address) in order. -/
def State.locateAll (acc : Access) (n : Nat) (ctrl : Bool) : List (Nat × DWord) → State → State × List (Nat × DWord × Found1)
  | [], s => (s, [])
  | (t, va) :: r, s =>
    let (s1, f) := s.locate va n acc ctrl
    let (s2, fs) := State.locateAll acc n ctrl r s1
    (s2, (t, va, f) :: fs)

/-- The ERR bits of a failure that an asynchronous operation meets after issue (R298, R335, R353, R377). -/
def errFault : BitVec 3 := 4
def errUnreach : BitVec 3 := 2
def errPeer : BitVec 3 := 1

def XFault.err : XFault → BitVec 3
  | .peerDown => errUnreach
  | _ => errFault
def Lost.err : Lost → BitVec 3
  | .poison => errFault
  | _ => errUnreach

/-- What the translation step of a split-phase load or gather finds (R294, R353): the first access fault, or the page faults and
where the other lanes read. A failure that R353 places after issue is such a place. -/
def State.locateIssue (n : Nat) (acc : Access) : List (Nat × DWord) → State →
    State × Option DWord × List (Nat × DWord × BitVec 2 × Nat) × List (Nat × Aim)
  | [], s => (s, none, [], [])
  | (t, va) :: r, s =>
    let go := fun (s1 : State) (p : Option (BitVec 2 × Nat)) (aim : Option Aim) =>
      let (s2, f, ps, as) := State.locateIssue n acc r s1
      (s2, f, (p.map fun x => (t, va, x.1, x.2)).toList ++ ps, (aim.map fun a => (t, a)).toList ++ as)
    match s.xlate va acc with
    | (s1, .error .access) => (s1, some va, [], [])
    | (s1, .error (.page st g)) => go s1 (some (st, g)) none
    | (s1, .error e) => go s1 none (some (.lost e.err va))
    | (s1, .ok l) =>
      if s1.locOk l.pa n false then go s1 none (some (.at_ l))
      else if inPeer va.toNat then go s1 none (some (.lost errFault va))
      else (s1, some va, [], [])

/-- The tags, addresses and locations that translated. -/
def located (fs : List (Nat × DWord × Found1)) : List (Nat × DWord × Loc) :=
  fs.filterMap fun | (t, va, .loc l) => some (t, va, l) | _ => none

/-- The tags, addresses and causes that met a page fault. -/
def pagedOut (fs : List (Nat × DWord × Found1)) : List (Nat × DWord × BitVec 2 × Nat) :=
  fs.filterMap fun | (t, va, .page st g) => some (t, va, st, g) | _ => none

/-- The acting lanes of the unit: those not yet complete when the unit executes again after a page fault (R268). -/
def State.actingLanes (s : State) (m : Mask) : Mask := if s.w.unitLeft ≠ 0 then m &&& s.w.unitLeft else m

/-- The lanes of the unit that completed before it executes again. -/
def State.doneLanes (s : State) (m : Mask) : Mask := if s.w.unitLeft ≠ 0 then m &&& ~~~ s.w.unitLeft else 0

/-- The line that a lane of an operation reads, or, for one that has no location, the line of its address, which no location has. -/
def Aim.line : Aim → Nat
  | .at_ l => l.pa / 64
  | .lost _ va => 2 ^ 52 + va.toNat / 64

/-- Request slots that the operations of warps hold (R295): one for each distinct line. -/
def opSlots (o : Op) : Nat :=
  match o.kind with
  | .ldp _ _ left aims _ => if left = 0 then 0 else (aims.map fun a => a.2.line).eraseDups.length
  | .gath _ _ lanes aims _ => if lanes = 0 then 0 else (aims.map fun a => a.2.line).eraseDups.length
  | _ => 0

/-- The writes of the warps that p names which a port has not sent. -/
def State.heldBy (s : State) (p : Owner → Bool) : List HeldWrite := s.ports.flatMap fun x => x.2.held.filter fun h => p h.owner

/-- A warp's own writes at ports; it keeps its identity across placements (R267). -/
def State.ownHeld (s : State) : List HeldWrite := s.heldBy fun o => o = s.owner

/-- A strong store or atomic of the running warp has not been performed: a port holds it, or its acknowledgement is still to come
(R288, R338, R380). A release waits for it (R279). -/
def State.strongHeld (s : State) : Bool :=
  s.ownHeld.any (fun h => h.scope.isSome) || s.waits.any fun x => x.who = .warp s.owner

/-- A port in training holds a write of the running warp: what waits for it waits for a retraining link (R316, R381). -/
def State.heldTraining (s : State) : Bool :=
  s.ports.any fun p => p.2.state = .training && p.2.held.any fun h => h.owner = s.owner

/-- The writes at ports that came from the core of a place. -/
def State.coreHeld (s : State) (p : Place) : List HeldWrite :=
  s.ports.flatMap fun x => x.2.held.filter fun h => h.sender = some (.core p.ld p.col p.core)

/-- Request slots that stores which ports hold take (R295): each instruction one for each of its lines. -/
def storeSlots (hs : List HeldWrite) : Nat := (hs.map fun h => (h.owner, h.order, h.loc.pa / 64)).eraseDups.length

/-- The slots that a unit needs are free to its warp (R295). -/
def State.slotsFree (s : State) (needed : Nat) : Bool :=
  let mine := ((s.ops.filter fun o => o.place = s.w.place).map opSlots).sum + storeSlots s.ownHeld
  let core := ((s.ops.filter fun o => sameCore o.place s.w.place).map opSlots).sum + storeSlots (s.coreHeld s.w.place)
  mine + needed ≤ 1024 && core + needed ≤ 2048

/-- Fewer than 64 tagged sends of the running warp stand unacknowledged (R317): those are its strong writes at ports, and stores that
wait for an acknowledgement (R338). -/
def State.sendsFree (s : State) : Bool :=
  s.ownHeld.countP (fun h => h.scope.isSome) + s.waits.countP (fun x => x.who = .warp s.owner) < 64

/-- The free request slots that a stack spill or fill waits for (R295): it is no memory instruction of R407. -/
def State.slotsReady (s : State) (needed : Nat) : Except Stop Unit := ready (s.slotsFree needed) s

/-- Before a memory instruction issues: no full report list (R407), and free request slots (R295). -/
def State.memReady (s : State) (needed : Nat) : Except Stop Unit := do
  ready (¬ reportsFull s.w) s
  s.slotsReady needed

/-- Tagged sends of the running warp with their results: each takes the next tag, and the last 64 are kept (R317). -/
def State.send (results : List Nat) (s : State) : State :=
  { s with w := results.foldl (fun w r =>
      { w with tag := w.tag + 1, sent := (w.sent ++ [(w.tag, BitVec.ofNat 64 r)]).drop (w.sent.length - 63) }) s.w }

/-- Why a request of the agent waits now, if it does: for a retraining module or port (true), or for its ticket. -/
def State.waitsFor (s : State) (ag : Agent) (write : Bool) (l : Loc) : Option Bool :=
  let wait := fun {α : Type} (e : Except Lost α) => match e with | .error x => x.waits | .ok _ => none
  match paKind s.vxpkg.toNat l.pa with
  | .mem h => wait (s.reach ag h (l.pa / 64))
  | .ctrl h _ => wait (s.reach { ag with port := none } h (l.pa / 64))
  | k =>
    match s.egress ag k (l.pa / 64) with
    | .ok p => if ¬ write ∧ (s.portOf p).state = .training then some true else none
    | e => wait e

/-- The requests of the agent that wait now, each with whether it waits for a retraining module or port. -/
def State.waiting (s : State) (ag : Agent) (write : Bool) (ls : List Loc) : List (Bool × Loc) :=
  ls.filterMap fun l => (s.waitsFor ag write l).map fun t => (t, l)

/-- Those that wait for their slices are refused (R330). -/
def State.refuseAll (ag : Agent) (ws : List (Bool × Loc)) (s : State) : State :=
  (ws.filter fun x => ¬ x.1).foldl (fun s x => s.refused ag (x.2.pa / 64)) s

/-- A synchronous unit is held before its first access while any of its requests would wait (R330, R377, R381); a wait for a
retraining link marks RETRAIN (R316), and every refusal draws a ticket. -/
def State.linkReady (s : State) (ag : Agent) (write : Bool) (ls : List Loc) : Except Stop Unit :=
  let ws := s.waiting ag write ls
  if ws = [] then .ok ()
  else .error (.enter ((if ws.any Prod.fst then s.setMstat 4 else s).refuseAll ag ws).retry)

/-- Distinct lines of a list of addresses. -/
def linesOf (as : List (Nat × DWord)) : Nat := (as.map fun a => a.2.toNat / 64).eraseDups.length

/-- The checks of R294 on the acting lanes: alignment, then translation, where a location that `bad` names counts as an
access fault; the first cause is raised. What translated and what met a page fault go on. -/
def State.memCheckBy (bad : Loc → Bool) (s : State) (as : List (Nat × DWord)) (n : Nat) (acc : Access) (ctrl : Bool) :
    Except Stop (State × List (Nat × DWord × Found1)) :=
  match as.find? fun a => a.2.toNat % n ≠ 0 with
  | some a => .error (.trap 0x04 a.2)
  | none =>
    let (s1, fs) := State.locateAll acc n ctrl as s
    match fs.find? fun f => match f.2.2 with | .fault => true | .loc l => bad l | .page _ _ => false with
    | some f => .error (.enter (s1.trap 0x06 f.2.1))
    | none => .ok (s1, fs)

def State.memCheck (s : State) (as : List (Nat × DWord)) (n : Nat) (acc : Access) (ctrl : Bool) :
    Except Stop (State × List (Nat × DWord × Found1)) := s.memCheckBy (fun _ => false) as n acc ctrl

/-- Stop the unit at a poisoned line that it reads: the stall of the page ends, then the trap (R335, R439). -/
def State.poisonTrap (s : State) (va : DWord) (l : Loc) : Stop := .enter ((s.consumePoison l).trap 0x06 va)

/-- The trap of the lowest lane whose line gives no data: it comes before anything that the unit does (R14, R335). -/
def State.badLane (s : State) (ag : Agent) (n : Nat) (ls : List (Nat × DWord × Loc)) : Except Stop Unit :=
  match ls.findSome? fun x =>
    if x.2.2.pa < 2 ^ 40 then
      match s.readLoc ag x.2.2 n with
      | (s1, .error .poison) => some (s1.poisonTrap x.2.1 x.2.2)
      | _ => none
    else none with
  | some e => .error e
  | none => .ok ()

/-- Perform the reads of a synchronous load: tag and value of each, and the locations that were read; an unreachable home gives 0 and
a report (R377). -/
def State.readAll (ag : Agent) (n : Nat) : List (Nat × DWord × Loc) → State → Except Stop (State × List (Nat × Nat) × List Loc)
  | [], s => .ok (s, [], [])
  | (t, va, l) :: r, s =>
    match s.readLoc ag l n with
    | (s1, .ok x) => do
      let (s2, xs, ls) ← State.readAll ag n r s1
      .ok (s2, (t, x) :: xs, l :: ls)
    | (s1, .error .poison) => .error (s1.poisonTrap va l)
    | (s1, .error e) => do
      let (s2, xs, ls) ← State.readAll ag n r (e.note (s1.reportNow 0x06 va))
      .ok (s2, (t, 0) :: xs, ls)

/-- The reads of the running warp, once none of them waits and none meets a line without data; what they bring into the caches. -/
def State.loadAll (s : State) (scope : Option (BitVec 3)) (n : Nat) (ls : List (Nat × DWord × Loc)) :
    Except Stop (State × List (Nat × Nat)) := do
  s.linkReady (s.me scope) false (ls.map fun x => x.2.2)
  s.badLane (s.me scope) n ls
  let (s1, xs, got) ← State.readAll (s.me scope) n ls s
  let s2 := s1.fill s.w.place n s.w.cp.1 s.w.cp.2 got
  .ok (if scope.isSome then s2.send (xs.map Prod.snd) else s2, xs)

/-- The lines that a list of writes covers whole (R335). -/
def fullLines (ws : List (Loc × List Byte)) : List Nat :=
  let ls := (ws.map fun w => w.1.pa / 64).eraseDups
  ls.filter fun l => (List.range 64).all fun i => ws.any fun w => w.1.pa ≤ 64 * l + i && 64 * l + i < w.1.pa + w.2.length

/-- Perform the writes of a synchronous store in ascending order of lanes; a dropped request counts once for each line (R377).
DESIGN CHOICE: lanes that write different bytes beyond the package leave in that order, which R268 does not fix. Assumption 63. -/
def State.writeAll (ag : Agent) (full : List Nat) : List Nat → List (DWord × Loc × List Byte) → State → State
  | _, [], s => s
  | gone, (va, l, bs) :: r, s =>
    match s.writeLoc ag l bs (full.contains (l.pa / 64)) with
    | (s1, .ok _) => State.writeAll ag full gone r (if ag.scope.isNone then s1.buffer l bs.length else s1)
    | (s1, .error e) =>
      if gone.contains (l.pa / 64) then State.writeAll ag full gone r s1
      else State.writeAll ag full (l.pa / 64 :: gone) r (s1.dropStore va l e)

/-- The stretches of a list of bytes that are kept, each with its offset. -/
def keptRuns : List (Byte × Bool) → Nat → List (Nat × List Byte)
  | [], _ => []
  | (_, false) :: r, i => keptRuns r (i + 1)
  | (b, true) :: r, i =>
    match keptRuns r (i + 1) with
    | (j, bs) :: rest => if j = i + 1 then (i, b :: bs) :: rest else (i, [b]) :: (j, bs) :: rest
    | [] => [(i, [b])]

/-- The bytes of lane t's write that no higher lane of the instruction also writes (R269): `others` are the lanes, addresses and
lengths of such writes. -/
def trimWrite (others : List (Nat × Nat × Nat)) (t : Nat) (w : DWord × Loc × List Byte) : List (DWord × Loc × List Byte) :=
  let hidden := fun (i : Nat) => others.any fun o => t < o.1 && o.2.1 ≤ w.2.1.pa + i && w.2.1.pa + i < o.2.1 + o.2.2
  let marked := w.2.2.zipIdx.map fun b => (b.1, !hidden b.2)
  if marked.all Prod.snd then [w]
  else (keptRuns marked 0).map fun r => (w.1, { w.2.1 with pa := w.2.1.pa + r.1 }, r.2)

/-- The writes of a store whose lanes `done` completed at an earlier execution (R262, R268, R269): a byte that a higher lane wrote
then stays, and of the lanes that write one byte beyond the package only the highest sends it. -/
def trimAll (done : List (Nat × Nat × Nat)) (ws : List (Nat × DWord × Loc × List Byte)) : List (DWord × Loc × List Byte) :=
  let now := (ws.filter fun w => 2 ^ 40 ≤ w.2.2.1.pa).map fun w => (w.1, w.2.2.1.pa, w.2.2.2.length)
  if done = [] ∧ now = [] then ws.map Prod.snd
  else ws.flatMap fun w => trimWrite (done ++ if 2 ^ 40 ≤ w.2.2.1.pa then now else []) w.1 w.2

/-- Where the completed lanes of a store wrote. -/
def State.doneRanges (s : State) (as : List (Nat × DWord)) (n : Nat) : List (Nat × Nat × Nat) :=
  as.filterMap fun a => match (s.xlate a.2 .write).2 with | .ok l => some (a.1, l.pa, n) | .error _ => none

/-- A scope of column or narrower. -/
def narrow (scope : Option (BitVec 3)) : Bool := scope.any fun c => c.toNat ≤ 3

/-- A strong store of a narrow scope follows the warp's earlier ones (R277): ports that are up send those that they hold, and those in
training hold the unit. -/
def State.narrowReady (s : State) (scope : Option (BitVec 3)) : Except Stop State :=
  let ps := (s.ports.filter fun x => x.2.held.any fun h => h.owner = s.owner && narrow h.scope).map Prod.fst
  if ¬ narrow scope then .ok s
  else if ps.any fun n => (s.portOf n).state = .training then .error (.enter (s.setMstat 4).retry)
  else .ok (ps.foldl State.sendHeld s)

/-- The writes of the running warp, once none of them waits. -/
def State.storeAll (s : State) (scope : Option (BitVec 3)) (done : List (Nat × Nat × Nat))
    (ws : List (Nat × DWord × Loc × List Byte)) : Except Stop State := do
  s.linkReady (s.me scope) true (ws.map fun x => x.2.2.1)
  let s0 ← s.narrowReady scope
  let s1 := State.writeAll (s.me scope) (fullLines (ws.map fun x => x.2.2)) [] (trimAll done ws) s0
  .ok (if scope.isSome then s1.send (ws.map fun _ => 0) else s1)

/-- After the performed part of a unit: end it with its results, or park it at the lowest lane that met a page fault, with
the results of the lanes that are complete (R294 step 2, R268). -/
def State.memFinish (s : State) (acc : Access) (faults : List (Nat × DWord × BitVec 2 × Nat)) (e : Eff) : Except Stop Eff :=
  match faults with
  | [] => .ok e
  | (_, va, st, g) :: _ =>
    let w := e.s.w.hold.apply e.writes
    .error (.enter (({ e.s with w := { w with pc := s.w.pc, hints := s.w.hints } }).pageFault va acc st g
      (maskOf fun l => faults.any fun f => f.1 = l)))

/-- One scalar access (R118, R297): alignment, translation, performance. -/
def State.scalarRead (s : State) (va : DWord) (n : Nat) (scope : Option (BitVec 3)) (ctrl : Bool) : Except Stop (State × Nat) := do
  s.memReady 1
  let (s1, fs) ← s.memCheck [(0, va)] n .read ctrl
  match pagedOut fs with
  | (_, _, st, g) :: _ => .error (.enter (s1.pageFault va .read st g 0))
  | [] =>
    let (s2, xs) ← s1.loadAll scope n (located fs)
    .ok (s2, (xs.map Prod.snd).headD 0)

/-- One scalar store, and whether it was performed. -/
def State.scalarWrite (s : State) (va : DWord) (n v : Nat) (scope : Option (BitVec 3)) (ctrl : Bool) : Except Stop State := do
  s.memReady 1
  let (s1, fs) ← s.memCheck [(0, va)] n .write ctrl
  match pagedOut fs with
  | (_, _, st, g) :: _ => .error (.enter (s1.pageFault va .write st g 0))
  | [] => s1.storeAll scope [] ((located fs).map fun f => (f.1, f.2.1, f.2.2, bytesOf n v))

end Sys2Proof.Machine
end

