-- ==== Sys2Proof/Machine/Faults.lean ====
section
/-! DEFINITION. The fault ring (R355, R356) and resume commands (R357, R358). -/

namespace Sys2Proof.Machine

/-- Base and LOG of a stall's fault ring. -/
def State.ring (s : State) (ld stall : Nat) : Option (Nat × Nat) :=
  (s.stallRec ld stall).map fun r => (bitsOf r.2.2.1 12 44 * 4096, bitsOf r.2.2.1 0 4)

/-- The ring whose doubleword at an offset lies at a physical address: only stalls that system software has set up. -/
def State.ringAt (s : State) (pa off : Nat) : Option (Nat × Nat) :=
  let ld := pa / 2 ^ 38
  let tab := (s.ldOf ld).stalltab.toNat
  let stalls := s.mem.filterMap fun c =>
    if tab ≤ c.1 ∧ c.1 < tab + 65536 ∧ (c.1 - tab) % 64 = 32 then some ((c.1 - tab) / 64) else none
  (stalls.find? fun st => match s.ring ld st with | some (b, _) => b + off = pa | none => false).map fun st => (ld, st)

/-- The first doubleword of a fault entry (R356). -/
def faultWord (fnum : BitVec 16) (i : FaultInfo) (stall : Nat) (p : Place) : Nat :=
  let acc := match i.acc with | .read => 0 | .write => 1 | .rw => 2 | .exec => 3
  fnum.toNat * 2 ^ 48 + acc * 2 ^ 46 + i.stage.toNat * 2 ^ 44 + stall * 2 ^ 34 + p.col.toNat * 2 ^ 7 + p.core.toNat * 2 ^ 4
    + p.slot.toNat

/-- The fault that a warp is parked at. -/
def Warp.faultInfo (w : Warp) : Option FaultInfo :=
  match w.park with
  | .fault i => some i
  | _ => none

/-- The ring of the oldest held entry has room (R356). -/
def State.ringRoom (s : State) (ld stall : Nat) : Bool :=
  match s.ring ld stall with
  | some (b, log) => s.online b && ¬ s.bad (b / 64) && s.homePeek b 8 - s.homePeek (b + 8) 8 < 2 ^ log
  | none => false

/-- The held entry that can be posted now: that of the warp that parked first among the rings with room. -/
def State.postable (s : State) (ld : Nat) : Option HeldFault :=
  (s.ldOf ld).heldFaults.find? fun h => s.ringRoom ld h.stall

/-- The homes of the rings that entries wait for serve the device's reads of them (R328, R334). -/
def State.serveRings (ld : Nat) (s : State) : State :=
  (s.ldOf ld).heldFaults.foldl (fun s h => match s.ring ld h.stall with | some (b, _) => s.serve .device b | none => s) s

/-- Post one held entry: the entry, then PROD (R356). An entry whose warp no longer waits is withdrawn. -/
def State.postFault (ld : Nat) (s0 : State) : State :=
  let s := s0.serveRings ld
  match s.postable ld with
  | none => s
  | some h =>
    let l := s.ldOf ld
    let s1 := s.setLd ld { l with heldFaults := l.heldFaults.filter fun x => x ≠ h }
    match (s.allWarps.find? fun w => w.place = h.place).bind Warp.faultInfo, s.ring ld h.stall with
    | some i, some (b, log) =>
      let n := s.homePeek b 8
      let a := b + 64 + 32 * (n % 2 ^ log)
      let e := bytesOf 8 (faultWord l.fnum i h.stall h.place) ++ bytesOf 8 i.va.toNat ++ bytesOf 8 i.gpa.toNat
        ++ bytesOf 8 i.lanes.toNat
      let s2 := s1.devWrite ld h.stall a e
      let s3 := s2.devWrite ld h.stall b (bytesOf 8 (n + 1))
      let s4 := s3.setLd ld { s3.ldOf ld with fnum := l.fnum + 1 }
      s4.mapWarps fun w =>
        if w.place = h.place then { w with park := .fault { i with fnum := some l.fnum } } else w
    | _, _ => s1

/-- An entry not yet posted is withdrawn when its warp stops waiting (R358). -/
def State.withdraw (p : Place) (s : State) : State :=
  s.setLd p.ld.toNat { s.ldOf p.ld.toNat with
    heldFaults := (s.ldOf p.ld.toNat).heldFaults.filter fun h => h.place ≠ p }

/-- A command does not match (R357): DROPS grows by 1. -/
def State.dropCommand (ld stall : Nat) (s : State) : State :=
  match s.ring ld stall with
  | some (b, _) => s.devWrite ld stall (b + 24) (bytesOf 8 (s.homePeek (b + 24) 8 + 1))
  | none => s

/-- The warp at a place waits at the fault with this FNUM, in this stall (R357), and neither a pre-emption nor another command has
reached it (R358). -/
def State.faultMatches (s : State) (ld stall : Nat) (fnum : BitVec 16) (p : Place) : Bool :=
  s.allWarps.any fun w =>
    w.place = p && p.ld.toNat = ld && s.stallOf w = stall && ¬ (w.preempt && ¬ w.inh) &&
      match w.faultInfo with
      | some i => i.fnum = some fnum && i.cmd.isNone
      | none => false

/-- A command that matches is taken (R357): it takes effect when its cycle ends, unless a pre-emption comes in that cycle (R358). -/
def State.resumeWarp (ld stall : Nat) (abort : Bool) (fnum : BitVec 16) (p : Place) (s : State) : State :=
  if s.faultMatches ld stall fnum p then
    s.mapWarps fun w => if w.place = p then
      { w with park := match w.park with | .fault i => .fault { i with cmd := some abort } | x => x } else w
  else s.dropCommand ld stall

/-- The effect of the command that the running warp has (R357): a retry makes it ready to execute the unit again; an abort is trap 0x05
with TVAL the faulting address. A pre-emption of the same cycle comes first, and the command does not match (R358). -/
def State.obey (s : State) : State :=
  match s.w.park with
  | .fault i =>
    match i.cmd with
    | none => s
    | some abort =>
      if s.w.preempt ∧ ¬ s.w.inh then
        ({ s with w := { s.w with park := .fault { i with cmd := none } } }).dropCommand s.w.place.ld.toNat (s.stallOf s.w)
      else if abort then ({ s with w := { s.w with park := .none } }).trap 0x05 i.va
      else { s with w := { s.w with park := .none } }
  | _ => s

/-- A resume command as it stands in RESUME (R357). -/
def State.command (ld stall : Nat) (v : Nat) (s : State) : State :=
  let p : Place := ⟨BitVec.ofNat 2 ld, BitVec.ofNat 6 (bitsOf v 7 6), BitVec.ofNat 3 (bitsOf v 4 3), BitVec.ofNat 4 (bitsOf v 0 4)⟩
  let fnum := BitVec.ofNat 16 (bitsOf v 48 16)
  if bitsOf v 13 33 ≠ 0 ∨ 2 ≤ bitsOf v 46 2 then s.dropCommand ld stall
  else s.resumeWarp ld stall (bitsOf v 46 2 = 1) fnum p

/-- What an 8-byte strong write of device scope or wider does besides storing: a resume command (R357). -/
def State.strong8 (pa v : Nat) (s : State) : State :=
  match s.ringAt pa 16 with
  | some (ld, st) => s.command ld st v
  | none => s

end Sys2Proof.Machine
end

