-- ==== Sys2Proof/Machine/Stack.lean ====
section
/-! DEFINITION. The reconvergence stack (R183 to R201): push, pop, fair swap, and the spill area behind the 32 entries held on
chip. -/

namespace Sys2Proof.Machine

/-- The 32 bytes of an entry (R199, Table 8). -/
def Entry.bytes (e : Entry) : List Byte :=
  bytesOf 8 e.mask.toNat ++ bytesOf 8 e.fm.toNat ++ bytesOf 8 (e.pc.toNat + e.k.toNat * 2 ^ 48) ++ bytesOf 8 e.rpc.toNat

/-- The entry that 32 bytes hold; bits marked 0 are ignored (R201). -/
def entryOf (x : Nat) : Entry :=
  ⟨BitVec.ofNat 48 (bitsOf x 128 48), BitVec.ofNat 64 x, BitVec.ofNat 48 (bitsOf x 192 48), BitVec.ofNat 19 (bitsOf x 64 19),
    x.testBit 176⟩

/-- Entries held in memory (R191). -/
def Warp.spilled (w : Warp) : Nat := w.depth - 32

/-- Address of entry i in the spill area (R191). -/
def Warp.spillAddr (w : Warp) (i : Nat) : DWord := w.spill.zeroExtend 64 + BitVec.ofNat 64 (32 * i)

/-- Weak 32-byte writes of the warp, each at its address; nothing is written unless every address translates. They take a request
slot for each line (R295). -/
def State.write32 (s : State) (xs : List (DWord × List Byte)) : Except Stop State := do
  if xs.isEmpty then return s
  let as := xs.zipIdx.map fun x => (x.2, x.1.1)
  s.slotsReady (linesOf as)
  let (s1, fs) ← s.memCheck as 32 .write false
  match pagedOut fs with
  | (_, va, st, g) :: _ => .error (.enter (s1.pageFault va .write st g 0))
  | [] => s1.storeAll none [] ((located fs).map fun f => (f.1, f.2.1, f.2.2, (xs[f.1]?.map Prod.snd).getD []))

/-- Weak 32-byte reads of the warp. -/
def State.read32 (s : State) (as : List DWord) : Except Stop (State × List Nat) := do
  if as.isEmpty then return (s, [])
  let ts := as.zipIdx.map fun x => (x.2, x.1)
  s.slotsReady (linesOf ts)
  let (s1, fs) ← s.memCheck ts 32 .read false
  match pagedOut fs with
  | (_, va, st, g) :: _ => .error (.enter (s1.pageFault va .read st g 0))
  | [] =>
    let (s2, xs) ← s1.loadAll none 32 (located fs)
    .ok (s2, xs.map Prod.snd)

/-- Raise trap 0x09 when pushing n entries overflows, or spills with STKSPILL 0 (R193). -/
def State.pushCheck (s : State) (n : Nat) : Except Stop Unit :=
  trapIf (1024 < s.w.depth + n ∨ (32 < s.w.depth + n ∧ s.w.spill = 0)) 0x09 (BitVec.ofNat 64 s.w.depth)

/-- Push entries, the first deepest (R186, R191): those that leave the chip are written to the spill area. -/
def State.push (s : State) (es : List Entry) : Except Stop State := do
  s.pushCheck es.length
  let all := es.reverse ++ s.w.stack
  let d := s.w.depth + es.length
  let out := (all.drop 32).reverse
  let s1 ← s.write32 (out.zipIdx.map fun e => (s.w.spillAddr (s.w.spilled + e.2), e.1.bytes))
  .ok { s1 with w := { s1.w with stack := all.take 32, depth := d, pathCount := 0 } }

/-- Pops under way: the state, whose warp they have not yet changed, with the stack and depth that they have reached. A page fault
of a fill leaves the warp as it was (R193). -/
structure Pops where
  s : State
  stack : List Entry
  depth : Nat

/-- Remove the top entry (R187, R191): the entry in memory directly below the chip is read back. -/
def Pops.pop (c : Pops) : Except Stop (Pops × Entry) := do
  let (s1, back) ← c.s.read32 (if 32 < c.depth then [c.s.w.spillAddr (c.depth - 33)] else [])
  .ok (⟨s1, c.stack.drop 1 ++ back.map entryOf, c.depth - 1⟩, c.stack.headD ⟨0, 0, 0, 0, false⟩)

/-- Pop entries until one whose path has lanes among occ, or was pushed with none (R85, R187). -/
def popSkip (occ : Mask) : Nat → Pops → Except Stop (Pops × Entry)
  | 0, c => c.pop
  | fuel + 1, c => do
    let (c1, e) ← c.pop
    if e.mask ≠ 0 ∧ e.mask &&& occ = 0 ∧ c.s.w.dh < c1.depth then popSkip occ fuel c1 else .ok (c1, e)

/-- The path of an entry becomes the current one. -/
def Warp.enter (w : Warp) (e : Entry) : Warp :=
  { (w.setS 56 (e.mask &&& w.occ)).setS 55 (e.fm.zeroExtend 64) with pc := e.pc, crpc := e.rpc, pathCount := 0 }

/-- The pops of R187: a path that stands at its reconvergence PC is popped at once. -/
def popChain (occ : Mask) : Nat → Pops → Except Stop (Pops × Entry)
  | fuel, c => do
    let (c1, e) ← popSkip occ c.depth c
    match fuel with
    | 0 => .ok (c1, e)
    | f + 1 => if c.s.w.dh < c1.depth ∧ e.pc = e.rpc then popChain occ f c1 else .ok (c1, e)

/-- The pop of R187 for lanes occ: the windows have committed before it. -/
def popPath (occ : Mask) (s : State) : Except Stop State := do
  let (c, e) ← popChain occ s.w.depth ⟨s, s.w.stack, s.w.depth⟩
  .ok { c.s with w := ({ c.s.w.commitAll with stack := c.stack, depth := c.depth, occ := occ }).enter e }

/-- The path arrives at its reconvergence PC (R187): the next word lies at CRPC and the depth exceeds Dh. -/
def Warp.arrived (w : Warp) : Bool := w.dh < w.depth && w.pc = w.crpc

/-- State that a stop leads to. -/
def Stop.state (s : State) : Stop → State
  | .trap c v => s.trap c v
  | .enter t => t

def runStop (s : State) : Except Stop State → State
  | .ok t => t
  | .error e => e.state s

/-- A pop or a swap has ended: what the next unit reports is another report (R198). -/
def State.nextEvent (s : State) : State := { s with w := { s.w with issued := s.w.issued + 1 } }

/-- A pop at arrival, an event of its own (R187): a closing event that discards pending hints (R44, R56). -/
def State.popArrival (s : State) : State :=
  let s0 := { s with w := s.w.commitAll.dropHints }
  runStop s0 ((popPath s0.w.occ s0).map State.nextEvent)

/-! Fair swap (R195). Entries are listed from index 0 up. -/

/-- The on-chip entries from index `spilled` up. -/
def Warp.chip (w : Warp) : List Entry := w.stack.reverse

/-- A dead sibling entry (R195). -/
def Entry.dead (e : Entry) (occ : Mask) : Bool := e.k && e.mask ≠ 0 && e.mask &&& occ = 0

/-- What a swap makes of the waiting entries from index Dh up, each with its index: the entry to run, if there is one, and the entries
that stay, in order. -/
def swapList (occ : Mask) (es : List (Entry × Nat)) : Option (Entry × Nat) × List (Entry × Nat) :=
  match es.findIdx? fun e => e.1.k && ¬ e.1.dead occ with
  | none => (none, es.filter fun e => ¬ e.1.dead occ)
  | some i => (es[i]?, (es.take i).filter (fun e => ¬ e.1.dead occ) ++ es.drop (i + 1))

/-- A swap to come: the entry that runs, every entry that then waits, and those to be written to memory, with their indices. -/
structure Swap where
  run : Option Entry
  all : List Entry
  out : List (Nat × Entry)

/-- What a fair swap makes of the stack whose entries in memory are `back` (R195), for a path that goes on at pc: an entry in memory
whose index changes is written at its new place, and so is an entry that leaves the chip. -/
def Warp.swap (w : Warp) (pc : BitVec 48) (back : List Entry) : Swap :=
  let es := (back ++ w.chip).zipIdx
  let (run, rest) := swapList w.occ (es.drop w.dh)
  let cur : Entry := ⟨pc, w.em, w.crpc, w.fm, true⟩
  let all := es.take w.dh ++ rest ++ (if run.isSome then [(cur, w.depth)] else [])
  let low := (all.take (all.length - 32)).zipIdx.filter fun e => e.1.2 ≠ e.2 ∨ w.spilled ≤ e.2
  ⟨run.map Prod.fst, all.map Prod.fst, low.map fun e => (e.2, e.1.1)⟩

/-- Translate 32-byte accesses to entries of the spill area, before any state changes (R193, R195). -/
def State.spillCheck (s : State) (acc : Access) (is : List Nat) : Except Stop (State × List (Nat × DWord × Loc)) := do
  let as := is.map fun i => (i, s.w.spillAddr i)
  s.slotsReady (linesOf as)
  let (s1, fs) ← s.memCheck as 32 acc false
  match pagedOut fs with
  | (_, va, st, g) :: _ => .error (.enter (s1.pageFault va acc st g 0))
  | [] => .ok (s1, located fs)

/-- A fair swap of the running warp (R195), whose path goes on at pc: every address that it reads or writes is translated first. The
windows have committed before it. -/
def State.fairSwap (pc : BitVec 48) (s : State) : Except Stop State := do
  let (s1, rs) ← s.spillCheck .read (List.range s.w.spilled)
  let plan := fun (t : Except Stop (State × List (Nat × Nat))) =>
    s.w.swap pc (match t with | .ok (_, xs) => xs.map fun x => entryOf x.2 | .error _ => [])
  let ahead := plan (s1.loadAll none 32 rs)
  let (s2, ws) ← s1.spillCheck .write (ahead.out.map Prod.fst)
  let (s3, xs) ← s2.loadAll none 32 rs
  let x := plan (.ok (s3, xs))
  let s4 ← s3.storeAll none []
    (ws.filterMap fun w => (x.out.find? fun e => e.1 = w.1).map fun e => (w.1, w.2.1, w.2.2, e.2.bytes))
  let w4 := { s4.w with stack := (x.all.drop (x.all.length - 32)).reverse, depth := x.all.length, pathCount := 0 }
  .ok { s4 with w := match x.run with | some e => w4.enter e | none => { w4 with pc := pc } }

end Sys2Proof.Machine
end

