-- ==== Sys2Proof/Machine/Barriers.lean ====
section
/-! DEFINITION. Barrier words (R219 to R225). -/

namespace Sys2Proof.Machine

/-- Members 0 to n - 1 of a barrier word at placement (R219). -/
def barrierReset (n : Nat) : Barrier := ⟨0, 0, BitVec.ofNat 16 (2 ^ n - 1)⟩

def Group.barrier (g : Group) (b : Nat) : Barrier := g.barriers.get (barrierReset g.warps) b
def Group.setBarrier (g : Group) (b : Nat) (x : Barrier) : Group :=
  { g with barriers := g.barriers.set (barrierReset g.warps) b x }

/-- A warp parked on word b becomes ready when PH differs from its token (R220). A `bar.arw` continues after its unit;
a `bar.wait` executes again and finds the phase complete. A wait of the handler leaves the restored one as it is (R225). -/
def Warp.wake (w : Warp) (b : BitVec 4) (ph : Word) : Warp :=
  match w.park with
  | .barrier c tok => if c = b ∧ tok ≠ ph then { w with park := .none } else w
  | .barrierArw c tok two =>
    if c = b ∧ tok ≠ ph then
      { w with park := .none, pc := w.pc + (if two then 8 else 4), arw := if w.inh then w.arw else none }
    else w
  | _ => w

/-- A barrier word after a change, checked by R220. -/
def Barrier.settle (x : Barrier) : Barrier :=
  if x.memb = 0 then { x with arr := 0 }
  else if x.memb &&& ~~~x.arr = 0 then { x with ph := x.ph + 1, arr := 0 }
  else x

/-- Word b of the running warp's workgroup changes, and the warps that wait on it are woken (R220, R221). -/
def State.changeBarrier (b : BitVec 4) (f : Barrier → Barrier) (s : State) : State :=
  let x := (f (s.wg.barrier b.toNat)).settle
  let s1 := { s with wg := s.wg.setBarrier b.toNat x }
  s1.mapWarps fun w => if w.key = s.w.key then w.wake b x.ph else w

/-- The bit of the running warp in a word (R222). -/
def State.myBit (s : State) : BitVec 16 := 1 <<< s.w.idx.toNat

/-- The arrival of the running warp (R222): its bit of ARR. -/
def State.arrive (b : BitVec 4) (s : State) : State :=
  s.changeBarrier b fun x => { x with arr := x.arr ||| s.myBit }

/-- The drop of the running warp (R222, R88). -/
def State.drop (b : BitVec 4) (s : State) : State :=
  s.changeBarrier b fun x => { x with memb := x.memb &&& ~~~s.myBit, arr := x.arr &&& ~~~s.myBit }

/-- `bar.init` (R222). -/
def execBarInit (a : BitVec 6) (b : BitVec 4) (s : State) : Host.Outcome State Fault Refusal :=
  .next (unit [] false false (fun s =>
    let m := (s.w.s a.toNat).truncate 16 &&& s.wg.live
    .ok { s := s.changeBarrier b fun x => { x with memb := m, arr := x.arr &&& m } }) s)

/-- A non-member that arrives takes the illegal-operand trap (R222). -/
def State.isMember (s : State) (b : BitVec 4) : Bool := (s.wg.barrier b.toNat).memb &&& s.myBit ≠ 0

/-- `bar.arrive` (R222): the token is PH before the arrival, which is a release (R292). -/
def execBarArrive (a : BitVec 6) (b : BitVec 4) (s : State) : Host.Outcome State Fault Refusal :=
  .next (unit [] false false (fun s => do
    need (s.isMember b)
    ready (¬ s.strongHeld) s
    .ok { s := s.arrive b, writes := [.s a.toNat ((s.wg.barrier b.toNat).ph.zeroExtend 64)] }) s)

/-- `bar.wait` (R222): a closing event; parks while PH is the token it first read (R44). -/
def execBarWait (a : BitVec 6) (b : BitVec 4) (s : State) : Host.Outcome State Fault Refusal :=
  .next (unit [] false false (fun s =>
    let tok : Word := (s.w.s a.toNat).truncate 32
    if (s.wg.barrier b.toNat).ph ≠ tok then .ok { s := s, close := true }
    else .error (.enter (s.parkAt (.barrier b tok)))) s)

/-- `bar.arw` (R222, R225): the arrival with its token, then the wait. When it parks, the arrival is done. -/
def execBarArw (a : BitVec 6) (b : BitVec 4) (s : State) : Host.Outcome State Fault Refusal :=
  .next (unit [] false false (fun s => do
    need (s.isMember b)
    ready (¬ s.strongHeld) s
    let tok := (s.wg.barrier b.toNat).ph
    let s1 := s.arrive b
    let e : Eff := { s := s1, writes := [.s a.toNat (tok.zeroExtend 64)], close := true }
    if (s1.wg.barrier b.toNat).ph ≠ tok then .ok e
    else
      let t := (e.leaves s.w).finish
      .error (.enter { t with w := { t.w with pc := s.w.unitPc, park := .barrierArw b tok (s.w.hints.length = 1) } })) s)

/-- `bar.join` (R222). -/
def execBarJoin (b : BitVec 4) (s : State) : Host.Outcome State Fault Refusal :=
  .next (unit [] false false (fun s =>
    let x := s.wg.barrier b.toNat
    .ok { s := { s with wg := s.wg.setBarrier b.toNat { x with memb := x.memb ||| s.myBit } } }) s)

/-- `bar.drop` (R222). -/
def execBarDrop (b : BitVec 4) (s : State) : Host.Outcome State Fault Refusal :=
  .next (unit [] false false (fun s => .ok { s := s.drop b }) s)

end Sys2Proof.Machine
end

