-- ==== Sys2Proof/Machine/Complete.lean ====
section
/-! DEFINITION. The end of a launch: its completion word (R402 to R404), the end of CANCEL (R397) and of a stall (R438). -/

namespace Sys2Proof.Machine

/-- The distributor as an agent of an LD, with the words of the report that stands for a lost completion word (R402). -/
def Agent.distributor (ld writer info launch : Nat) : Agent :=
  ⟨ld, .word (BitVec.ofNat 2 ld) (BitVec.ofNat 10 writer) info launch, none, some 6, 0⟩

/-- Where a distributor's 8-byte store in a stall's context goes (R402): none where it cannot be performed. -/
def State.wordLoc (s : State) (ld col stall : Nat) (va : DWord) : State × Option Loc :=
  match s.translate ⟨ld, col, 8, stall⟩ va .write with
  | (s1, .ok l) => (s1, if s1.locOk l.pa 8 true then some l else none)
  | (s1, .error _) => (s1, none)

/-- An 8-byte strong store at system scope by the distributor in a stall's context (R402): the state after it, and whether it was
written or stands at a port. It is no command (R357). -/
def State.storeFor (s : State) (ag : Agent) (col stall : Nat) (va : DWord) (v : Nat) : State × Bool :=
  match s.wordLoc ag.ld col stall va with
  | (s1, none) => (s1, false)
  | (s1, some l) =>
    match s1.writeLoc ag l (bytesOf 8 v) false with
    | (s2, .ok _) => (s2, true)
    | (s2, .error .poison) => (s2.reportPoison l, false)
    | (s2, .error e) => (s2.countDrop ag.ld e, false)

/-- Write the completion word of a launch or a refused record (R402, R391): value, and the report that stands in its place.
`launch` is the order of the launch, 0 for a refused record. -/
def State.completionWord (ld col writer : Nat) (caddr : DWord) (queue : Nat) (seq : Word) (launch : Nat) (status : BitVec 8)
    (s : State) : State :=
  if caddr = 0 then s
  else
    let info := queue * 2 ^ 32 + seq.toNat
    let (s1, ok) := s.storeFor (Agent.distributor ld writer info launch) col writer caddr (status.toNat * 2 ^ 32 + seq.toNat)
    if ok then s1 else s1.postError ld 2 writer info

/-- Status DONE and CANCELLED (R402). -/
def stDone : BitVec 8 := 0x01
def stCancelled : BitVec 8 := 0x0A

/-- A write at a port that the release before a completion store may cover (R292, R403): any but a completion word. DESIGN CHOICE
(assumption 72): a completion store waits for all of them, not only for those that happen before a retirement of its launch. -/
def Owner.covered : Owner → Bool
  | .word _ _ _ _ => false
  | _ => true

/-- A write at a port is the completion word of a launch. -/
def Owner.wordOf (l : Launch) : Owner → Bool
  | .word ld _ _ n => ld = l.ld && n = l.order
  | _ => false

/-- The completion store of a launch waits for a retraining module (R377). -/
def State.wordWaits (s : State) (l : Launch) : Bool :=
  l.record.caddr ≠ 0 &&
    match (s.wordLoc l.ld.toNat l.col.toNat l.writer.toNat l.record.caddr).2 with
    | some x => (s.waitsFor (Agent.distributor l.ld.toNat l.writer.toNat 0 l.order) true x).isSome
    | none => false

/-- The status with which a launch ends now (R96, R403, R404), if it ends. -/
def State.endStatus (s : State) (l : Launch) : Option (BitVec 8) :=
  if ¬ s.isHead l ∨ l.completing ∨ s.allGroups.any (fun g => g.ofLaunch l) ∨ s.heldBy Owner.covered ≠ [] then none
  else
    match l.ending with
    | some st => some st
    | none => if s.drained l then some stDone else none

/-- A launch that has drained in the cycle of an early end's cause, which then stopped nothing, ends as DONE (R404). -/
def State.drainedFirst (s : State) : State :=
  s.mapLaunches fun l =>
    if l.endedAt = s.tick.toNat + 1 ∧ s.drained l then { l with ending := none, endedAt := 0 } else l

/-- A launch leaves its queue. -/
def State.removeLaunch (l : Launch) (s : State) : State :=
  { s with
    lc := if s.lc.order = l.order then Launch.none else s.lc
    launches := s.launches.filter fun m => m.order ≠ l.order }

/-- A launch writes its completion word and leaves its queue; while the word stands at a port it stays at the head (R396). -/
def State.finishLaunch (l : Launch) (status : BitVec 8) (s : State) : State :=
  let s1 := s.completionWord l.ld.toNat l.col.toNat l.writer.toNat l.record.caddr l.record.queue.toNat l.seq l.order status
  if s1.heldBy (Owner.wordOf l) = [] then s1.removeLaunch l
  else s1.mapLaunches fun m => if m.order = l.order then { m with completing := true } else m

/-- The last steps of the end of a stall whose launches have ended (R438 steps 3 and 4): the report follows the invalidation, which
completes when the accesses that used a dropped entry have been performed (R351). -/
def State.finishStall (ld : Nat) (e : BitVec 10 × Bool) (s : State) : State :=
  let who : Waiter := .stall ld e.1.toNat
  if s.allLaunches.any fun x => x.ld.toNat = ld ∧ (s.queueOf ld x.record.queue.toNat).owner = e.1 then s
  else
    let s1 := if s.waits.any fun x => x.who = who then s else s.dropStall (some who) ld e.1.toNat
    if ¬ s1.acked who then s1
    else
      let l := s1.ldOf ld
      (({ s1 with waits := s1.waits.filter fun x => x.who ≠ who }).setLd ld
        { l with endings := l.endings.filter fun x => x ≠ e }).postError ld 4 e.1.toNat e.2.toNat

/-- CANCEL reads 0 again when the last launch that a write of it ended has completed (R397). -/
def State.finishCancel (ld q : Nat) (s : State) : State :=
  let x := s.queueOf ld q
  if x.cancel ∧ ¬ s.allLaunches.any (fun l => l.ld.toNat = ld ∧ l.record.queue.toNat = q ∧ l.cancelled) then
    s.setQueueOf ld q { x with cancel := false }
  else s

/-- Every launch that can end ends, in order of acceptance (R396), then the stalls and cancels that waited for them. -/
def completeAux : Nat → State → State
  | 0, s => s
  | f + 1, s =>
    match s.allLaunches.findSome? fun l => if s.wordWaits l then none else (s.endStatus l).map fun st => (l, st) with
    | some (l, st) =>
      completeAux f ((s.finishLaunch l st).finishCancel l.ld.toNat l.record.queue.toNat)
    | none => s

/-- A launch whose completion word has left its port leaves its queue (R396, R402). -/
def State.wordsSent (s : State) : State :=
  (s.allLaunches.filter fun l => l.completing ∧ s.heldBy (Owner.wordOf l) = []).foldl
    (fun s l => (s.removeLaunch l).finishCancel l.ld.toNat l.record.queue.toNat) s

def State.complete (s : State) : State :=
  let s1 := completeAux s.allLaunches.length s.drainedFirst
  (List.range 4).foldl (fun s ld => (s.ldOf ld).endings.foldl (fun s e => s.finishStall ld e) s) s1

end Sys2Proof.Machine
end

