-- ==== Sys2Proof/Machine/Items.lean ====
section
/-! DEFINITION. Items, refill and retirement (R72 to R96), pending reports (R198), and the counters and naps that a warp waits
on (R99, R300). -/

namespace Sys2Proof.Machine

/-- ItemTake (R74) on the counter of the running warp's launch: the first item and how many. It is a tagged send (R317). -/
def State.itemTake (n : Nat) (s : State) : State × Nat × Nat :=
  let old := s.lc.ic.toNat
  let left := s.lc.record.n.toNat - old
  let take := if left < n then left else n
  (({ s with lc := { s.lc with ic := BitVec.ofNat 48 (old + take) } }).send [old], old, take)

/-- Registers of `.ilive` (R79). -/
def State.ilive (s : State) : List Nat := (List.range 120).filter fun r => s.kernel.ilive.getLsbD r

/-- Lane l receives an item (R79): the `.ilive` registers are zeroed and its age grows. -/
def Warp.giveItem (w : Warp) (l item : Nat) : Warp :=
  { w with
    occ := w.occ ||| (1 <<< l), item := w.item.set 0 l (BitVec.ofNat 48 item), age := w.age.set 0 l (w.age.get 0 l + 1) }

/-- The lanes ls receive items from base up, in order. -/
def Warp.giveItems (w : Warp) : List Nat → Nat → Warp
  | [], _ => w
  | l :: ls, base => (w.giveItem l base).giveItems ls (base + 1)

/-- The `.ilive` registers of the lanes of m are zeroed (R79, R84). -/
def State.zeroLive (s : State) (m : Mask) (w : Warp) : Warp := s.ilive.foldl (fun w r => w.setV r m Vec.zero) w

/-- The oldest pending report is taken as a trap (R198). -/
def State.takeReport (s : State) : State :=
  match s.w.reports with
  | [] => s
  | r :: rs => ({ s with w := { s.w with reports := rs } }).trap r.cause r.tval

/-- The warp begins to retire (R88): windows close, hints are discarded, the A latch empties (R239). -/
def State.beginRetire (s : State) : State :=
  { s with
    w := { s.w.commitAll.dropHints with
      life := .retiring, park := .none, latch := none, depth := 0, stack := [], crpc := noneRpc } }

/-- `refill` (R79 to R82, R91). -/
def execRefill (d : BitVec 6) (s : State) : Host.Outcome State Fault Refusal :=
  .next (unit [] false false (fun s => do
    if s.w.inh ∨ s.w.depth ≠ 0 ∨ s.w.occ = BitVec.allOnes 64 then
      return { s := s, writes := [.s d.toNat 0] }
    s.notPending s.ilive
    let empty := laneList (~~~ s.w.occ)
    let (s1, base, take) := s.itemTake empty.length
    if take = 0 then return { s := s1, writes := [.s d.toNat 0] }
    let got := empty.take take
    let m := maskOf fun l => got.contains l
    let em := s.w.em
    let w1 := s1.zeroLive m (s1.w.commitAll.giveItems got base)
    .ok { s := { s1 with w := w1 }, writes := [.s 56 (em ||| m), .s d.toNat m], close := true }) s)

/-- A warp starts on a cluster that is powered (R101, R427, R432): its age and what THROTTLE shows begin. -/
def State.begin (s : State) (w : Warp) : Warp :=
  { w with
    life := .run, started := s.tick.toNat, thrChg := false, thrPrev := (s.colOf w.place.ld.toNat w.place.col.toNat).level }

/-- Start take (R77), an event of a stage-0 warp before its first instruction; a restored warp starts without one (R419). DESIGN CHOICE
(assumption 11): ITEM and AGE of the lanes that it leaves empty start at 0. -/
def execStartTake (s : State) : Host.Outcome State Fault Refusal :=
  .next (
    if s.w.rst then { s with w := s.begin s.w }
    else
      let (s1, base, take) := s.itemTake 64
      let w1 := ({ s1.w with occ := 0, age := [] }).giveItems (lanes.take take) base
      let s2 := { s1 with w := s.begin (w1.setS 56 w1.occ) }
      if take = 0 then s2.beginRetire else s2)

/-- ItemTake as a step of the device (R74). -/
def execItemTake (n : BitVec 7) (s : State) : Host.Outcome State Fault Refusal := .next (s.itemTake n.toNat).1

/-- The stage entry of the running warp's workgroup (R77, R84). -/
def State.entryOfStage (s : State) (n : Nat) : BitVec 48 := s.kernel.base + s.kernel.entries.getD n 0

/-- `exit.i` where lanes stay occupied (R84, R85): the path that goes on. -/
def exitPath (occ : Mask) (s : State) : Except Stop Eff :=
  if s.w.dh < s.w.depth then do
    let s1 ← popPath occ s
    .ok { s := { s1 with w := { s1.w with pc := s.w.pc, hints := s.w.hints } }, close := true, next := some s1.w.pc }
  else
    .ok { s := { s with w := { ({ s.w.commitAll with occ := occ }).setS 56 0 with pc := s.w.pc, hints := s.w.hints } }, close := true }

/-- `exit.i` where no lane stays occupied (R84, R87): the warp restarts with new items, or begins to retire. -/
def exitAll (s : State) : Except Stop Eff := do
  if s.lc.ic ≠ s.lc.record.n then s.notPending s.ilive
  let s0 := { s with w := { ({ s.w.commitAll with occ := 0 }).setS 56 0 with pc := s.w.pc, hints := s.w.hints } }
  let (s1, base, take) := s0.itemTake 64
  if take = 0 then
    if s.w.reports ≠ [] then .error (.enter s.takeReport) else .error (.enter s1.beginRetire)
  else
    let w1 := { s1.w with depth := 0, stack := [], crpc := noneRpc, pathCount := 0 }
    let w2 := s1.zeroLive (lowLanes take) (w1.giveItems (lanes.take take) base)
    .ok { s := { s1 with w := w2 }, writes := [.s 56 w2.occ], close := true, next := some (s1.entryOfStage s1.wg.stage.toNat) }

/-- `exit.i` (R84 to R87, R89, R91). A fill of its pops that faults leaves it to execute again (R193). -/
def execExitI (s : State) : Host.Outcome State Fault Refusal :=
  .next (unit [] false false (fun s => do
    need (¬ s.w.inh)
    let occ := s.w.occ &&& ~~~ s.w.em
    if occ = 0 then exitAll s else exitPath occ s) s)

/-- `retire` (R90, R91): the items of occupied lanes are abandoned. -/
def execRetire (s : State) : Host.Outcome State Fault Refusal :=
  .next (unit [] false false (fun s =>
    if ¬ s.w.inh ∧ s.w.reports ≠ [] then .error (.enter s.takeReport)
    else
      let w0 := { s.w.commitAll with
        abort := false, rst := false, pre := false, inh := false, dh := 0, occ := 0
        reports := if s.w.inh then [] else s.w.reports, pc := s.w.pc }
      .error (.enter ({ s with w := w0.setS 56 0 }).beginRetire)) s)

/-- `succ #n` (R93): a stage without an entry takes the illegal-operand trap. -/
def execSucc (n : BitVec 3) (s : State) : Host.Outcome State Fault Refusal :=
  .next (unit [] false false (fun s => do
    need (s.kernel.stages.getLsbD n.toNat)
    .ok { s := { s with wg := { s.wg with succ := some n } } }) s)

/-- `succ.clr` (R93). -/
def execSuccClr (s : State) : Host.Outcome State Fault Refusal :=
  .next (unit [] false false (fun s => .ok { s := { s with wg := { s.wg with succ := none } } }) s)

/-- Every counter of the warp is 0 and every operation it issued has completed (R88 step 2). -/
def State.quiet (s : State) (w : Warp) : Bool :=
  w.counters.all (fun c => c.2.cnt = 0) && s.ops.all fun o => o.place ≠ w.place

/-- Retirement of the running warp (R88 steps 2 to 5), an event once its counters are 0 and its device-scope release has completed.
The last warp of a workgroup without a successor frees it (R92); no successor follows an early end (R404). DESIGN CHOICE (assumption
57): a report that arises after the retirement began is never taken, and goes with the warp (R89). -/
def execWarpRetirement (s : State) : Host.Outcome State Fault Refusal :=
  .next (
    if (s.w.life = .retiring ∨ s.w.life = .stopping) ∧ s.quiet s.w ∧ ¬ s.strongHeld then
      let s0 := { s with w := { s.w with q0 := [], q1 := [], q2 := [], q3 := [] } }
      let s1 := (List.range 16).foldl (fun s b => s.drop (BitVec.ofNat 4 b)) s0
      let s2 : State := { s1 with
        w := { s1.w with life := .retired, latch := none }
        wg := { s1.wg with retired := s1.wg.retired ||| s1.myBit } }
      if s2.wg.allRetired ∧ (s2.wg.succ.isNone ∨ s2.lc.ending.isSome) then (s2.freeGroup s2.w.key).complete else s2
    else s)

/-- A slot whose warp starts a stage of its workgroup (R77, R94). -/
def State.startWarp (s : State) (p : Place) (idx : Nat) (g : Group) (tvec : BitVec 48) (saveptr : BitVec 48) : Warp :=
  let k := s.kernel
  let base := Warp.fresh p
  let w0 := { base with
    life := if g.stage = 0 then .start else .run
    idx := BitVec.ofNat 4 idx, key := g.key, pc := k.base + k.entries.getD g.stage.toNat 0, tvec := tvec
    saveptr := saveptr, cls := s.lc.record.prio, started := s.tick.toNat, pkg := s.vxpkg
    thrPrev := (s.colOf p.ld.toNat p.col.toNat).level }
  let w1 := (((w0.setS 1 s.lc.record.argp).setS 2 s.lc.record.shape0).setS 3 s.lc.record.shape1).setS 4 s.lc.record.shape2
  w1

/-- The lanes of a successor-stage warp (Table 1 of R77): all occupied by stage-local positions of age 0. -/
def Warp.succLanes (w : Warp) (idx : Nat) : Warp :=
  let w1 := { w with
    life := .run, occ := BitVec.allOnes 64
    item := lanes.foldl (fun c l => c.set 0 l (BitVec.ofNat 48 (64 * idx + l))) [] }
  w1.setS 56 (BitVec.allOnes 64)

/-- Successor start (R94): the workgroup of the running warp goes on as stage n on the same slots, with its buffers and
tiles; in a launch that is being pre-empted its warps take that trap first (R95). -/
def execSuccessorStart (s : State) : Host.Outcome State Fault Refusal :=
  .next (
    match s.wg.succ with
    | none => s
    | some n =>
      if ¬ s.wg.allRetired ∨ s.lc.ending.isSome then s
      else
        let g := { s.wg with stage := n, succ := none, barriers := [], retired := 0 }
        let s1 := { s with wg := g }
        let q := s.queueOf s.lc.ld.toNat s.lc.record.queue.toNat
        s1.mapWarps fun w =>
          if w.key = g.key then
            { (s.startWarp w.place w.idx.toNat g q.tvec w.saveptr).succLanes w.idx.toNat with
              tiles := w.tiles, dirty := w.dirty, preempt := s.lc.preempted }
          else w)

/-! Counters, waits and naps. -/

/-- `wait` and `waitr` (R300): closing events that wait for the threshold they first read (R44). -/
def waitUnit (d : BitVec 6) (n : BitVec 4) (thr : Warp → BitVec 16) : State → State :=
  unit [] false false fun s =>
    let c := s.w.counter n.toNat
    let t := thr s.w
    if t.toNat < c.cnt.toNat then .error (.enter (s.parkAt (.counter n t)))
    else if d = 0 then .ok { s := s, close := true }
    else
      .ok { s := { s with w := s.w.setCounter n.toNat { c with err := 0 } }, writes := [.s d.toNat c.value], close := true }

def execWait (d : BitVec 6) (n : BitVec 4) (t : BitVec 6) (s : State) : Host.Outcome State Fault Refusal :=
  .next (waitUnit d n (fun _ => t.zeroExtend 16) s)
def execWaitr (d : BitVec 6) (n : BitVec 4) (b : BitVec 6) (s : State) : Host.Outcome State Fault Refusal :=
  .next (waitUnit d n (fun w => (w.s b.toNat).truncate 16) s)

/-- `acget` (R301). -/
def execAcget (d : BitVec 6) (n : BitVec 4) (s : State) : Host.Outcome State Fault Refusal :=
  .next (unit [] false false (fun s => .ok { s := s, writes := [.s d.toNat (s.w.counter n.toNat).value] }) s)

/-- `acset` (R301): only ERR is written. -/
def execAcset (n : BitVec 4) (b : BitVec 6) (s : State) : Host.Outcome State Fault Refusal :=
  .next (unit [] false false (fun s =>
    let c := { s.w.counter n.toNat with err := ((s.w.s b.toNat) >>> 16).truncate 3 }
    .ok { s := { s with w := s.w.setCounter n.toNat c } }) s)

/-- `qdrop` (R307). -/
def execQdrop (d : BitVec 6) (q : BitVec 2) (s : State) : Host.Outcome State Fault Refusal :=
  .next (unit [] false false (fun s =>
    .ok { s := { s with w := s.w.setQueue q.toNat [] },
          writes := [.s d.toNat (BitVec.ofNat 64 (s.w.queue q.toNat).length)] }) s)

/-- `nap` (R99): parked from the next cycle until t FE cycles have passed; the PC has moved on. -/
def execNap (a : BitVec 6) (s : State) : Host.Outcome State Fault Refusal :=
  .next (unit [] false false (fun s =>
    let t := bitsOf (s.w.s a.toNat).toNat 0 16
    if t = 0 then .ok { s := s }
    else
      let e : Eff := { s := s, close := true }
      let t' := (e.leaves s.w).finish
      .error (.enter { t' with w := { t'.w with park := .nap (s.tick.toNat + t + 1) } })) s)

/-- A nap ends (R99). -/
def execNapExpiry (p : Place) (s : State) : Host.Outcome State Fault Refusal :=
  .next (s.mapWarps fun w =>
    match w.park with
    | .nap _ => if w.place = p then { w with park := .none } else w
    | _ => w)

/-- A warp parked at a counter or a queue is ready again when what it waits for holds (R300, R306). -/
def Warp.unparkReady (w : Warp) : Warp :=
  match w.park with
  | .counter n thr => if (w.counter n.toNat).cnt.toNat ≤ thr.toNat then { w with park := .none } else w
  | .queue qs n =>
    if qs.any fun q => ((w.queue q).take n).any fun e => e.value.isNone then w else { w with park := .none }
  | _ => w

/-- The pop at arrival, the fair swap, and pending reports as events (R187, R195, R198). -/
def execPopAtArrival (s : State) : Host.Outcome State Fault Refusal := .next (if s.w.arrived then s.popArrival else s)

def execFairSwap (s : State) : Host.Outcome State Fault Refusal :=
  .next (
    let s0 := { s with w := s.w.commitAll.dropHints }
    runStop s0 ((s0.fairSwap s.w.pc).map State.nextEvent))

def execAsyncReportTrap (s : State) : Host.Outcome State Fault Refusal := .next (if s.w.inh then s else s.takeReport)

end Sys2Proof.Machine
end

