-- ==== Sys2Proof/Machine/Special.lean ====
section
/-! DEFINITION. The special registers (R104 to R106, R125 to R129): what `rsr` reads and `wsr` writes. -/

namespace Sys2Proof.Machine

/-- The numbers that Table 5 of R127 assigns. -/
def srAssigned (n : Nat) : Bool :=
  n ≤ 0x00A || (0x010 ≤ n && n ≤ 0x016) || (0x018 ≤ n && n ≤ 0x01C) || (0x020 ≤ n && n ≤ 0x022) || (0x030 ≤ n && n ≤ 0x035)
    || (0x040 ≤ n && n ≤ 0x047)

/-- Refill of a governor level (R426). -/
def refillOf (c : Column) : Nat :=
  match c.level.toNat with
  | 0 => c.budget.toNat
  | 3 => c.budget.toNat / 2
  | _ => 3 * c.budget.toNat / 4

/-- The rate that a cluster may run at: the requested one, limited by the level and the replay cap (R426, R429). -/
def effectiveRate (c : Column) (x : ClusterState) (cl : BitVec 1) : BitVec 2 :=
  let want := if cl = 0 then c.clk0 else c.clk1
  let top := if c.level = 3 then 0 else if c.level = 2 ∨ x.replayCap then 1 else 2
  if want.toNat ≤ top then want else BitVec.ofNat 2 top

/-- TSHAPE half h (R250). -/
def Warp.tshape (w : Warp) (h : Nat) : DWord :=
  BitVec.ofNat 64 (ofBytes ((List.range 8).map fun k => (w.tile (8 * h + k)).shape))

/-- The registers that the device keeps outside the warp, and the coordinates (R105, R128, R211, R424, R427, R429). -/
def State.srPlace (s : State) (n : Nat) : DWord :=
  let w := s.w
  let p := w.place
  let col := s.colOf p.ld.toNat p.col.toNat
  let cl := s.clusterOf (clusterAt p)
  match n with
  | 0x000 => s.tick
  | 0x001 => BitVec.ofNat 64 (p.slot.toNat * 16 + w.idx.toNat)
  | 0x002 => p.core.zeroExtend 64
  | 0x003 => p.col.zeroExtend 64
  | 0x004 => p.ld.zeroExtend 64
  | 0x005 => w.pkg.zeroExtend 64
  | 0x006 => s.wg.stage.zeroExtend 64
  | 0x007 => w.key.gang.zeroExtend 64
  | 0x008 => w.key.wgrp.zeroExtend 64
  | 0x009 => BitVec.ofNat 64 (s.lc.record.prio.toNat * 2 ^ 38 + w.key.queue.toNat * 2 ^ 32 + s.lc.seq.toNat)
  | 0x00A => BitVec.ofNat 64 (s.lc.record.n.toNat - s.lc.ic.toNat)
  | 0x010 => BitVec.ofNat 64 (if s.wg.alen = 0 then 0 else s.wg.abase)
  | 0x011 => BitVec.ofNat 64 s.wg.alen
  | 0x012 => BitVec.ofNat 64 (if s.wg.wlen = 0 then 0 else s.wg.wbase)
  | 0x013 => BitVec.ofNat 64 s.wg.wlen
  | 0x020 => BitVec.ofNat 64 (w.thrPrev.toNat * 16 + w.thrChg.toNat * 8 + col.level.toNat)
  | 0x021 => BitVec.ofNat 64 (refillOf col * 2 ^ 16 + (if cl.c < 0 then 0 else min cl.c.toNat 0xFFFF))
  | _ =>
    BitVec.ofNat 64 (cl.rate.toNat + if effectiveRate col cl (clusterAt p).cl ≠ (if (clusterAt p).cl = 0 then col.clk0 else col.clk1)
      then 4 else 0)

/-- The registers that the warp holds itself. -/
def Warp.srOwn (w : Warp) (n : Nat) : DWord :=
  match n with
  | 0x014 => w.tshape 0
  | 0x015 => w.tshape 1
  | 0x016 => w.dirty.zeroExtend 64
  | 0x018 => BitVec.ofNat 64 w.depth
  | 0x019 => w.spill.zeroExtend 64
  | 0x01A => w.fstat.zeroExtend 64
  | 0x01B => w.mstat.zeroExtend 64
  | 0x01C => w.evmask.zeroExtend 64
  | 0x030 => w.tvec.zeroExtend 64
  | 0x031 => w.tcause.zeroExtend 64
  | 0x032 => w.epc.zeroExtend 64
  | 0x033 => w.tval
  | 0x034 =>
    BitVec.ofNat 64 (w.pending.length * 256 + w.abort.toNat * 8 + w.rst.toNat * 4 + w.pre.toNat * 2 + w.inh.toNat)
  | 0x035 => w.saveptr.zeroExtend 64
  | _ => w.grp.get 0 (n - 0x040)

/-- What `rsr` reads (R104). -/
def State.srRead (s : State) (n : Nat) : DWord :=
  if (0x014 ≤ n ∧ n ≤ 0x01C) ∨ 0x030 ≤ n then s.w.srOwn n else s.srPlace n

/-- A matrix instruction of the running warp is still in flight (R238), naming tile c or any. -/
def State.passes (s : State) (c : Option (BitVec 4)) : Bool :=
  s.ops.any fun o => o.place = s.w.place &&
    match o.kind with
    | .matrix _ t _ _ _ _ _ _ _ _ _ => c = none || c = some t
    | _ => false

/-- What `rsr` and `wsr` of a register wait for (R129, R255): FSTAT for every earlier operation of the warp, MSTAT and reads of the
tile registers for posted matrix passes, and both for the warp's posted stores at ports, which may still be lost (R316, R382). -/
def State.srWaits (s : State) (n : Nat) : Bool :=
  (n = 0x01A && s.ops.any fun o => o.place = s.w.place) || ((n = 0x01A || n = 0x01B) && ¬ s.ownHeld.isEmpty)
    || ((n = 0x01B || (0x014 ≤ n && n ≤ 0x016)) && s.passes none)

/-- A register with a field marked P (R406). -/
def srPrivileged (n : Nat) : Bool := 0x030 ≤ n && n ≤ 0x034

/-- What `wsr` does to the warp (R126): each field by its access code. -/
def Warp.srWrite (w : Warp) (n : Nat) (v : DWord) : Warp :=
  match n with
  | 0x019 => { w with spill := v.truncate 48 &&& 0xFFFF_FFFF_FFE0 }
  | 0x01A => { w with fstat := w.fstat &&& ~~~ (v.truncate 8) }
  | 0x01B => { w with mstat := w.mstat &&& ~~~ (v.truncate 4) }
  | 0x01C => { w with evmask := v.truncate 2 }
  | 0x020 => { w with thrChg := w.thrChg && ¬ v.getLsbD 3 }
  | 0x030 => { w with tvec := v.truncate 48 &&& 0xFFFF_FFFF_FFFC }
  | 0x031 => { w with tcause := v.truncate 8 }
  | 0x032 => { w with epc := v.truncate 48 &&& 0xFFFF_FFFF_FFFC }
  | 0x033 => { w with tval := v }
  | 0x034 => { w with abort := v.getLsbD 3 }
  | _ => if 0x040 ≤ n ∧ n ≤ 0x047 then { w with grp := w.grp.set 0 (n - 0x040) (v &&& 0xF_FFFF_FFFF) } else w

/-- `rsr` (R104, R125). -/
def execRsr (d : BitVec 6) (n : BitVec 12) (s : State) : Host.Outcome State Fault Refusal :=
  .next (
    if srAssigned n.toNat then
      unit [] false false (fun s => do
        ready (¬ s.srWaits n.toNat) s
        -- The read of QLEFT is a tagged send (R317).
        let t := if n.toNat = 0x00A then s.send [(s.srRead n.toNat).toNat] else s
        .ok { s := t, writes := [.s d.toNat (s.srRead n.toNat)] }) s
    else s.illegal (BitVec.ofNat 32 (0x1C00_0000 + d.toNat * 2 ^ 12 + n.toNat)))

/-- `wsr` (R126); a write of STKSPILL while entries are in memory takes the illegal-operand trap (R192). -/
def execWsr (n : BitVec 12) (b : BitVec 6) (s : State) : Host.Outcome State Fault Refusal :=
  .next (
    if srAssigned n.toNat then
      unit [] false (srPrivileged n.toNat && ¬ s.w.inh) (fun s => do
        need (¬ (n.toNat = 0x019 ∧ s.w.spilled ≠ 0))
        ready (¬ ((n.toNat = 0x01A ∨ n.toNat = 0x01B) ∧ s.srWaits n.toNat)) s
        .ok { s := { s with w := s.w.srWrite n.toNat (s.w.s b.toNat) } }) s
    else s.illegal (BitVec.ofNat 32 (0x1C04_0000 + n.toNat * 2 ^ 6 + b.toNat)))

end Sys2Proof.Machine
end

