-- ==== Sys2Proof/Machine/Control.lean ====
section
/-! DEFINITION. Branches, calls and jumps (R120 to R124), the divergent branch (R186), `yield`, `stk.save` and `stk.load` (R196,
R200, R201), the software trap and `tret` (R408, R409), and fences (R315, R288). -/

namespace Sys2Proof.Machine

/-- A target counted in words from the address of the instruction (R38, R123). -/
def target (pc : BitVec 48) (bits off : Nat) : BitVec 48 := pc + BitVec.ofInt 48 (signed bits off * 4)

/-- A uniform branch (R120): taken, it is a closing event. -/
def branch (o : BitVec 20) (taken : Warp → Bool) : State → State :=
  unit [] false false fun s =>
    if taken s.w then .ok { s := s, close := true, next := some (target s.w.pc 20 o.toNat) } else .ok { s := s }

/-- A guard field with g[2:0] = 0 branches unconditionally (R120). -/
def noGuard (g : BitVec 4) : Bool := bitsOf g.toNat 0 3 = 0

def execBr (o : BitVec 20) (s : State) : Host.Outcome State Fault Refusal := .next (branch o (fun _ => true) s)
def execBrAny (g : BitVec 4) (o : BitVec 20) (s : State) : Host.Outcome State Fault Refusal :=
  .next (branch o (fun w => noGuard g || w.em &&& w.guard g ≠ 0) s)
def execBrAll (g : BitVec 4) (o : BitVec 20) (s : State) : Host.Outcome State Fault Refusal :=
  .next (branch o (fun w => w.em &&& w.guard g = w.em) s)
def execBrNone (g : BitVec 4) (o : BitVec 20) (s : State) : Host.Outcome State Fault Refusal :=
  .next (branch o (fun w => w.em &&& w.guard g = 0) s)

/-- `brd` (R186): every one is a closing event; a uniform outcome pushes nothing. -/
def execBrd (g : BitVec 4) (o : BitVec 20) (s : State) : Host.Outcome State Fault Refusal :=
  .next (unit [2] true false (fun s => do
    let w := s.w
    let t := w.em &&& w.guard g
    let n := w.em &&& ~~~ w.guard g
    let tgt := target w.pc 20 o.toNat
    let join := target w.pc 22 (w.hintRc.getD 0).toNat
    if t = 0 then return { s := s, close := true }
    if n = 0 then return { s := s, close := true, next := some tgt }
    let s1 ← s.push [⟨join, w.em, w.crpc, w.fm, false⟩, ⟨w.pc + 4, n, join, w.fm, true⟩]
    .ok { s := { s1 with w := { s1.w with crpc := join } }, writes := [.s 56 t], close := true, next := some tgt }) s)

/-- `call` (R121). -/
def execCall (o : BitVec 20) (s : State) : Host.Outcome State Fault Refusal :=
  .next (unit [] false false (fun s =>
    .ok { s := s, writes := [.s 54 (s.w.pc.zeroExtend 64 + 4)], close := true,
          next := some (target s.w.pc 20 o.toNat) }) s)

/-- `jr` (R122). -/
def execJr (d a : BitVec 6) (s : State) : Host.Outcome State Fault Refusal :=
  .next (unit [] false false (fun s => do
    let t := s.w.s a.toNat
    trapIf (t.toNat % 4 ≠ 0) 0x04 t
    trapIf (2 ^ 48 ≤ t.toNat) 0x06 t
    .ok { s := s, writes := [.s d.toNat (s.w.pc.zeroExtend 64 + 4)], close := true, next := some (t.truncate 48) }) s)

/-- `trap #n` (R408): EPC is the next unit. -/
def execTrap (n : BitVec 6) (s : State) : Host.Outcome State Fault Refusal :=
  .next (unit [] false false (fun s =>
    .error (.enter (({ s with w := { s.w with cls := s.classAfter } }).trapEntry 0x0A (n.zeroExtend 64) (s.w.pc + 4)))) s)

/-- Every entry above Dh is discarded (R197, R409); entries below that lie in memory return to the chip. -/
def State.discardAbove (s : State) : Except Stop State := do
  let w := s.w
  let keep := w.stack.drop (w.depth - w.dh)
  let need := (List.range (min 32 w.dh - keep.length)).map fun i => w.spillAddr (w.dh - keep.length - 1 - i)
  let (s1, back) ← s.read32 need
  .ok { s1 with w := { s1.w with stack := keep ++ back.map entryOf, depth := min w.dh w.depth } }

/-- `tret` (R409). Lanes left of the path that goes on stay when it goes on at their unit (R268). -/
def execTret (s : State) : Host.Outcome State Fault Refusal :=
  .next (unit [] false (¬ s.w.inh) (fun s => do
    if s.w.abort then .error (.enter (s.endOwn stFaulted))
    if s.w.pre ∧ ¬ s.w.rst then
      .error (.enter { s with w := { s.w.commitAll.dropHints with life := .vacating, latch := none, cls := s.classAfter } })
    let s1 ← s.discardAbove
    let w := { s1.w with
      crpc := s.w.crpcSaved, dh := 0, abort := false, rst := false, pre := false, inh := false, latch := none
      left := s.w.left.filter fun x => ¬ x.inh ∧ (x.pc = s.w.epc ∨ x.lanes &&& s.w.em = 0) }
    let e : Eff := { s := { s1 with w := w }, close := true, next := some s.w.epc }
    match s.w.arw with
    | none => .ok e
    | some (b, tok, two) =>
      if (s.wg.barrier b.toNat).ph ≠ tok then
        .ok { e with s := { s1 with w := { w with arw := none } }, next := some (s.w.epc + (if two then 8 else 4)) }
      else
        let t := (e.leaves s.w).finish
        .error (.enter { t with w := { t.w with park := .barrierArw b tok two } })) s)

/-- `yield` (R196): a fair swap at once; the path that yields goes on at the next word. -/
def execYield (s : State) : Host.Outcome State Fault Refusal :=
  .next (unit [] false false (fun s =>
    if s.w.inh ∨ s.w.depth ≤ s.w.dh then .ok { s := s, close := true }
    else do
      let s0 := { s with w := { s.w.commitAll with pc := s.w.pc } }
      let s1 ← s0.fairSwap (s.w.pc + 4)
      .ok { s := s1, close := true, next := some s1.w.pc }) s)

/-- `stk.save` (R200): the header of the stack image, then its entries from the bottom. -/
def execStkSave (d a : BitVec 6) (s : State) : Host.Outcome State Fault Refusal :=
  .next (unit [] false false (fun s => do
    let w := s.w
    let va := w.s a.toNat
    trapIf (va.toNat % 32 ≠ 0) 0x04 va
    s.memReady 1
    let (s1, back) ← s.read32 ((List.range w.spilled).map w.spillAddr)
    let es := back.map entryOf ++ w.chip
    let header := bytesOf 8 w.depth ++ bytesOf 8 w.crpc.toNat ++ bytesOf 16 0
    let s2 ← s1.write32 ((header :: es.map Entry.bytes).zipIdx.map fun x => (va + BitVec.ofNat 64 (32 * x.2), x.1))
    .ok { s := s2, writes := [.s d.toNat (BitVec.ofNat 64 (32 * (w.depth + 1)))] }) s)

/-- An rpc that a stack image may hold (R201). -/
def rpcOk (x : BitVec 48) : Bool := x = noneRpc || x.toNat % 4 = 0

/-- The first check that an image's entries fail (R201 step 4): the address of the offending doubleword. -/
def badEntry (va : DWord) (es : List Entry) : Option DWord :=
  es.zipIdx.findSome? fun e =>
    if e.1.pc.toNat % 4 ≠ 0 then some (va + BitVec.ofNat 64 (32 * (e.2 + 1) + 16))
    else if ¬ rpcOk e.1.rpc then some (va + BitVec.ofNat 64 (32 * (e.2 + 1) + 24))
    else none

/-- `stk.load` (R201): nothing changes until every step has passed. -/
def execStkLoad (a : BitVec 6) (s : State) : Host.Outcome State Fault Refusal :=
  .next (unit [] false false (fun s => do
    let w := s.w
    let va := w.s a.toNat
    trapIf (va.toNat % 32 ≠ 0) 0x04 va
    s.memReady 1
    let (s1, hd) ← s.read32 [va]
    let h := hd.headD 0
    let depth := bitsOf h 0 11
    let crpc := BitVec.ofNat 48 (bitsOf h 64 48)
    need (depth ≤ 1024) va
    need (rpcOk crpc) (va + 8)
    trapIf (32 < depth ∧ w.spill = 0) 0x09 (BitVec.ofNat 64 depth)
    let (s2, xs) ← s1.read32 ((List.range depth).map fun i => va + BitVec.ofNat 64 (32 * (i + 1)))
    let es := xs.map entryOf
    match badEntry va es with
    | some v => .error (.trap 0x02 v)
    | none =>
      let s3 ← s2.write32 ((es.take (depth - 32)).zipIdx.map fun x => (w.spillAddr x.2, x.1.bytes))
      let w3 := { s3.w with
        depth := depth, stack := (es.drop (depth - 32)).reverse, pathCount := 0
        crpc := crpc
        dh := if w.inh then depth else w.dh, crpcSaved := if w.inh then crpc else w.crpcSaved }
      .ok { s := { s3 with w := w3 } }) s)

/-- A fence begins (R315): the accesses that it orders after it wait for its completion (R288). It commits the pending results of
the loads that it orders, those of buffer loads from core scope up (R217, R288), and the write buffers drain. -/
def fenceUnit (kind : BitVec 2) (sc : BitVec 3) : State → State :=
  unit [] false false fun s => do
    ready (¬ reportsFull s.w) s
    let s1 := s.drain s.w.place
    .ok { s := { s1 with w := { s1.w.commitLoads (sc.toNat ≠ 0) with fence := some (kind, sc), pc := s.w.pc } } }

def execFenceAcq (sc : BitVec 3) (s : State) : Host.Outcome State Fault Refusal := .next (fenceUnit 0 sc s)
def execFenceRel (sc : BitVec 3) (s : State) : Host.Outcome State Fault Refusal := .next (fenceUnit 1 sc s)
def execFenceFull (sc : BitVec 3) (s : State) : Host.Outcome State Fault Refusal := .next (fenceUnit 2 sc s)

/-- A strong store of the warp that a release or full fence orders before it has not been performed, or at system scope any store (R288,
R338, R380, R381). -/
def State.fenceHeld (s : State) : Bool :=
  match s.w.fence with
  | some (k, sc) => k ≠ 0 && (s.strongHeld || (sc = 6 && ¬ s.ownHeld.isEmpty))
  | none => false

/-- The lowest port that lost a request which a fence of a kind orders before it (R382, R383): loads for an acquire, loads and stores
for the others. -/
def Warp.lostBefore (w : Warp) (kind : BitVec 2) : Option Nat :=
  match w.lostLoad, if kind = 0 then none else w.lostPort with
  | some a, some b => some (min a b)
  | some a, none => some a
  | none, x => x

/-- A fence completes (R288, R381 to R383): LINKDOWN when a port lost a request that it ordered, then a report of cause 0x0F when
EVMASK enables it, which the boundary takes in its turn (R198, R405). A fence that waits for a port in training marks RETRAIN. -/
def execFenceCompletion (s : State) : Host.Outcome State Fault Refusal :=
  .next (
    match s.w.fence with
    | none => s
    | some (k, sc) =>
      if s.fenceHeld then if s.heldTraining then s.setMstat 4 else s
      else
        let s1 := { s with w := { s.w with fence := none } }
        if sc ≠ 6 then s1
        else
          match s.w.lostBefore k with
          | none => s1
          | some p =>
            let s2 := ({ s1 with w := { s1.w with lostLoad := none, lostPort := if k = 0 then s1.w.lostPort else none } }).setMstat 1
            if s.w.evmask.getLsbD 1 then s2.reportNow 0x0F (BitVec.ofNat 64 p) else s2)

end Sys2Proof.Machine
end

