-- ==== Sys2Proof/Machine/MemOps.lean ====
section
/-! DEFINITION. Vector loads and stores (R293 to R296), launch stores (R388), split-phase loads and gathers with their
completions (R302 to R305), and the charges of arrival counters (R299). -/

namespace Sys2Proof.Machine

/-- Bytes and registers of a width code (R296). -/
def widthBytes (w : Nat) : Nat := [1, 1, 2, 2, 4, 8, 16].getD w 16
def widthRegs (w : Nat) : Nat := [1, 1, 1, 1, 1, 2, 4].getD w 4

/-- The value that register k of a load's run receives from the bytes read (R296). -/
def widthValue (w k x : Nat) : Word :=
  match w with
  | 0 => BitVec.ofInt 32 (signed 8 x)
  | 2 => BitVec.ofInt 32 (signed 16 x)
  | _ => BitVec.ofNat 32 (bitsOf x (32 * k) 32)

/-- The address of lane l (R293). -/
def Warp.vaddr (w : Warp) (b a l : Nat) : DWord := w.s b + ((w.src a 0).at l).zeroExtend 64

/-- The lanes of m with their addresses. -/
def Warp.vaddrs (w : Warp) (b a : Nat) (m : Mask) : List (Nat × DWord) := (laneList m).map fun l => (l, w.vaddr b a l)

/-- The value found for lane l, or 0. -/
def pick (xs : List (Nat × Nat)) (l : Nat) : Nat := ((xs.find? fun x => x.1 = l).map Prod.snd).getD 0

/-- The results of a load: register k of the run in the lanes that were read. -/
def loadWrites (w d : Nat) (xs : List (Nat × Nat)) : List RegWrite :=
  let m := maskOf fun l => xs.any fun x => x.1 = l
  (List.range (widthRegs w)).map fun k => .v (d + k) m (Vec.ofFn fun l => widthValue w k (pick xs l))

/-- A vector load of a width (R296): la for the run, CP and SCH accepted; `scope` is that of a strong load. -/
def vectorLoad (w : Nat) (scope : Option (BitVec 3)) (l : BitVec 4) (d a : BitVec 7) (b : BitVec 5) : State → State :=
  unit [5] false false fun s => do
    need (s.destOk d.toNat (widthRegs w) && s.srcOk a.toNat)
    s.notPending (a.toNat :: (List.range (widthRegs w)).map (d.toNat + ·))
    s.popCheck [a.toNat] 1
    let as := s.w.vaddrs b.toNat a.toNat (s.actingLanes s.w.em)
    s.memReady (linesOf as)
    let (s1, fs) ← s.memCheck as (widthBytes w) .read (scope = some 6)
    let (s2, xs) ← s1.loadAll scope (widthBytes w) (located fs)
    let e ← s.memFinish .read (pagedOut fs)
      { s := s2, writes := loadWrites w d.toNat xs, la := l.toNat, load := .memory }
    .ok { e with s := { e.s with w := e.s.w.popped [a.toNat] 1 } }

/-- `ld.<w>` (R296). -/
def execLd (w : BitVec 3) (l : BitVec 4) (d a : BitVec 7) (b : BitVec 5) (s : State) : Host.Outcome State Fault Refusal :=
  .next (vectorLoad w.toNat none l d a b s)

/-- `ld.b32.st` (R296). -/
def execLdB32St (sc : BitVec 3) (l : BitVec 4) (d a : BitVec 7) (b : BitVec 5) (s : State) :
    Host.Outcome State Fault Refusal := .next (vectorLoad 4 (some sc) l d a b s)

/-- `ld.b64.st` (R296). -/
def execLdB64St (sc : BitVec 3) (l : BitVec 4) (d a : BitVec 7) (b : BitVec 5) (s : State) :
    Host.Outcome State Fault Refusal := .next (vectorLoad 5 (some sc) l d a b s)

/-- The bytes that lane l of a store's run gives (R296). -/
def storeBytes (w : Nat) (r : Warp) (v l : Nat) : List Byte :=
  (List.range (widthBytes w)).map fun i =>
    BitVec.ofNat 8 (((if v < 120 then r.v (v + i / 4) else r.src v 0).at l).toNat / 2 ^ (8 * (i % 4)))

/-- The launch line at a physical address, if it is one (R387): LD and column. -/
def launchLine (pa : Nat) : Option (Nat × Nat) :=
  let ld := pa / 2 ^ 38
  if ld < 4 ∧ Config.launchBase ld 0 ≤ pa ∧ pa < Config.launchBase ld 48 then some (ld, (pa - Config.launchBase ld 0) / 1024)
  else none

/-- The home slice hands a record on (R389), once DAY is set (R444); a column that is not exposed has no launch lines (R21), and one
whose base-die part is lost launches nothing (R442). -/
def State.handOn (ld col : Nat) (writer : Nat) (bytes : List Byte) (s : State) : State :=
  let words := (List.range 8).map fun i => BitVec.ofNat 64 (ofBytes ((bytes.drop (8 * i)).take 8))
  if ¬ (s.ldOf ld).day ∨ ¬ (s.ldOf ld).homes.getLsbD col then s
  else if (s.colOf ld col).hartLost then s.postError ld 3 writer (bitsOf (words.getD 2 0).toNat 32 6 * 2 ^ 32 + 0xFFFF_FFFF)
  else
    s.setLd ld { s.ldOf ld with handed := (s.ldOf ld).handed ++ [⟨words, BitVec.ofNat 10 writer, BitVec.ofNat 6 col⟩] }

/-- A strong store that writes exactly one launch line launches the record that its lanes wrote (R388): `ws` are the stores of all
its lanes, ascending. -/
def State.launchStore (ws : List (DWord × Loc × List Byte)) (s : State) : State :=
  match (ws.map fun w => w.2.1.pa / 64).eraseDups with
  | [line] =>
    match launchLine (64 * line), fullLines (ws.map fun w => w.2) with
    | some (ld, col), [_] =>
      if s.unreachable s.w.place.ld.toNat ld then s
      else
        let img := ws.foldl (fun (c : Cells Byte) w => w.2.2.zipIdx.foldl (fun c b => c.set 0 (w.2.1.pa + b.2) b.1) c) []
        s.handOn ld col (s.stallOf s.w) ((List.range 64).map fun i => img.get 0 (64 * line + i))
    | _, _ => s
  | _ => s

/-- The stores of the lanes of a unit in ascending order, those of an earlier execution of it among them (R268). -/
def State.laneStores (s : State) (f : Nat → List Byte) (done : List (Nat × DWord)) (now : List (Nat × DWord × Loc)) :
    List (DWord × Loc × List Byte) :=
  let old := done.filterMap fun a => match (s.xlate a.2 .write).2 with | .ok l => some (a.1, a.2, l) | .error _ => none
  lanes.flatMap fun l => ((old ++ now).filter fun x => x.1 = l).map fun x => (x.2.1, x.2.2, f l)

/-- A vector store of a width under a guard (R296); `scope` is that of a strong store, which launches at device scope or wider. -/
def vectorStore (w : Nat) (scope : Option (BitVec 3)) (g : BitVec 4) (v a : BitVec 7) (b : BitVec 5) : State → State :=
  unit [5] false false fun s => do
    need (s.srcOk a.toNat && (if widthRegs w = 1 then s.srcOk v.toNat else s.destOk v.toNat (widthRegs w)))
    s.notPending (a.toNat :: (List.range (widthRegs w)).map (v.toNat + ·))
    s.popCheck [a.toNat, v.toNat] 1
    let m := s.w.em &&& s.w.guard g
    let as := s.w.vaddrs b.toNat a.toNat (s.actingLanes m)
    let done := s.w.vaddrs b.toNat a.toNat (s.doneLanes m)
    s.memReady (linesOf as)
    let (s1, fs) ← s.memCheck as (widthBytes w) .write false
    let bytes := fun l => storeBytes w s.w v.toNat l
    let s2 ← s1.storeAll scope (s1.doneRanges done (widthBytes w)) ((located fs).map fun f => (f.1, f.2.1, f.2.2, bytes f.1))
    let launches := (scope.any fun c => 4 ≤ c.toNat) && (pagedOut fs).isEmpty
    let s3 := if launches then s2.launchStore (s1.laneStores bytes done (located fs)) else s2
    let e ← s.memFinish .write (pagedOut fs) { s := s3 }
    .ok { e with s := { e.s with w := e.s.w.popped [a.toNat, v.toNat] 1 } }

/-- `st.<w>` (R296). -/
def execSt (w : BitVec 3) (g : BitVec 4) (v a : BitVec 7) (b : BitVec 5) (s : State) : Host.Outcome State Fault Refusal :=
  .next (vectorStore w.toNat none g v a b s)

/-- `st.b32.st` (R296, R388). -/
def execStB32St (sc : BitVec 3) (g : BitVec 4) (v a : BitVec 7) (b : BitVec 5) (s : State) :
    Host.Outcome State Fault Refusal := .next (vectorStore 4 (some sc) g v a b s)

/-! Operations charged to counters. -/

/-- A counter can take one more charge (R299). -/
def State.canCharge (s : State) (ac : BitVec 4) : Except Stop Unit :=
  ready ((s.w.counter ac.toNat).cnt ≠ BitVec.allOnes 16) s

/-- Charge a counter and place an operation (R299). -/
def State.issueOp (ac : BitVec 4) (kind : OpKind) (s : State) : State :=
  let c := s.w.counter ac.toNat
  { s with
    w := s.w.setCounter ac.toNat { c with cnt := c.cnt + 1 }
    ops := s.ops ++ [⟨s.nextOp, s.w.place, ac, s.tick.toNat + s.opLatency, 0, s.w.issued, kind, []⟩]
    nextOp := s.nextOp + 1 }

/-- An operation completes (R299): its ERR bits and its decrement in one step; a warp that waits is looked at again. -/
def State.releaseOp (o : Op) (err : BitVec 3) (s : State) : State :=
  { (s.mapWarps fun w =>
      if w.place = o.place then
        let c := w.counter o.ac.toNat
        (w.setCounter o.ac.toNat ⟨c.cnt - 1, c.err ||| o.err ||| err⟩).unparkReady
      else w) with
    ops := s.ops.filter fun x => x.id ≠ o.id }

def State.findOp (s : State) (id : Nat) : Option Op := s.ops.find? fun o => o.id = id

/-- The running warp as the agent of an operation that it issued (R267, R330). -/
def State.opAgent (s : State) (o : Op) : Agent := { s.me none with order := o.order }

/-- The locations that aims name. -/
def aimLocs (aims : List (Nat × Aim)) : List Loc := aims.filterMap fun a => match a.2 with | .at_ l => some l | .lost _ _ => none

/-- One weak read of n bytes for an operation of the running warp, where it was translated at issue (R302): 0 and an ERR bit when
it fails. What it allocates is the request of all lanes `aims` for the line (R322). -/
def State.asyncRead (s : State) (ag : Agent) (aims : List (Nat × Aim)) (aim : Aim) (n : Nat) (cp : Nat × Nat) :
    State × Nat × BitVec 3 :=
  match aim with
  | .lost e _ => (s, 0, e)
  | .at_ l =>
    match s.readLoc ag l n with
    | (s1, .ok x) =>
      let t := touchedWords n (l.pa / 64) (aimLocs aims)
      (s1.allocate s.w.place l t (BitVec.ofNat 16 cp.1 ||| t) cp.2, x, 0)
    | (s1, .error e) => ((if e = .poison then s1.consumePoison l else e.note s1), 0, e.err)

/-- The aim of a lane. -/
def aimOf (aims : List (Nat × Aim)) (l : Nat) : Aim := ((aims.find? fun a => a.1 = l).map Prod.snd).getD (.lost 0 0)

/-- A unit that executes again in full after its page faults: it parks at the first of them (R302, R356). -/
def State.pageFaultWhole (s : State) (fs : List (Nat × DWord × BitVec 2 × Nat)) : State :=
  match fs with
  | [] => s
  | (_, va, st, g) :: _ => s.faultPark va .read st g (maskOf fun l => fs.any fun f => f.1 = l)

/-- `ldp.<w>` (R302, R303). -/
def execLdp (c : BitVec 4) (w : BitVec 3) (d a : BitVec 7) (b : BitVec 5) (s : State) : Host.Outcome State Fault Refusal :=
  .next (unit [5] false false (fun s => do
    let n := widthRegs w.toNat
    need (s.destOk d.toNat n && s.srcOk a.toNat)
    s.notPending (a.toNat :: (List.range n).map (d.toNat + ·))
    s.popCheck [a.toNat] 1
    let as := s.w.vaddrs b.toNat a.toNat s.w.em
    s.memReady (linesOf as)
    s.canCharge c
    match as.find? fun x => x.2.toNat % widthBytes w.toNat ≠ 0 with
    | some x => .error (.trap 0x04 x.2)
    | none =>
      match State.locateIssue (widthBytes w.toNat) .read as s with
      | (s1, some va, _, _) => .error (.enter (s1.trap 0x06 va))
      | (s1, none, p :: ps, _) => .error (.enter (s1.pageFaultWhole (p :: ps)))
      | (s1, none, [], aims) =>
        let s2 := if as.isEmpty then s1 else s1.issueOp c (.ldp w d.toNat s.w.em aims s.w.cp)
        .ok { s := { s2 with w := s2.w.popped [a.toNat] 1 } }) s)

/-- A reply of a split-phase load writes its lane; the last completes the operation (R303). A lane whose request waits for a link, a
port or its slice has no reply yet (R330, R377, R379). -/
def execLdpReply (op : Nat) (ln : BitVec 6) (s : State) : Host.Outcome State Fault Refusal :=
  .next (
    match s.findOp op with
    | none => s
    | some o =>
      match o.kind with
      | .ldp w vd left aims cp =>
        if ¬ lane left ln.toNat then s
        else s.atWarp o.place fun s =>
          let ag := s.opAgent o
          match s.waiting ag false (aimLocs [(0, aimOf aims ln.toNat)]) with
          | t :: ts => s.refuseAll ag (t :: ts)
          | [] =>
            let (s1, x, err) := s.asyncRead ag aims (aimOf aims ln.toNat) (widthBytes w.toNat) cp
            let s2 := { s1 with w := s1.w.apply (loadWrites w.toNat vd [(ln.toNat, x)]) }
            let left' := left &&& ~~~ ((1 : Mask) <<< ln.toNat)
            if left' = 0 then s2.releaseOp o err
            else
              { s2 with ops := s2.ops.map fun y =>
                  if y.id = op then { o with err := o.err ||| err, kind := .ldp w vd left' aims cp } else y }
      | _ => s)

/-- `gath.<w>` (R305). DESIGN CHOICE (assumption 69): the queue that holds the addresses is tested before the target queue's room. -/
def execGath (c : BitVec 4) (q : BitVec 2) (w : BitVec 3) (a : BitVec 7) (b : BitVec 5) (s : State) :
    Host.Outcome State Fault Refusal :=
  .next (unit [5] false false (fun s => do
    need (s.srcOk a.toNat)
    s.notPending [a.toNat]
    s.popCheck [a.toNat] 1
    trapIf (8 ≤ (s.w.queue q.toNat).length) 0x08 (BitVec.ofNat 64 (0x100 + q.toNat))
    let as := s.w.vaddrs b.toNat a.toNat s.w.em
    s.memReady (linesOf as)
    s.canCharge c
    match as.find? fun x => x.2.toNat % widthBytes w.toNat ≠ 0 with
    | some x => .error (.trap 0x04 x.2)
    | none =>
      match State.locateIssue (widthBytes w.toNat) .read as s with
      | (s1, some va, _, _) => .error (.enter (s1.trap 0x06 va))
      | (s1, none, p :: ps, _) => .error (.enter (s1.pageFaultWhole (p :: ps)))
      | (s1, none, [], aims) =>
        let w1 := s1.w.popped [a.toNat] 1
        let e : QEntry := ⟨s1.nextOp, if as.isEmpty then some Vec.zero else none⟩
        let s2 := { s1 with w := w1.setQueue q.toNat (w1.queue q.toNat ++ [e]) }
        .ok { s := if as.isEmpty then { s2 with nextOp := s2.nextOp + 1 }
                   else s2.issueOp c (.gath w q.toNat s.w.em aims s.w.cp) }) s)

/-- The reads of a gather, lane by lane (R305). -/
def gatherReads (ag : Agent) (w : Nat) (cp : Nat × Nat) (aims : List (Nat × Aim)) : List (Nat × Aim) → State →
    State × List (Nat × Nat) × BitVec 3
  | [], s => (s, [], 0)
  | (l, aim) :: r, s =>
    let (s1, x, e) := s.asyncRead ag aims aim (widthBytes w) cp
    let (s2, xs, e2) := gatherReads ag w cp aims r s1
    (s2, (l, x) :: xs, e ||| e2)

/-- A gather completes (R305): its entry, unless `qdrop` removed it, and its charge; not while a request of it waits (R330, R377). -/
def execGatherCompletion (op : Nat) (s : State) : Host.Outcome State Fault Refusal :=
  .next (
    match s.findOp op with
    | none => s
    | some o =>
      match o.kind with
      | .gath w q _ aims cp =>
        s.atWarp o.place fun s =>
          let ag := s.opAgent o
          match s.waiting ag false (aimLocs aims) with
          | t :: ts => s.refuseAll ag (t :: ts)
          | [] =>
            let (s1, xs, err) := gatherReads ag w.toNat cp aims aims s
            let v := Vec.ofFn fun l => if xs.any (fun x => x.1 = l) then widthValue w.toNat 0 (pick xs l) else 0
            let es := (s1.w.queue q).map fun e => if e.op = op then { e with value := some v } else e
            ({ s1 with w := s1.w.setQueue q es }).releaseOp o err
      | _ => s)

end Sys2Proof.Machine
end

