-- ==== Sys2Proof/Machine/Flags.lean ====
section
/-! DEFINITION. The FSTAT flags (R174) and the rounding of an exact value with every flag it sets (R165 to R171). -/

namespace Sys2Proof.Machine

/-- The flags of Table 7 of R174. -/
def flagNV : BitVec 8 := 0x01
def flagDZ : BitVec 8 := 0x02
def flagOF : BitVec 8 := 0x04
def flagUF : BitVec 8 := 0x08
def flagNX : BitVec 8 := 0x10
def flagTail : BitVec 8 := 0x20
def flagLoss : BitVec 8 := 0x40

/-- A flag when b. -/
def flagIf (b : Bool) (f : BitVec 8) : BitVec 8 := if b then f else 0

/-- The element formats of R157. -/
inductive Fmt
  | f32 | bf16 | f16 | e4m3 | e5m2 | e2m1 | i8 | i4 | i4x
deriving DecidableEq, Repr

/-- A format code (R157): 9 to 15 are reserved. -/
def Fmt.ofCode (n : Nat) : Option Fmt :=
  [Fmt.f32, .bf16, .f16, .e4m3, .e5m2, .e2m1, .i8, .i4, .i4x][n]?

def Fmt.width : Fmt → Nat
  | .f32 => 32 | .bf16 => 16 | .f16 => 16 | .e4m3 => 8 | .e5m2 => 8 | .e2m1 => 4 | .i8 => 8 | .i4 => 4 | .i4x => 4

def Fmt.isInt : Fmt → Bool
  | .i8 => true | .i4 => true | .i4x => true | _ => false

/-- Mantissa bits, smallest exponent and bias (Table 2 of R159). -/
def Fmt.mant : Fmt → Nat
  | .f32 => 23 | .bf16 => 7 | .f16 => 10 | .e4m3 => 3 | .e5m2 => 2 | .e2m1 => 1 | _ => 0
def Fmt.emin : Fmt → Int
  | .f32 => -126 | .bf16 => -126 | .f16 => -14 | .e4m3 => -6 | .e5m2 => -14 | _ => 0
def Fmt.hasInf : Fmt → Bool
  | .f32 => true | .bf16 => true | .f16 => true | .e5m2 => true | _ => false

/-- Emax of Table 1 of R157, which `vscl` uses. -/
def Fmt.emax : Fmt → Int
  | .e4m3 => 8 | .e5m2 => 15 | .e2m1 => 2 | .i8 => 6 | .i4 => 2 | .i4x => 2 | _ => 0

/-- Code of the largest finite value of positive sign (R159), and the canonical NaN (R160; 0 where R169 gives 0). -/
def Fmt.maxCode : Fmt → Nat
  | .f32 => 0x7F7FFFFF | .bf16 => 0x7F7F | .f16 => 0x7BFF | .e4m3 => 0x7E | .e5m2 => 0x7B | .e2m1 => 0x7
  | .i8 => 0x7F | .i4 => 0x7 | .i4x => 0x7
def Fmt.nanCode : Fmt → Nat
  | .f32 => 0x7FC00000 | .bf16 => 0x7FC0 | .f16 => 0x7E00 | .e4m3 => 0x7F | .e5m2 => 0x7E | _ => 0

/-- The sign bit of a format. -/
def Fmt.sign (f : Fmt) (neg : Bool) : Nat := if neg then 2 ^ (f.width - 1) else 0

/-- fm.ftz applies to these formats only (R171). -/
def Fmt.flushes : Fmt → Bool
  | .f32 => true | .bf16 => true | .f16 => true | _ => false

/-- An extended real: NaN (signalling or quiet), an infinity, or (-1)^neg × m × 2^e, plus less than 2^e more of magnitude when
`more` (the exact quotient or root lies strictly between two multiples of 2^e). -/
inductive Num
  | nan (sig : Bool) | inf (neg : Bool) | fin (neg : Bool) (m : Nat) (e : Int) (more : Bool)
deriving DecidableEq, Repr

def Num.zero (neg : Bool) : Num := .fin neg 0 0 false

/-- Decode of R159 and R161, with subnormals read as zeros of their sign under ftz (R141). -/
def Fmt.decode (f : Fmt) (ftz : Bool) (c : Nat) : Num :=
  if f.isInt then
    let v := signed f.width c
    .fin (v < 0) v.natAbs 0 false
  else
    let m := f.mant
    let s := bitsOf c (f.width - 1) 1 = 1
    let e := bitsOf c m (f.width - 1 - m)
    let x := bitsOf c 0 m
    let ones := e = 2 ^ (f.width - 1 - m) - 1
    if f = .e4m3 ∧ ones ∧ x = 7 then .nan false
    else if f.hasInf ∧ ones then if x = 0 then .inf s else .nan (x < 2 ^ (m - 1))
    else if e = 0 then .fin s (if ftz ∧ f.flushes then 0 else x) (f.emin - m) false
    else .fin s (2 ^ m + x) (f.emin + e - 1 - m) false

/-- |x| cut at a spacing q (R165): lo ÷ q, the exponent of q, and the rest |x| - lo as a part of 2^bits. -/
structure Cut where
  units : Nat
  qe : Int
  rest : Nat
  bits : Nat
  more : Bool
deriving DecidableEq, Repr

/-- Two to the power of an integer, applied to a natural number; only nonnegative powers occur. -/
def scaleUp (m : Nat) (e : Int) : Nat := m * 2 ^ e.toNat

def cutAt (qe : Int) (m : Nat) (e : Int) (more : Bool) : Cut :=
  if qe ≤ e then ⟨scaleUp m (e - qe), qe, 0, 0, more⟩
  else
    let k := (qe - e).toNat
    ⟨m / 2 ^ k, qe, m % 2 ^ k, k, more⟩

/-- m × 2^e cut at the spacing of R165: 1 for an integer format, and no finer than that of the smallest normals. -/
def Fmt.cut (f : Fmt) (m : Nat) (e : Int) (more : Bool) : Cut :=
  cutAt (if f.isInt then 0 else max (e + Nat.log2 m) f.emin - f.mant) m e more

def Cut.exact (c : Cut) : Bool := c.rest = 0 && ¬ c.more

/-- The discarded field of R165. -/
def Cut.discarded (c : Cut) : BitVec 32 := BitVec.ofNat 32 (2 ^ 32 * c.rest / 2 ^ c.bits)

/-- Whether hi is taken instead of lo (Table 4 of R166), for an inexact value; thr is the threshold of R167. -/
def Cut.up (c : Cut) (mode : Nat) (neg : Bool) (thr : Nat) : Bool :=
  let twice := 2 * c.rest
  let half := 2 ^ c.bits
  match mode with
  | 0 => half < twice || (twice = half && (c.more || c.units % 2 = 1))
  | 1 => false
  | 2 => ¬ neg
  | 3 => neg
  | 4 => half ≤ twice
  | _ => thr < bitsOf c.discarded.toNat 16 16

/-- lo or hi of R165 in units of the spacing. -/
def Cut.near (c : Cut) (mode : Nat) (neg : Bool) (thr : Nat) : Nat :=
  if c.exact then c.units else c.units + (c.up mode neg thr).toNat

/-- Tininess after rounding as IEEE 754 has it (R141): the value, rounded to the format's precision as if its exponent had no
lower bound, lies below the smallest normal. RS, which IEEE 754 does not have, is judged by the result alone. DEDUCED
(assumption 35). -/
def Fmt.tiny (f : Fmt) (mode : Nat) (neg : Bool) (m : Nat) (e : Int) (more : Bool) : Bool :=
  let p := e + Nat.log2 m
  let free := (cutAt (p - f.mant) m e more).near mode neg 0
  mode ≠ 5 && (p < f.emin - 1 || (p = f.emin - 1 && free < 2 ^ (f.mant + 1)))

/-- The code of ±units × 2^qe on the grid of a float format, within its range. -/
def Fmt.encode (f : Fmt) (neg : Bool) (units : Nat) (qe : Int) : Nat :=
  f.sign neg + (if units = 0 then 0 else scaleUp 1 f.mant * (qe - (f.emin - f.mant)).toNat + units)

/-- The result of an overflow or of an infinite value (Table 5 of R168). -/
def Fmt.overflow (f : Fmt) (mode : Nat) (sat neg infinite : Bool) : Nat :=
  let big := if f.hasInf then f.sign neg + (2 ^ (f.width - 1 - f.mant) - 1) * 2 ^ f.mant else f.nanCode
  let top := f.sign neg + f.maxCode
  if sat ∨ f = .e2m1 then top
  else if infinite then big
  else
    match mode with
    | 1 => top
    | 2 => if neg then top else big
    | 3 => if neg then big else top
    | _ => big

/-- Exponent of the spacing of the largest finite values, and that largest value in units of it. -/
def Fmt.top (f : Fmt) : Nat × Int :=
  let m := f.mant
  (2 ^ m + bitsOf f.maxCode 0 m, f.emin + bitsOf f.maxCode m (f.width - 1 - m) - 1 - m)

/-- `Round` into a float format of a nonzero finite value m × 2^e (R165, R168, R171). The flush of fm.ftz and UF go by the
result that `Round` gives. -/
def Fmt.roundFinite (f : Fmt) (mode : Nat) (sat ftz : Bool) (thr : Nat) (neg : Bool) (m : Nat) (e : Int) (more : Bool) :
    Nat × BitVec 8 :=
  let c := f.cut m e more
  let y := c.near mode neg thr
  if f.top.2 < c.qe ∨ (c.qe = f.top.2 ∧ f.top.1 < y) then (f.overflow mode sat neg false, flagOF ||| flagNX)
  else
    let low := y < 2 ^ f.mant ∧ c.qe = f.emin - f.mant
    if low ∧ ftz ∧ f.flushes then (f.sign neg, flagUF ||| flagNX)
    else (f.encode neg y c.qe, flagIf (low ∧ ¬ c.exact) flagUF ||| flagIf (¬ c.exact) flagNX)

/-- `Round` into an integer format (R170). -/
def Fmt.roundInt (f : Fmt) (mode : Nat) (thr : Nat) (neg : Bool) (c : Cut) : Nat × BitVec 8 :=
  let y := c.near mode neg thr
  let v : Int := if neg then -(y : Int) else y
  let hi : Int := 2 ^ (f.width - 1) - 1
  let w := if hi < v then hi else if v < -hi - 1 then -hi - 1 else v
  ((BitVec.ofInt f.width w).toNat, if w ≠ v then flagNV else flagIf (¬ c.exact) flagNX)

/-- `Round(x, fmt, mode)` (R165 to R171): the code and the flags. -/
def Fmt.round (f : Fmt) (mode : Nat) (sat ftz : Bool) (thr : Nat) (x : Num) : Nat × BitVec 8 :=
  match x with
  | .nan sig => (f.nanCode, flagIf (sig ∨ f.isInt ∨ f = .e2m1) flagNV)
  | .inf neg =>
    if f.isInt then (if neg then 2 ^ (f.width - 1) else f.maxCode, flagNV)
    else (f.overflow mode sat neg true, flagIf (sat ∨ ¬ f.hasInf) (flagOF ||| flagNX))
  | .fin neg m e more =>
    if m = 0 then (if f.isInt then 0 else f.sign neg, 0)
    else if f.isInt then f.roundInt mode thr neg (f.cut m e more)
    else f.roundFinite mode sat ftz thr neg m e more

/-- UF of a form of R141, which detects tininess as IEEE 754 does: also where the result is the smallest normal (assumption 35). -/
def Fmt.ieeeUf (f : Fmt) (mode : Nat) : Option Num → BitVec 8
  | some (.fin neg m e more) => flagIf (m ≠ 0 ∧ f.tiny mode neg m e more ∧ ¬ (f.cut m e more).exact) flagUF
  | _ => 0

/-- The discarded field of an element (R165): 0 for an element not acted on, a NaN, an infinity or a zero. -/
def Fmt.discarded (f : Fmt) : Option Num → BitVec 32
  | some (.fin _ m e more) => if m = 0 then 0 else (f.cut m e more).discarded
  | _ => 0

/-- The threshold of element i under RS (R167). -/
def rsThreshold (ds : List (BitVec 32)) (i : Nat) : Nat :=
  let b := i - i % 8
  let p := ds.getD (b + (i % 8 + 7) % 8) 0
  let q := ds.getD (b + (i % 8 + 1) % 8) 0
  bitsOf (p.rotateLeft 5 ^^^ q ^^^ BitVec.ofNat 32 (i * 0x9E37)).toNat 0 16

/-- The elements of an instruction rounded (R165 to R171), element i of the list numbered i; none is not acted on. -/
def Fmt.roundAll (f : Fmt) (mode : Nat) (sat ftz : Bool) (xs : List (Option Num)) : List (Option Nat) × BitVec 8 :=
  let ds := if mode = 5 then xs.map f.discarded else []
  let rs := xs.zipIdx.map fun x => x.1.map fun v => f.round mode sat ftz (if mode = 5 then rsThreshold ds x.2 else 0) v
  (rs.map fun r => r.map Prod.fst, rs.foldl (fun a r => a ||| (r.map Prod.snd).getD 0) 0)

/-- Rounding, saturation and flush fields of `fm` (R172). -/
def fmMode (fm : BitVec 19) : Nat := bitsOf fm.toNat 12 3
def fmSat (fm : BitVec 19) : Bool := fm.getLsbD 15
def fmFtz (fm : BitVec 19) : Bool := fm.getLsbD 16
def fmBlock (fm : BitVec 19) : Nat := bitsOf fm.toNat 17 2
def fmA (fm : BitVec 19) : Nat := bitsOf fm.toNat 0 4
def fmB (fm : BitVec 19) : Nat := bitsOf fm.toNat 4 4
def fmC (fm : BitVec 19) : Nat := bitsOf fm.toNat 8 4

/-- Rounding codes 6 and 7 are reserved (R166). -/
def modeOk (fm : BitVec 19) : Bool := fmMode fm < 6

end Sys2Proof.Machine
end

