-- ==== Sys2Proof/Machine/Numbers.lean ====
section
/-! DEFINITION. Exact arithmetic on the values that formats hold (R141, R144), packed elements (R158), block scales (R162) and
I4X blocks (R164, R180). -/

namespace Sys2Proof.Machine

def Num.isNan : Num → Bool
  | .nan _ => true
  | _ => false

def Num.isSig : Num → Bool
  | .nan s => s
  | _ => false

def Num.neg? : Num → Bool
  | .inf n => n
  | .fin n _ _ _ => n
  | _ => false

def Num.negate : Num → Num
  | .nan s => .nan s
  | .inf n => .inf (¬ n)
  | .fin n m e x => .fin (¬ n) m e x

/-- A finite value times 2^k. -/
def Num.scale (k : Int) : Num → Num
  | .fin n m e x => .fin n m (e + k) x
  | x => x

def Num.isZero : Num → Bool
  | .fin _ 0 _ _ => true
  | _ => false

/-- The exact product, and whether it is invalid: a signalling NaN, or 0 × ∞ (R141). A zero product takes the exclusive or of
the signs; DESIGN CHOICE (assumption 53): also where an integer element is a factor (R231), to whose zero the manual gives no
sign. -/
def Num.mul (a b : Num) : Num × Bool :=
  match a, b with
  | .nan s, y => (.nan false, s || y.isSig)
  | x, .nan s => (.nan false, s || x.isSig)
  | .inf n, y => if y.isZero then (.nan false, true) else (.inf (n ^^ y.neg?), false)
  | x, .inf n => if x.isZero then (.nan false, true) else (.inf (n ^^ x.neg?), false)
  | .fin n m e _, .fin k p f _ => (.fin (n ^^ k) (m * p) (e + f) false, false)

/-- The least exponent of the finite nonzero values of a list. -/
def minExp : List Num → Option Int
  | [] => none
  | .fin _ (_ + 1) e _ :: r => match minExp r with
    | none => some e
    | some f => some (min e f)
  | _ :: r => minExp r

/-- A finite value in units of 2^e0. -/
def Num.units (e0 : Int) : Num → Int
  | .fin n m e _ => let v : Int := scaleUp m (e - e0); if n then -v else v
  | _ => 0

/-- The exact sum, and whether it is invalid: a signalling NaN or infinities of both signs, also beside a quiet NaN (R141,
R148, R204, R232). A zero sum of zeros of one sign keeps it; otherwise it is -0 under RD and +0 in every other mode. The empty
sum is +0. -/
def Num.sum (rd : Bool) (xs : List Num) : Num × Bool :=
  let sig := xs.any Num.isSig
  let hasInf := fun n => xs.any fun x => x = .inf n
  if hasInf true ∧ hasInf false then (.nan false, true)
  else if xs.any Num.isNan then (.nan false, sig)
  else if hasInf true then (.inf true, sig)
  else if hasInf false then (.inf false, sig)
  else
    let e := (minExp xs).getD 0
    let t := (xs.map (Num.units e)).sum
    if t ≠ 0 then (.fin (t < 0) t.natAbs e false, sig)
    else if xs.any Num.neg? ∧ xs.any (fun x => ¬ x.neg?) then (.zero rd, sig)
    else (.zero (xs.any Num.neg?), sig)

/-- The order of two values that are no NaN, with -0 equal to +0: a < b. -/
def Num.lt (a b : Num) : Bool :=
  match a, b with
  | .inf n, .inf k => n && ¬ k
  | .inf n, _ => n
  | _, .inf k => ¬ k
  | x, y => let e := (minExp [x, y]).getD 0; x.units e < y.units e

def Num.eq (a b : Num) : Bool := ¬ a.lt b && ¬ b.lt a

/-- minimumNumber or maximumNumber (R144), and whether NV is set: -0 orders below +0. -/
def Num.minMax (wantMax : Bool) (a b : Num) : Num × Bool :=
  let nv := a.isSig || b.isSig
  if a.isNan ∧ b.isNan then (.nan false, nv)
  else if a.isNan then (b, nv)
  else if b.isNan then (a, nv)
  else
    let aLow := a.lt b || (a.eq b && a.neg? && ¬ b.neg?)
    ((if aLow = wantMax then b else a), nv)

/-- The value as an FP32, BF16 or FP16 code when it is exact. -/
def Fmt.code (f : Fmt) (x : Num) : Nat := (f.round 0 false false 0 x).1

/-! Packed elements (R158). -/

/-- Element j, of width w, of a run whose words are `run`. -/
def packGet (run : List Word) (w j : Nat) : Nat := bitsOf (run.getD (j * w / 32) 0).toNat (j * w % 32) w

/-- The word that holds codes of width w, the first lowest. -/
def packWord (w : Nat) : List Nat → Nat
  | [] => 0
  | c :: r => c % 2 ^ w + 2 ^ w * packWord w r

/-- The run that holds a list of codes of width w. -/
def packRun (w : Nat) (cs : List Nat) : List Word :=
  (List.range (cs.length * w / 32)).map fun k => BitVec.ofNat 32 (packWord w ((cs.drop (k * (32 / w))).take (32 / w)))

/-- The value of an E8M0 scale (R162). -/
def scaleValue (c : Nat) : Num := if c = 0xFF then .nan false else .fin false 1 ((c : Int) - 127) false

/-! I4X (R164, R180). -/

/-- The E4M3 code of an integer from -7 to 7. -/
def e4m3Int (v : Int) : Nat :=
  [0x00, 0x38, 0x40, 0x44, 0x48, 0x4A, 0x4C, 0x4E].getD v.natAbs 0 + (if v < 0 then 0x80 else 0)

/-- DecodeI4X of the slots from one on (R164): their E4M3 codes and the tail flag. -/
def i4xDecode : List Nat → List Nat × Bool
  | [] => ([], false)
  | c :: r =>
    if c ≠ 8 then
      let (o, t) := i4xDecode r
      (e4m3Int (signed 4 c) :: o, t)
    else
      match r with
      | a :: b :: r' =>
        let (o, t) := i4xDecode r'
        ((16 * a + b) :: 0 :: 0 :: o, t)
      | r => (0 :: r.map fun _ => 0, true)

/-- An E4M3 value that is an integer from -7 to 7. -/
def smallInt (x : Num) : Option Int :=
  match x with
  | .fin n m e _ =>
    let v := scaleUp m e
    let exact := e ≥ 0 ∨ m % 2 ^ (-e).toNat = 0
    let k := if e ≥ 0 then v else m / 2 ^ (-e).toNat
    if exact ∧ k ≤ 7 then some (if n then -(k : Int) else k) else none
  | _ => none

/-- The tail value of `vi4xe` (R180): rounded to I4 by RNE and clamped to -7 to 7. -/
def i4xTail (x : Num) : Nat :=
  let v := signed 4 (Fmt.round .i4 0 false false 0 x).1
  (BitVec.ofInt 4 (if v < -7 then -7 else v)).toNat

/-- `vi4xe` of the elements from one on (R180): the slots and whether a value was lost. -/
def i4xEncode : List Nat → List Nat × Bool
  | [] => ([], false)
  | c :: r =>
    let x := Fmt.decode .e4m3 false c
    match smallInt x, r with
    | some v, r =>
      let (o, l) := i4xEncode r
      ((BitVec.ofInt 4 v).toNat :: o, l)
    | none, a :: b :: r' =>
      let (o, l) := i4xEncode r'
      (8 :: c / 16 :: c % 16 :: o, l || a % 128 ≠ 0 || b % 128 ≠ 0)
    | none, r =>
      let (o, _) := i4xEncode r
      (i4xTail x :: o, true)

end Sys2Proof.Machine
end

