-- ==== Sys2Proof/Machine/Scalar.lean ====
section
/-! DEFINITION. Hint words (R47 to R57) and the scalar pipe: SR forms (R112 to R114), SI forms (R115 to R117) and the plain
and strong scalar loads and stores (R118, R119, R297). -/

namespace Sys2Proof.Machine

/-- A hint word joins its trap unit (R47). The fifth ends the unit with cause 0x03 (R49), after cause 0x01 of an earlier word
(R57); the offending word is the first duplicated one, or else the fifth. -/
def addHint (h : Hint) (s : State) : State :=
  if s.w.hints.length < 4 then { s with w := { s.w with hints := s.w.hints ++ [h], pc := s.w.pc + 4 } }
  else
    match s.w.badHint with
    | some x => s.trap 0x01 (x.2.zeroExtend 64)
    | none => s.trap 0x03 (BitVec.ofNat 64 ((mismatchAux [0, 1, 2, 3, 4, 5, 7] true [] ((s.w.hints ++ [h]).map hintKind) 0).getD 16))

/-- A hint word of kind 8 to 15 or with a reserved bit: the unit takes cause 0x01 with its first such word (R57). -/
def State.illegalHint (x : Word) (s : State) : State :=
  addHint (.sch 0) { s with w := { s.w with badHint := some (s.w.badHint.getD (s.w.hints.length, x)) } }

def execHintImm (p : BitVec 22) (s : State) : Host.Outcome State Fault Refusal := .next (addHint (.imm p) s)
def execHintImmh (p : BitVec 22) (s : State) : Host.Outcome State Fault Refusal := .next (addHint (.immh p) s)
def execHintRc (o : BitVec 22) (s : State) : Host.Outcome State Fault Refusal := .next (addHint (.rc o) s)
def execHintRep (t : BitVec 4) (n : BitVec 6) (s : State) : Host.Outcome State Fault Refusal := .next (addHint (.rep t n) s)
def execHintMod (p : BitVec 22) (s : State) : Host.Outcome State Fault Refusal := .next (addHint (.mod p) s)
/-- `hint.cp`: policies 4 to 7 are reserved values (R53), which make the word illegal (R37). -/
def execHintCp (p : BitVec 3) (sp : BitVec 16) (s : State) : Host.Outcome State Fault Refusal :=
  .next (if p.toNat < 4 then addHint (.cp p sp) s
    else s.illegalHint (BitVec.ofNat 32 (5 * 2 ^ 22 + p.toNat * 2 ^ 16 + sp.toNat)))
def execHintSch (c : BitVec 3) (s : State) : Host.Outcome State Fault Refusal := .next (addHint (.sch c) s)
def execHintKv (k : BitVec 8) (s : State) : Host.Outcome State Fault Refusal := .next (addHint (.kv k) s)

/-- 1 for true, 0 for false. -/
def ofBool (b : Bool) : DWord := if b then 1 else 0

/-- Leading and trailing zero bits of the low n bits of x; n for zero. -/
def leadingZeros (n x : Nat) : Nat := ((List.range n).find? fun i => x.testBit (n - 1 - i)).getD n
def trailingZeros (n x : Nat) : Nat := ((List.range n).find? fun i => x.testBit i).getD n

/-- Division as Table 3 of R113 gives it: all ones by zero; the quotient of -2^63 and -1 wraps to -2^63. -/
def divSigned (a b : DWord) : DWord := if b = 0 then BitVec.allOnes 64 else BitVec.ofInt 64 (a.toInt.tdiv b.toInt)
def divNat (a b : DWord) : DWord := if b = 0 then BitVec.allOnes 64 else BitVec.ofNat 64 (a.toNat / b.toNat)
def remSigned (a b : DWord) : DWord := if b = 0 then a else BitVec.ofInt 64 (a.toInt.tmod b.toInt)
def remNat (a b : DWord) : DWord := if b = 0 then a else BitVec.ofNat 64 (a.toNat % b.toNat)

/-- The field of R114: its lowest bit and its mask. -/
def fieldMask (b : DWord) : Nat × DWord :=
  let lo := bitsOf b.toNat 0 6
  let w := if 64 < bitsOf b.toNat 8 7 then 64 else bitsOf b.toNat 8 7
  let hi := if 64 < lo + w then 64 else lo + w
  (lo, BitVec.ofNat 64 (2 ^ hi - 2 ^ lo))

def bitField (a b : DWord) : DWord := (a &&& (fieldMask b).2) >>> (fieldMask b).1
def bitInsert (a b d : DWord) : DWord :=
  (d &&& ~~~(fieldMask b).2) ||| ((a <<< (fieldMask b).1) &&& (fieldMask b).2)

/-- `add` (R113). -/
def execAdd (d a b : BitVec 6) (s : State) : Host.Outcome State Fault Refusal :=
  .next (srOp d a b (fun A B _ => A + B) s)

/-- `sub` (R113). -/
def execSub (d a b : BitVec 6) (s : State) : Host.Outcome State Fault Refusal :=
  .next (srOp d a b (fun A B _ => A - B) s)

/-- `mul` (R113). -/
def execMul (d a b : BitVec 6) (s : State) : Host.Outcome State Fault Refusal :=
  .next (srOp d a b (fun A B _ => A * B) s)

/-- `mulh` (R113). -/
def execMulh (d a b : BitVec 6) (s : State) : Host.Outcome State Fault Refusal :=
  .next (srOp d a b (fun A B _ => BitVec.ofInt 64 (A.toInt * B.toInt / 2 ^ 64)) s)

/-- `mulhn` (R113). -/
def execMulhn (d a b : BitVec 6) (s : State) : Host.Outcome State Fault Refusal :=
  .next (srOp d a b (fun A B _ => BitVec.ofNat 64 (A.toNat * B.toNat / 2 ^ 64)) s)

/-- `div` (R113). -/
def execDiv (d a b : BitVec 6) (s : State) : Host.Outcome State Fault Refusal :=
  .next (srOp d a b (fun A B _ => divSigned A B) s)

/-- `divn` (R113). -/
def execDivn (d a b : BitVec 6) (s : State) : Host.Outcome State Fault Refusal :=
  .next (srOp d a b (fun A B _ => divNat A B) s)

/-- `rem` (R113). -/
def execRem (d a b : BitVec 6) (s : State) : Host.Outcome State Fault Refusal :=
  .next (srOp d a b (fun A B _ => remSigned A B) s)

/-- `remn` (R113). -/
def execRemn (d a b : BitVec 6) (s : State) : Host.Outcome State Fault Refusal :=
  .next (srOp d a b (fun A B _ => remNat A B) s)

/-- `and` (R113). -/
def execAnd (d a b : BitVec 6) (s : State) : Host.Outcome State Fault Refusal :=
  .next (srOp d a b (fun A B _ => A &&& B) s)

/-- `or` (R113). -/
def execOr (d a b : BitVec 6) (s : State) : Host.Outcome State Fault Refusal :=
  .next (srOp d a b (fun A B _ => A ||| B) s)

/-- `xor` (R113). -/
def execXor (d a b : BitVec 6) (s : State) : Host.Outcome State Fault Refusal :=
  .next (srOp d a b (fun A B _ => A ^^^ B) s)

/-- `andn` (R113). -/
def execAndn (d a b : BitVec 6) (s : State) : Host.Outcome State Fault Refusal :=
  .next (srOp d a b (fun A B _ => A &&& ~~~B) s)

/-- `shl` (R113). -/
def execShl (d a b : BitVec 6) (s : State) : Host.Outcome State Fault Refusal :=
  .next (srOp d a b (fun A B _ => A <<< (B.toNat % 64)) s)

/-- `shr` (R113). -/
def execShr (d a b : BitVec 6) (s : State) : Host.Outcome State Fault Refusal :=
  .next (srOp d a b (fun A B _ => A >>> (B.toNat % 64)) s)

/-- `sar` (R113). -/
def execSar (d a b : BitVec 6) (s : State) : Host.Outcome State Fault Refusal :=
  .next (srOp d a b (fun A B _ => A.sshiftRight (B.toNat % 64)) s)

/-- `rol` (R113). -/
def execRol (d a b : BitVec 6) (s : State) : Host.Outcome State Fault Refusal :=
  .next (srOp d a b (fun A B _ => A.rotateLeft (B.toNat % 64)) s)

/-- `min` (R113). -/
def execMin (d a b : BitVec 6) (s : State) : Host.Outcome State Fault Refusal :=
  .next (srOp d a b (fun A B _ => if A.toInt ≤ B.toInt then A else B) s)

/-- `max` (R113). -/
def execMax (d a b : BitVec 6) (s : State) : Host.Outcome State Fault Refusal :=
  .next (srOp d a b (fun A B _ => if A.toInt ≤ B.toInt then B else A) s)

/-- `minn` (R113). -/
def execMinn (d a b : BitVec 6) (s : State) : Host.Outcome State Fault Refusal :=
  .next (srOp d a b (fun A B _ => if A.toNat ≤ B.toNat then A else B) s)

/-- `maxn` (R113). -/
def execMaxn (d a b : BitVec 6) (s : State) : Host.Outcome State Fault Refusal :=
  .next (srOp d a b (fun A B _ => if A.toNat ≤ B.toNat then B else A) s)

/-- `clz` (R113). -/
def execClz (d a : BitVec 6) (s : State) : Host.Outcome State Fault Refusal :=
  .next (srOp d a 0 (fun A _ _ => BitVec.ofNat 64 (leadingZeros 64 A.toNat)) s)

/-- `ctz` (R113). -/
def execCtz (d a : BitVec 6) (s : State) : Host.Outcome State Fault Refusal :=
  .next (srOp d a 0 (fun A _ _ => BitVec.ofNat 64 (trailingZeros 64 A.toNat)) s)

/-- `popc` (R113). -/
def execPopc (d a : BitVec 6) (s : State) : Host.Outcome State Fault Refusal :=
  .next (srOp d a 0 (fun A _ _ => BitVec.ofNat 64 (popCount A.toNat 64)) s)

/-- `sext.b` (R113). -/
def execSextB (d a : BitVec 6) (s : State) : Host.Outcome State Fault Refusal :=
  .next (srOp d a 0 (fun A _ _ => BitVec.ofInt 64 (signed 8 A.toNat)) s)

/-- `sext.h` (R113). -/
def execSextH (d a : BitVec 6) (s : State) : Host.Outcome State Fault Refusal :=
  .next (srOp d a 0 (fun A _ _ => BitVec.ofInt 64 (signed 16 A.toNat)) s)

/-- `sext.w` (R113). -/
def execSextW (d a : BitVec 6) (s : State) : Host.Outcome State Fault Refusal :=
  .next (srOp d a 0 (fun A _ _ => BitVec.ofInt 64 (signed 32 A.toNat)) s)

/-- `mov` (R113). -/
def execMov (d a : BitVec 6) (s : State) : Host.Outcome State Fault Refusal :=
  .next (srOp d a 0 (fun A _ _ => A) s)

/-- `bfx` (R114). -/
def execBfx (d a b : BitVec 6) (s : State) : Host.Outcome State Fault Refusal :=
  .next (srOp d a b (fun A B _ => bitField A B) s)

/-- `bfi` (R114): the old sd is a source. -/
def execBfi (d a b : BitVec 6) (s : State) : Host.Outcome State Fault Refusal :=
  .next (srOp d a b (fun A B D => bitInsert A B D) s)

/-- `cmp.eq` (R113). -/
def execCmpEq (d a b : BitVec 6) (s : State) : Host.Outcome State Fault Refusal :=
  .next (srOp d a b (fun A B _ => ofBool (A = B)) s)

/-- `cmp.ne` (R113). -/
def execCmpNe (d a b : BitVec 6) (s : State) : Host.Outcome State Fault Refusal :=
  .next (srOp d a b (fun A B _ => ofBool (A ≠ B)) s)

/-- `cmp.lt` (R113). -/
def execCmpLt (d a b : BitVec 6) (s : State) : Host.Outcome State Fault Refusal :=
  .next (srOp d a b (fun A B _ => ofBool (A.toInt < B.toInt)) s)

/-- `cmp.le` (R113). -/
def execCmpLe (d a b : BitVec 6) (s : State) : Host.Outcome State Fault Refusal :=
  .next (srOp d a b (fun A B _ => ofBool (A.toInt ≤ B.toInt)) s)

/-- `cmp.ltn` (R113). -/
def execCmpLtn (d a b : BitVec 6) (s : State) : Host.Outcome State Fault Refusal :=
  .next (srOp d a b (fun A B _ => ofBool (A.toNat < B.toNat)) s)

/-- `cmp.len` (R113). -/
def execCmpLen (d a b : BitVec 6) (s : State) : Host.Outcome State Fault Refusal :=
  .next (srOp d a b (fun A B _ => ofBool (A.toNat ≤ B.toNat)) s)

/-- `sel` (R113): by whether the old sd is nonzero. -/
def execSel (d a b : BitVec 6) (s : State) : Host.Outcome State Fault Refusal :=
  .next (srOp d a b (fun A B D => if D ≠ 0 then A else B) s)

/-- `addi` (R116). -/
def execAddi (d a : BitVec 6) (i : BitVec 10) (s : State) : Host.Outcome State Fault Refusal :=
  .next (siOp d a i (fun _ => true) (fun A I => A + I) s)

/-- `andi` (R116). -/
def execAndi (d a : BitVec 6) (i : BitVec 10) (s : State) : Host.Outcome State Fault Refusal :=
  .next (siOp d a i (fun _ => true) (fun A I => A &&& I) s)

/-- `ori` (R116). -/
def execOri (d a : BitVec 6) (i : BitVec 10) (s : State) : Host.Outcome State Fault Refusal :=
  .next (siOp d a i (fun _ => true) (fun A I => A ||| I) s)

/-- `xori` (R116). -/
def execXori (d a : BitVec 6) (i : BitVec 10) (s : State) : Host.Outcome State Fault Refusal :=
  .next (siOp d a i (fun _ => true) (fun A I => A ^^^ I) s)

/-- `shli` (R116, R117): an immediate outside 0 to 63 takes trap 0x02. -/
def execShli (d a : BitVec 6) (i : BitVec 10) (s : State) : Host.Outcome State Fault Refusal :=
  .next (siOp d a i (fun I => I.toNat < 64) (fun A I => A <<< I.toNat) s)

/-- `shri` (R116, R117): an immediate outside 0 to 63 takes trap 0x02. -/
def execShri (d a : BitVec 6) (i : BitVec 10) (s : State) : Host.Outcome State Fault Refusal :=
  .next (siOp d a i (fun I => I.toNat < 64) (fun A I => A >>> I.toNat) s)

/-- `sari` (R116, R117): an immediate outside 0 to 63 takes trap 0x02. -/
def execSari (d a : BitVec 6) (i : BitVec 10) (s : State) : Host.Outcome State Fault Refusal :=
  .next (siOp d a i (fun I => I.toNat < 64) (fun A I => A.sshiftRight I.toNat) s)

/-- `slti` (R116). -/
def execSlti (d a : BitVec 6) (i : BitVec 10) (s : State) : Host.Outcome State Fault Refusal :=
  .next (siOp d a i (fun _ => true) (fun A I => ofBool (A.toInt < I.toInt)) s)

/-- `sltni` (R116). -/
def execSltni (d a : BitVec 6) (i : BitVec 10) (s : State) : Host.Outcome State Fault Refusal :=
  .next (siOp d a i (fun _ => true) (fun A I => ofBool (A.toNat < I.toNat)) s)

/-- `li` (R116). -/
def execLi (d : BitVec 6) (i : BitVec 10) (s : State) : Host.Outcome State Fault Refusal :=
  .next (siOp d 0 i (fun _ => true) (fun _ I => I) s)

/-- `adr` (R116): PC is the address of `adr` itself (R38). -/
def execAdr (d : BitVec 6) (i : BitVec 10) (s : State) : Host.Outcome State Fault Refusal :=
  .next (siOp d 0 i (fun _ => true) (fun _ I => (s.w.pc + (I * 4).truncate 48).zeroExtend 64) s)

/-- A plain scalar load of `size` bytes (R118, R119). -/
def scalarLoad (l : BitVec 4) (d a i : BitVec 6) (size : Nat) : State → State :=
  unit [0, 5] false false fun s => do
    need (¬ (l ≠ 0 ∧ (d = 55 ∨ d = 56)))
    let (s1, x) ← s.scalarRead (s.w.s a.toNat + s.w.imm 6 i.toNat * BitVec.ofNat 64 size) size none false
    .ok { s := s1, writes := [.s d.toNat (BitVec.ofNat 64 x)], la := l.toNat, load := .memory }

/-- A plain scalar store of `size` bytes (R118, R119). -/
def scalarStore (d a i : BitVec 6) (size : Nat) : State → State :=
  unit [0, 5] false false fun s => do
    let s1 ← s.scalarWrite (s.w.s a.toNat + s.w.imm 6 i.toNat * BitVec.ofNat 64 size) size (s.w.s d.toNat).toNat none false
    .ok { s := s1 }

def execSldB64 (l : BitVec 4) (d a i : BitVec 6) (s : State) : Host.Outcome State Fault Refusal :=
  .next (scalarLoad l d a i 8 s)
def execSldB32 (l : BitVec 4) (d a i : BitVec 6) (s : State) : Host.Outcome State Fault Refusal :=
  .next (scalarLoad l d a i 4 s)
def execSstB64 (d a i : BitVec 6) (s : State) : Host.Outcome State Fault Refusal := .next (scalarStore d a i 8 s)
def execSstB32 (d a i : BitVec 6) (s : State) : Host.Outcome State Fault Refusal := .next (scalarStore d a i 4 s)

/-- `sld.st` (R297). -/
def execSldSt (l : BitVec 4) (d a : BitVec 6) (sc : BitVec 3) (s : State) : Host.Outcome State Fault Refusal :=
  .next (unit [5] false false (fun s => do
    need (¬ (l ≠ 0 ∧ (d = 55 ∨ d = 56)))
    let (s1, x) ← s.scalarRead (s.w.s a.toNat) 8 (some sc) (sc = 6)
    .ok { s := s1, writes := [.s d.toNat (BitVec.ofNat 64 x)], la := l.toNat, load := .memory }) s)

/-- `sst.st` (R297); a store of device scope or wider to RESUME is a command (R357). -/
def execSstSt (d a : BitVec 6) (sc : BitVec 3) (s : State) : Host.Outcome State Fault Refusal :=
  .next (unit [5] false false (fun s => do
    let va := s.w.s a.toNat
    let s1 ← s.scalarWrite va 8 (s.w.s d.toNat).toNat (some sc) (sc = 6)
    let s2 := match s.xlate va .write with
      | (t, .ok loc) =>
        if 4 ≤ sc.toNat ∧ t.applied (s.me (some sc)) loc (bytesOf 8 (s.w.s d.toNat).toNat)
          then s1.strong8 loc.pa (s.w.s d.toNat).toNat else s1
      | (_, .error _) => s1
    .ok { s := s2 }) s)

end Sys2Proof.Machine
end

