-- ==== Sys2Proof/Machine/Lanes.lean ====
section
/-! DEFINITION. Integer lane arithmetic (R136 to R139), compares to masks (R149 to R151) and the guarded select (R152). -/

namespace Sys2Proof.Machine

/-- The results of one repetition in the lanes of m, lane by lane. -/
def laneWrite (d : Nat) (m : Mask) (f : Nat → Word) : List RegWrite := [.v d m (Vec.ofFn f)]

/-- A unit of one destination register whose lanes are functions of A and D (unary, R136). -/
def laneOp1 (d a : BitVec 7) (f : Word → Word) : State → State :=
  vectorUnit [3] 0 [(d.toNat, 1)] [a.toNat] (fun _ => .ok ()) fun s i w =>
    let t := s.w.rep.2
    let va := w.src (stepField a.toNat i t) i
    (laneWrite (d.toNat + i * t) w.em fun l => f (va.at l), 0)

/-- A VR form: A, B and the old D of each lane (R137). -/
def laneOp (d a b : BitVec 7) (f : Word → Word → Word → Word) : State → State :=
  vectorUnit [3] 0 [(d.toNat, 1)] [a.toNat, b.toNat] (fun _ => .ok ()) fun s i w =>
    let t := s.w.rep.2
    let va := w.src (stepField a.toNat i t) i
    let vb := w.src (stepField b.toNat i t) i
    let vd := w.v (d.toNat + i * t)
    (laneWrite (d.toNat + i * t) w.em fun l => f (va.at l) (vb.at l) (vd.at l), 0)

/-- Hints of a VX form: IMM only with x = 1 (R136). -/
def vxHints (x : BitVec 1) : List Nat := if x = 1 then [0, 3] else [3]

/-- The second operand of a VIX form (R137). -/
def Warp.vixB (w : Warp) (x : BitVec 1) (b : BitVec 6) : Word :=
  if x = 0 then (w.s b.toNat).truncate 32 else w.xImm b.toNat

/-- A VIX form. -/
def laneOpX (d a : BitVec 7) (x : BitVec 1) (b : BitVec 6) (f : Word → Word → Word → Word) : State → State :=
  vectorUnit (vxHints x) 0 [(d.toNat, 1)] [a.toNat] (fun _ => .ok ()) fun s i w =>
    let t := s.w.rep.2
    let va := w.src (stepField a.toNat i t) i
    let B := s.w.vixB x b
    let vd := w.v (d.toNat + i * t)
    (laneWrite (d.toNat + i * t) w.em fun l => f (va.at l) B (vd.at l), 0)

/-- A value clamped to a range (R138). -/
def clampInt (lo hi v : Int) : Word := BitVec.ofInt 32 (if v < lo then lo else if hi < v then hi else v)

/-! The functions of Table 4 of R138: A, B, D to the value. -/
def mulHigh (a b : Word) : Word := BitVec.ofInt 32 (a.toInt * b.toInt / 2 ^ 32)
def mulHighN (a b : Word) : Word := BitVec.ofNat 32 (a.toNat * b.toNat / 2 ^ 32)
def minS (a b : Word) : Word := if b.toInt < a.toInt then b else a
def maxS (a b : Word) : Word := if a.toInt < b.toInt then b else a
def minN (a b : Word) : Word := if b.toNat < a.toNat then b else a
def maxN (a b : Word) : Word := if a.toNat < b.toNat then b else a
def absW (a : Word) : Word := if a.toInt < 0 then 0 - a else a
def amount (b : Word) : Nat := b.toNat % 32
def addSat (a b : Word) : Word := clampInt (-2 ^ 31) (2 ^ 31 - 1) (a.toInt + b.toInt)
def subSat (a b : Word) : Word := clampInt (-2 ^ 31) (2 ^ 31 - 1) (a.toInt - b.toInt)
def addSatN (a b : Word) : Word := clampInt 0 (2 ^ 32 - 1) (a.toNat + b.toNat)
def subSatN (a b : Word) : Word := clampInt 0 (2 ^ 32 - 1) ((a.toNat : Int) - b.toNat)
/-- Byte k of a word. -/
def byteOf (a : Word) (k : Nat) : Nat := bitsOf a.toNat (8 * k) 8
def dot4 (a b d : Word) : Word :=
  d + BitVec.ofInt 32 (((List.range 4).map fun k => signed 8 (byteOf a k) * signed 8 (byteOf b k)).sum)
def dot4N (a b d : Word) : Word :=
  d + BitVec.ofNat 32 (((List.range 4).map fun k => byteOf a k * byteOf b k).sum)

/-- Lowest bit and mask of the field of R139. -/
def laneField (b : Word) : Nat × Word :=
  let lo := bitsOf b.toNat 0 5
  let w := min (bitsOf b.toNat 8 6) 32
  (lo, BitVec.ofNat 32 (2 ^ min (lo + w) 32 - 2 ^ lo))

def laneExtract (a b : Word) : Word := (a &&& (laneField b).2) >>> (laneField b).1
def laneInsert (a b d : Word) : Word :=
  (d &&& ~~~(laneField b).2) ||| ((a <<< (laneField b).1) &&& (laneField b).2)

/-- `vadd` (R138). -/
def execVadd (d a b : BitVec 7) (s : State) : Host.Outcome State Fault Refusal :=
  .next (laneOp d a b (fun A B _ => A + B) s)

/-- `vsub` (R138). -/
def execVsub (d a b : BitVec 7) (s : State) : Host.Outcome State Fault Refusal :=
  .next (laneOp d a b (fun A B _ => A - B) s)

/-- `vmul` (R138). -/
def execVmul (d a b : BitVec 7) (s : State) : Host.Outcome State Fault Refusal :=
  .next (laneOp d a b (fun A B _ => A * B) s)

/-- `vmulh` (R138). -/
def execVmulh (d a b : BitVec 7) (s : State) : Host.Outcome State Fault Refusal :=
  .next (laneOp d a b (fun A B _ => mulHigh A B) s)

/-- `vmulhn` (R138). -/
def execVmulhn (d a b : BitVec 7) (s : State) : Host.Outcome State Fault Refusal :=
  .next (laneOp d a b (fun A B _ => mulHighN A B) s)

/-- `vmad` (R138). -/
def execVmad (d a b : BitVec 7) (s : State) : Host.Outcome State Fault Refusal :=
  .next (laneOp d a b (fun A B D => A * B + D) s)

/-- `vmin` (R138). -/
def execVmin (d a b : BitVec 7) (s : State) : Host.Outcome State Fault Refusal :=
  .next (laneOp d a b (fun A B _ => minS A B) s)

/-- `vmax` (R138). -/
def execVmax (d a b : BitVec 7) (s : State) : Host.Outcome State Fault Refusal :=
  .next (laneOp d a b (fun A B _ => maxS A B) s)

/-- `vminn` (R138). -/
def execVminn (d a b : BitVec 7) (s : State) : Host.Outcome State Fault Refusal :=
  .next (laneOp d a b (fun A B _ => minN A B) s)

/-- `vmaxn` (R138). -/
def execVmaxn (d a b : BitVec 7) (s : State) : Host.Outcome State Fault Refusal :=
  .next (laneOp d a b (fun A B _ => maxN A B) s)

/-- `vand` (R138). -/
def execVand (d a b : BitVec 7) (s : State) : Host.Outcome State Fault Refusal :=
  .next (laneOp d a b (fun A B _ => A &&& B) s)

/-- `vor` (R138). -/
def execVor (d a b : BitVec 7) (s : State) : Host.Outcome State Fault Refusal :=
  .next (laneOp d a b (fun A B _ => A ||| B) s)

/-- `vxor` (R138). -/
def execVxor (d a b : BitVec 7) (s : State) : Host.Outcome State Fault Refusal :=
  .next (laneOp d a b (fun A B _ => A ^^^ B) s)

/-- `vandn` (R138). -/
def execVandn (d a b : BitVec 7) (s : State) : Host.Outcome State Fault Refusal :=
  .next (laneOp d a b (fun A B _ => A &&& ~~~B) s)

/-- `vshl` (R138). -/
def execVshl (d a b : BitVec 7) (s : State) : Host.Outcome State Fault Refusal :=
  .next (laneOp d a b (fun A B _ => A <<< amount B) s)

/-- `vshr` (R138). -/
def execVshr (d a b : BitVec 7) (s : State) : Host.Outcome State Fault Refusal :=
  .next (laneOp d a b (fun A B _ => A >>> amount B) s)

/-- `vsar` (R138). -/
def execVsar (d a b : BitVec 7) (s : State) : Host.Outcome State Fault Refusal :=
  .next (laneOp d a b (fun A B _ => A.sshiftRight (amount B)) s)

/-- `vrol` (R138). -/
def execVrol (d a b : BitVec 7) (s : State) : Host.Outcome State Fault Refusal :=
  .next (laneOp d a b (fun A B _ => A.rotateLeft (amount B)) s)

/-- `vaddsat` (R138). -/
def execVaddsat (d a b : BitVec 7) (s : State) : Host.Outcome State Fault Refusal :=
  .next (laneOp d a b (fun A B _ => addSat A B) s)

/-- `vsubsat` (R138). -/
def execVsubsat (d a b : BitVec 7) (s : State) : Host.Outcome State Fault Refusal :=
  .next (laneOp d a b (fun A B _ => subSat A B) s)

/-- `vaddsatn` (R138). -/
def execVaddsatn (d a b : BitVec 7) (s : State) : Host.Outcome State Fault Refusal :=
  .next (laneOp d a b (fun A B _ => addSatN A B) s)

/-- `vsubsatn` (R138). -/
def execVsubsatn (d a b : BitVec 7) (s : State) : Host.Outcome State Fault Refusal :=
  .next (laneOp d a b (fun A B _ => subSatN A B) s)

/-- `vdot4` (R138). -/
def execVdot4 (d a b : BitVec 7) (s : State) : Host.Outcome State Fault Refusal :=
  .next (laneOp d a b (fun A B D => dot4 A B D) s)

/-- `vdot4n` (R138). -/
def execVdot4n (d a b : BitVec 7) (s : State) : Host.Outcome State Fault Refusal :=
  .next (laneOp d a b (fun A B D => dot4N A B D) s)

/-- `vbfx` (R139). -/
def execVbfx (d a b : BitVec 7) (s : State) : Host.Outcome State Fault Refusal :=
  .next (laneOp d a b (fun A B _ => laneExtract A B) s)

/-- `vbfi` (R139). -/
def execVbfi (d a b : BitVec 7) (s : State) : Host.Outcome State Fault Refusal :=
  .next (laneOp d a b (fun A B D => laneInsert A B D) s)

/-- `vabs` (R138). -/
def execVabs (d a : BitVec 7) (s : State) : Host.Outcome State Fault Refusal :=
  .next (laneOp1 d a (fun A => absW A) s)

/-- `vclz` (R138). -/
def execVclz (d a : BitVec 7) (s : State) : Host.Outcome State Fault Refusal :=
  .next (laneOp1 d a (fun A => BitVec.ofNat 32 (leadingZeros 32 A.toNat)) s)

/-- `vpopc` (R138). -/
def execVpopc (d a : BitVec 7) (s : State) : Host.Outcome State Fault Refusal :=
  .next (laneOp1 d a (fun A => BitVec.ofNat 32 (popCount A.toNat 32)) s)

/-- `vmov` (R138). -/
def execVmov (d a : BitVec 7) (s : State) : Host.Outcome State Fault Refusal :=
  .next (laneOp1 d a (fun A => A) s)

/-- `vadd` with a scalar or immediate (R138). -/
def execVaddX (d a : BitVec 7) (x : BitVec 1) (b : BitVec 6) (s : State) : Host.Outcome State Fault Refusal :=
  .next (laneOpX d a x b (fun A B _ => A + B) s)

/-- `vsub` with a scalar or immediate (R138). -/
def execVsubX (d a : BitVec 7) (x : BitVec 1) (b : BitVec 6) (s : State) : Host.Outcome State Fault Refusal :=
  .next (laneOpX d a x b (fun A B _ => A - B) s)

/-- `vmul` with a scalar or immediate (R138). -/
def execVmulX (d a : BitVec 7) (x : BitVec 1) (b : BitVec 6) (s : State) : Host.Outcome State Fault Refusal :=
  .next (laneOpX d a x b (fun A B _ => A * B) s)

/-- `vmulh` with a scalar or immediate (R138). -/
def execVmulhX (d a : BitVec 7) (x : BitVec 1) (b : BitVec 6) (s : State) : Host.Outcome State Fault Refusal :=
  .next (laneOpX d a x b (fun A B _ => mulHigh A B) s)

/-- `vmulhn` with a scalar or immediate (R138). -/
def execVmulhnX (d a : BitVec 7) (x : BitVec 1) (b : BitVec 6) (s : State) : Host.Outcome State Fault Refusal :=
  .next (laneOpX d a x b (fun A B _ => mulHighN A B) s)

/-- `vmad` with a scalar or immediate (R138). -/
def execVmadX (d a : BitVec 7) (x : BitVec 1) (b : BitVec 6) (s : State) : Host.Outcome State Fault Refusal :=
  .next (laneOpX d a x b (fun A B D => A * B + D) s)

/-- `vmin` with a scalar or immediate (R138). -/
def execVminX (d a : BitVec 7) (x : BitVec 1) (b : BitVec 6) (s : State) : Host.Outcome State Fault Refusal :=
  .next (laneOpX d a x b (fun A B _ => minS A B) s)

/-- `vmax` with a scalar or immediate (R138). -/
def execVmaxX (d a : BitVec 7) (x : BitVec 1) (b : BitVec 6) (s : State) : Host.Outcome State Fault Refusal :=
  .next (laneOpX d a x b (fun A B _ => maxS A B) s)

/-- `vminn` with a scalar or immediate (R138). -/
def execVminnX (d a : BitVec 7) (x : BitVec 1) (b : BitVec 6) (s : State) : Host.Outcome State Fault Refusal :=
  .next (laneOpX d a x b (fun A B _ => minN A B) s)

/-- `vmaxn` with a scalar or immediate (R138). -/
def execVmaxnX (d a : BitVec 7) (x : BitVec 1) (b : BitVec 6) (s : State) : Host.Outcome State Fault Refusal :=
  .next (laneOpX d a x b (fun A B _ => maxN A B) s)

/-- `vand` with a scalar or immediate (R138). -/
def execVandX (d a : BitVec 7) (x : BitVec 1) (b : BitVec 6) (s : State) : Host.Outcome State Fault Refusal :=
  .next (laneOpX d a x b (fun A B _ => A &&& B) s)

/-- `vor` with a scalar or immediate (R138). -/
def execVorX (d a : BitVec 7) (x : BitVec 1) (b : BitVec 6) (s : State) : Host.Outcome State Fault Refusal :=
  .next (laneOpX d a x b (fun A B _ => A ||| B) s)

/-- `vxor` with a scalar or immediate (R138). -/
def execVxorX (d a : BitVec 7) (x : BitVec 1) (b : BitVec 6) (s : State) : Host.Outcome State Fault Refusal :=
  .next (laneOpX d a x b (fun A B _ => A ^^^ B) s)

/-- `vandn` with a scalar or immediate (R138). -/
def execVandnX (d a : BitVec 7) (x : BitVec 1) (b : BitVec 6) (s : State) : Host.Outcome State Fault Refusal :=
  .next (laneOpX d a x b (fun A B _ => A &&& ~~~B) s)

/-- `vshl` with a scalar or immediate (R138). -/
def execVshlX (d a : BitVec 7) (x : BitVec 1) (b : BitVec 6) (s : State) : Host.Outcome State Fault Refusal :=
  .next (laneOpX d a x b (fun A B _ => A <<< amount B) s)

/-- `vshr` with a scalar or immediate (R138). -/
def execVshrX (d a : BitVec 7) (x : BitVec 1) (b : BitVec 6) (s : State) : Host.Outcome State Fault Refusal :=
  .next (laneOpX d a x b (fun A B _ => A >>> amount B) s)

/-- `vsar` with a scalar or immediate (R138). -/
def execVsarX (d a : BitVec 7) (x : BitVec 1) (b : BitVec 6) (s : State) : Host.Outcome State Fault Refusal :=
  .next (laneOpX d a x b (fun A B _ => A.sshiftRight (amount B)) s)

/-- `vrol` with a scalar or immediate (R138). -/
def execVrolX (d a : BitVec 7) (x : BitVec 1) (b : BitVec 6) (s : State) : Host.Outcome State Fault Refusal :=
  .next (laneOpX d a x b (fun A B _ => A.rotateLeft (amount B)) s)

/-- `vaddsat` with a scalar or immediate (R138). -/
def execVaddsatX (d a : BitVec 7) (x : BitVec 1) (b : BitVec 6) (s : State) : Host.Outcome State Fault Refusal :=
  .next (laneOpX d a x b (fun A B _ => addSat A B) s)

/-- `vsubsat` with a scalar or immediate (R138). -/
def execVsubsatX (d a : BitVec 7) (x : BitVec 1) (b : BitVec 6) (s : State) : Host.Outcome State Fault Refusal :=
  .next (laneOpX d a x b (fun A B _ => subSat A B) s)

/-- `vaddsatn` with a scalar or immediate (R138). -/
def execVaddsatnX (d a : BitVec 7) (x : BitVec 1) (b : BitVec 6) (s : State) : Host.Outcome State Fault Refusal :=
  .next (laneOpX d a x b (fun A B _ => addSatN A B) s)

/-- `vsubsatn` with a scalar or immediate (R138). -/
def execVsubsatnX (d a : BitVec 7) (x : BitVec 1) (b : BitVec 6) (s : State) : Host.Outcome State Fault Refusal :=
  .next (laneOpX d a x b (fun A B _ => subSatN A B) s)

/-- `vdot4` with a scalar or immediate (R138). -/
def execVdot4X (d a : BitVec 7) (x : BitVec 1) (b : BitVec 6) (s : State) : Host.Outcome State Fault Refusal :=
  .next (laneOpX d a x b (fun A B D => dot4 A B D) s)

/-- `vdot4n` with a scalar or immediate (R138). -/
def execVdot4nX (d a : BitVec 7) (x : BitVec 1) (b : BitVec 6) (s : State) : Host.Outcome State Fault Refusal :=
  .next (laneOpX d a x b (fun A B D => dot4N A B D) s)

/-- `vbfx` with a scalar or immediate (R139). -/
def execVbfxX (d a : BitVec 7) (x : BitVec 1) (b : BitVec 6) (s : State) : Host.Outcome State Fault Refusal :=
  .next (laneOpX d a x b (fun A B _ => laneExtract A B) s)

/-- `vbfi` with a scalar or immediate (R139). -/
def execVbfiX (d a : BitVec 7) (x : BitVec 1) (b : BitVec 6) (s : State) : Host.Outcome State Fault Refusal :=
  .next (laneOpX d a x b (fun A B D => laneInsert A B D) s)

/-- `vmovs` (R138): it has no vector source. -/
def execVmovs (d : BitVec 7) (x : BitVec 1) (b : BitVec 6) (s : State) : Host.Outcome State Fault Refusal :=
  .next (vectorUnit (vxHints x) 0 [(d.toNat, 1)] [] (fun _ => .ok ()) (fun s i w =>
    let B := s.w.vixB x b
    (laneWrite (d.toNat + i * s.w.rep.2) w.em fun _ => B, 0)) s)

/-- A compare (Table 9 of R151) of two values, given whether either is NaN. -/
def condHolds (cond : Nat) (nan lt eq : Bool) : Bool :=
  match cond with
  | 0 => ¬ nan && eq
  | 1 => nan || ¬ eq
  | 2 => ¬ nan && lt
  | 3 => ¬ nan && (lt || eq)
  | 4 => ¬ nan && ¬ lt && ¬ eq
  | 5 => ¬ nan && ¬ lt
  | 6 => nan
  | _ => ¬ nan

/-- Cond of one lane for type i32, n32 or f32, and whether NV is set (R151). -/
def laneCond (cond t : Nat) (ftz : Bool) (a b : Word) : Bool × Bool :=
  match t with
  | 0 => (condHolds cond false (a.toInt < b.toInt) (a = b), false)
  | 1 => (condHolds cond false (a.toNat < b.toNat) (a = b), false)
  | _ =>
    let x := Fmt.decode .f32 ftz a.toNat
    let y := Fmt.decode .f32 ftz b.toNat
    let nan := x.isNan || y.isNan
    (condHolds cond nan (x.lt y) (x.eq y), x.isSig || y.isSig || (nan && 2 ≤ cond && cond ≤ 5))

/-- Condition and type values that R149 reserves. -/
def condReserved (c t : Nat) : Bool := 8 ≤ c || t = 3 || (6 ≤ c && t ≠ 2)

/-- `vcmp` (R149 to R151). -/
def execVcmp (c : BitVec 4) (d : BitVec 6) (a b : BitVec 7) (t : BitVec 2) (s : State) : Host.Outcome State Fault Refusal :=
  .next (
    if condReserved c.toNat t.toNat then
      s.illegal (BitVec.ofNat 32 (0x3400_0000 + c.toNat * 2 ^ 22 + d.toNat * 2 ^ 16 + a.toNat * 2 ^ 9 + b.toNat * 4 + t.toNat))
    else
      vectorUnit [] 0 [] [a.toNat, b.toNat] (fun _ => .ok ()) (fun _ i w =>
        let va := w.src a.toNat i
        let vb := w.src b.toNat i
        let r := fun l => laneCond c.toNat t.toNat (fmFtz w.fm) (va.at l) (vb.at l)
        ([.s d.toNat (maskOf fun l => lane w.em l && (r l).1)],
          flagIf ((laneList w.em).any fun l => (r l).2) flagNV)) s)

/-- `vsel` (R152). -/
def execVsel (g : BitVec 4) (d a b : BitVec 7) (s : State) : Host.Outcome State Fault Refusal :=
  .next (vectorUnit [] 0 [(d.toNat, 1)] [a.toNat, b.toNat] (fun _ => .ok ()) (fun _ i w =>
    let va := w.src a.toNat i
    let vb := w.src b.toNat i
    let m := w.em &&& w.guard g
    ([.v d.toNat (maskOf fun l => lane m l && vb.at l ≠ 0) va], 0)) s)

end Sys2Proof.Machine
end

