-- ==== Sys2Proof/Machine/Float.lean ====
section
/-! DEFINITION. FP32 lane arithmetic (R140 to R146) and packed half lanes (R147, R148). -/

namespace Sys2Proof.Machine

/-- Rounding, saturation-free, of the exact results of elements numbered from 0, under fm (R140 to R142): the codes and the
flags. An element is not acted on when it is none; its Bool says that the operation was invalid. -/
def roundElems (f : Fmt) (fm : BitVec 19) (xs : List (Option (Num × Bool))) : List (Option Nat) × BitVec 8 :=
  let (cs, fl) := f.roundAll (fmMode fm) false (fmFtz fm) (xs.map fun x => x.map Prod.fst)
  let uf := xs.foldl (fun a x => a ||| f.ieeeUf (fmMode fm) (x.map Prod.fst)) 0
  (cs, fl ||| uf ||| flagIf (xs.any fun x => (x.map Prod.snd).getD false) flagNV)

/-- One FP32 result per lane of EM, rounded with its lane as element number. -/
def fpLanes (w : Warp) (d : Nat) (f : Nat → Num × Bool) : List RegWrite × BitVec 8 :=
  let (cs, fl) := roundElems .f32 w.fm (lanes.map fun l => if lane w.em l then some (f l) else none)
  ([.v d w.em (cs.map fun c => BitVec.ofNat 32 (c.getD 0))], fl)

/-- One FP32 result per lane of EM that is already a code, with its flags. -/
def codeLanes (w : Warp) (d : Nat) (f : Nat → Word × BitVec 8) : List RegWrite × BitVec 8 :=
  (laneWrite d w.em fun l => (f l).1, (laneList w.em).foldl (fun a l => a ||| (f l).2) 0)

/-- An instruction that rounds takes the illegal-operand trap at rounding code 6 or 7 (R140). -/
def needMode (s : State) : Except Stop Unit := need (modeOk s.w.fm)

/-- How the second operand of a repetition is read, and the fields it names. -/
structure SecondOp where
  acc : List Nat
  fields : List Nat
  val : State → Nat → Warp → Nat → Word

def opV (b : BitVec 7) : SecondOp where
  acc := [3]
  fields := [b.toNat]
  val := fun s i w => let v := w.src (stepField b.toNat i s.w.rep.2) i; fun l => v.at l

/-- B of a VFX form (R146). -/
def Warp.vfxB (w : Warp) (x : BitVec 1) (b : BitVec 6) : Word :=
  if x = 0 then (w.s b.toNat).truncate 32
  else
    match w.hintImm with
    | none =>
      let v := signed 6 b.toNat
      BitVec.ofNat 32 (Fmt.code .f32 (.fin (v < 0) v.natAbs 0 false))
    | some _ => BitVec.ofNat 32 (bitsOf (w.imm 6 b.toNat).toNat 0 28 * 16)

def opX (x : BitVec 1) (b : BitVec 6) : SecondOp where
  acc := vxHints x
  fields := []
  val := fun s _ _ => let v := s.w.vfxB x b; fun _ => v

/-- An FP32 unit of A, B and D: `rnd` whether it rounds, the body from the operand words to results and flags. -/
def fpUnit (d a : BitVec 7) (o : SecondOp) (rnd : Bool)
    (body : Warp → Nat → (Nat → Word) → (Nat → Word) → (Nat → Word) → List RegWrite × BitVec 8) : State → State :=
  vectorUnit o.acc 0 [(d.toNat, 1)] (a.toNat :: o.fields) (fun s => if rnd then needMode s else .ok ()) fun s i w =>
    let va := w.src (stepField a.toNat i s.w.rep.2) i
    let vb := o.val s i w
    let vd := w.v (d.toNat + i * s.w.rep.2)
    body w (d.toNat + i * s.w.rep.2) (fun l => va.at l) vb (fun l => vd.at l)

/-- The FP32 value of a word under fm.ftz (R143). -/
def fp (w : Warp) (x : Word) : Num := Fmt.decode .f32 (fmFtz w.fm) x.toNat

/-- An exact sum under the rounding mode's rule for zeros. -/
def fpSum (w : Warp) (xs : List Num) : Num × Bool := Num.sum (fmMode w.fm = 3) xs

/-- a × b + d exactly (R141, R143). -/
def fpMulAdd (w : Warp) (a b d : Num) : Num × Bool :=
  let (p, i) := a.mul b
  let (x, j) := fpSum w [p, d]
  (x, i || j)

def fpAdd (d a : BitVec 7) (o : SecondOp) : State → State :=
  fpUnit d a o true fun w r A B _ => fpLanes w r fun l => fpSum w [fp w (A l), fp w (B l)]
def fpSub (d a : BitVec 7) (o : SecondOp) : State → State :=
  fpUnit d a o true fun w r A B _ => fpLanes w r fun l => fpSum w [fp w (A l), (fp w (B l)).negate]
def fpMul (d a : BitVec 7) (o : SecondOp) : State → State :=
  fpUnit d a o true fun w r A B _ => fpLanes w r fun l => (fp w (A l)).mul (fp w (B l))
def fpFma (d a : BitVec 7) (o : SecondOp) : State → State :=
  fpUnit d a o true fun w r A B D => fpLanes w r fun l => fpMulAdd w (fp w (A l)) (fp w (B l)) (fp w (D l))
def fpFms (d a : BitVec 7) (o : SecondOp) : State → State :=
  fpUnit d a o true fun w r A B D => fpLanes w r fun l => fpMulAdd w (fp w (A l)) (fp w (B l)) (fp w (D l)).negate

/-- minimumNumber or maximumNumber of two codes of a format (R144). -/
def fpMinMaxCode (f : Fmt) (ftz wantMax : Bool) (a b : Nat) : Nat × BitVec 8 :=
  let (x, nv) := Num.minMax wantMax (f.decode ftz a) (f.decode ftz b)
  (f.code x, flagIf nv flagNV)

def fpMinMax (d a : BitVec 7) (o : SecondOp) (wantMax : Bool) : State → State :=
  fpUnit d a o false fun w r A B _ => codeLanes w r fun l =>
    let (c, f) := fpMinMaxCode .f32 (fmFtz w.fm) wantMax (A l).toNat (B l).toNat
    (BitVec.ofNat 32 c, f)

/-- a × 2^k with k from b (R145). -/
def fpScaled (a b : Num) : Num × Bool :=
  if a.isNan ∨ b.isNan then (.nan false, a.isSig || b.isSig)
  else
    let k : Int := match b with
      | .fin n m e x =>
        let c := Fmt.cut .i8 m e x
        let v : Int := if n then -(c.units : Int) else c.units
        if v < -300 then -300 else if 300 < v then 300 else v
      | .inf n => if n then -300 else 300
      | .nan _ => 0
    (a.scale k, false)

def fpScale (d a : BitVec 7) (o : SecondOp) : State → State :=
  fpUnit d a o true fun w r A B _ => fpLanes w r fun l => fpScaled (fp w (A l)) (fp w (B l))

/-- A[30:0] with the sign of B. -/
def copySign (a b : Word) : Word := (a &&& 0x7FFF_FFFF) ||| (b &&& 0x8000_0000)

def fpCopySign (d a : BitVec 7) (o : SecondOp) : State → State :=
  fpUnit d a o false fun w r A B _ => (laneWrite r w.em fun l => copySign (A l) (B l), 0)

/-- The integral value nearest a (R144): RS acts as RNE. -/
def fpIntegral (mode : Nat) (a : Num) : Word × BitVec 8 :=
  match a with
  | .fin n m e x =>
    let c := Fmt.cut .i8 m e x
    let y := if c.exact then c.units else c.units + (c.up (if mode = 5 then 0 else mode) n 0).toNat
    (BitVec.ofNat 32 (Fmt.code .f32 (.fin n y 0 false)), flagIf (¬ c.exact) flagNX)
  | y => (BitVec.ofNat 32 (Fmt.code .f32 y), flagIf y.isSig flagNV)

/-- The class mask of Table 6 of R144. -/
def fpClass (a : Word) : Word :=
  let s := a.getLsbD 31
  let e := bitsOf a.toNat 23 8
  let f := bitsOf a.toNat 0 23
  let i :=
    if e = 255 ∧ f ≠ 0 then (if a.getLsbD 22 then 9 else 8)
    else if e = 255 then (if s then 0 else 7)
    else if e ≠ 0 then (if s then 1 else 6)
    else if f ≠ 0 then (if s then 2 else 5)
    else if s then 3 else 4
  BitVec.ofNat 32 (2 ^ i)

/-- `vfadd` (R143). -/
def execVfadd (d a b : BitVec 7) (s : State) : Host.Outcome State Fault Refusal := .next (fpAdd d a (opV b) s)
/-- `vfsub` (R143). -/
def execVfsub (d a b : BitVec 7) (s : State) : Host.Outcome State Fault Refusal := .next (fpSub d a (opV b) s)
/-- `vfmul` (R143). -/
def execVfmul (d a b : BitVec 7) (s : State) : Host.Outcome State Fault Refusal := .next (fpMul d a (opV b) s)
/-- `vffma` (R143). -/
def execVffma (d a b : BitVec 7) (s : State) : Host.Outcome State Fault Refusal := .next (fpFma d a (opV b) s)
/-- `vffms` (R143). -/
def execVffms (d a b : BitVec 7) (s : State) : Host.Outcome State Fault Refusal := .next (fpFms d a (opV b) s)
/-- `vfmin` (R144). -/
def execVfmin (d a b : BitVec 7) (s : State) : Host.Outcome State Fault Refusal := .next (fpMinMax d a (opV b) false s)
/-- `vfmax` (R144). -/
def execVfmax (d a b : BitVec 7) (s : State) : Host.Outcome State Fault Refusal := .next (fpMinMax d a (opV b) true s)
/-- `vfabs` (R143): a bit move. -/
def execVfabs (d a : BitVec 7) (s : State) : Host.Outcome State Fault Refusal :=
  .next (laneOp1 d a (fun A => A &&& 0x7FFF_FFFF) s)
/-- `vfneg` (R143): a bit move. -/
def execVfneg (d a : BitVec 7) (s : State) : Host.Outcome State Fault Refusal :=
  .next (laneOp1 d a (fun A => A ^^^ 0x8000_0000) s)
/-- `vfrnd` (R144). -/
def execVfrnd (d a : BitVec 7) (s : State) : Host.Outcome State Fault Refusal :=
  .next (fpUnit d a ⟨[3], [], fun _ _ _ _ => 0⟩ true
    (fun w r A _ _ => codeLanes w r fun l => fpIntegral (fmMode w.fm) (fp w (A l))) s)
/-- `vfclass` (R144): a signalling NaN input sets NV, since R141 exempts only the sign-bit forms. -/
def execVfclass (d a : BitVec 7) (s : State) : Host.Outcome State Fault Refusal :=
  .next (fpUnit d a ⟨[3], [], fun _ _ _ _ => 0⟩ false
    (fun w r A _ _ => codeLanes w r fun l => (fpClass (A l), flagIf (fpClass (A l) = 0x100) flagNV)) s)
/-- `vfscl` (R145). -/
def execVfscl (d a b : BitVec 7) (s : State) : Host.Outcome State Fault Refusal := .next (fpScale d a (opV b) s)
/-- `vfcpys` (R143). -/
def execVfcpys (d a b : BitVec 7) (s : State) : Host.Outcome State Fault Refusal := .next (fpCopySign d a (opV b) s)

/-- `vfadd` with a scalar or immediate (R146). -/
def execVfaddX (d a : BitVec 7) (x : BitVec 1) (b : BitVec 6) (s : State) : Host.Outcome State Fault Refusal :=
  .next (fpAdd d a (opX x b) s)
/-- `vfsub` with a scalar or immediate (R146). -/
def execVfsubX (d a : BitVec 7) (x : BitVec 1) (b : BitVec 6) (s : State) : Host.Outcome State Fault Refusal :=
  .next (fpSub d a (opX x b) s)
/-- `vfmul` with a scalar or immediate (R146). -/
def execVfmulX (d a : BitVec 7) (x : BitVec 1) (b : BitVec 6) (s : State) : Host.Outcome State Fault Refusal :=
  .next (fpMul d a (opX x b) s)
/-- `vffma` with a scalar or immediate (R146). -/
def execVffmaX (d a : BitVec 7) (x : BitVec 1) (b : BitVec 6) (s : State) : Host.Outcome State Fault Refusal :=
  .next (fpFma d a (opX x b) s)
/-- `vffms` with a scalar or immediate (R146). -/
def execVffmsX (d a : BitVec 7) (x : BitVec 1) (b : BitVec 6) (s : State) : Host.Outcome State Fault Refusal :=
  .next (fpFms d a (opX x b) s)
/-- `vfmin` with a scalar or immediate (R146). -/
def execVfminX (d a : BitVec 7) (x : BitVec 1) (b : BitVec 6) (s : State) : Host.Outcome State Fault Refusal :=
  .next (fpMinMax d a (opX x b) false s)
/-- `vfmax` with a scalar or immediate (R146). -/
def execVfmaxX (d a : BitVec 7) (x : BitVec 1) (b : BitVec 6) (s : State) : Host.Outcome State Fault Refusal :=
  .next (fpMinMax d a (opX x b) true s)
/-- `vfscl` with a scalar or immediate (R146). -/
def execVfsclX (d a : BitVec 7) (x : BitVec 1) (b : BitVec 6) (s : State) : Host.Outcome State Fault Refusal :=
  .next (fpScale d a (opX x b) s)
/-- `vfcpys` with a scalar or immediate (R146). -/
def execVfcpysX (d a : BitVec 7) (x : BitVec 1) (b : BitVec 6) (s : State) : Host.Outcome State Fault Refusal :=
  .next (fpCopySign d a (opX x b) s)

/-! Packed halves (R147). -/

/-- Half h of a word. -/
def half (x : Word) (h : Nat) : Nat := bitsOf x.toNat (16 * h) 16

/-- The word of two halves given by element number 2L + h. -/
def joinHalves (cs : List (Option Nat)) (l : Nat) : Word :=
  BitVec.ofNat 32 (((cs.getD (2 * l) none).getD 0) + 65536 * ((cs.getD (2 * l + 1) none).getD 0))

/-- A VH unit whose halves are rounded once (R147): element 2L + h under RS (R142). -/
def halfRounded (d a b : BitVec 7) (f : Fmt) (op : Warp → Num → Num → Num → Num × Bool) : State → State :=
  fpUnit d a (opV b) true fun w r A B D =>
    let g := fun l h => op w (f.decode (fmFtz w.fm) (half (A l) h)) (f.decode (fmFtz w.fm) (half (B l) h))
      (f.decode (fmFtz w.fm) (half (D l) h))
    let (cs, fl) := roundElems f w.fm ((List.range 128).map fun i => if lane w.em (i / 2) then some (g (i / 2) (i % 2)) else none)
    (laneWrite r w.em fun l => joinHalves cs l, fl)

/-- A VH minimum or maximum (R144, R147). -/
def halfMinMax (d a b : BitVec 7) (f : Fmt) (wantMax : Bool) : State → State :=
  fpUnit d a (opV b) false fun w r A B _ => codeLanes w r fun l =>
    let x := fpMinMaxCode f (fmFtz w.fm) wantMax (half (A l) 0) (half (B l) 0)
    let y := fpMinMaxCode f (fmFtz w.fm) wantMax (half (A l) 1) (half (B l) 1)
    (BitVec.ofNat 32 (x.1 + 65536 * y.1), x.2 ||| y.2)

def addOp (w : Warp) (a b _d : Num) : Num × Bool := fpSum w [a, b]
def mulOp (_w : Warp) (a b _d : Num) : Num × Bool := a.mul b

/-- `vhadd.f16` (R147). -/
def execVhaddF16 (d a b : BitVec 7) (s : State) : Host.Outcome State Fault Refusal := .next (halfRounded d a b .f16 addOp s)
/-- `vhmul.f16` (R147). -/
def execVhmulF16 (d a b : BitVec 7) (s : State) : Host.Outcome State Fault Refusal := .next (halfRounded d a b .f16 mulOp s)
/-- `vhfma.f16` (R147). -/
def execVhfmaF16 (d a b : BitVec 7) (s : State) : Host.Outcome State Fault Refusal := .next (halfRounded d a b .f16 fpMulAdd s)
/-- `vhadd.bf16` (R147). -/
def execVhaddBf16 (d a b : BitVec 7) (s : State) : Host.Outcome State Fault Refusal := .next (halfRounded d a b .bf16 addOp s)
/-- `vhmul.bf16` (R147). -/
def execVhmulBf16 (d a b : BitVec 7) (s : State) : Host.Outcome State Fault Refusal := .next (halfRounded d a b .bf16 mulOp s)
/-- `vhfma.bf16` (R147). -/
def execVhfmaBf16 (d a b : BitVec 7) (s : State) : Host.Outcome State Fault Refusal := .next (halfRounded d a b .bf16 fpMulAdd s)
/-- `vhmin.f16` (R147). -/
def execVhminF16 (d a b : BitVec 7) (s : State) : Host.Outcome State Fault Refusal := .next (halfMinMax d a b .f16 false s)
/-- `vhmax.f16` (R147). -/
def execVhmaxF16 (d a b : BitVec 7) (s : State) : Host.Outcome State Fault Refusal := .next (halfMinMax d a b .f16 true s)
/-- `vhmin.bf16` (R147). -/
def execVhminBf16 (d a b : BitVec 7) (s : State) : Host.Outcome State Fault Refusal := .next (halfMinMax d a b .bf16 false s)
/-- `vhmax.bf16` (R147). -/
def execVhmaxBf16 (d a b : BitVec 7) (s : State) : Host.Outcome State Fault Refusal := .next (halfMinMax d a b .bf16 true s)

/-- D + a0 × b0 + a1 × b1 exactly (R148). Of its two sentences on a quiet NaN beside infinities of opposite signs, the one that
names the sum of infinities decides NV, as R204 and R232 have it (DEDUCED, assumption 54). -/
def dot2 (w : Warp) (a b d : Word) : Num × Bool :=
  let x := fun (v : Word) h => Fmt.decode .bf16 (fmFtz w.fm) (half v h)
  let (p, i) := (x a 0).mul (x b 0)
  let (q, j) := (x a 1).mul (x b 1)
  let (t, k) := fpSum w [fp w d, p, q]
  (t, i || j || k)

/-- `vhdot2.bf16` (R148). -/
def execVhdot2Bf16 (d a b : BitVec 7) (s : State) : Host.Outcome State Fault Refusal :=
  .next (fpUnit d a (opV b) true (fun w r A B D => fpLanes w r fun l => dot2 w (A l) (B l) (D l)) s)

end Sys2Proof.Machine
end

