-- ==== Sys2Proof/Machine/Sfu.lean ====
section
/-! DEFINITION. The special functions of VL1 (R153 to R156). The value of an approximate function is a free value of Config kept
within the bound of R155; `vsqrt` and `vdiv` round the exact value. -/

namespace Sys2Proof.Machine

/-- 2π and ln 2 in units of 2^-256. -/
def twoPi : Nat := 0x6487ed5110b4611a62633145c06e0e68948127044533e63a0105df531d89cd912
def ln2 : Nat := 0xb17217f7d1cf79abc9e3b39803f2f6af40f343267298b62d8a0d175b8baafa2b

/-- The sum of n terms of a series in units of 2^-256: each is the one before times x ÷ den. -/
def series (x : Int) (den : Nat → Nat) : Nat → Nat → Int → Int
  | 0, _, _ => 0
  | n + 1, k, t => t + series x den n (k + 1) (t * x / 2 ^ 256 / den k)

/-- The integer square root, found bit by bit from bit k - 1 down. -/
def rootAux (n : Nat) : Nat → Nat → Nat
  | 0, r => r
  | k + 1, r => rootAux n k (if (r + 2 ^ k) * (r + 2 ^ k) ≤ n then r + 2 ^ k else r)

/-- m × 2^e in units of 2^-256, rounded down. -/
def fixed (m : Nat) (e : Int) : Nat := if 0 ≤ e + 256 then scaleUp m (e + 256) else m / 2 ^ (-(e + 256)).toNat

/-- The square root of m × 2^e to k fraction bits, and whether it is inexact. -/
def root (m : Nat) (e : Int) (k : Nat) : Nat × Int × Bool :=
  let odd := e % 2 ≠ 0
  let n := (if odd then 2 * m else m) * 2 ^ (2 * k)
  let r := rootAux n (k + 16) 0
  (r, (if odd then e - 1 else e) / 2 - k, r * r ≠ n)

/-- Bits of log2 z for z from 1 up to 2 in units of 2^-256: n bits by repeated squaring. -/
def log2Bits : Nat → Nat → Nat → Nat
  | 0, _, acc => acc
  | n + 1, z, acc =>
    let y := z * z / 2 ^ 256
    if 2 ^ 257 ≤ y then log2Bits n (y / 2) (2 * acc + 1) else log2Bits n y (2 * acc)

/-- A value below 1 in units of 2^-256 that has been rounded. -/
def belowOne (v : Int) : Int := min v (2 ^ 256 - 1)

/-- The exact value y of the function on m × 2^e with a sign (R155), to far more digits than its bound, and on its side of every power
of two: sin a ÷ a, cos a and tanh a ÷ a lie below 1. -/
def specialValue (fn : Nat) (neg : Bool) (m : Nat) (e : Int) : Num :=
  let x := fixed m e
  let x2 : Int := x * x / 2 ^ 256
  let sinF := fun (x2 : Int) => series (-x2) (fun k => (2 * k + 2) * (2 * k + 3)) 60 0 (2 ^ 256)
  let cosF := fun (x2 : Int) => series (-x2) (fun k => (2 * k + 1) * (2 * k + 2)) 60 0 (2 ^ 256)
  let r := x % twoPi
  let r2 : Int := r * r / 2 ^ 256
  let small := x ≤ 2 ^ 256
  let ofFixed := fun (n : Bool) (v : Int) => Num.fin (n ^^ decide (v < 0)) v.natAbs (-256) false
  match fn with
  | 0 => .fin neg (2 ^ 300 / m) (-300 - e) false
  | 1 =>
    let (s, f, _) := root m e 100
    .fin false (2 ^ 300 / s) (-300 - f) false
  | 3 =>
    let a : Int := if neg then -(x : Int) else x
    let n := a / 2 ^ 256
    let t := (a % 2 ^ 256) * ln2 / 2 ^ 256
    .fin false (series t (fun k => k + 1) 60 0 (2 ^ 256)).natAbs (n - 256) false
  | 4 =>
    let p : Int := e + Nat.log2 m
    let v := p * 2 ^ 100 + log2Bits 100 (m * 2 ^ (256 - Nat.log2 m)) 0
    .fin (v < 0) v.natAbs (-100) false
  | 5 =>
    if small then .fin neg (m * (belowOne (sinF x2)).natAbs) (e - 256) false
    else ofFixed neg (r * sinF r2 / 2 ^ 256)
  | 6 => ofFixed false (belowOne (if small then cosF x2 else cosF r2))
  | _ =>
    let sh := series x2 (fun k => (2 * k + 2) * (2 * k + 3)) 60 0 (2 ^ 256)
    let ch := series x2 (fun k => (2 * k + 1) * (2 * k + 2)) 60 0 (2 ^ 256)
    .fin neg (m * (belowOne (sh * 2 ^ 256 / ch)).natAbs) (e - 256) false

/-- The bound of Table 11 of R155, as k × 2^e, for the value y. -/
def specialBound (fn : Nat) (m : Nat) (e : Int) (y : Num) : Nat × Int :=
  let ulp : Int := match y with
    | .fin _ k f _ => max (f + Nat.log2 k) (-126) - 23
    | _ => 0
  let p : Int := e + Nat.log2 m
  match fn with
  | 0 => (1, ulp)
  | 4 => if p = 0 ∨ p = -1 ∨ (p = 1 ∧ m = 2 ^ Nat.log2 m) then (1, -22) else (2, ulp)
  | 5 => if p < 0 ∨ (p = 0 ∧ m = 2 ^ Nat.log2 m) then (2, ulp) else (1, -21)
  | 6 => if p < 0 ∨ (p = 0 ∧ m = 2 ^ Nat.log2 m) then (2, ulp) else (1, -21)
  | _ => (2, ulp)

/-- r lies within the bound of y. -/
def nearTo (y r : Num) (b : Nat × Int) : Bool :=
  match r with
  | .fin _ _ _ _ =>
    let e0 := min ((minExp [y, r]).getD 0) b.2
    (y.units e0 - r.units e0).natAbs ≤ scaleUp b.1 (b.2 - e0)
  | _ => false

/-- The further limits of R155: sine, cosine and tanh from -1 to 1, powers not negative. -/
def inRange (fn : Nat) (r : Num) : Bool :=
  if 5 ≤ fn then ¬ (Num.lt (.fin false 1 0 false) r || r.lt (.fin true 1 0 false))
  else if fn = 3 then ¬ r.neg? else true

/-- The result of an approximate function on a finite nonzero value that Table 10 does not name (R155, R156). -/
def specialApprox (fn : Nat) (a : Word) (ftz : Bool) (neg : Bool) (m : Nat) (e : Int) : Word :=
  let y := specialValue fn neg m e
  let c := Config.specialFn fn a ftz
  let r := Fmt.decode .f32 false c.toNat
  if nearTo y r (specialBound fn m e y) ∧ inRange fn r then c
  else BitVec.ofNat 32 (Fmt.code .f32 y)

/-- The FP32 word of a value. -/
def word32 (x : Num) : Word := BitVec.ofNat 32 (Fmt.code .f32 x)

/-- The functions other than `vsqrt` and `vdiv` (R154 to R156), before the flush of their result. -/
def specialRaw (fn : Nat) (x : Num) (ftz : Bool) : Word × BitVec 8 :=
  let nan : Word := 0x7FC0_0000
  match x with
  | .nan s => (nan, flagIf s flagNV)
  | .inf n =>
    match fn with
    | 0 => (word32 (.zero n), 0)
    | 1 => if n then (nan, flagNV) else (0, 0)
    | 3 => if n then (0, 0) else (word32 (.inf false), 0)
    | 4 => if n then (nan, flagNV) else (word32 (.inf false), 0)
    | 5 => (nan, flagNV)
    | 6 => (nan, flagNV)
    | _ => (word32 (.fin n 1 0 false), 0)
  | .fin n m e _ =>
    let a := word32 x
    if m = 0 then
      match fn with
      | 0 => (word32 (.inf n), flagDZ)
      | 1 => (word32 (.inf n), flagDZ)
      | 3 => (word32 (.fin false 1 0 false), 0)
      | 4 => (word32 (.inf true), flagDZ)
      | 6 => (word32 (.fin false 1 0 false), 0)
      | _ => (word32 (.zero n), 0)
    else
      let p : Int := e + Nat.log2 m
      let pow := m = 2 ^ Nat.log2 m
      let go := fun (_ : Unit) => (specialApprox fn a ftz n m e, (0 : BitVec 8))
      match fn with
      | 0 =>
        if p < -128 ∨ (p = -128 ∧ pow) then (word32 (.inf n), flagOF)
        else if pow then (word32 (.fin n 1 (-p) false), 0) else go ()
      | 1 =>
        if n then (nan, flagNV) else if pow ∧ p % 2 = 0 then (word32 (.fin false 1 (-p / 2) false), 0) else go ()
      | 3 =>
        let c := Fmt.cut .i8 m e false
        if ¬ n ∧ 128 ≤ c.units then (word32 (.inf false), flagOF)
        else if n ∧ (150 < c.units ∨ (c.units = 150 ∧ ¬ c.exact)) then (0, 0)
        else if c.exact ∧ (¬ n ∨ c.units ≤ 149) then
          (word32 (.fin false 1 (if n then -(c.units : Int) else c.units) false), 0)
        else go ()
      | 4 =>
        if n then (nan, flagNV) else if pow then (word32 (.fin (p < 0) p.natAbs 0 false), 0) else go ()
      | 7 => if 3 < p ∨ (p = 3 ∧ 9 ≤ (Fmt.cut .i8 m e false).units) then (word32 (.fin n 1 0 false), 0) else go ()
      | _ => go ()

/-- The flush of a result under fm.ftz (R156). -/
def flushResult (fm : BitVec 19) (r : Word × BitVec 8) : Word × BitVec 8 :=
  if fmFtz fm ∧ bitsOf r.1.toNat 23 8 = 0 ∧ bitsOf r.1.toNat 0 23 ≠ 0 then
    (r.1 &&& 0x8000_0000, r.2 ||| flagUF ||| flagNX)
  else r

/-- A VL1 unit of one source register. -/
def specialUnit (fn : Nat) (l : BitVec 4) (d a : BitVec 7) : State → State :=
  vectorUnit [3] l.toNat [(d.toNat, 1)] [a.toNat] (fun _ => .ok ()) fun s i w =>
    let va := w.src (stepField a.toNat i s.w.rep.2) i
    codeLanes w (d.toNat + i * s.w.rep.2) fun k => flushResult w.fm (specialRaw fn (fp w (va.at k)) (fmFtz w.fm))

/-- `vrcp` (R153). -/
def execVrcp (l : BitVec 4) (d a : BitVec 7) (s : State) : Host.Outcome State Fault Refusal := .next (specialUnit 0 l d a s)
/-- `vrsq` (R153). -/
def execVrsq (l : BitVec 4) (d a : BitVec 7) (s : State) : Host.Outcome State Fault Refusal := .next (specialUnit 1 l d a s)
/-- `vex2` (R153). -/
def execVex2 (l : BitVec 4) (d a : BitVec 7) (s : State) : Host.Outcome State Fault Refusal := .next (specialUnit 3 l d a s)
/-- `vlg2` (R153). -/
def execVlg2 (l : BitVec 4) (d a : BitVec 7) (s : State) : Host.Outcome State Fault Refusal := .next (specialUnit 4 l d a s)
/-- `vsin` (R153). -/
def execVsin (l : BitVec 4) (d a : BitVec 7) (s : State) : Host.Outcome State Fault Refusal := .next (specialUnit 5 l d a s)
/-- `vcos` (R153). -/
def execVcos (l : BitVec 4) (d a : BitVec 7) (s : State) : Host.Outcome State Fault Refusal := .next (specialUnit 6 l d a s)
/-- `vtanh` (R153). -/
def execVtanh (l : BitVec 4) (d a : BitVec 7) (s : State) : Host.Outcome State Fault Refusal := .next (specialUnit 7 l d a s)

/-- The square root (R154, R155): the exact value, and whether it is invalid. -/
def sqrtNum (x : Num) : Num × Bool :=
  match x with
  | .nan s => (.nan false, s)
  | .inf n => if n then (.nan false, true) else (.inf false, false)
  | .fin n m e _ =>
    if m = 0 then (x, false)
    else if n then (.nan false, true)
    else
      let (r, f, more) := root m e 60
      (.fin false r f more, false)

/-- The quotient (R154, R155): the exact value, whether it is invalid, and whether it divides by zero. -/
def divNum (x y : Num) : Num × Bool × Bool :=
  match x, y with
  | .nan s, y => (.nan false, s || y.isSig, false)
  | x, .nan s => (.nan false, s || x.isSig, false)
  | .inf _, .inf _ => (.nan false, true, false)
  | .inf n, y => (.inf (n ^^ y.neg?), false, false)
  | x, .inf k => (.zero (x.neg? ^^ k), false, false)
  | .fin n m e _, .fin k p f _ =>
    if p = 0 then if m = 0 then (.nan false, true, false) else (.inf (n ^^ k), false, true)
    else (.fin (n ^^ k) (m * 2 ^ 90 / p) (e - f - 90) (m * 2 ^ 90 % p ≠ 0), false, false)

/-- `vsqrt` (R153): correctly rounded. -/
def execVsqrt (l : BitVec 4) (d a : BitVec 7) (s : State) : Host.Outcome State Fault Refusal :=
  .next (vectorUnit [3] l.toNat [(d.toNat, 1)] [a.toNat] needMode (fun s i w =>
    let va := w.src (stepField a.toNat i s.w.rep.2) i
    fpLanes w (d.toNat + i * s.w.rep.2) fun k => sqrtNum (fp w (va.at k))) s)

/-- `vdiv` (R153): va by va + 1, correctly rounded. -/
def execVdiv (l : BitVec 4) (d a : BitVec 7) (s : State) : Host.Outcome State Fault Refusal :=
  .next (vectorUnit [3] l.toNat [(d.toNat, 1), (a.toNat, 2)] [] needMode (fun s i w =>
    let r := a.toNat + i * s.w.rep.2
    let x := w.v r
    let y := w.v (r + 1)
    let q := fun k => divNum (fp w (x.at k)) (fp w (y.at k))
    let (ws, fl) := fpLanes w (d.toNat + i * s.w.rep.2) fun k => ((q k).1, (q k).2.1)
    (ws, fl ||| flagIf ((laneList w.em).any fun k => (q k).2.2) flagDZ)) s)

end Sys2Proof.Machine
end

