-- ==== Sys2Proof/Machine/Cross.lean ====
section
/-! DEFINITION. The cross-lane instructions of VL2 (R202 to R206). -/

namespace Sys2Proof.Machine

/-- The members C of a VL2 instruction (R202). -/
def Warp.members (w : Warp) (m : BitVec 3) : Mask := w.member m.toNat &&& w.em

/-- A VL2 unit of one destination register: the value for a lane from C, a and b (R205). `pair`: it reads va + 1. -/
def crossUnit (l : BitVec 4) (d a : BitVec 7) (m : BitVec 3) (pair : Bool) (pre : State → Except Stop Unit)
    (f : Warp → Mask → (Nat → Word) → (Nat → Word) → (Nat → Word) × BitVec 8) : State → State :=
  vectorUnit [] l.toNat ((d.toNat, 1) :: if pair then [(a.toNat, 2)] else []) (if pair then [] else [a.toNat]) pre
    fun _ _ w =>
      let va := w.src a.toNat 0
      let vb := w.v (a.toNat + 1)
      let c := w.members m
      let (g, fl) := f w c (fun j => va.at j) (fun j => vb.at j)
      (laneWrite d.toNat c g, fl)

/-- A lane of C, or 0. -/
def pickLane (c : Mask) (a : Nat → Word) (s : Nat) : Word := if lane c s then a s else 0

/-- A unit without flags. -/
def crossPlain (l : BitVec 4) (d a : BitVec 7) (m : BitVec 3) (pair : Bool)
    (f : Mask → (Nat → Word) → (Nat → Word) → Nat → Word) : State → State :=
  crossUnit l d a m pair (fun _ => .ok ()) fun _ c x y => (f c x y, 0)

/-- A reduction of the members' words from an identity. -/
def reduce (c : Mask) (a : Nat → Word) (e : Word) (f : Word → Word → Word) : Word := (laneList c).foldl (fun x j => f x (a j)) e

/-- The exact sum of FP32 members rounded once (R204): RS acts as RNE. -/
def fpTotal (w : Warp) (xs : List Num) : Word × BitVec 8 :=
  let (t, nv) := fpSum w xs
  let mode := if fmMode w.fm = 5 then 0 else fmMode w.fm
  let (c, fl) := Fmt.round .f32 mode false (fmFtz w.fm) 0 t
  (BitVec.ofNat 32 c, fl ||| Fmt.ieeeUf .f32 mode (some t) ||| flagIf nv flagNV)

/-- The least or greatest FP32 member (R204), ftz ignored. -/
def fpBest (wantMax : Bool) (xs : List Num) : Word × BitVec 8 :=
  match xs with
  | [] => (0, 0)
  | x :: r =>
    let (t, nv) := r.foldl (fun a y => let (z, v) := Num.minMax wantMax a.1 y; (z, a.2 || v)) (x, x.isSig)
    (word32 t, flagIf nv flagNV)

/-- `vshfl` (R205). -/
def execVshfl (l : BitVec 4) (d a : BitVec 7) (m : BitVec 3) (s : State) : Host.Outcome State Fault Refusal :=
  .next (crossPlain l d a m true (fun c x y k => pickLane c x (bitsOf (y k).toNat 0 6)) s)

/-- `vshflx` (R205). -/
def execVshflx (l : BitVec 4) (d a : BitVec 7) (m : BitVec 3) (s : State) : Host.Outcome State Fault Refusal :=
  .next (crossPlain l d a m true (fun c x y k => pickLane c x (Nat.xor k (bitsOf (y k).toNat 0 6))) s)

/-- `vbcast` (R205). -/
def execVbcast (l : BitVec 4) (d a : BitVec 7) (m : BitVec 3) (s : State) : Host.Outcome State Fault Refusal :=
  .next (crossPlain l d a m false (fun c x _ _ => x ((laneList c).headD 0)) s)

/-- A reduction with an i32 and an f32 variant. -/
def redUnit (l : BitVec 4) (d a : BitVec 7) (v : BitVec 1) (m : BitVec 3) (rounds : Bool) (ints : Mask → (Nat → Word) → Word)
    (floats : Warp → Mask → (Nat → Word) → Word × BitVec 8) : State → State :=
  crossUnit l d a m false (fun s => if v = 1 ∧ rounds then needMode s else .ok ()) fun w c x _ =>
    if v = 0 then let r := ints c x; (fun _ => r, 0)
    else if c = 0 then (fun _ => 0, 0)
    else let (r, fl) := floats w c x; (fun _ => r, fl)

/-- `vred.add` (R204, R205). -/
def execVredAdd (l : BitVec 4) (d a : BitVec 7) (v : BitVec 1) (m : BitVec 3) (s : State) : Host.Outcome State Fault Refusal :=
  .next (redUnit l d a v m true (fun c x => reduce c x 0 (· + ·))
    (fun w c x => fpTotal w ((laneList c).map fun j => fp w (x j))) s)

/-- `vred.min` (R204, R205). -/
def execVredMin (l : BitVec 4) (d a : BitVec 7) (v : BitVec 1) (m : BitVec 3) (s : State) : Host.Outcome State Fault Refusal :=
  .next (redUnit l d a v m false (fun c x => reduce c x 0x7FFF_FFFF minS)
    (fun _ c x => fpBest false ((laneList c).map fun j => Fmt.decode .f32 false (x j).toNat)) s)

/-- `vred.max` (R204, R205). -/
def execVredMax (l : BitVec 4) (d a : BitVec 7) (v : BitVec 1) (m : BitVec 3) (s : State) : Host.Outcome State Fault Refusal :=
  .next (redUnit l d a v m false (fun c x => reduce c x 0x8000_0000 maxS)
    (fun _ c x => fpBest true ((laneList c).map fun j => Fmt.decode .f32 false (x j).toNat)) s)

/-- `vred.and` (R205). -/
def execVredAnd (l : BitVec 4) (d a : BitVec 7) (m : BitVec 3) (s : State) : Host.Outcome State Fault Refusal :=
  .next (crossPlain l d a m false (fun c x _ => let r := reduce c x 0xFFFF_FFFF (· &&& ·); fun _ => r) s)

/-- `vred.or` (R205). -/
def execVredOr (l : BitVec 4) (d a : BitVec 7) (m : BitVec 3) (s : State) : Host.Outcome State Fault Refusal :=
  .next (crossPlain l d a m false (fun c x _ => let r := reduce c x 0 (· ||| ·); fun _ => r) s)

/-- `vred.xor` (R205). -/
def execVredXor (l : BitVec 4) (d a : BitVec 7) (m : BitVec 3) (s : State) : Host.Outcome State Fault Refusal :=
  .next (crossPlain l d a m false (fun c x _ => let r := reduce c x 0 (· ^^^ ·); fun _ => r) s)

/-- The members whose values the scan of lane k adds (R205). -/
def scanLanes (c : Mask) (ex : Bool) (k : Nat) : List Nat := (laneList c).filter fun j => if ex then j < k else j ≤ k

/-- `vscan.add` (R205). -/
def execVscanAdd (l : BitVec 4) (d a : BitVec 7) (v : BitVec 1) (m : BitVec 3) (s : State) : Host.Outcome State Fault Refusal :=
  .next (crossPlain l d a m false (fun c x _ k => (scanLanes c (v = 1) k).foldl (fun t j => t + x j) 0) s)

/-- `vscan.addf` (R204, R205). -/
def execVscanAddf (l : BitVec 4) (d a : BitVec 7) (v : BitVec 1) (m : BitVec 3) (s : State) : Host.Outcome State Fault Refusal :=
  .next (crossUnit l d a m false needMode (fun w c x _ =>
    let r := fun k => fpTotal w ((scanLanes c (v = 1) k).map fun j => fp w (x j))
    (fun k => (r k).1, (laneList c).foldl (fun f k => f ||| (r k).2) 0)) s)

/-- `vballot` (R205): the pair vd, vd + 1. -/
def execVballot (l : BitVec 4) (d a : BitVec 7) (m : BitVec 3) (s : State) : Host.Outcome State Fault Refusal :=
  .next (vectorUnit [] l.toNat [(d.toNat, 2)] [a.toNat] (fun _ => .ok ()) (fun _ _ w =>
    let va := w.src a.toNat 0
    let c := w.members m
    let b := maskOf fun j => lane c j && va.at j ≠ 0
    (laneWrite d.toNat c (fun _ => b.truncate 32) ++ laneWrite (d.toNat + 1) c (fun _ => (b >>> 32).truncate 32), 0)) s)

/-- `vcompact` (R205). -/
def execVcompact (l : BitVec 4) (d a : BitVec 7) (m : BitVec 3) (s : State) : Host.Outcome State Fault Refusal :=
  .next (crossPlain l d a m true (fun c x y =>
    let ps := (laneList c).filter fun j => y j ≠ 0
    fun k =>
      match ps[((laneList c).filter fun j => j < k).length]? with
      | some p => x p
      | none => 0) s)

/-- The order of R206: entry x (value, index) stands before y; entries listed earlier win among equals. -/
def ranksBefore (x y : Word × Word) : Bool :=
  let a := Fmt.decode .f32 false x.1.toNat
  let b := Fmt.decode .f32 false y.1.toNat
  b.lt a || (a.eq b && x.2.toNat < y.2.toNat)

/-- Insert an entry behind every entry that it does not rank before. -/
def rankInsert (x : Word × Word) : List (Word × Word) → List (Word × Word)
  | [] => [x]
  | y :: r => if ranksBefore x y then x :: y :: r else y :: rankInsert x r

/-- The best-first list of entries whose value is not NaN (R206): old before new among entries of equal value and index. DESIGN
CHOICE (assumption 55): two old or two new such entries, whose bit patterns may still differ, keep their list or lane order. -/
def bestFirst (xs : List (Word × Word)) : List (Word × Word) :=
  (xs.filter fun x => ¬ (Fmt.decode .f32 false x.1.toNat).isNan).foldl (fun l x => rankInsert x l) []

/-- The list lanes of a best-first list of k entries (R206). -/
def listWrites (d k : Nat) (xs : List (Word × Word)) : List RegWrite :=
  let at_ := fun j => xs.getD j (0xFF80_0000, 0xFFFF_FFFF)
  laneWrite d (lowLanes k) (fun j => (at_ j).1) ++ laneWrite (d + 1) (lowLanes k) (fun j => (at_ j).2)

/-- `vtopk` (R206). -/
def execVtopk (l : BitVec 4) (d a : BitVec 7) (m : BitVec 3) (s : State) : Host.Outcome State Fault Refusal :=
  .next (unitMod 7 [4] false false (fun s => do
    need (s.regsOk [(d.toNat, 2), (a.toNat, 2)] [])
    let k := (s.w.hintMod.getD 0).toNat
    need (1 ≤ k && k ≤ 64)
    s.notPending (s.unitRegs [(d.toNat, 2), (a.toNat, 2)] [])
    let w := s.w
    let old := (lanes.take k).map fun j => ((w.v d.toNat).at j, (w.v (d.toNat + 1)).at j)
    let new := (laneList (w.members m)).map fun j => ((w.v a.toNat).at j, (w.v (a.toNat + 1)).at j)
    .ok { s := s, writes := listWrites d.toNat k (bestFirst (old ++ new)), la := l.toNat }) s)

end Sys2Proof.Machine
end

