-- ==== Sys2Proof/Machine/Convert.lean ====
section
/-! DEFINITION. The conversion instructions of VCV (R176 to R181). -/

namespace Sys2Proof.Machine

/-- A source run of n registers: a single source may be any field value (R176). -/
def sourceRun (a n : Nat) : List (Nat × Nat) × List Nat := if n = 1 then ([], [a]) else ([(a, n)], [])

/-- The words of lane l of a source run at repetition i. -/
def runWords (w : Warp) (a n i t : Nat) : Nat → List Word :=
  if n = 1 then let v := w.src (stepField a i t) i; fun l => [v.at l]
  else let vs := (List.range n).map fun k => w.v (a + i * t + k); fun l => vs.map fun v => v.at l

/-- The words of each lane written to the run of n registers at d in the lanes of EM. -/
def writeRun (w : Warp) (d n : Nat) (ws : List (List Word)) : List RegWrite :=
  (List.range n).map fun k => .v (d + k) w.em (Vec.ofFn fun l => (ws.getD l []).getD k 0)

/-- A VCV unit with runs of ns and nd registers: the body gives the words of every lane and the flags. -/
def convertUnit (l : BitVec 4) (d a : BitVec 7) (ns nd : Nat) (pre : State → Except Stop Unit)
    (body : Warp → Nat → (Nat → List Word) → List (List Word) × BitVec 8) : State → State :=
  vectorUnit [3] l.toNat ((d.toNat, nd) :: (sourceRun a.toNat ns).1) (sourceRun a.toNat ns).2 pre fun s i w =>
    let d' := d.toNat + i * s.w.rep.2
    let (ws, fl) := body w d' (runWords w a.toNat ns i s.w.rep.2)
    (writeRun w d' nd ws, fl)

/-- Elements of E per lane of EM, numbered E × L + j (R176). -/
def laneElems {α : Type} (w : Warp) (e : Nat) (f : Nat → Nat → α) : List (Option α) :=
  lanes.flatMap fun l => (List.range e).map fun j => if lane w.em l then some (f l j) else none

/-- Codes of E elements per lane packed into each lane's run (R158). -/
def packLanes (f : Fmt) (e : Nat) (cs : List (Option Nat)) : List (List Word) :=
  lanes.map fun l => packRun f.width (((cs.drop (e * l)).take e).map fun c => c.getD 0)

/-- `vcvt` between two formats (R177). DEDUCED (assumption 56): an infinite element under fm.sat = 1 follows the Effect, and so
R168, also where the two formats are one. -/
def convert (dst src : Fmt) (l : BitVec 4) (d a : BitVec 7) : State → State :=
  let m := min src.width dst.width
  let e := 32 / m
  convertUnit l d a (src.width / m) (dst.width / m) (fun s => need (modeOk s.w.fm && src ≠ .i4x && dst ≠ .i4x))
    fun w _ run =>
      let xs := laneElems w e fun k j => src.decode (fmFtz w.fm) (packGet (run k) src.width j)
      let (cs, fl) := dst.roundAll (fmMode w.fm) (fmSat w.fm) (fmFtz w.fm) xs
      (packLanes dst e cs, fl)

/-- `vcvt` (R176, R177): source codes 9 to 15 are reserved values. -/
def execVcvt (t l : BitVec 4) (d a : BitVec 7) (sr : BitVec 4) (s : State) : Host.Outcome State Fault Refusal :=
  .next (
    match Fmt.ofCode t.toNat, Fmt.ofCode sr.toNat with
    | some x, some y => convert x y l d a s
    | _, _ => s.illegal (BitVec.ofNat 32
        (0x4400_0000 + t.toNat * 2 ^ 22 + l.toNat * 2 ^ 18 + d.toNat * 2 ^ 11 + a.toNat * 2 ^ 4 + sr.toNat)))

/-- The A format of `fm`, if it is one of E4M3 to I4 (and I4X when `x`). -/
def narrowA (x : Bool) (fm : BitVec 19) : Option Fmt :=
  if 3 ≤ fmA fm ∧ fmA fm ≤ (if x then 8 else 7) then Fmt.ofCode (fmA fm) else none

/-- `vqnt` (R178). -/
def execVqnt (l : BitVec 4) (d a : BitVec 7) (b : BitVec 2) (s : State) : Host.Outcome State Fault Refusal :=
  .next (
    let f := (narrowA false s.w.fm).getD .e4m3
    let e := 32 / f.width
    convertUnit l d a (e + 1) 1 (fun s => need (modeOk s.w.fm && (narrowA false s.w.fm).isSome)) (fun w _ run =>
      let scale := fun k => byteOf ((run k).getD e 0) b.toNat
      let xs := laneElems w e fun k j =>
        if scale k = 0xFF then .nan false
        else (Fmt.decode .f32 (fmFtz w.fm) ((run k).getD j 0).toNat).scale (127 - (scale k : Int))
      let (cs, fl) := f.roundAll (fmMode w.fm) (fmSat w.fm) (fmFtz w.fm) xs
      (packLanes f e cs, fl ||| flagIf ((laneList w.em).any fun k => scale k = 0xFF) flagNV)) s)

/-- The E8M0 code of a largest magnitude (R179), and whether NV is set. -/
def scaleCode (f : Fmt) (a : Num) : Nat × Bool :=
  match a with
  | .fin _ m e _ =>
    if m = 0 then (0, false)
    else
      let x : Int := e + Nat.log2 m - f.emax
      (((if x < -127 then -127 else if 127 < x then 127 else x) + 127).toNat, false)
  | _ => (0xFF, true)

/-- Byte k of a word replaced. -/
def setByte (x : Word) (k v : Nat) : Word :=
  (x &&& ~~~BitVec.ofNat 32 (255 * 2 ^ (8 * k))) ||| BitVec.ofNat 32 (v * 2 ^ (8 * k))

/-- `vscl` (R179). -/
def execVscl (l : BitVec 4) (d a : BitVec 7) (b : BitVec 2) (s : State) : Host.Outcome State Fault Refusal :=
  .next (convertUnit l d a 1 1 (fun s => need (narrowA true s.w.fm).isSome) (fun w d' run =>
    let f := (narrowA true w.fm).getD .e4m3
    let old := w.v d'
    let r := fun k => scaleCode f (Fmt.decode .f32 false ((run k).getD 0 0).toNat)
    (lanes.map fun k => [setByte (old.at k) b.toNat (r k).1], flagIf ((laneList w.em).any fun k => (r k).2) flagNV)) s)

/-- `vi4xe` (R180). -/
def execVi4xe (l : BitVec 4) (d a : BitVec 7) (s : State) : Host.Outcome State Fault Refusal :=
  .next (convertUnit l d a 8 4 (fun _ => .ok ()) (fun w _ run =>
    let r := fun k => i4xEncode ((List.range 32).map fun j => packGet (run k) 8 j)
    (lanes.map fun k => packRun 4 (r k).1, flagIf ((laneList w.em).any fun k => (r k).2) flagLoss)) s)

/-- `vi4xd` (R181). -/
def execVi4xd (l : BitVec 4) (d a : BitVec 7) (s : State) : Host.Outcome State Fault Refusal :=
  .next (convertUnit l d a 4 8 (fun _ => .ok ()) (fun w _ run =>
    let r := fun k => i4xDecode ((List.range 32).map fun j => packGet (run k) 4 j)
    (lanes.map fun k => packRun 8 (r k).1, flagIf ((laneList w.em).any fun k => (r k).2) flagTail)) s)

end Sys2Proof.Machine
end

