-- ==== Sys2Proof/Machine/Atomics.lean ====
section
/-! DEFINITION. The memory atomics (R308, R309), `casm` (R310 to R313) and `claim` (R314, R349). -/

namespace Sys2Proof.Machine

/-- Size in bytes, registers of the operand run and registers that receive the old value (Table 4 of R309). -/
def atomShape (fn : Nat) : Nat × Nat × Nat :=
  match fn with
  | 1 => (8, 2, 2) | 10 => (8, 2, 2) | 12 => (8, 4, 2) | 11 => (4, 2, 1) | _ => (4, 1, 1)

/-- x of an operand run: the low register, or the pair. -/
def pairAt (w : Warp) (r n l : Nat) : Nat :=
  ((w.v r).at l).toNat + if n = 8 then 2 ^ 32 * ((w.v (r + 1)).at l).toNat else 0

/-- An FP addition of `addf` (R309): RNE, subnormals kept, canonical NaN. -/
def addf (f : Fmt) (a b : Nat) : Nat := f.code (Num.sum false [f.decode false a, f.decode false b]).1

/-- The new value of the location (Table 4 of R309). -/
def atomNew (fn old x n : Nat) : Nat :=
  let o := BitVec.ofNat 32 old
  let y := BitVec.ofNat 32 x
  match fn with
  | 0 => (o + y).toNat
  | 1 => (old + x) % 2 ^ 64
  | 2 => (minS o y).toNat
  | 3 => (maxS o y).toNat
  | 4 => min old x
  | 5 => max old x
  | 6 => Nat.land old x
  | 7 => Nat.lor old x
  | 8 => Nat.xor old x
  | 9 => x
  | 10 => x
  | 11 => if old = x then n else old
  | 12 => if old = x then n else old
  | 13 => addf .f32 old x
  | _ => addf .bf16 (bitsOf old 0 16) (bitsOf x 0 16) + 65536 * addf .bf16 (bitsOf old 16 16) (bitsOf x 16 16)

/-- A PCIe window carries FetchAdd, Swap and CAS only (R380). -/
def pcieBad (pkg fn : Nat) (l : Loc) : Bool :=
  match paKind pkg l.pa with
  | .pcie _ => ¬ [0, 1, 9, 10, 11, 12].contains fn
  | _ => false

/-- The read-modify-writes in ascending lane order (R309): the old value of each lane. An 8-byte write of device scope or wider
that takes effect is a command at a RESUME doubleword (R357). -/
def atomAll (fn : Nat) (ag : Agent) (src : Nat → Nat × Nat) : List (Nat × DWord × Loc) → State →
    Except Stop (State × List (Nat × Nat))
  | [], s => .ok (s, [])
  | (t, va, l) :: r, s =>
    let n := (atomShape fn).1
    match s.readLoc ag l n with
    | (s1, .ok old) => do
      let new := bytesOf n (atomNew fn old (src t).1 (src t).2)
      let s2 := s1.writeAtomic ag l new
      let wide : Bool := match ag.scope with | some sc => decide (4 ≤ sc.toNat) | none => false
      let s3 := if wide ∧ n = 8 ∧ s1.applied ag l new then s2.strong8 l.pa (ofBytes new) else s2
      let (s4, xs) ← atomAll fn ag src r s3
      .ok (s4, (t, old) :: xs)
    | (s1, .error .poison) => .error (s1.poisonTrap va l)
    | (s1, .error e) => do
      let (s2, xs) ← atomAll fn ag src r (e.noteBoth (s1.reportNow 0x06 va))
      .ok (s2, (t, 0) :: xs)

/-- The atomics of a unit: once none of its requests waits, and unless a lane meets a line without data, each lane's is a tagged send
(R317). -/
def atomSend (fn : Nat) (scope : BitVec 3) (src : Nat → Nat × Nat) (ls : List (Nat × DWord × Loc)) (s : State) :
    Except Stop (State × List (Nat × Nat)) := do
  let ag := s.me (some scope)
  s.linkReady ag false (ls.map fun x => x.2.2)
  s.badLane ag (atomShape fn).1 ls
  let (s1, xs) ← atomAll fn ag src ls s
  .ok (s1.send (xs.map Prod.snd), xs)

/-- The old values as results of registers d and d + 1. -/
def oldWrites (d regs : Nat) (xs : List (Nat × Nat)) : List RegWrite :=
  let m := maskOf fun l => xs.any fun x => x.1 = l
  (List.range regs).map fun k => .v (d + k) m (Vec.ofFn fun l => BitVec.ofNat 32 (bitsOf (pick xs l) (32 * k) 32))

/-- A memory atomic of a major (R308, R309). -/
def atomUnit (op : Nat) (g l f : BitVec 4) (d a : BitVec 7) (s : State) : State :=
  if f = 15 then
    s.illegal (BitVec.ofNat 32 (op * 2 ^ 26 + g.toNat * 2 ^ 22 + l.toNat * 2 ^ 18 + 15 * 2 ^ 14 + d.toNat * 2 ^ 7 + a.toNat))
  else
    unit [5] false false (fun s => do
      let (n, nin, nold) := atomShape f.toNat
      need (s.destOk a.toNat 2 && s.destOk d.toNat nin)
      s.notPending ((List.range 2).map (a.toNat + ·) ++ (List.range nin).map (d.toNat + ·))
      let w := s.w
      let as := (laneList (s.actingLanes (w.em &&& w.guard g))).map fun k => (k, BitVec.ofNat 64 (pairAt w a.toNat 8 k))
      s.memReady (linesOf as)
      let (s1, fs) ← s.memCheckBy (pcieBad s.vxpkg.toNat f.toNat) as n .rw (op = 0x1F)
      let src := fun k => (pairAt w d.toNat n k, pairAt w (d.toNat + n / 4) n k)
      let (s2, xs) ← atomSend f.toNat (BitVec.ofNat 3 (op - 0x19)) src (located fs) s1
      s.memFinish .rw (pagedOut fs) { s := s2, writes := oldWrites d.toNat nold xs, la := l.toNat, load := .memory }) s

/-- `atom.<fn>.co` (R308). -/
def execAtomCo (g l f : BitVec 4) (d a : BitVec 7) (s : State) : Host.Outcome State Fault Refusal := .next (atomUnit 0x1A g l f d a s)
/-- `atom.<fn>.cl` (R308). -/
def execAtomCl (g l f : BitVec 4) (d a : BitVec 7) (s : State) : Host.Outcome State Fault Refusal := .next (atomUnit 0x1B g l f d a s)
/-- `atom.<fn>.cm` (R308). -/
def execAtomCm (g l f : BitVec 4) (d a : BitVec 7) (s : State) : Host.Outcome State Fault Refusal := .next (atomUnit 0x1C g l f d a s)
/-- `atom.<fn>.ld` (R308). -/
def execAtomLd (g l f : BitVec 4) (d a : BitVec 7) (s : State) : Host.Outcome State Fault Refusal := .next (atomUnit 0x1D g l f d a s)
/-- `atom.<fn>.pk` (R308). -/
def execAtomPk (g l f : BitVec 4) (d a : BitVec 7) (s : State) : Host.Outcome State Fault Refusal := .next (atomUnit 0x1E g l f d a s)
/-- `atom.<fn>.sy` (R308). -/
def execAtomSy (g l f : BitVec 4) (d a : BitVec 7) (s : State) : Host.Outcome State Fault Refusal := .next (atomUnit 0x1F g l f d a s)

/-! `casm` (R311). -/

/-- Why a `casm` ends before its last step: as its unit stops, or with a status. -/
inductive CasmEnd
  | stop (e : Stop) | status (s : State) (v : Nat)

/-- One doubleword of the parameter block, a weak load (R311). A poisoned line or an unreachable home rejects (R335, R353, R377). -/
def casmRead (s : State) (va : DWord) : Except CasmEnd (State × Nat) :=
  match s.xlate va .read with
  | (s1, .error .peerDown) => .error (.status s1 (2 ^ 59))
  | (s1, .error (.page st g)) => .error (.stop (.enter (s1.pageFault va .read st g 0)))
  | (s1, .error _) => .error (.stop (.enter (s1.trap 0x06 va)))
  | (s1, .ok l) =>
    if ¬ s1.locOk l.pa 8 false then .error (.stop (.enter (s1.trap 0x06 va)))
    else
      match s1.linkReady (s1.me none) false [l], s1.readLoc (s1.me none) l 8 with
      | .error e, _ => .error (.stop e)
      | _, (s2, .ok x) => .ok (s2, x)
      | _, (s2, .error .poison) => .error (.status (s2.consumePoison l) (2 ^ 59))
      | _, (s2, .error e) => .error (.status (e.note s2) (2 ^ 59))

/-- The fields of entry i on: address, expected and new value. -/
def casmEntries (b : DWord) : Nat → Nat → State → Except CasmEnd (State × List (DWord × Nat × Nat))
  | 0, _, s => .ok (s, [])
  | n + 1, i, s => do
    let f := fun k => b + BitVec.ofNat 64 (8 + 24 * i + 8 * k)
    let (s1, a) ← casmRead s (f 0)
    let (s2, e) ← casmRead s1 (f 1)
    let (s3, w) ← casmRead s2 (f 2)
    let (s4, r) ← casmEntries b n (i + 1) s3
    .ok (s4, (BitVec.ofNat 64 a, e, w) :: r)

/-- Translations in order; an address that no rule lets a `casm` reach is an access fault (R311). -/
def casmXlate (acc : Access) : List DWord → State → State × List (DWord × Except XFault Loc)
  | [], s => (s, [])
  | va :: r, s =>
    let (s1, x) := s.xlate va acc
    let y : Except XFault Loc := match x with
      | .ok l => if s1.locOk l.pa 8 false then .ok l else .error .access
      | .error e => .error e
    let (s2, ys) := casmXlate acc r s1
    (s2, (va, y) :: ys)

def isAccessFault (peer : Bool) (x : Except XFault Loc) : Bool :=
  match x with
  | .error .access => true
  | .error .peerFail => true
  | .error .peerDown => ¬ peer
  | _ => false

def locsOf (xs : List (DWord × Except XFault Loc)) : List Loc :=
  xs.filterMap fun x => match x.2 with | .ok l => some l | _ => none

/-- An entry lies in the package, in its memory (R341). -/
def State.inPackage (s : State) (l : Loc) : Bool := match paKind s.vxpkg.toNat l.pa with | .mem _ => true | _ => false

/-- A home slice that the lock step cannot reach (R311, R313). -/
def State.homeLost (s : State) (l : Loc) : Bool := s.unreachable s.w.place.ld.toNat (l.pa / 2 ^ 38)

/-- Write doublewords at their homes, as one element of M (R281): a strong one of package scope can be a command (R357). -/
def casmWrite (ag : Agent) : List (Loc × Nat) → State → State
  | [], s => s
  | (l, v) :: r, s =>
    let s1 := (s.writeLoc ag l (bytesOf 8 v) false).1
    casmWrite ag r (if ag.scope.isSome ∧ s.applied ag l (bytesOf 8 v) then s1.strong8 l.pa v else s1)

/-- A line that a `casm` has locked is poisoned, found uncorrectable, or of a failed channel, which counts (R335, R336). -/
def State.casmBad (s : State) (ag : Agent) : List Loc → Option State
  | [] => none
  | l :: r =>
    match s.readLoc ag l 8 with
    | (s1, .error .poison) => some (s1.consumePoison l)
    | _ => s.casmBad ag r

/-- The running warp's `casm` in progress. -/
def State.setCasm (c : Option CasmHold) (s : State) : State := { s with w := { s.w with casm := c } }

/-- A number joins an ascending list. -/
def insertNat (n : Nat) : List Nat → List Nat
  | [] => [n]
  | x :: xs => if n ≤ x then n :: x :: xs else x :: insertNat n xs

/-- The lines of the entries that are still to be locked, in ascending order of home LD and address (R311). -/
def CasmHold.toLock (c : CasmHold) : List Nat :=
  ((c.entries.map fun e => e.1.pa / 64).eraseDups.filter fun l => ¬ c.locks.contains l).foldr insertNat []

/-- The lock step of R311: each request in its order, once the one before it is accepted; a refused one is sent again with its ticket
while the locks already held are kept (R313). What is left when every line is locked. -/
def lockLines (ag : Agent) : List Nat → CasmHold → State → Except Stop (State × CasmHold)
  | [], c, s => .ok (s, c)
  | line :: r, c, s =>
    let l : Loc := ⟨64 * line, false, ag.ld, 0⟩
    match s.waiting ag true [l] with
    | [] => lockLines ag r { c with locks := c.locks ++ [line] } (s.accept ag line)
    | ws =>
      let held := if c.locks = [] then none else some c
      .error (.enter (((if ws.any Prod.fst then s.setMstat 4 else s).refuseAll ag ws).setCasm held).retry)

/-- The element of M and the writes after it (R281, R311), with every line locked: the status. A success is a release, which waits for
the warp's strong stores at ports (R288, R292). -/
def casmElement (c : CasmHold) (s : State) : Except CasmEnd (State × Nat) :=
  let ag := { s.me (some 5) with port := none }
  let ls := c.entries.map fun e => e.1
  match s.casmBad ag ls with
  | some t => .ok (t, 2 ^ 59)
  | none =>
    let s1 := ls.foldl (fun s l => (s.readLoc ag l 8).1) s
    let old := ls.map fun l => s1.peek l.pa 8
    let miss := (old.zip c.entries).map fun x => decide (x.1 ≠ x.2.2.1)
    let m : Nat := (miss.zipIdx.map fun x => x.1.toNat * 2 ^ x.2).sum
    if m ≠ 0 then .ok (casmWrite { ag with scope := none } (c.fields.zip old) s1, m)
    else if s.strongHeld then .error (.stop (.enter ((if s.heldTraining then s.setMstat 4 else s).setCasm (some c)).retry))
    else .ok (casmWrite ag (ls.zip (c.entries.map fun e => e.2.2)) s1, 0)

/-- A `casm` from its lock step on (R311, R313): a home that is not reachable, a wait, or the element. -/
def casmLock (c : CasmHold) (s : State) : Except CasmEnd (State × Nat) :=
  if c.entries.any fun e => s.homeLost e.1 then .ok (s, 2 ^ 59)
  else
    let far := (s.waiting { s.me none with port := none } true c.fields).any Prod.fst
    if far ∧ c.locks = [] then .error (.stop (.enter (s.setMstat 4).retry))
    else
      match lockLines (s.me (some 5)) c.toLock c s with
      | .error e => .error (.stop e)
      | .ok (s1, c1) => casmElement c1 s1

/-- The steps of R311 from the header to the translations: the status of a rejected one, or what the lock step needs. -/
def casmRequest (b : DWord) (n : Nat) (s : State) : Except CasmEnd (State × CasmHold) := do
  if b.toNat % 8 ≠ 0 then .error (.stop (.trap 0x04 b))
  let (s1, h) ← casmRead s b
  if bitsOf h 0 8 ≠ n ∨ h / 2 ^ 9 ≠ 0 then .error (.status s1 (2 ^ 60))
  let (s2, es) ← casmEntries b n 0 s1
  match es.find? fun e => e.1.toNat % 8 ≠ 0 with
  | some e => .error (.stop (.trap 0x04 e.1))
  | none =>
    let ret := h.testBit 8
    let (s3, xs) := casmXlate .rw (es.map fun e => e.1) s2
    let (s4, fs) := if ret then casmXlate .write ((List.range n).map fun i => b + BitVec.ofNat 64 (16 + 24 * i)) s3 else (s3, [])
    match xs.find? fun x => isAccessFault true x.2, fs.find? fun x => isAccessFault false x.2 with
    | some x, _ => .error (.stop (.enter (s4.trap 0x06 x.1)))
    | none, some x => .error (.stop (.enter (s4.trap 0x06 x.1)))
    | none, none =>
      let page := fun (acc : Access) (l : List (DWord × Except XFault Loc)) =>
        l.findSome? fun x => match x.2 with | .error (.page st g) => some (x.1, acc, st, g) | _ => none
      match (page .rw xs).orElse fun _ => page .write fs with
      | some (va, acc, st, g) => .error (.stop (.enter (s4.pageFault va acc st g 0)))
      | none =>
        let ls := locsOf xs
        if ls.any fun l => ¬ s4.inPackage l then .error (.status s4 (2 ^ 61))
        if (ls.map Loc.pa).eraseDups.length ≠ ls.length then .error (.status s4 (2 ^ 62))
        if ls.length ≠ xs.length then .error (.status s4 (2 ^ 59))
        .ok (s4, ⟨ls.zip (es.map fun e => e.2), locsOf fs, []⟩)

/-- The steps of R311: the state and the status. One that is in progress goes on with its locks (R313). -/
def casmBody (b : DWord) (n : Nat) (s : State) : Except CasmEnd (State × Nat) :=
  match s.w.casm with
  | some c => casmLock c s
  | none => do
    let (s1, c) ← casmRequest b n s
    casmLock c s1

/-- `casm` (R310, R311, R46); it acts once whatever EM holds. -/
def execCasm (l : BitVec 4) (d a : BitVec 6) (n : BitVec 4) (s : State) : Host.Outcome State Fault Refusal :=
  .next (unit [] false false (fun s => do
    need (¬ (l ≠ 0 ∧ (d = 55 ∨ d = 56)))
    s.memReady 1
    let ends := fun (t : State) (v : Nat) =>
      ({ s := (t.setCasm none).send [v], writes := [.s d.toNat (BitVec.ofNat 64 v)], la := l.toNat, load := .memory } : Eff)
    match casmBody (s.w.s a.toNat) (n.toNat + 1) s with
    | .ok (t, v) => .ok (ends t v)
    | .error (.status t v) => .ok (ends t v)
    | .error (.stop e) => .error e) s)

/-! `claim` (R314, R349). -/

/-- The final leaf of an address (R344), if tables give one. -/
def State.finalLeaf (s : State) (v : Via) (va : Nat) : Option Found :=
  (s.stallRec v.ld v.stall).bind fun r =>
    let ok := fun (x : State × Except XFault Found) => match x.2 with | .ok f => some f | .error _ => none
    (ok (s.firstStage v r va 0)).bind fun f =>
      if bitsOf r.2.1 60 4 ≠ 0 then ok (s.gStage v r.2.1 f.addr 0)
      else if bitsOf r.1 60 4 ≠ 0 then some f else none

/-- Bytes of the page of a leaf (R345). -/
def Found.size (f : Found) : Nat := if f.pte.testBit 63 then 65536 else 2 ^ (12 + 9 * f.level)

/-- The arena index of a leaf (R348). -/
def Found.arena (f : Found) : Option Nat :=
  if f.pte.testBit 8 ∧ f.level = 0 ∧ ¬ f.pte.testBit 63 then some (bitsOf f.pte 10 44) else none

/-- The final leaf of a page of a range: none in the peer window. -/
def State.claimLeaf (s : State) (va : Nat) : Option Found := if inPeer va then none else s.finalLeaf s.via va

/-- The pages of a range. -/
def pagesFrom (lo n : Nat) : List Nat := (List.range n).map fun i => lo + 4096 * i

/-- A range that covers a part of a larger page traps, before any page fault (R314 step 1): the lowest such page. -/
def State.claimWhole (s : State) (lo hi : Nat) : Except Stop Unit :=
  let cutBase := fun (va : Nat) => (s.claimLeaf va).bind fun f =>
    let base := va / f.size * f.size
    if lo ≤ base ∧ base + f.size ≤ hi then none else some base
  match (pagesFrom lo ((hi - lo) / 4096)).findSome? cutBase with
  | some base => .error (.trap 0x02 (BitVec.ofNat 64 base))
  | none => .ok ()

/-- Every page of a range is translated (R314 step 2): their arena indices, none where there is none. -/
def claimPages : List Nat → State → Except Stop (State × List (Option Nat))
  | [], s => .ok (s, [])
  | va :: vs, s =>
    match s.xlate (BitVec.ofNat 64 va) .rw with
    | (s1, .error (.page st g)) => .error (.enter (s1.pageFault (BitVec.ofNat 64 va) .rw st g 0))
    | (s1, .error _) => .error (.enter (s1.trap 0x06 (BitVec.ofNat 64 va)))
    | (s1, .ok _) => do
      let (s2, r) ← claimPages vs s1
      .ok (s2, (s1.claimLeaf va).bind Found.arena :: r)

/-- Where the entry of arena page i lies, and place k of an LD's stack (R348, R349). -/
def State.arenaAddr (s : State) (i : Nat) : Nat := s.vxarena.toNat + 8 * i
def State.stackAddr (s : State) (ld k : Nat) : Nat := (s.ldOf ld).vxpool.toNat + 8 * k

/-- The frame of arena page i. -/
def State.arenaFrame (s : State) (i : Nat) : Nat := bitsOf (s.homePeek (s.arenaAddr i) 8) 0 44 * 4096

/-- The frame at a place of an LD's stack (R349). -/
def State.stackFrame (s : State) (ld k : Nat) : Nat := bitsOf (s.homePeek (s.stackAddr ld k) 8) 0 44 * 4096

/-- The device reads a doubleword for the running warp's `claim` (R349). -/
def State.claimRead (pa : Nat) (s : State) : State := (s.devRead s.w.place.ld.toNat (s.stallOf s.w) pa 8).1

/-- A line of a page that moves is read at its home (R328, R334, R336), and the line that it goes to is taken from a hart. -/
def State.takeLine (old new : Nat) (s : State) : State :=
  let s1 := ((s.serve .device old).evictHart old).evictHart new
  if s1.bad (old / 64) then s1.markBad (old / 64) else s1

/-- The contents of one frame move to another (R349): a poisoned line stays poisoned, and every line is when the old home is in
reset. -/
def State.movePage (old new : Nat) (s : State) : State :=
  let lost := (s.ldOf (old / 2 ^ 38)).baseReset
  let s1 := if lost then s else (List.range 64).foldl (fun s i => s.takeLine (old + 64 * i) (new + 64 * i)) s
  let inside := fun (b a : Nat) => decide (b ≤ a ∧ a < b + 4096)
  let kept := s1.mem.filter fun c => ¬ inside new c.1
  let bad := fun (i : Nat) => lost || s1.poisoned (old / 64 + i)
  let s2 := { s1 with
    mem := if lost then kept
      else (s1.mem.filter fun c => inside old c.1).foldl (fun m c => m.set memDefault (c.1 - old + new) c.2) kept
    flips := s1.flips.filter fun c => ¬ inside new c.1
    copies := s1.copies.filter fun c => ¬ inside old (64 * c.line) && ¬ inside new (64 * c.line) }
  (List.range 64).foldl (fun s i =>
    if bad i then (s.poisonLine (new / 64 + i)).countMem (new / 2 ^ 38) 32 else s.clearPoison (new / 64 + i)) s2

/-- Push a frame onto its LD's stack (R349 step 4). The doubleword is the frame's PPN. DESIGN CHOICE, assumption 9. -/
def State.pushFrame (frame : Nat) (s : State) : State :=
  let ld := frame / 2 ^ 38
  let l := s.ldOf ld
  (s.devWrite ld (s.stallOf s.w) (s.stackAddr ld l.vxpooltop.toNat) (bytesOf 8 (frame / 4096))).setLd ld
    { s.ldOf ld with vxpooltop := l.vxpooltop + 1 }

/-- One page moves to LD `dst` (R349 steps 1 to 4). -/
def State.rehome (dst i : Nat) (s : State) : State :=
  let k := (s.ldOf dst).vxpooltop.toNat - 1
  let s0 := (s.claimRead (s.arenaAddr i)).claimRead (s.stackAddr dst k)
  let old := s0.arenaFrame i
  let new := s0.stackFrame dst k
  let s1 := s0.setLd dst { s0.ldOf dst with vxpooltop := (s0.ldOf dst).vxpooltop - 1 }
  let s2 := (s1.movePage old new).devWrite dst (s.stallOf s.w) (s.arenaAddr i) (bytesOf 8 (2 ^ 63 + new / 4096))
  s2.pushFrame old

/-- There is room to move the pages (R349): frames on the caller's stack, and capacity on those of the old LDs. -/
def State.claimRoom (s : State) (dst : Nat) (pages : List Nat) : Bool :=
  pages.length ≤ (s.ldOf dst).vxpooltop.toNat &&
    (List.range 4).all fun ld =>
      (s.ldOf ld).vxpooltop.toNat + (pages.countP fun i => s.arenaFrame i / 2 ^ 38 = ld) ≤ (s.ldOf ld).vxpoolcap.toNat
        || pages.all fun i => s.arenaFrame i / 2 ^ 38 ≠ ld

/-- The translations that read the arena entries of moved pages are dropped in every LD, and the kept entries themselves (R351). -/
def State.dropArena (far : List Nat) (s : State) : State :=
  let entry := fun (pa : Nat) => far.any fun i => pa = s.vxarena.toNat + 8 * i
  { s with
    tlb := s.tlb.filter fun e => match e.arena with | some i => ¬ far.contains i | none => true
    walkWords := s.walkWords.filter fun e => ¬ entry e.pa }

/-- What holds a `claim` back besides its warp's own accesses (R314, R351): operations in flight that read a page that moves, or a
`casm` that has locked a line of it. -/
def State.moving (s : State) (far : List Nat) : Bool :=
  let frames := far.map fun i => s.arenaFrame i
  ¬ (s.accessesOf fun l => frames.contains (l.pa / 4096 * 4096)).isEmpty
    || s.allWarps.any fun w => w.casm.any fun c => c.locks.any fun l => frames.contains (l / 64 * 4096)

/-- A link by which a line of an old frame moves is retraining (R377). -/
def State.moveWaits (s : State) (dst : Nat) (far : List Nat) : Bool :=
  far.any fun i => (List.range 64).any fun k =>
    s.linkWaits dst (s.arenaFrame i / 2 ^ 38) (s.arenaFrame i / 64 + k)

/-- `claim` (R314, R349): its full fence waits for every earlier access and operation of the warp, its invalidation for the reads in
flight of the pages that move (R351). A wait for a link marks RETRAIN (R316). -/
def execClaim (d a b : BitVec 6) (s : State) : Host.Outcome State Fault Refusal :=
  .next (unit [] false false (fun s => do
    s.memReady 1
    let start := s.w.s a.toNat
    let len := (s.w.s b.toNat).toNat
    trapIf (start.toNat % 4096 ≠ 0 ∨ len % 4096 ≠ 0) 0x04 start
    s.claimWhole start.toNat (start.toNat + len)
    let (s1, ps) ← claimPages (pagesFrom start.toNat (len / 4096)) s
    let dst := s.w.place.ld.toNat
    if ps.any Option.isNone then return { s := s1.send [1], writes := [.s d.toNat 1] }
    let far := (ps.filterMap id).eraseDups.filter fun i => s1.arenaFrame i / 2 ^ 38 ≠ dst
    if ¬ s1.claimRoom dst far then return { s := s1.send [2], writes := [.s d.toNat 2] }
    if s1.heldTraining ∨ s1.moveWaits dst far then throw (.enter (s1.setMstat 4).retry)
    ready (s.quiet s.w && ¬ s.strongHeld && s.ownHeld.isEmpty && ¬ s1.moving far) s
    let s2 := (far.foldl (fun s i => s.rehome dst i) (s1.drain s1.w.place)).dropArena far
    .ok { s := ({ s2 with w := s2.w.commitLoads true }).send [0], writes := [.s d.toNat 0] }) s)

end Sys2Proof.Machine
end

