-- ==== Sys2Proof/Machine/Buffers.lean ====
section
/-! DEFINITION. The A and W buffers of a workgroup (R208 to R217). -/

namespace Sys2Proof.Machine

/-- Byte o of an allotment; u = 1 is the W buffer. -/
def Group.buf (g : Group) (u : BitVec 1) (o : Nat) : Byte := (if u = 0 then g.abuf else g.wbuf).get 0 o

/-- Length of an allotment (R211). -/
def Group.len (g : Group) (u : BitVec 1) : Nat := if u = 0 then g.alen else g.wlen

def Group.setBuf (g : Group) (u : BitVec 1) (o : Nat) (v : Byte) : Group :=
  if u = 0 then { g with abuf := g.abuf.set 0 o v } else { g with wbuf := g.wbuf.set 0 o v }

/-- Buf(b, o, n) read and written (R214). -/
def Group.bufRead (g : Group) (u : BitVec 1) (o n : Nat) : Nat := ofBytes ((List.range n).map fun i => g.buf u (o + i))
def Group.bufWrite (u : BitVec 1) (o : Nat) : List Byte → Group → Group
  | [], g => g
  | b :: r, g => Group.bufWrite u (o + 1) r (g.setBuf u o b)

/-- The word at a word offset of the W allotment. -/
def Group.wword (g : Group) (k : Nat) : Word := BitVec.ofNat 32 (g.bufRead 1 (4 * k) 4)

/-- Words of the W allotment of the running warp's workgroup are about to be written: a pass of the workgroup that has not read its
panel may still find what they held (R217, R238). -/
def State.keepOld (u : BitVec 1) (ks : List Nat) (s : State) : State :=
  if u = 0 then s
  else
    let keep := fun (o : Op) => { o with old := ks.foldl (fun c k =>
      if (c.get none k).isNone then c.set none k (some (s.wg.wword k)) else c) o.old }
    let mine := fun (o : Op) => s.allWarps.any fun w => decide (w.place = o.place ∧ w.key = s.w.key)
    { s with ops := s.ops.map fun o =>
        match o.kind with
        | .matrix _ _ _ _ _ _ left _ _ _ _ => if left ≠ 0 ∧ mine o then keep o else o
        | _ => o }

/-- The words that n bytes at each of some offsets touch. -/
def bufWords (n : Nat) (os : List Nat) : List Nat := os.flatMap fun o => (List.range ((n + 3) / 4)).map fun k => o / 4 + k

/-- The offsets of acting lanes, checked by R213. -/
def bufCheck (g : Group) (u : BitVec 1) (n : Nat) (os : List (Nat × Nat)) : Except Stop Unit :=
  match os.find? fun o => o.2 % n ≠ 0, os.find? fun o => g.len u < o.2 + n with
  | some o, _ => .error (.trap 0x04 (BitVec.ofNat 64 o.2))
  | none, some o => .error (.trap 0x0B (BitVec.ofNat 64 o.2))
  | none, none => .ok ()

/-- The lanes of m with their offsets. -/
def Warp.offsets (w : Warp) (a : Nat) (m : Mask) : List (Nat × Nat) := (laneList m).map fun l => (l, ((w.src a 0).at l).toNat)

/-- Size of a width code of a buffer form. -/
def bufSize (w : Nat) : Nat := 4 * 2 ^ w

/-- A buffer form with w = 3 is a reserved value (R212). -/
def bufIllegal (fn la u d a w : Nat) : Word :=
  BitVec.ofNat 32 (0x8000_0000 + fn * 2 ^ 22 + la * 2 ^ 18 + u * 2 ^ 16 + d * 2 ^ 9 + a * 4 + w)

/-- `bld` (R214). -/
def execBld (l : BitVec 4) (u : BitVec 1) (d a : BitVec 7) (w : BitVec 2) (s : State) : Host.Outcome State Fault Refusal :=
  .next (
    if w = 3 then s.illegal (bufIllegal 0 l.toNat u.toNat d.toNat a.toNat 3)
    else
      unit [] false false (fun s => do
        let n := bufSize w.toNat
        need (s.destOk d.toNat (n / 4) && s.srcOk a.toNat)
        s.notPending (a.toNat :: (List.range (n / 4)).map (d.toNat + ·))
        s.popCheck [a.toNat] 1
        let os := s.w.offsets a.toNat s.w.em
        bufCheck s.wg u n os
        let xs := os.map fun o => (o.1, s.wg.bufRead u o.2 n)
        .ok { s := { s with w := s.w.popped [a.toNat] 1 }, writes := oldWrites d.toNat (n / 4) xs, la := l.toNat, load := .buffer }) s)

/-- `bst` (R214): of two lanes that write one byte, the higher-numbered stands. -/
def execBst (g : BitVec 4) (u : BitVec 1) (v a : BitVec 7) (w : BitVec 2) (s : State) : Host.Outcome State Fault Refusal :=
  .next (
    if w = 3 then s.illegal (bufIllegal 1 g.toNat u.toNat v.toNat a.toNat 3)
    else
      unit [] false false (fun s => do
        let n := bufSize w.toNat
        need (s.srcOk a.toNat && (if n = 4 then s.srcOk v.toNat else s.destOk v.toNat (n / 4)))
        s.notPending (a.toNat :: (List.range (n / 4)).map (v.toNat + ·))
        s.popCheck [a.toNat, v.toNat] 1
        let os := s.w.offsets a.toNat (s.w.em &&& s.w.guard g)
        bufCheck s.wg u n os
        let wg := os.foldl (fun g o => g.bufWrite u o.2 (storeBytes (4 + w.toNat) s.w v.toNat o.1)) s.wg
        let s1 := s.keepOld u (bufWords n (os.map Prod.snd))
        .ok { s := { s1 with w := s.w.popped [a.toNat, v.toNat] 1, wg := wg } }) s)

/-- A buffer atomic of n bytes: lane by lane in ascending order (R215). `run`: registers of the operand run. -/
def bufAtomics (u : BitVec 1) (n : Nat) (f : Nat → Nat → Nat) : List (Nat × Nat) → Group → Group × List (Nat × Nat)
  | [], g => (g, [])
  | (l, o) :: r, g =>
    let old := g.bufRead u o n
    let (g2, xs) := bufAtomics u n f r (g.bufWrite u o (bytesOf n (f l old)))
    (g2, (l, old) :: xs)

def bufAtomic (l : BitVec 4) (u : BitVec 1) (d a : BitVec 7) (w : BitVec 1) (cas : Bool)
    (f : Nat → Nat → Nat → Nat → Nat) : State → State :=
  unit [] false false fun s => do
    let n := bufSize w.toNat
    let run := if cas then n / 2 else n / 4
    need (s.destOk d.toNat run && s.srcOk a.toNat)
    s.notPending (a.toNat :: (List.range run).map (d.toNat + ·))
    s.popCheck [a.toNat] 1
    let os := s.w.offsets a.toNat s.w.em
    bufCheck s.wg u n os
    let (wg, xs) := bufAtomics u n
      (fun k old => f n old (pairAt s.w d.toNat n k) (pairAt s.w (d.toNat + n / 4) n k)) os s.wg
    let s1 := s.keepOld u (bufWords n (os.map Prod.snd))
    .ok
      { s := { s1 with w := s.w.popped [a.toNat] 1, wg := wg }
        writes := oldWrites d.toNat (n / 4) xs, la := l.toNat, load := .buffer }

/-- `batom.add` (R215). -/
def execBatomAdd (l : BitVec 4) (u : BitVec 1) (d a : BitVec 7) (w : BitVec 1) (s : State) : Host.Outcome State Fault Refusal :=
  .next (bufAtomic l u d a w false (fun n old x _ => (old + x) % 2 ^ (8 * n)) s)
/-- `batom.min` (R215): signed. -/
def execBatomMin (l : BitVec 4) (u : BitVec 1) (d a : BitVec 7) (w : BitVec 1) (s : State) : Host.Outcome State Fault Refusal :=
  .next (bufAtomic l u d a w false (fun n old x _ => if signed (8 * n) x < signed (8 * n) old then x else old) s)
/-- `batom.max` (R215): signed. -/
def execBatomMax (l : BitVec 4) (u : BitVec 1) (d a : BitVec 7) (w : BitVec 1) (s : State) : Host.Outcome State Fault Refusal :=
  .next (bufAtomic l u d a w false (fun n old x _ => if signed (8 * n) old < signed (8 * n) x then x else old) s)
/-- `batom.exch` (R215). -/
def execBatomExch (l : BitVec 4) (u : BitVec 1) (d a : BitVec 7) (w : BitVec 1) (s : State) : Host.Outcome State Fault Refusal :=
  .next (bufAtomic l u d a w false (fun _ _ x _ => x) s)
/-- `batom.cas` (R215). -/
def execBatomCas (l : BitVec 4) (u : BitVec 1) (d a : BitVec 7) (w : BitVec 1) (s : State) : Host.Outcome State Fault Refusal :=
  .next (bufAtomic l u d a w true (fun _ old e v => if old = e then v else old) s)

end Sys2Proof.Machine
end

