-- ==== Sys2Proof/Machine/Distributor.lean ====
section
/-! DEFINITION. The distributor: records, kernel objects, queues, placement and pre-emption of launches (R387 to R404, R410,
R411). -/

namespace Sys2Proof.Machine

/-! Launch records (R390, R391). -/

/-- The fields of a record (Table 1 of R390). -/
def recordOf (w : List DWord) : Record :=
  let d := fun i => w.getD i 0
  { kobj := d 0, n := (d 1).truncate 48, prio := ((d 2) >>> 38).truncate 3, queue := ((d 2) >>> 32).truncate 6
    gmax := (d 2).truncate 32, shape0 := d 3, shape1 := d 4, shape2 := d 5, argp := d 6, caddr := d 7 }

/-- Check 3 of R391: a reserved bit, KOBJ or CADDR. -/
def badRecord (w : List DWord) : Bool :=
  let d := fun i => (w.getD i 0).toNat
  bitsOf (d 1) 48 16 ≠ 0 || bitsOf (d 2) 41 23 ≠ 0 || d 0 % 256 ≠ 0 || d 7 % 8 ≠ 0

/-- A refused record is answered at once in its writer's stall, or reported when it has no completion word (R391, R402). -/
def State.refuse (ld : Nat) (h : Handed) (seq : Word) (status : BitVec 8) (s : State) : State :=
  let r := recordOf h.words
  if r.caddr = 0 ∨ r.caddr.toNat % 8 ≠ 0 then
    s.postError ld 3 h.writer.toNat (r.queue.toNat * 2 ^ 32 + seq.toNat)
  else s.completionWord ld h.col.toNat h.writer.toNat r.caddr r.queue.toNat seq 0 status

/-- DEPTH of a queue (R395). -/
def State.depthOf (s : State) (ld q : Nat) : Nat :=
  s.allLaunches.countP fun l => l.ld.toNat = ld ∧ l.record.queue.toNat = q

/-- The checks of R391 on a record: accepted at the tail of its queue, or refused. -/
def State.takeRecord (ld : BitVec 2) (h : Handed) (s : State) : State :=
  let r := recordOf h.words
  let q := s.queueOf ld.toNat r.queue.toNat
  if ¬ q.en ∨ q.owner ≠ h.writer then s.refuse ld.toNat h 0xFFFF_FFFF 0x07
  else
    let s1 := s.setQueueOf ld.toNat r.queue.toNat { q with nextSeq := q.nextSeq + 1 }
    if 32 ≤ s.depthOf ld.toNat r.queue.toNat then s1.refuse ld.toNat h q.nextSeq 0x08
    else if badRecord h.words then s1.refuse ld.toNat h q.nextSeq 0x04
    else
      let d := s1.ldOf ld.toNat
      let s2 := s1.setLd ld.toNat { d with accepted := d.accepted + 1 }
      let l : Launch :=
        { Launch.none with
          ld := ld, record := r, seq := q.nextSeq, writer := h.writer, col := h.col
          order := 4 * (d.accepted + 1) + ld.toNat }
      ({ s2 with launches := s2.launches ++ [l] }).complete

/-- The distributor takes the next record (R389, R391). -/
def execLaunchRecord (ld : BitVec 2) (s : State) : Host.Outcome State Fault Refusal :=
  .next (
    let d := s.ldOf ld.toNat
    match d.handed with
    | [] => s
    | h :: r => (s.setLd ld.toNat { d with handed := r }).takeRecord ld h)

/-! Kernel objects (R392, R394). -/

/-- A strong 8-byte read at system scope by the distributor in a stall's context: the value, or whether the read waits for a link
or port in training. A poisoned line is reported and ends no stall (R439). -/
def State.readFor (s : State) (ld col stall : Nat) (va : DWord) : State × Except Bool Nat :=
  match s.translate ⟨ld, col, 8, stall⟩ va .read with
  | (s1, .error _) => (s1, .error false)
  | (s1, .ok l) =>
    if s1.locOk l.pa 8 true then
      match s1.readLoc (Agent.device ld) l 8 with
      | (s2, .ok x) => (s2, .ok x)
      | (s2, .error .poison) => (s2.reportPoison l, .error false)
      | (s2, .error (.hold _)) => (s2, .error true)
      | (s2, .error .link) => (s2, .error true)
      | (s2, .error _) => (s2, .error false)
    else (s1, .error false)

/-- n doublewords from an address up. -/
def State.readFors (ld col stall : Nat) : Nat → DWord → State → State × Except Bool (List Nat)
  | 0, _, s => (s, .ok [])
  | n + 1, va, s =>
    match s.readFor ld col stall va with
    | (s1, .error e) => (s1, .error e)
    | (s1, .ok x) =>
      match State.readFors ld col stall n (va + 8) s1 with
      | (s2, .ok xs) => (s2, .ok (x :: xs))
      | (s2, .error e) => (s2, .error e)

/-- The kernel of a header read at an address (Table 2 of R392). -/
def kernelOf (va : DWord) (w : List Nat) : Kernel :=
  let d := fun i => w.getD i 0
  { base := va.truncate 48, stages := BitVec.ofNat 8 (bitsOf (d 0) 16 8)
    entries := (List.range 8).map fun n => BitVec.ofNat 48 (d (8 + n))
    tiles := bitsOf (d 1) 24 5, vregs := bitsOf (d 1) 16 7, gang := bitsOf (d 1) 8 4, warps := bitsOf (d 1) 0 5
    abuf := bitsOf (d 2) 0 32, wbuf := bitsOf (d 2) 32 32, ilive := BitVec.ofNat 120 (d 4 * 2 ^ 64 + d 3) }

/-- VCNT of a header. -/
def variants (w : List Nat) : Nat := bitsOf (w.getD 0 0) 8 3

/-- The checks that give BADOBJ (R394). DEDUCED (assumption 65): an ABUF or WBUF above the buffer's size is none of them, since R71 and
R209 give it NOFIT. -/
def badObject (w : List Nat) : Bool :=
  let d := fun i => w.getD i 0
  let k := kernelOf 0 w
  let reserved := bitsOf (d 0) 24 40 ≠ 0 || bitsOf (d 0) 11 5 ≠ 0 || bitsOf (d 1) 29 35 ≠ 0 || (d 1).testBit 23
    || bitsOf (d 1) 12 4 ≠ 0 || bitsOf (d 1) 5 3 ≠ 0 || bitsOf (d 4) 56 8 ≠ 0 || d 5 ≠ 0 || d 6 ≠ 0 || d 7 ≠ 0
    || (List.range 4).any fun i =>
      d (19 + 4 * i) ≠ 0 || (variants w ≤ i && (d (16 + 4 * i) ≠ 0 || d (17 + 4 * i) ≠ 0 || d (18 + 4 * i) ≠ 0))
  let limits := 4 < variants w || 16 < k.tiles || k.vregs < 8 || 120 < k.vregs || k.vregs % 8 ≠ 0 || k.gang = 0 || 8 < k.gang
    || k.warps = 0 || 16 < k.warps || k.abuf % 1024 ≠ 0 || k.wbuf % 1024 ≠ 0
  let entry := (List.range 8).any fun n =>
    let e := d (8 + n)
    if k.stages.getLsbD n then e % 4 ≠ 0 || e < 256 else e ≠ 0
  bitsOf (d 0) 0 8 ≠ 1 || limits || ¬ k.stages.getLsbD 0
    || ((List.range 120).any fun r => k.vregs ≤ r && k.ilive.getLsbD r) || reserved || entry

/-- Size of a workgroup's save block (R400). -/
def saveSize (k : Kernel) : Nat := 0x100 + k.abuf + k.wbuf + k.warps * 0x3_2800

/-- A workgroup that can never fit (R71, R209, R247, R400). -/
def neverFits (k : Kernel) (q : Queue) : Bool :=
  let log := bitsOf q.save.toNat 48 8
  128 < k.warps * k.vregs / 8 || 262144 < k.abuf || 524288 < k.wbuf || 16 < k.warps * k.tiles || q.nblk = 0 || log < 16 || 30 < log || 2 ^ log < saveSize k

/-- The first variant whose range holds shape word 0 (R394). -/
def variantFor (w : List Nat) (shape : Nat) : Option Nat :=
  (List.range (variants w)).find? fun i => w.getD (16 + 4 * i) 0 ≤ shape ∧ shape ≤ w.getD (17 + 4 * i) 0

/-- The kernel that a launch runs, or the status it ends with (R394); none while a read is held. -/
def State.readKernel (s : State) (l : Launch) : State × Option (Except (BitVec 8) Kernel) :=
  let ld := l.ld.toNat
  let stall := l.writer.toNat
  let q := s.queueOf ld l.record.queue.toNat
  let fit := fun (k : Kernel) => if neverFits k q then .error 0x03 else .ok k
  match State.readFors ld l.col.toNat stall 32 l.record.kobj s with
  | (s1, .error true) => (s1, none)
  | (s1, .error false) => (s1, some (.error 0x06))
  | (s1, .ok w) =>
    if badObject w then (s1, some (.error 0x05))
    else if variants w = 0 then (s1, some (fit (kernelOf l.record.kobj w)))
    else
      match variantFor w l.record.shape0.toNat with
      | none => (s1, some (.error 0x02))
      | some i =>
        let t := l.record.kobj + BitVec.ofNat 64 (w.getD (18 + 4 * i) 0)
        if t.toNat % 256 ≠ 0 then (s1, some (.error 0x05))
        else
          match State.readFors ld l.col.toNat stall 32 t s1 with
          | (s2, .error true) => (s2, none)
          | (s2, .error false) => (s2, some (.error 0x06))
          | (s2, .ok w2) =>
            if badObject w2 ∨ variants w2 ≠ 0 then (s2, some (.error 0x05)) else (s2, some (fit (kernelOf t w2)))

/-- The current launch of a queue (R396). -/
def State.headOf (s : State) (ld q : Nat) : Option Launch :=
  s.allLaunches.find? fun l => l.ld.toNat = ld ∧ l.record.queue.toNat = q ∧ s.isHead l

/-- A launch is changed. -/
def State.setLaunch (l : Launch) (s : State) : State := s.mapLaunches fun m => if m.order = l.order then l else m

/-- The end of a launch with a status, with its completion word when no workgroup remains (R404). -/
def State.endNow (l : Launch) (status : BitVec 8) (s : State) : State :=
  (s.endLaunch l.ld l.record.queue l.seq status).complete

/-- The kernel object of the launch at the head of a queue is read (R394). -/
def execKernelObjectRead (ld : BitVec 2) (q : BitVec 6) (s : State) : Host.Outcome State Fault Refusal :=
  .next (
    match s.headOf ld.toNat q.toNat with
    | none => s
    | some l =>
      if l.record.n = 0 ∨ l.kernel.isSome ∨ l.ending.isSome then s
      else
        match s.readKernel l with
        | (s1, none) => s1
        | (s1, some (.ok k)) => s1.setLaunch { l with kernel := some k }
        | (s1, some (.error st)) => s1.endNow l st)

/-! Placement (R69, R209, R398 to R401). -/

/-- The launch and the kernel of a workgroup. -/
def State.launchOf (s : State) (g : Group) : Option Launch := s.allLaunches.find? fun l => g.ofLaunch l
def State.kernelFor (s : State) (g : Group) : Kernel := ({ s with lc := (s.launchOf g).getD Launch.none }).kernel

/-- Workgroups resident on a core. -/
def State.onCore (s : State) (ld col core : Nat) : List Group :=
  s.allGroups.filter fun g => ¬ g.saved ∧ g.key.ld.toNat = ld ∧ g.col.toNat = col ∧ g.core.toNat = core

/-- The lowest base of a free range of n bytes among ranges in use (R209). -/
def freeBase (size n : Nat) (used : List (Nat × Nat)) : Option Nat :=
  if n = 0 then some 0
  else
    let ok := fun b => b + n ≤ size ∧ used.all fun u => u.2 = 0 || u.1 + u.2 ≤ b || b + n ≤ u.1
    ((0 :: used.map fun u => u.1 + u.2).filter fun b => ok b).foldl
      (fun m b => match m with | none => some b | some x => some (min x b)) none

/-- Free warp slots of a core, ascending. -/
def State.freeSlots (s : State) (ld col core : Nat) : List Nat :=
  (List.range 16).filter fun i => s.allWarps.all fun w =>
    w.place.ld.toNat ≠ ld || w.place.col.toNat ≠ col || w.place.core.toNat ≠ core || w.place.slot.toNat ≠ i

/-- Bases of the allotments of a workgroup that fits on a core now (R69, R209, R247). -/
def State.fitsCore (s : State) (k : Kernel) (ld col core : Nat) : Option (Nat × Nat) :=
  let gs := s.onCore ld col core
  let blocks := (gs.map fun g => g.warps * (s.kernelFor g).vregs / 8).sum
  let slots := (gs.map fun g => g.warps * (s.kernelFor g).tiles).sum
  if (s.freeSlots ld col core).length < k.warps ∨ 128 < blocks + k.warps * k.vregs / 8 ∨ 16 < slots + k.warps * k.tiles then none
  else
    match freeBase 262144 k.abuf (gs.map fun g => (g.abase, g.alen)), freeBase 524288 k.wbuf (gs.map fun g => (g.wbase, g.wlen)) with
    | some a, some b => some (a, b)
    | _, _ => none

/-- A column on which the distributor may place work: exposed, with its cores in service (R441, R442, R440). -/
def State.colUsable (s : State) (ld col : Nat) : Bool :=
  (s.ldOf ld).cols.getLsbD col && ¬ (s.colOf ld col).coresLost && ¬ (s.ldOf ld).baseReset
    && ¬ (s.ldOf ld).dieReset.getLsbD (col / 24)

/-- The column and cores for a gang of n workgroups (R399): the lowest column that fits, and its lowest cores. -/
def State.fitsGang (s : State) (k : Kernel) (n ld : Nat) : Option (Nat × List Nat) :=
  (List.range 48).findSome? fun col =>
    if s.colUsable ld col then
      let cores := (List.range 8).filter fun c => (s.fitsCore k ld col c).isSome
      if n ≤ cores.length then some (col, cores.take n) else none
    else none

/-- Free save blocks of a queue, ascending (R400). -/
def State.freeBlocks (s : State) (ld q : Nat) : List Nat :=
  (List.range (s.queueOf ld q).nblk.toNat).filter fun i => s.allGroups.all fun g =>
    g.key.ld.toNat ≠ ld || g.key.queue.toNat ≠ q || g.block ≠ i

/-- The work that the distributor weighs (R398). -/
inductive Work
  | restore (l : Launch) (gang : BitVec 32)
  | fresh (l : Launch)
deriving DecidableEq, Repr

def Work.launch : Work → Launch
  | .restore l _ => l
  | .fresh l => l

/-- x comes before y: priority, then acceptance (R398). -/
def launchBefore (x y : Launch) : Bool :=
  y.record.prio.toNat < x.record.prio.toNat || (x.record.prio = y.record.prio && x.order ≤ y.order)

def insertWork (x : Launch) : List Launch → List Launch
  | [] => [x]
  | y :: r => if launchBefore x y then x :: y :: r else y :: insertWork x r

/-- Workgroups of a launch, and the gangs among them. -/
def State.groupsOf (s : State) (l : Launch) : List Group := s.allGroups.filter fun g => g.ofLaunch l
def gangsOf (gs : List Group) : List (BitVec 32) := (gs.map fun g => g.key.gang).eraseDups

/-- A launch holds a resident workgroup. -/
def State.resident (s : State) (l : Launch) : Bool := (s.groupsOf l).any fun g => ¬ g.saved

/-- A pre-emption of the launch is under way: not every workgroup has been saved. -/
def State.preempting (s : State) (l : Launch) : Bool := l.preempted && s.resident l

/-- The work of an LD in the distributor's order (R398). -/
def State.work (s : State) (ld : Nat) : List Work :=
  let ls := s.allLaunches.filter fun l =>
    l.ld.toNat = ld ∧ s.isHead l ∧ l.kernel.isSome ∧ l.ending.isNone ∧ ¬ (s.queueOf ld l.record.queue.toNat).suspend
      ∧ ¬ s.preempting l
  (ls.foldr insertWork []).flatMap fun l =>
    let gs := s.groupsOf l
    let saved := (gangsOf gs).filter fun n => gs.all fun g => g.key.gang ≠ n || g.saved
    let more := ¬ l.drainSeen ∧ l.ic ≠ l.record.n ∧ (l.record.gmax = 0 ∨ (gangsOf gs).length < l.record.gmax.toNat)
    saved.map (.restore l) ++ if more then [.fresh l] else []

/-- Workgroups of one gang of a launch, in ascending order of WGRP. -/
def State.gangGroups (s : State) (l : Launch) (gang : BitVec 32) : List Group :=
  (List.range 8).flatMap fun i => (s.groupsOf l).filter fun g => g.key.gang = gang ∧ g.key.wgrp.toNat = i

/-- Where an item of work fits now: column and cores. -/
def State.fitsWork (s : State) (x : Work) : Option (Nat × List Nat) :=
  match x with
  | .restore l n => l.kernel.bind fun k => s.fitsGang k (s.gangGroups l n).length l.ld.toNat
  | .fresh l => l.kernel.bind fun k =>
    if (s.freeBlocks l.ld.toNat l.record.queue.toNat).length < k.gang then none else s.fitsGang k k.gang l.ld.toNat

/-- Address of warp w's area in a save block (R400, R401). -/
def areaOf (q : Queue) (k : Kernel) (block w : Nat) : BitVec 48 :=
  BitVec.ofNat 48 (bitsOf q.save.toNat 16 32 * 2 ^ 16 + block * 2 ^ bitsOf q.save.toNat 48 8 + 0x100 + k.abuf + k.wbuf
    + w * 0x3_2800)

/-- 8 us and 50 us in FE cycles (R431, R432). -/
def wakeCycles : Nat := 8 * Config.cyclesPerUs
def idleCycles : Nat := 50 * Config.cyclesPerUs

/-- A wake starts while fewer than four of the LD are in flight (R432); `idle` holds the cycle at which it ends. -/
def State.startWakes (ld : Nat) (s : State) : State :=
  let inFlight := s.clusters.countP fun c => c.1 / 96 = ld ∧ c.2.gate = .waking
  let d := s.ldOf ld
  match (if inFlight < 4 then d.wakes.head? else none) with
  | none => s
  | some c =>
    (s.setLd ld { d with wakes := d.wakes.drop 1 }).setCluster c
      { s.clusterOf c with gate := .waking, idle := s.tick.toNat + wakeCycles }

/-- A placement onto a gated cluster asks the dawn arbiter for a wake (R432). -/
def State.requestWake (c : Cluster) (s : State) : State :=
  let d := s.ldOf c.ld.toNat
  if (s.clusterOf c).gate = .gated ∧ ¬ d.wakes.contains c then
    (s.setLd c.ld.toNat { d with wakes := d.wakes ++ [c] }).startWakes c.ld.toNat
  else s

/-- The clusters of a column that hold one of some cores, in ascending order of index. -/
def clustersOf (ld col : Nat) (cores : List Nat) : List Cluster :=
  [0, 1].filterMap fun i =>
    if cores.any (fun c => c / 4 = i) then some ⟨BitVec.ofNat 2 ld, BitVec.ofNat 6 col, BitVec.ofNat 1 i⟩ else none

/-- One workgroup of a new gang is placed on a core (R77, R209, R219, R399 to R401): its buffers are clear. -/
def State.placeGroup (l : Launch) (k : Kernel) (q : Queue) (col core block wgrp : Nat) (s : State) : State :=
  let ld := l.ld.toNat
  let (ab, wb) := (s.fitsCore k ld col core).getD (0, 0)
  let key : GroupKey := ⟨l.ld, l.record.queue, BitVec.ofNat 32 l.gangs, BitVec.ofNat 3 wgrp⟩
  let g : Group :=
    { Group.none with
      key := key, seq := l.seq, col := BitVec.ofNat 6 col, core := BitVec.ofNat 3 core, warps := k.warps, block := block
      abase := ab, alen := k.abuf, wbase := wb, wlen := k.wbuf }
  let t := { s with lc := { l with kernel := some k } }
  let ws := ((s.freeSlots ld col core).take k.warps).zipIdx.map fun x =>
    t.startWarp ⟨l.ld, BitVec.ofNat 6 col, BitVec.ofNat 3 core, BitVec.ofNat 4 x.1⟩ x.2 g q.tvec (areaOf q k block x.2)
  { s with groups := s.groups ++ [g], warps := s.warps ++ ws }

/-- The record of a stall is read anew when a workgroup of it is placed (R343). -/
def State.readRecord (ld stall : Nat) (s : State) : State :=
  { s with walkWords := s.walkWords.filter fun e =>
      ¬ (e.ld.toNat = ld ∧ e.stall = stall ∧ e.pa = (s.ldOf ld).stalltab.toNat + 64 * stall) }

/-- A new gang is placed (R399): one workgroup on each core, blocks in ascending order; the slice timer restarts (R410). -/
def State.placeGang (l : Launch) (k : Kernel) (col : Nat) (cores : List Nat) (s : State) : State :=
  let ld := l.ld.toNat
  let q := s.queueOf ld l.record.queue.toNat
  let blocks := s.freeBlocks ld l.record.queue.toNat
  let s1 := cores.zipIdx.foldl (fun s x => s.placeGroup l k q col x.1 (blocks.getD x.2 0) x.2) s
  let s2 := s1.setLaunch { l with gangs := l.gangs + 1, timer := 0, preempted := false }
  (clustersOf ld col cores).foldl (fun s c => s.requestWake c) (s2.readRecord ld q.owner.toNat)

/-- A launch can be pre-empted by slice, priority or SUSPEND: its queue has a handler (R411). -/
def State.hasHandler (s : State) (l : Launch) : Bool := (s.queueOf l.ld.toNat l.record.queue.toNat).tvec ≠ 0

/-- A launch is pre-empted (R412): every resident warp that has not retired takes the trap at its next boundary, and the warps
of a successor do before their first instruction (R95). It reaches a parked warp at once: a fault entry not yet posted is withdrawn
(R358). -/
def State.preemptLaunch (l : Launch) (s : State) : State :=
  let keys := (s.groupsOf l).map Group.key
  let parked := fun (p : Place) => s.allWarps.any fun w => w.place = p && keys.contains w.key && ¬ w.inh
  let d := s.ldOf l.ld.toNat
  let s1 := s.setLd l.ld.toNat { d with heldFaults := d.heldFaults.filter fun h => ¬ parked h.place }
  (s1.mapLaunches fun m => if m.order = l.order then { m with preempted := true } else m).mapWarps fun w =>
    if keys.contains w.key ∧ (w.life = .run ∨ w.life = .start) then { w with preempt := true } else w

/-- The launch that the distributor pre-empts for priority p (R411): the lowest priority, accepted last. -/
def State.victim (s : State) (ld p : Nat) : Option Launch :=
  (s.allLaunches.filter fun l => l.ld.toNat = ld ∧ l.record.prio.toNat < p ∧ s.resident l ∧ s.hasHandler l
    ∧ (s.queueOf ld l.record.queue.toNat).slice ≠ 0 ∧ l.ending.isNone).foldl
    (fun m l => match m with
      | none => some l
      | some x => if launchBefore x l then some l else some x) none

/-- A pre-emption of some launch of the LD is under way. -/
def State.anyPreempting (s : State) (ld : Nat) : Bool := s.allLaunches.any fun l => l.ld.toNat = ld && s.preempting l

/-- A gang that cannot be placed pre-empts a resident launch of lower priority, one at a time, whether or not other work fits
(R411). -/
def State.preemptFor (ld : Nat) (s : State) : State :=
  if s.anyPreempting ld then s
  else
    match (s.work ld).findSome? fun x => if (s.fitsWork x).isSome then none else s.victim ld x.launch.record.prio.toNat with
    | some l => s.preemptLaunch l
    | none => s

/-- A pre-empted launch is not restored while pre-emptions for a gang of higher priority go on, until that gang fits or no candidate
remains (R411). DESIGN CHOICE, assumption 77. -/
def State.heldBack (s : State) (l : Launch) : Bool :=
  let ld := l.ld.toNat
  l.preempted && (s.work ld).any fun x =>
    l.record.prio.toNat < x.launch.record.prio.toNat && (s.fitsWork x).isNone
      && (s.anyPreempting ld || (s.victim ld x.launch.record.prio.toNat).isSome)

/-- The first item of an LD that fits now, with its place (R398). -/
def State.nextWork (s : State) (ld : Nat) : Option (Work × Nat × List Nat) :=
  (s.work ld).findSome? fun x =>
    match x with
    | .restore l _ => if s.heldBack l then none else (s.fitsWork x).map fun f => (x, f)
    | .fresh _ => (s.fitsWork x).map fun f => (x, f)

/-- The distributor has observed IC = N (R97). -/
def State.observeDrain (ld : Nat) (s : State) : State :=
  s.mapLaunches fun l => if l.ld.toNat = ld ∧ l.ic = l.record.n then { l with drainSeen := true } else l

/-- One placement of the distributor (R398, R399, R411). -/
def execGangPlacement (ld : BitVec 2) (s : State) : Host.Outcome State Fault Refusal :=
  .next (
    let s0 := (s.observeDrain ld.toNat).preemptFor ld.toNat
    match s0.nextWork ld.toNat with
    | some (.fresh l, col, cores) =>
      match l.kernel with
      | some k => s0.placeGang l k col cores
      | none => s0
    | _ => s0)

/-- A launch waits to place or restore and cannot fit (R410). -/
def State.waitsUnfit (s : State) (l : Launch) : Bool :=
  (s.work l.ld.toNat).any fun x => x.launch.order = l.order && (s.fitsWork x).isNone

/-- The slice of a queue's current launch expires (R410). -/
def execTimeSliceExpiry (ld : BitVec 2) (q : BitVec 6) (s : State) : Host.Outcome State Fault Refusal :=
  .next (
    match s.headOf ld.toNat q.toNat with
    | none => s
    | some l =>
      let waiting := s.allLaunches.any fun m =>
        m.ld = ld && m.order ≠ l.order && l.record.prio.toNat ≤ m.record.prio.toNat && s.waitsUnfit m
      if s.resident l ∧ (s.queueOf ld.toNat q.toNat).slice ≠ 0 ∧ s.hasHandler l ∧ waiting ∧ l.ending.isNone then
        (s.setLaunch { l with timer := 0 }).preemptLaunch l
      else s.setLaunch { l with timer := 0 })

/-- The current launch of a queue ends early with a status (R404). -/
def execEarlyEnd (ld : BitVec 2) (q : BitVec 6) (status : BitVec 8) (s : State) : Host.Outcome State Fault Refusal :=
  .next (
    match s.headOf ld.toNat q.toNat with
    | none => s
    | some l => s.endNow l status)

/-- CANCEL is written (R397): every launch of the queue ends in order; the bit reads 1 until the last of them has. -/
def State.cancel (ld q : Nat) (s : State) : State :=
  let mine := s.allLaunches.filter fun l => l.ld.toNat = ld ∧ l.record.queue.toNat = q
  if mine.isEmpty then s
  else
    let named := fun (l : Launch) => decide (l.ld.toNat = ld ∧ l.record.queue.toNat = q)
    let s1 := (s.setQueueOf ld q { s.queueOf ld q with cancel := true }).mapLaunches fun l =>
      if named l then { l with cancelled := true } else l
    (mine.foldl (fun s l => s.endLaunch l.ld l.record.queue l.seq stCancelled) s1).complete

def execQueueCancel (ld : BitVec 2) (q : BitVec 6) (s : State) : Host.Outcome State Fault Refusal :=
  .next (s.cancel ld.toNat q.toNat)

/-- SUSPEND is written (R397): the current launch is pre-empted when the queue has a handler. -/
def State.suspend (ld q : Nat) (s : State) : State :=
  let s1 := s.setQueueOf ld q { s.queueOf ld q with suspend := true }
  match s.headOf ld q with
  | some l => if s.hasHandler l ∧ l.ending.isNone then s1.preemptLaunch l else s1
  | none => s1

def execQueueSuspend (ld : BitVec 2) (q : BitVec 6) (s : State) : Host.Outcome State Fault Refusal :=
  .next (s.suspend ld.toNat q.toNat)

end Sys2Proof.Machine
end

