-- ==== Sys2Proof/Machine/Context.lean ====
section
/-! DEFINITION. Pre-emption, save and restore of workgroups (R412 to R420). -/

namespace Sys2Proof.Machine

/-- A warp stands at a boundary at which it takes a pre-emption (R412). -/
def Warp.canPreempt (w : Warp) : Bool :=
  w.life = .run && ¬ w.inh && ¬ w.inProgress && w.hints.isEmpty && w.badHint.isNone

/-- The cluster of the running warp changes its lane rate: no trap is taken before its issue resumes (R429). -/
def State.quiesces (s : State) : Bool := (s.clusterOf (clusterAt s.w.place)).changing

/-- The running warp takes a pre-emption now: at such a boundary, with every tagged send acknowledged (R318). -/
def State.preemptible (s : State) : Bool := s.w.canPreempt && ¬ s.strongHeld && ¬ s.quiesces

/-- The running warp takes the pre-emption trap (R412): a parked warp with EPC at the unit it waits in; the wait part of a
`bar.arw` is recorded (R225), a fault entry not yet posted is withdrawn, and of the lanes not yet complete those of the unit at EPC
stay (R358, R418). -/
def State.takePreempt (s : State) : State :=
  let arw := match s.w.park with
    | .barrierArw b tok two => some (b, tok, two)
    | _ => s.w.arw
  let w := { s.w with preempt := false, left := (s.w.left.find? s.w.ownsLeft).toList, arw := arw }
  ({ s.withdraw s.w.place with w := w }).trapEntry 0x0D 0 s.w.unitPc

/-- Whether an arrival pop is due at the boundary of the running warp (R187). -/
def State.popDue (s : State) : Bool := s.w.park = .none && s.w.arrived

/-- The arrival pops that come first at a boundary (R198). -/
def State.popFirst (s : State) : State := if s.popDue then s.popArrival else s

/-- A warp of a pre-empted launch (R412): the trap at once when it stands at a boundary, after its arrival pops (R198), else at the
next one. -/
def execPreemption (p : Place) (s : State) : Host.Outcome State Fault Refusal :=
  .next (s.atWarp p fun s =>
    if s.w.place ≠ p then s
    else if ¬ (s.w.life = .run ∨ s.w.life = .start) then s
    else
      let s1 := if s.w.canPreempt then s.popFirst else s
      if s1.preemptible ∧ ¬ s1.popDue then s1.takePreempt else { s1 with w := { s1.w with preempt := true } })

/-! The save area (R414 to R418). -/

/-- A weak store of the hardware part of a save in a stall's context: done, or whether it waits for a retraining link. -/
def State.putFor (s : State) (ld col stall : Nat) (va : DWord) (bs : List Byte) : State × Except Bool Unit :=
  match s.translate ⟨ld, col, 8, stall⟩ va .write with
  | (s1, .error _) => (s1, .error false)
  | (s1, .ok l) =>
    if s1.locOk l.pa bs.length false then
      match s1.writeLoc (Agent.device ld) l bs false with
      | (s2, .ok _) => (s2, .ok ())
      | (s2, .error .poison) => (s2.reportPoison l, .error false)
      | (s2, .error .link) => (s2, .error true)
      | (s2, .error _) => (s2, .error false)
    else (s1, .error false)

/-- Doublewords at offsets from an address, in order; the first that fails or waits ends them. -/
def State.putFors (ld col stall : Nat) (va : DWord) : List (Nat × Nat) → State → State × Except Bool Unit
  | [], s => (s, .ok ())
  | (o, v) :: r, s =>
    match s.putFor ld col stall (va + BitVec.ofNat 64 o) (bytesOf 8 v) with
    | (s1, .ok _) => State.putFors ld col stall va r s1
    | x => x

/-- Doublewords of a run of elements of 4 bytes. -/
def pairWords (off : Nat) (f : Nat → Word) : List (Nat × Nat) :=
  (List.range 32).map fun i => (off + 8 * i, (f (2 * i)).toNat + (f (2 * i + 1)).toNat * 2 ^ 32)

/-- Doublewords of n bytes of a buffer from offset 0. -/
def byteWords (off n : Nat) (c : Cells Byte) : List (Nat × Nat) :=
  (List.range (n / 8)).map fun i => (off + 8 * i, ofBytes ((List.range 8).map fun k => c.get 0 (8 * i + k)))

/-- The hardware header of a warp (Table 9 of R418). -/
def Warp.headerWords (w : Warp) : List (Nat × Nat) :=
  let arw := match w.arw with
    | some (b, tok, two) => tok.toNat * 2 ^ 32 + two.toNat * 256 + b.toNat * 16 + 8
    | none => 0
  [ (0x00, w.epc.toNat), (0x08, w.occ.toNat), (0x10, arw + w.cls.toNat)
  , (0x18, ((w.left.find? fun x => ¬ x.inh ∧ x.pc = w.epc).map fun x => x.lanes.toNat).getD 0)
  , (0x20, ((List.range 16).map fun k => (w.counter k).err.toNat * 2 ^ (3 * k)).sum)
  , (0x28, ((List.range 4).map fun q => (w.queue q).length * 2 ^ (4 * q)).sum)
  , (0x30, w.pending.length), (0x38, w.fstat.toNat), (0x40, w.mstat.toNat), (0x48, w.evmask.toNat) ]
    ++ (List.range 8).map fun g => (0x50 + 8 * g, (w.grp.get 0 g).toNat)

/-- The hardware part of a warp's area (Tables 8 and 9 of R417, R418); bytes that it leaves out are 0. -/
def Warp.areaWords (w : Warp) : List (Nat × Nat) :=
  w.headerWords
    ++ ((List.range 14).map fun i => (0x90 + 8 * i, 0))
    ++ (lanes.map fun l => (0x100 + 8 * l, (w.item.get 0 l).toNat))
    ++ pairWords 0x300 (fun l => w.age.get 0 l)
    ++ ((List.range 4).flatMap fun q => ((w.queue q).zipIdx.flatMap fun e =>
        pairWords (0x400 + 0x800 * q + 0x100 * e.2) fun l => (e.1.value.getD Vec.zero).at l))
    ++ (w.pending.zipIdx.flatMap fun r => [(0x2400 + 16 * r.2, r.1.cause.toNat), (0x2408 + 16 * r.2, r.1.tval.toNat)])

/-- The header of a save block, its barrier words and the images (Table 7 of R416). -/
def Group.blockWords (g : Group) : List (Nat × Nat) :=
  let succ := (g.succ.map fun n => n.toNat * 16 + 8).getD 0
  [ (0x000, g.key.gang.toNat * 2 ^ 32 + g.warps * 2 ^ 16 + g.key.wgrp.toNat * 256 + succ + g.stage.toNat)
  , (0x008, g.retired.toNat) ]
    ++ ((List.range 6).map fun i => (0x10 + 8 * i, 0))
    ++ ((List.range 16).map fun b =>
        (0x40 + 8 * b, (g.barrier b).ph.toNat * 2 ^ 32 + (g.barrier b).arr.toNat * 2 ^ 16 + (g.barrier b).memb.toNat))
    ++ ((List.range 8).map fun i => (0xC0 + 8 * i, 0))
    ++ byteWords 0x100 g.alen g.abuf ++ byteWords (0x100 + g.alen) g.wlen g.wbuf

/-- Everything that a save writes to the block (R414, R415): a retired warp has only its retired bit written. -/
def State.saveWords (s : State) (g : Group) : List (Nat × Nat) :=
  let area := fun (w : Warp) => 0x100 + g.alen + g.wlen + w.idx.toNat * 0x3_2800
  ((s.allWarps.filter fun w => w.key = g.key).flatMap fun w =>
    if w.life = .retired then [(area w + 0x30, 0x100)] else w.areaWords.map fun x => (area w + x.1, x.2)) ++ g.blockWords

/-- Address of a workgroup's save block (R400). -/
def blockAddr (q : Queue) (block : Nat) : DWord :=
  BitVec.ofNat 64 (bitsOf q.save.toNat 16 32 * 2 ^ 16 + block * 2 ^ bitsOf q.save.toNat 48 8)

/-- A write is one of a warp of a workgroup. -/
def Owner.ofGroup (g : Group) : Owner → Bool
  | .warp key seq _ => key = g.key && seq = g.seq
  | _ => false

/-- Every warp of a workgroup that has not retired has vacated (R414, R415), and no port holds a write of one: its loss would still
mark the warp's MSTAT (R382), which the save keeps. -/
def State.vacated (s : State) (g : Group) : Bool :=
  ¬ g.saved && (s.heldBy (Owner.ofGroup g)).isEmpty && (s.allWarps.any fun w => w.key = g.key && w.life = .vacating)
    && s.allWarps.all fun w => w.key ≠ g.key || w.life = .retired || (w.life = .vacating && s.quiet w)

/-- What the save area does not hold of the warps of a workgroup, by warp index: the ports that lost their requests (R267, R382), and
the reports beyond 32 (R407). -/
def State.lostOf (s : State) (g : Group) : Cells (Option Nat × Option Nat × List Report) :=
  (s.allWarps.filter fun w => w.key = g.key).foldl
    (fun c w => c.set (none, none, []) w.idx.toNat (w.lostPort, w.lostLoad, w.reports.drop 32)) []

/-- The workgroup leaves the core; its block stays held (R415). -/
def State.leaveCore (g : Group) (s : State) : State :=
  let lost := s.lostOf g
  let mine := fun (r : ReqId) => match r with
    | .access _ (.warp key seq _) _ _ => key = g.key && seq = g.seq
    | _ => false
  let s1 : State :=
    { s with
      w := if s.w.key = g.key ∧ s.w.life ≠ .empty then { s.w with life := .empty } else s.w
      warps := s.warps.filter fun w => w.key ≠ g.key
      accepted := s.accepted.filter fun r => !mine r }
  s1.mapGroups fun h =>
    if h.key = g.key then { h with saved := true, abuf := [], wbuf := [], barriers := [], lost := lost } else h

/-- A vacated workgroup is saved (R415); a fault on a save access ends the launch with SAVEFAULT. -/
def execWorkgroupSave (k : GroupKey) (s : State) : Host.Outcome State Fault Refusal :=
  .next (
    match s.allGroups.find? fun g => g.key = k with
    | none => s
    | some g =>
      match (if s.vacated g then s.launchOf g else none) with
      | none => s
      | some l =>
        let q := s.queueOf k.ld.toNat k.queue.toNat
        match State.putFors k.ld.toNat g.col.toNat q.owner.toNat (blockAddr q g.block) (s.saveWords g) s with
        | (s1, .ok _) => s1.leaveCore g
        | (_, .error true) => s
        | (s1, .error false) => s1.endNow l 0x0B)

/-! Restore (R419, R420). -/

/-- Bytes of doublewords. -/
def wordBytesOf (ws : List Nat) : Cells Byte :=
  (ws.flatMap fun w => bytesOf 8 w).zipIdx.filterMap fun b => if b.1 = 0 then none else some (b.2, b.1)

/-- n consecutive elements of 4 bytes from doublewords. -/
def vecOfWords (ws : List Nat) : Vec := Vec.ofFn fun l => BitVec.ofNat 32 (bitsOf (ws.getD (l / 2) 0) (32 * (l % 2)) 32)

/-- The entries of a stream queue from its doublewords. -/
def queueOfWords (ws : List Nat) (n : Nat) : List QEntry :=
  (List.range n).map fun j => ⟨0, some (vecOfWords ((ws.drop (32 * j)).take 32))⟩

/-- A restored warp from the doublewords of the hardware part of its area, 0x0000 to 0x25FF (R419): it starts once its cluster is powered
(R432). What it lost at ports stays its own (R267). -/
def State.restoredWarp (s : State) (p : Place) (idx : Nat) (g : Group) (q : Queue) (saveptr : BitVec 48) (ws : List Nat) : Warp :=
  let d := fun o => ws.getD (o / 8) 0
  let n := fun i => bitsOf (d 0x28) (4 * i) 4
  let qs := fun i => queueOfWords (ws.drop ((0x400 + 0x800 * i) / 8)) (n i)
  let arw : Option (BitVec 4 × Word × Bool) :=
    if (d 0x10).testBit 3 then
      some (BitVec.ofNat 4 (bitsOf (d 0x10) 4 4), BitVec.ofNat 32 (bitsOf (d 0x10) 32 32), (d 0x10).testBit 8)
    else none
  let kept := g.lost.get (none, none, []) idx
  let w : Warp :=
    { Warp.fresh p with
      life := .start, idx := BitVec.ofNat 4 idx, key := g.key, occ := BitVec.ofNat 64 (d 0x08)
      item := lanes.foldl (fun c l => c.set 0 l (BitVec.ofNat 48 (d (0x100 + 8 * l)))) []
      age := lanes.foldl (fun c l => c.set 0 l ((vecOfWords (ws.drop (0x300 / 8))).at l)) []
      counters := (List.range 16).foldl
        (fun c k => c.set Counter.zero k ⟨0, BitVec.ofNat 3 (bitsOf (d 0x20) (3 * k) 3)⟩) []
      q0 := qs 0, q1 := qs 1, q2 := qs 2, q3 := qs 3
      reports := ((List.range (bitsOf (d 0x30) 0 6)).map fun i =>
        ⟨BitVec.ofNat 8 (d (0x2400 + 16 * i)), BitVec.ofNat 64 (d (0x2408 + 16 * i)), i⟩)
          ++ kept.2.2.map fun x => { x with order := 32 }
      fstat := BitVec.ofNat 8 (d 0x38) &&& 0x7F, mstat := BitVec.ofNat 4 (d 0x40), evmask := BitVec.ofNat 2 (d 0x48)
      grp := (List.range 8).foldl (fun c k => c.set 0 k (BitVec.ofNat 64 (d (0x50 + 8 * k)) &&& 0xF_FFFF_FFFF)) []
      arw := arw, cls := BitVec.ofNat 3 (d 0x10), tvec := q.tvec, saveptr := saveptr, tcause := 0x0D
      epc := BitVec.ofNat 48 (d 0x00) &&& 0xFFFF_FFFF_FFFC, inh := true, pre := true, rst := true
      pc := q.tvec + 4
      left := if d 0x18 = 0 then [] else [⟨BitVec.ofNat 48 (d 0x00) &&& 0xFFFF_FFFF_FFFC, BitVec.ofNat 64 (d 0x18), false⟩]
      lostPort := kept.1, lostLoad := kept.2.1
      started := s.tick.toNat, pkg := s.vxpkg, issued := 33, thrPrev := (s.colOf p.ld.toNat p.col.toNat).level }
  w.setS 56 w.occ

/-- The warps of a workgroup from its block: their areas are read in turn (R419). DESIGN CHOICE (assumption 71): the tiles of a warp that
had retired are unconfigured and clean for a successor, since a save keeps nothing of them. -/
def State.restoreWarps (g : Group) (q : Queue) (k : Kernel) (retired : Nat) (slots : List Nat) :
    Nat → State → State × Except Bool (List Warp)
  | 0, s => (s, .ok [])
  | n + 1, s =>
    let i := k.warps - (n + 1)
    let p : Place := ⟨g.key.ld, g.col, g.core, BitVec.ofNat 4 (slots.getD i 0)⟩
    let area := areaOf q k g.block i
    let (s1, x) : State × Except Bool Warp :=
      if retired.testBit i then
        (s, .ok { Warp.fresh p with life := .retired, idx := BitVec.ofNat 4 i, key := g.key, saveptr := area })
      else
        match State.readFors g.key.ld.toNat g.col.toNat q.owner.toNat 0x4C0 (area.zeroExtend 64) s with
        | (s1, .ok ws) => (s1, .ok (s1.restoredWarp p i g q area ws))
        | (s1, .error e) => (s1, .error e)
    match x with
    | .error e => (s1, .error e)
    | .ok w =>
      match State.restoreWarps g q k retired slots n s1 with
      | (s2, .ok ws) => (s2, .ok (w :: ws))
      | (s2, .error e) => (s2, .error e)

/-- One workgroup of a saved gang takes its place on a core (R419). -/
def State.restoreGroup (l : Launch) (k : Kernel) (q : Queue) (col core : Nat) (g : Group) (s : State) : State × Except Bool Unit :=
  let ld := l.ld.toNat
  let (ab, wb) := (s.fitsCore k ld col core).getD (0, 0)
  match State.readFors ld col q.owner.toNat ((0x100 + g.alen + g.wlen) / 8) (blockAddr q g.block) s with
  | (s1, .error e) => (s1, .error e)
  | (s1, .ok ws) =>
    let d := fun o => ws.getD (o / 8) 0
    let key := { g.key with gang := BitVec.ofNat 32 (d 0 / 2 ^ 32), wgrp := BitVec.ofNat 3 (bitsOf (d 0) 8 3) }
    let g1 : Group :=
      { g with
        key := key, saved := false, col := BitVec.ofNat 6 col, core := BitVec.ofNat 3 core
        stage := BitVec.ofNat 3 (d 0), succ := if (d 0).testBit 3 then some (BitVec.ofNat 3 (bitsOf (d 0) 4 3)) else none
        abase := ab, wbase := wb, retired := BitVec.ofNat 16 (d 8)
        barriers := (List.range 16).foldl (fun c b => c.set (barrierReset g.warps) b
          ⟨BitVec.ofNat 32 (d (0x40 + 8 * b) / 2 ^ 32), BitVec.ofNat 16 (bitsOf (d (0x40 + 8 * b)) 16 16),
            BitVec.ofNat 16 (d (0x40 + 8 * b))⟩) []
        abuf := wordBytesOf ((ws.drop (0x100 / 8)).take (g.alen / 8))
        wbuf := wordBytesOf ((ws.drop ((0x100 + g.alen) / 8)).take (g.wlen / 8)) }
    match State.restoreWarps g1 q k (d 8) (s1.freeSlots ld col core) k.warps s1 with
    | (s2, .error e) => (s2, .error e)
    | (s2, .ok xs) =>
      ({ s2 with
          wg := if s2.wg.warps ≠ 0 ∧ s2.wg.key = g.key then Group.none else s2.wg
          groups := (s2.groups.filter fun h => h.key ≠ g.key) ++ [g1]
          warps := s2.warps ++ xs }, .ok ())

/-- The workgroups of a gang, each on its core. -/
def State.restoreGroups (l : Launch) (k : Kernel) (q : Queue) (col : Nat) : List (Group × Nat) → State → State × Except Bool Unit
  | [], s => (s, .ok ())
  | (g, core) :: r, s =>
    match s.restoreGroup l k q col core g with
    | (s1, .ok _) => State.restoreGroups l k q col r s1
    | (s1, .error e) => (s1, .error e)

/-- One restore of the distributor (R398, R411, R419): a queue without a handler ends the launch with FAULTED, a fault on a read
with SAVEFAULT. -/
def execGangRestore (ld : BitVec 2) (s : State) : Host.Outcome State Fault Refusal :=
  .next (
    let s := s.preemptFor ld.toNat
    match s.nextWork ld.toNat with
    | some (.restore l gang, col, cores) =>
      let q := s.queueOf ld.toNat l.record.queue.toNat
      match l.kernel with
      | none => s
      | some k =>
        if q.tvec = 0 then s.endNow l stFaulted
        else
          match State.restoreGroups l k q col ((s.gangGroups l gang).zip cores) s with
          | (s1, .ok _) =>
            (clustersOf ld.toNat col cores).foldl (fun s c => s.requestWake c)
              ((s1.setLaunch { l with timer := 0, preempted := false }).readRecord ld.toNat q.owner.toNat)
          | (_, .error true) => s
          | (s1, .error false) => s1.endNow l 0x0B
    | _ => s)

end Sys2Proof.Machine
end

