-- ==== Sys2Proof/Machine/Tiles.lean ====
section
/-! DEFINITION. Tile registers (R247 to R265). -/

namespace Sys2Proof.Machine

/-- Rows, columns and element bits of a shape byte (Table 1 of R249). -/
def shapeRows (b : Nat) : Nat := 8 * (b / 16)
def shapeCols (b : Nat) : Nat := 8 * (b % 8 + 1)
def shapeBits (b : Nat) : Nat := if b.testBit 3 then 16 else 32

/-- A byte that names a shape (R249). -/
def shapeOk (b : Nat) : Bool :=
  1 ≤ b / 16 && b / 16 ≤ 8 && shapeRows b * shapeCols b * shapeBits b / 8 ≤ 8192

def Tile.rows (t : Tile) : Nat := shapeRows t.shape.toNat
def Tile.cols (t : Tile) : Nat := shapeCols t.shape.toNat
def Tile.bits (t : Tile) : Nat := shapeBits t.shape.toNat
/-- Bytes of a row (R251). -/
def Tile.rowBytes (t : Tile) : Nat := t.cols * t.bits / 8

/-- Element (i, j), and its write (R251). -/
def Tile.get (t : Tile) (i j : Nat) : Word := t.elems.get 0 (64 * i + j)
def Tile.put (t : Tile) (i j : Nat) (v : Word) : Tile :=
  { t with elems := t.elems.set 0 (64 * i + j) (BitVec.ofNat 32 (v.toNat % 2 ^ t.bits)) }

/-- Writes of elements (row, column, value) in order. -/
def Tile.puts (t : Tile) (xs : List (Nat × Nat × Word)) : Tile := xs.foldl (fun t x => t.put x.1 x.2.1 x.2.2) t

/-- Bytes of row i, and of the whole image (R251). -/
def Tile.rowImage (t : Tile) (i : Nat) : List Byte :=
  (List.range t.cols).flatMap fun j => bytesOf (t.bits / 8) (t.get i j).toNat
def Tile.image (t : Tile) : List Byte := (List.range t.rows).flatMap t.rowImage

/-- The elements of row i as its bytes give them. -/
def Tile.rowOf (t : Tile) (i : Nat) (bs : List Byte) : List (Nat × Nat × Word) :=
  (List.range t.cols).map fun j =>
    (i, j, BitVec.ofNat 32 (ofBytes ((bs.drop (j * (t.bits / 8))).take (t.bits / 8))))

/-- The tile of the running warp with its dirty bit (R253). -/
def Warp.putTile (w : Warp) (c : BitVec 4) (t : Tile) (dirty : Bool) : Warp :=
  let bit : BitVec 16 := 1 <<< c.toNat
  { w.setTile c.toNat t with dirty := if dirty then w.dirty ||| bit else w.dirty &&& ~~~bit }

/-- A TL instruction of tile c: it waits for the warp's passes on c (R238, R264). -/
def tileUnit (c : BitVec 4) (body : State → Except Stop Eff) : State → State :=
  unit [] false false fun s => do
    ready (¬ s.passes (some c)) s
    body s

/-- Step 3 of R258. -/
def needTile (s : State) (c : BitVec 4) : Except Stop Unit :=
  trapIf ((s.w.tile c.toNat).shape = 0) 0x07 (c.zeroExtend 64)

/-- `tcfg` (R259). -/
def execTcfg (c : BitVec 4) (r : BitVec 6) (s : State) : Host.Outcome State Fault Refusal :=
  .next (tileUnit c (fun s => do
    let b : BitVec 8 := (s.w.s r.toNat).truncate 8
    need (c.toNat < s.kernel.tiles) (c.zeroExtend 64)
    need (shapeOk b.toNat) (b.zeroExtend 64)
    .ok { s := { s with w := s.w.putTile c ⟨b, []⟩ true } }) s)

/-- `tzero` (R259). -/
def execTzero (c : BitVec 4) (s : State) : Host.Outcome State Fault Refusal :=
  .next (tileUnit c (fun s => do
    needTile s c
    .ok { s := { s with w := s.w.putTile c ⟨(s.w.tile c.toNat).shape, []⟩ true } }) s)

/-- `tdrop` (R259). -/
def execTdrop (c : BitVec 4) (s : State) : Host.Outcome State Fault Refusal :=
  .next (tileUnit c (fun s => .ok { s := { s with w := s.w.putTile c Tile.zero false } }) s)

/-- `trow` and `tcol` (R260): `at_` gives the element of a lane, `limit` the lanes that have one, `bound` the index limit. -/
def tileRead (c l : BitVec 4) (v : BitVec 7) (r : BitVec 6) (bound limit : Tile → Nat) (at_ : Tile → Nat → Nat → Word) :
    State → State :=
  tileUnit c fun s => do
    need (s.destOk v.toNat 1)
    s.notPending [v.toNat]
    if s.w.em = 0 then return { s := s }
    needTile s c
    let t := s.w.tile c.toNat
    let i := s.w.s r.toNat
    need (i.toNat < bound t) i
    .ok { s := s, la := l.toNat, writes := laneWrite v.toNat s.w.em fun k => if k < limit t then at_ t i.toNat k else 0 }

/-- `trow` (R260). -/
def execTrow (c : BitVec 4) (v : BitVec 7) (r : BitVec 6) (l : BitVec 4) (s : State) : Host.Outcome State Fault Refusal :=
  .next (tileRead c l v r Tile.rows Tile.cols (fun t i k => t.get i k) s)
/-- `tcol` (R260). -/
def execTcol (c : BitVec 4) (v : BitVec 7) (r : BitVec 6) (l : BitVec 4) (s : State) : Host.Outcome State Fault Refusal :=
  .next (tileRead c l v r Tile.cols Tile.rows (fun t i k => t.get k i) s)

/-- `tsetr` and `tsetc` (R261). With EM = 0 the unit ends before it looks at its queue (R258 step 2). DESIGN CHOICE (assumption 64):
the underflow or the wait of a queue named as v, which R258 does not rank, comes next, before the tile and the index. -/
def tileWrite (c : BitVec 4) (v : BitVec 7) (r : BitVec 6) (bound limit : Tile → Nat) (pos : Nat → Nat → Nat × Nat) :
    State → State :=
  tileUnit c fun s => do
    need (s.srcOk v.toNat)
    s.notPending [v.toNat]
    if s.w.em = 0 then return { s := s }
    s.popCheck [v.toNat] 1
    let w := s.w.popped [v.toNat] 1
    needTile s c
    let t := s.w.tile c.toNat
    let i := s.w.s r.toNat
    need (i.toNat < bound t) i
    let x := s.w.src v.toNat 0
    let ls := (laneList s.w.em).filter fun k => k < limit t
    let t' := t.puts (ls.map fun k => ((pos i.toNat k).1, (pos i.toNat k).2, x.at k))
    .ok { s := { s with w := if ls = [] then w else w.putTile c t' true } }

/-- `tsetr` (R261). -/
def execTsetr (c : BitVec 4) (v : BitVec 7) (r : BitVec 6) (s : State) : Host.Outcome State Fault Refusal :=
  .next (tileWrite c v r Tile.rows Tile.cols (fun i k => (i, k)) s)
/-- `tsetc` (R261). -/
def execTsetc (c : BitVec 4) (v : BitVec 7) (r : BitVec 6) (s : State) : Host.Outcome State Fault Refusal :=
  .next (tileWrite c v r Tile.cols Tile.rows (fun i k => (k, i)) s)

/-- The lanes of a `tld` or `tst` with their row addresses (R262). -/
def Warp.rowAddrs (w : Warp) (v r : Nat) (m : Mask) (rows : Nat) : List (Nat × DWord) :=
  ((laneList m).filter fun k => k < rows).map fun k => (k, w.s r + ((w.src v 0).at k).zeroExtend 64)

/-- The aligned parts of n bytes at an address, of size k. -/
def parts (k n : Nat) (a : DWord) : List DWord := (List.range (n / k)).map fun i => a + BitVec.ofNat 64 (k * i)

/-- The checks that `tld` and `tst` share (R258): the tile, the row parts that go on, and the parts that met a page fault; none
with EM = 0. A row with a page fault is left whole. A queue named as v is looked at before the tile: DESIGN CHOICE, assumption 64. -/
def rowCheck (c : BitVec 4) (v : BitVec 7) (r : BitVec 6) (acc : Access) (s : State) :
    Except Stop (Option (State × List (Nat × DWord × Loc) × List (Nat × DWord × BitVec 2 × Nat))) := do
  need (s.srcOk v.toNat)
  s.notPending [v.toNat]
  if s.w.em = 0 then return none
  s.popCheck [v.toNat] 1
  needTile s c
  let t := s.w.tile c.toNat
  let as := s.w.rowAddrs v.toNat r.toNat (s.actingLanes s.w.em) t.rows
  let ps := as.flatMap fun a => (parts 16 t.rowBytes a.2).map fun p => (a.1, p)
  s.memReady (linesOf ps)
  let (s1, fs) ← s.memCheck ps 16 acc false
  let out := pagedOut fs
  return some (s1, (located fs).filter fun f => ¬ out.any fun p => p.1 = f.1, out)

/-- The values of the parts of lane k, joined in order. -/
def joinParts (xs : List (Nat × Nat)) (k : Nat) : List Byte := (xs.filter fun x => x.1 = k).flatMap fun x => bytesOf 16 x.2

/-- `tld` (R262). -/
def execTld (c : BitVec 4) (v : BitVec 7) (r : BitVec 6) (s : State) : Host.Outcome State Fault Refusal :=
  .next (tileUnit c (fun s => do
    match ← rowCheck c v r .read s with
    | none => .ok { s := s }
    | some (s1, ls, out) =>
      let base := fun k => s.w.s r.toNat + ((s.w.src v.toNat 0).at k).zeroExtend 64
      let (s2, xs) ← s1.loadAll none 16 (ls.map fun x => (x.1, base x.1, x.2.2))
      let t := s.w.tile c.toNat
      let rows := (xs.map Prod.fst).eraseDups
      let t' := t.puts (rows.flatMap fun k => t.rowOf k (joinParts xs k))
      let e ← s.memFinish .read out { s := if rows = [] then s2 else { s2 with w := s2.w.putTile c t' true } }
      .ok { e with s := { e.s with w := e.s.w.popped [v.toNat] 1 } }) s)

/-- `tst` (R262). -/
def execTst (c : BitVec 4) (v : BitVec 7) (r : BitVec 6) (s : State) : Host.Outcome State Fault Refusal :=
  .next (tileUnit c (fun s => do
    match ← rowCheck c v r .write s with
    | none => .ok { s := s }
    | some (s1, ls, out) =>
      let t := s.w.tile c.toNat
      let base := fun k => s.w.s r.toNat + ((s.w.src v.toNat 0).at k).zeroExtend 64
      let ws := ls.map fun f => (f.1, base f.1, f.2.2, ((t.rowImage f.1).drop (f.2.1 - base f.1).toNat).take 16)
      let earlier := (s.w.rowAddrs v.toNat r.toNat (s.doneLanes s.w.em) t.rows).flatMap fun a =>
        (parts 16 t.rowBytes a.2).map fun p => (a.1, p)
      let s2 ← s1.storeAll none (s1.doneRanges earlier 16) ws
      let e ← s.memFinish .write out { s := s2 }
      .ok { e with s := { e.s with w := e.s.w.popped [v.toNat] 1 } }) s)

/-- The checks that `tsave` and `tload` share (R258): the lines of the image, all translated. -/
def imageCheck (c : BitVec 4) (r : BitVec 6) (acc : Access) (s : State) : Except Stop (State × List (Nat × DWord × Loc)) := do
  needTile s c
  let t := s.w.tile c.toNat
  let a := s.w.s r.toNat
  trapIf (a.toNat % 64 ≠ 0) 0x04 a
  let ps := (parts 64 (t.rows * t.rowBytes) a).zipIdx.map fun p => (p.2, p.1)
  s.memReady ps.length
  let (s1, fs) ← s.memCheck ps 64 acc false
  match pagedOut fs with
  | (_, va, st, g) :: _ => .error (.enter (s1.pageFault va acc st g 0))
  | [] => .ok (s1, located fs)

/-- `tsave` (R263): inside a trap handler it clears the dirty bit (R253). -/
def execTsave (c : BitVec 4) (r : BitVec 6) (s : State) : Host.Outcome State Fault Refusal :=
  .next (tileUnit c (fun s => do
    let (s1, ls) ← imageCheck c r .write s
    let t := s.w.tile c.toNat
    let s2 ← s1.storeAll none [] (ls.map fun f => (f.1, f.2.1, f.2.2, (t.image.drop (64 * f.1)).take 64))
    .ok { s := { s2 with w := if s.w.inh then s2.w.putTile c t false else s2.w } }) s)

/-- `tload` (R263): it writes no element before every byte is read; the dirty bit follows R253. -/
def execTload (c : BitVec 4) (r : BitVec 6) (s : State) : Host.Outcome State Fault Refusal :=
  .next (tileUnit c (fun s => do
    let (s1, ls) ← imageCheck c r .read s
    let (s2, xs) ← s1.loadAll none 64 ls
    let t := s.w.tile c.toNat
    let img := xs.flatMap fun x => bytesOf 64 x.2
    let t' := t.puts ((List.range t.rows).flatMap fun i => t.rowOf i ((img.drop (i * t.rowBytes)).take t.rowBytes))
    .ok { s := { s2 with w := s2.w.putTile c t' (¬ s.w.inh) } }) s)

end Sys2Proof.Machine
end

