-- ==== Sys2Proof/Machine/Matrix.lean ====
section
/-! DEFINITION. The matrix engine (R226 to R246): passes, the A reuse latch, the reservation table and its arbiter. -/

namespace Sys2Proof.Machine

/-- Pass depth K, the formats, block length (0 per-tensor) and panel bytes that a valid `fm` gives (R226 to R229). -/
structure PassShape where
  k : Nat
  a : Fmt
  b : Fmt
  c : Fmt
  blk : Nat
  panel : Nat
deriving DecidableEq, Repr

/-- Scales for each row or column (R228). -/
def PassShape.nb (p : PassShape) : Nat := if p.blk = 0 then 0 else p.k / p.blk
/-- Scale registers of A. -/
def PassShape.scaleRegs (p : PassShape) : Nat := (p.nb + 3) / 4
/-- Bytes that the panel covers (R229). -/
def PassShape.bytes (p : PassShape) : Nat := p.panel + 32 * p.nb

/-- The combination of `fm` that a pass consults, or none where it is not one of Table 1 of R226. -/
def passShape (fm : BitVec 19) : Option PassShape :=
  match Fmt.ofCode (fmA fm), Fmt.ofCode (fmB fm), Fmt.ofCode (fmC fm) with
  | some a, some b, some c =>
    let pair := (a.width = 16 && b.width = 16) || (a.width = 8 && (b.width = 8 || b.width = 4)) || (a.width = 4 && b.width = 4)
    if pair ∧ fmC fm ≤ 2 ∧ fmBlock fm ≠ 3 then
      let k := 512 / a.width
      some ⟨k, a, b, c, [32, 16, 0].getD (fmBlock fm) 0, k * 32 * b.width / 8⟩
    else none
  | _, _, _ => none

/-- The exact elements k < KV of a row or column given by its codes (R231, R233), and whether an escape block has a tail. -/
def rowValues (f : Fmt) (ftz : Bool) (kv : Nat) (code : Nat → Nat) : List Num × Bool :=
  if f = .i4x then
    let blocks := (List.range ((kv + 31) / 32)).map fun q => i4xDecode ((List.range 32).map fun j => code (32 * q + j))
    (((blocks.flatMap Prod.fst).take kv).map (Fmt.decode .e4m3 false), blocks.any Prod.snd)
  else ((List.range kv).map fun k => f.decode (ftz && (f = .bf16 || f = .f16)) (code k), false)

/-- Block scales applied to the elements of a row or column (R231): a block whose code is 0xFF reads as NaN. -/
def scaled (blk : Nat) (scale : Nat → Nat) (xs : List Num) : List Num :=
  if blk = 0 then xs
  else xs.zipIdx.map fun x => if scale (x.2 / blk) = 0xFF then .nan false else x.1.scale ((scale (x.2 / blk) : Int) - 127)

/-- A valid block has scale code 0xFF (R232). -/
def badScale (blk kv : Nat) (scale : Nat → Nat) : Bool :=
  blk ≠ 0 && (List.range ((kv + blk - 1) / blk)).any fun b => scale b = 0xFF

/-- A row or column as a pass reads it: its scaled elements and the flags that it raises whatever it meets. -/
def operand (f : Fmt) (ftz : Bool) (blk kv : Nat) (code scale : Nat → Nat) : List Num × BitVec 8 :=
  let (xs, tail) := rowValues f ftz kv code
  (scaled blk scale xs, flagIf (xs.any Num.isSig || badScale blk kv scale) flagNV ||| flagIf tail flagTail)

/-- The row of lane l among the A registers of a request (R227, R228). -/
def aOperand (p : PassShape) (ftz : Bool) (kv : Nat) (regs : List Vec) (l : Nat) : List Num × BitVec 8 :=
  let ws := (regs.take 16).map fun v => v.at l
  let ss := (regs.drop 16).map fun v => v.at l
  operand p.a ftz p.blk kv (fun k => packGet ws p.a.width k) (fun b => byteOf (ss.getD (b / 4) 0) (b % 4))

/-- The code of w bits at bit position i of a buffer from offset o (R158). -/
def Group.bufBits (g : Group) (o i w : Nat) : Nat := bitsOf (g.bufRead 1 (o + i / 8) ((w + 7) / 8)) (i % 8) w

/-- Column n of the panel at offset o (R229). -/
def bOperand (p : PassShape) (ftz : Bool) (kv : Nat) (g : Group) (o n : Nat) : List Num × BitVec 8 :=
  let base := o + n * p.k * p.b.width / 8
  operand p.b ftz p.blk kv (fun k => g.bufBits base (k * p.b.width) p.b.width)
    (fun b => (g.buf 1 (o + p.panel + 32 * b + n)).toNat)

/-- One term of R231 and whether it is invalid: a product, or the square of a difference. -/
def passTerm (dist : Bool) (a b : Num) : Num × Bool :=
  if dist then
    let (d, i) := Num.sum false [a, b.negate]
    let (t, j) := d.mul d
    (t, i || j)
  else a.mul b

/-- PassValue (R231 to R233): the code of the C format and its flags, from the elements, the tail and the C input. -/
def passValue (c : Fmt) (sat ftz dist tail : Bool) (as bs : List Num) (input : List Num) : Nat × BitVec 8 :=
  let ts := (as.zip bs).map fun x => passTerm dist x.1 x.2
  let (t, i) := Num.sum false (ts.map Prod.fst ++ input ++ if tail then [.zero false] else [])
  let (code, fl) := c.round 0 sat ftz 0 t
  (code, fl ||| flagIf (i || ts.any Prod.snd) flagNV)

/-- The consulted fields of `fm`: the rounding field is none of them (R226). -/
def consulted (fm : BitVec 19) : BitVec 19 := fm &&& 0x78FFF

/-- The pass of a request on its tile (R231): fn 0 `mma`, 1 `mmas`, 2 `mdist`. -/
def runPass (p : PassShape) (fm : BitVec 19) (fn kv o : Nat) (m : Mask) (regs : List Vec) (g : Group) (t : Tile) :
    Tile × BitVec 8 :=
  let cols := (List.range 32).map fun n => bOperand p (fmFtz fm) kv g o n
  let rows := (laneList m).map fun l => (l, aOperand p (fmFtz fm) kv regs l)
  let vals := rows.flatMap fun r => cols.zipIdx.map fun c =>
    let input := if fn = 1 then [] else [p.c.decode (fmFtz fm) (t.get r.1 c.2).toNat]
    (r.1, c.2, passValue p.c (fmSat fm) (fmFtz fm) (fn = 2) (kv < p.k) r.2.1 c.1.1 input)
  let sigC := fn ≠ 1 && rows.any fun r => (List.range 32).any fun n => (p.c.decode (fmFtz fm) (t.get r.1 n).toNat).isSig
  (t.puts (vals.map fun v => (v.1, v.2.1, BitVec.ofNat 32 v.2.2.1)),
    vals.foldl (fun f v => f ||| v.2.2.2)
      (flagIf sigC flagNV ||| rows.foldl (fun f r => f ||| r.2.2) 0 ||| (if m = 0 then 0 else cols.foldl (fun f c => f ||| c.2) 0)))

/-! Posting (R235 to R241). -/

/-- The octets with work (R237). -/
def octets (m : Mask) : List Nat := (List.range 8).filter fun j => bitsOf m.toNat (8 * j) 8 ≠ 0

/-- Step 2 of R236 that concerns the tile: configured, 32 columns, elements as wide as C, rows for every acting octet (R230). -/
def tileFits (s : State) (c : BitVec 4) (f : Fmt) : Except Stop Unit := do
  needTile s c
  let t := s.w.tile c.toNat
  need (t.cols = 32 && t.bits = f.width && (octets s.w.em).all fun j => 8 * j + 8 ≤ t.rows) (c.zeroExtend 64)

/-- Entries of the running warp's cluster, with those still to be created (R242). -/
def State.tableLoad (s : State) : Nat :=
  (s.clusterOf (clusterAt s.w.place)).entries.length +
    s.ops.countP fun o => clusterAt o.place = clusterAt s.w.place &&
      match o.kind with
      | .matrix _ _ _ _ _ _ _ _ _ _ inTable => ¬ inTable
      | _ => false

/-- An entry is held for the same tile of the same warp and is its youngest (R243). -/
def youngest (es : List MxEntry) (p : Place) (tile : BitVec 4) : Option MxEntry :=
  (es.filter fun e => e.place = p ∧ e.tile = tile).getLast?

/-- The octets of an entry. -/
def MxEntry.octets (e : MxEntry) : List Nat := e.parts.flatMap fun x => Machine.octets x.2.1

/-- The requests join the entry (R243). -/
def fuses (e : MxEntry) (fn : BitVec 3) (off kv : Nat) (fm : BitVec 19) (m : Mask) : Bool :=
  ¬ e.granted && fn ≠ 3 && e.fn = fn && e.off = off && e.kv = kv && e.fm = fm && (octets m).all fun j => ¬ e.octets.contains j

/-- `mma`, `mmas` and `mdist` (R235 to R239). -/
def matrixUnit (fn : BitVec 3) (r : BitVec 1) (c : BitVec 4) (a : BitVec 7) (b : BitVec 5) : State → State :=
  unit [7] false false fun s => do
    let w := s.w
    match passShape w.fm with
    | none => .error (.trap 0x02 0)
    | some p =>
      let n := 16 + p.scaleRegs
      need (a.toNat % 8 = 0 && s.destOk a.toNat n)
      let kv := (w.hintKv.map fun k => k.toNat).getD p.k
      need (1 ≤ kv && kv ≤ p.k)
      let hit := r = 1 && (match w.latch with | some l => l.va = a.toNat && l.fmt.toNat = fmA w.fm && l.block.toNat = fmBlock w.fm
                                              | none => false)
      if ¬ hit then s.notPending ((List.range n).map (a.toNat + ·))
      let rows := if hit then (w.latch.map Latch.rows).getD [] else (List.range n).map fun k => w.v (a.toNat + k)
      let latch := if r = 0 then none
        else some ⟨a.toNat, BitVec.ofNat 4 (fmA w.fm), BitVec.ofNat 2 (fmBlock w.fm), rows⟩
      let o := (w.s b.toNat).toNat
      if octets w.em = [] then return { s := { s with w := { w with latch := latch } } }
      tileFits s c p.c
      trapIf (o % 256 ≠ 0) 0x04 (BitVec.ofNat 64 o)
      trapIf (s.wg.wlen < o + p.bytes) 0x0B (BitVec.ofNat 64 o)
      s.canCharge c
      ready (s.tableLoad < 32 || (match youngest (s.clusterOf (clusterAt w.place)).entries w.place c with
        | some e => fuses e fn o kv (consulted w.fm) w.em
        | none => false)) s
      .ok { s := ({ s with w := { w with latch := latch } }).issueOp c
              (.matrix fn c o kv (consulted w.fm) w.em w.em rows s.classAfter 0 false) }

/-- `mma` (R237). -/
def execMma (r : BitVec 1) (c : BitVec 4) (a : BitVec 7) (b : BitVec 5) (s : State) : Host.Outcome State Fault Refusal :=
  .next (matrixUnit 0 r c a b s)
/-- `mmas` (R237): it reads no C input. -/
def execMmas (r : BitVec 1) (c : BitVec 4) (a : BitVec 7) (b : BitVec 5) (s : State) : Host.Outcome State Fault Refusal :=
  .next (matrixUnit 1 r c a b s)
/-- `mdist` (R237). -/
def execMdist (r : BitVec 1) (c : BitVec 4) (a : BitVec 7) (b : BitVec 5) (s : State) : Host.Outcome State Fault Refusal :=
  .next (matrixUnit 2 r c a b s)

/-- The list of R240 for one row of a tile: values as FP32 words with their columns, best first. -/
def tileBest (f : Fmt) (t : Tile) (l : Nat) : List (Word × Word) :=
  bestFirst ((List.range 32).map fun n => (word32 (f.decode false (t.get l n).toNat), BitVec.ofNat 32 n))

/-- An operation that charges no counter (R240). -/
def State.postOp (ac : BitVec 4) (kind : OpKind) (s : State) : State :=
  { s with
    ops := s.ops ++ [⟨s.nextOp, s.w.place, ac, s.tick.toNat + s.opLatency, 0, s.w.issued, kind, []⟩]
    nextOp := s.nextOp + 1 }

/-- `mtopk` (R240): it issues when the earlier passes on its tile are done, and posts requests that never fuse. -/
def execMtopk (l c : BitVec 4) (d : BitVec 7) (s : State) : Host.Outcome State Fault Refusal :=
  .next (unitMod 4 [4] false false (fun s => do
    let k := (s.w.hintMod.getD 0).toNat
    need (d.toNat % 8 = 0 && s.destOk d.toNat 16 && fmC s.w.fm ≤ 2 && 1 ≤ k && k ≤ 8)
    s.notPending ((List.range 16).map (d.toNat + ·))
    if octets s.w.em = [] then return { s := s }
    let f := (Fmt.ofCode (fmC s.w.fm)).getD .f32
    tileFits s c f
    ready (s.tableLoad < 32 && ¬ s.passes (some c)) s
    let t := s.w.tile c.toNat
    let best := lanes.map fun j => if lane s.w.em j then tileBest f t j else []
    let at_ := fun j i => (best.getD j []).getD i (0xFF80_0000, 0xFFFF_FFFF)
    let ws := (List.range k).flatMap fun i =>
      laneWrite (d.toNat + i) s.w.em (fun j => (at_ j i).1) ++ laneWrite (d.toNat + 8 + i) s.w.em (fun j => (at_ j i).2)
    .ok { s := s.postOp c (.matrix 3 c 0 0 0 s.w.em s.w.em [] s.classAfter 0 false), writes := ws, la := l.toNat }) s)

/-- `mrel` (R241). -/
def execMrel (s : State) : Host.Outcome State Fault Refusal :=
  .next (unit [] false false (fun s => .ok { s := { s with w := { s.w with latch := none } } }) s)

/-! The reservation table (R242 to R245). -/

/-- Replace an operation's kind. -/
def State.setKind (id : Nat) (k : OpKind) (s : State) : State :=
  { s with ops := s.ops.map fun o => if o.id = id then { o with kind := k } else o }

/-- An earlier matrix instruction of the same warp has no entry yet (R242). -/
def State.olderPosted (s : State) (o : Op) : Bool :=
  s.ops.any fun x => x.place = o.place && x.id < o.id &&
    match x.kind with
    | .matrix _ _ _ _ _ _ _ _ _ _ inTable => ¬ inTable
    | _ => false

/-- The requests of a posted instruction join an entry or take a new one (R242, R243). -/
def execEntryCreation (op : Nat) (s : State) : Host.Outcome State Fault Refusal :=
  .next (
    match s.findOp op with
    | none => s
    | some o =>
      match o.kind with
      | .matrix fn tile off kv fm m left rows cls fl false =>
        let cl := clusterAt o.place
        let x := s.clusterOf cl
        let s1 := s.setKind op (.matrix fn tile off kv fm m left rows cls fl true)
        if s.olderPosted o then s
        else
          match (youngest x.entries o.place tile).filter fun e => fuses e fn off kv fm m with
          | some e =>
            s1.setCluster cl { x with
              entries := x.entries.map fun y => if y = e then { e with parts := e.parts ++ [(op, m, rows)] } else y }
          | none =>
            if 32 ≤ x.entries.length then s
            else
              s1.setCluster cl { x with
                entries := x.entries ++ [⟨o.place, fn, tile, off, kv, fm, [(op, m, rows)], cls, s.tick.toNat, false, 0⟩] }
      | _ => s)

/-- FE cycles in which the panel of an entry is read, 512 bytes in each (R245). -/
def MxEntry.panelCycles (e : MxEntry) : Nat := ((passShape e.fm).map fun p => (p.bytes + 511) / 512).getD 0

/-- The W port of the entry's core is still reading the panel of a granted entry in the cycle after `now` (R244, R245). -/
def portBusy (now : Nat) (es : List MxEntry) (e : MxEntry) : Bool :=
  es.any fun x => x.granted && x.fn ≠ 3 && sameCore x.place e.place && now < x.grantedAt + x.panelCycles

/-- An entry that the arbiter may grant (R244): not granted, with no older ungranted entry of the warp on its tile, and, unless it
is an `mtopk`, able to start: one of the two B latches and its core's W port are free (R245). -/
def eligible (now : Nat) (es : List MxEntry) (e : MxEntry) : Bool :=
  ¬ e.granted
    && ((es.takeWhile fun x => x ≠ e).all fun x => x.granted || x.place ≠ e.place || x.tile ≠ e.tile)
    && (e.fn = 3 || ((es.countP fun x => x.granted && x.fn ≠ 3) < 2 && ¬ portBusy now es e))

/-- Effective priority (R244). -/
def effectivePriority (now : Nat) (e : MxEntry) : Nat := min 7 (e.cls.toNat + (now - e.created) / 512)

/-- x ranks before y (R244). -/
def grantsBefore (now : Nat) (x y : MxEntry) : Bool :=
  let a := effectivePriority now x
  let b := effectivePriority now y
  b < a || (a = b && (x.created < y.created || (x.created = y.created && x.place.core.toNat < y.place.core.toNat)))

/-- The entry that the arbiter selects (R244). -/
def State.selectEntry (s : State) (c : Cluster) : Option MxEntry :=
  let es := (s.clusterOf c).entries
  (es.filter (eligible s.tick.toNat es)).foldl (fun b e => match b with
    | none => some e
    | some y => if grantsBefore s.tick.toNat e y then some e else some y) none

/-- Cost of a grant (Table 1 of R422). -/
def grantCost (e : MxEntry) : Int := if e.fn = 3 then 8 else 64

/-- The workgroup as a pass finds it: each word of the panel that was overwritten since its instruction issued is the old or the new one,
as alternatives of R3 (R217, R238, R450). -/
def readPanel : Cells (Option Word) → State → State × Group
  | [], s => (s, s.wg)
  | (k, v) :: r, s =>
    let (b, s1) := s.pick
    let (s2, g) := readPanel r s1
    match b, v with
    | true, some x => (s2, g.bufWrite 1 (4 * k) (bytesOf 4 x.toNat))
    | _, _ => (s2, g)

/-- The pass of one part of a granted entry (R231): the rows of its tile and the flags that its operation gathers. -/
def State.passPart (e : MxEntry) (part : Nat × Mask × List Vec) (s : State) : State :=
  match s.findOp part.1 with
  | some o =>
    match o.kind with
    | .matrix fn tile off kv fm m _ rows cls fl inTable =>
      if fn = 3 then s.setKind part.1 (.matrix fn tile off kv fm m 0 rows cls fl inTable)
      else
        match passShape fm with
        | none => s
        | some p =>
          let (s1, g) := readPanel o.old (s.focus e.place)
          let (t, f) := runPass p fm fn.toNat kv off part.2.1 part.2.2 g (s1.w.tile tile.toNat)
          (({ s1 with w := s1.w.setTile tile.toNat t }).setKind part.1
            (.matrix fn tile off kv fm m 0 rows cls (fl ||| f) inTable)).focus s.w.place
    | _ => s
  | none => s

/-- Grant an entry (R244, R422): its panel is read and its rows computed; completion follows. -/
def State.grant (c : Cluster) (e : MxEntry) (s : State) : State :=
  let x := s.clusterOf c
  let s1 := s.setCluster c { x with
    c := x.c - grantCost e, entries := x.entries.map fun y => if y = e then { y with granted := true, grantedAt := s.tick.toNat } else y }
  e.parts.foldl (fun s p => s.passPart e p) s1

/-- The arbiter's grant in a cycle (R244, R421): none when the allowance does not cover it. -/
def State.arbiterGrant (c : Cluster) (s : State) : State :=
  match s.selectEntry c with
  | none => s
  | some e => if grantCost e ≤ (s.clusterOf c).c then s.grant c e else s

def execArbiterGrant (c : Cluster) (s : State) : Host.Outcome State Fault Refusal := .next (s.arbiterGrant c)

/-- Free the part of an operation in the table; an entry without parts is freed (R242). -/
def dropPart (op : Nat) (es : List MxEntry) : List MxEntry :=
  (es.map fun e => { e with parts := e.parts.filter fun p => p.1 ≠ op }).filter fun e => e.parts ≠ []

/-- A matrix instruction whose rows are all written completes (R238): its flags, the dirty bit and its charge. -/
def execPassCompletion (op : Nat) (s : State) : Host.Outcome State Fault Refusal :=
  .next (
    match s.findOp op with
    | none => s
    | some o =>
      match o.kind with
      | .matrix fn tile _ _ _ _ left _ _ fl _ =>
        if left ≠ 0 then s
        else
          let cl := clusterAt o.place
          let x := s.clusterOf cl
          let s1 := s.setCluster cl { x with entries := dropPart op x.entries }
          if fn = 3 then { s1 with ops := s1.ops.filter fun y => y.id ≠ op }
          else
            (s1.mapWarps fun w =>
              if w.place = o.place then { w with fstat := w.fstat ||| fl, dirty := w.dirty ||| (1 <<< tile.toNat) } else w).releaseOp o 0
      | _ => s)

end Sys2Proof.Machine
end

