-- ==== Sys2Proof/Machine/Copy.lean ====
section
/-! DEFINITION. The copy engine and the address groups (R360 to R372). -/

namespace Sys2Proof.Machine

/-- Requests in a core's share of the copy queue (R361). -/
def State.copyLoad (s : State) : Nat :=
  s.ops.countP fun o => o.place.ld = s.w.place.ld && o.place.col = s.w.place.col && o.place.core = s.w.place.core &&
    match o.kind with
    | .copy _ _ _ _ _ => true
    | .multi _ _ _ _ _ => true
    | .posted _ => true
    | _ => false

/-- A CPY instruction (R361): its checks, then the charge and the request, which is a tagged send (R317). -/
def copyUnit (acc : List Nat) (n : BitVec 4) (checks : State → Except Stop Unit) (kind : State → OpKind) : State → State :=
  unit acc false false fun s => do
    ready (s.copyLoad < 48) s
    checks s
    s.canCharge n
    .ok { s := (s.issueOp n (kind s)).send [0] }

/-- The operands of a copy as read at issue. -/
def copyKind (fn : Nat) (d a b : BitVec 6) (s : State) : OpKind :=
  .copy fn (s.w.s d.toNat) (s.w.s a.toNat) (s.w.s b.toNat) (s.w.hintMod.getD 0)

/-- `cpy` (R362). -/
def execCpy (n : BitVec 4) (d a b : BitVec 6) (s : State) : Host.Outcome State Fault Refusal :=
  .next (copyUnit [] n (fun s => need ((s.w.s b.toNat).toNat < 2 ^ 32)) (copyKind 0 d a b) s)

/-- `cpy.2d` (R363). -/
def execCpy2d (n : BitVec 4) (d a b : BitVec 6) (s : State) : Host.Outcome State Fault Refusal :=
  .next (copyUnit [4] n (fun s =>
    let x := (s.w.s b.toNat).toNat
    need (s.w.hintMod.isSome && 1 ≤ bitsOf x 0 32 && bitsOf x 0 32 ≤ 2 ^ 20 && 1 ≤ bitsOf x 32 16 && bitsOf x 48 16 = 0))
    (copyKind 1 d a b) s)

/-- The checks of the buffer forms (R364): allotment offset, memory address, length. -/
def bufferChecks (len off : Nat) (mem : DWord) (l : Nat) : Except Stop Unit := do
  need (l % 4 = 0 && l ≤ len)
  trapIf (off % 4 ≠ 0) 0x04 (BitVec.ofNat 64 off)
  trapIf (mem.toNat % 4 ≠ 0) 0x04 mem
  trapIf (len < off + l) 0x0B (BitVec.ofNat 64 off)

/-- `cpyw` (R364). -/
def execCpyw (n : BitVec 4) (d a b : BitVec 6) (s : State) : Host.Outcome State Fault Refusal :=
  .next (copyUnit [] n (fun s => bufferChecks s.wg.wlen (s.w.s d.toNat).toNat (s.w.s a.toNat) (s.w.s b.toNat).toNat)
    (copyKind 4 d a b) s)
/-- `cpya` (R364). -/
def execCpya (n : BitVec 4) (d a b : BitVec 6) (s : State) : Host.Outcome State Fault Refusal :=
  .next (copyUnit [] n (fun s => bufferChecks s.wg.alen (s.w.s d.toNat).toNat (s.w.s a.toNat) (s.w.s b.toNat).toNat)
    (copyKind 5 d a b) s)
/-- `cpyo` (R364). -/
def execCpyo (n : BitVec 4) (d a b : BitVec 6) (s : State) : Host.Outcome State Fault Refusal :=
  .next (copyUnit [] n (fun s => bufferChecks s.wg.alen (s.w.s a.toNat).toNat (s.w.s d.toNat) (s.w.s b.toNat).toNat)
    (copyKind 6 d a b) s)

/-- GRPg of a descriptor (R367, R369). -/
def Warp.group (w : Warp) (desc : DWord) : DWord := w.grp.get 0 (bitsOf desc.toNat 32 3)

/-- The members of a group register (R367). -/
def groupMembers (g : DWord) : List Nat := (List.range 4).filter fun m => g.getLsbD (32 + m)

/-- The checks of `mlr` and `mst` (R369, R371): count from lo to hi in steps, reserved bits, members, alignment. DESIGN CHOICE (assumption
69): of two misaligned operands TVAL names the one in sa, then the one in sd. -/
def groupChecks (w : Warp) (desc : DWord) (step hi : Nat) (as : List DWord) : Except Stop Unit := do
  let n := bitsOf desc.toNat 0 32
  need (n % step = 0 && step ≤ n && n ≤ hi && bitsOf desc.toNat 35 29 = 0 && groupMembers (w.group desc) ≠ [])
  match as.find? fun a => a.toNat % 64 ≠ 0 with
  | some a => .error (.trap 0x04 a)
  | none => .ok ()

/-- `mlr` (R369). -/
def execMlr (n : BitVec 4) (d a b : BitVec 6) (s : State) : Host.Outcome State Fault Refusal :=
  .next (copyUnit [] n (fun s => groupChecks s.w (s.w.s b.toNat) 32 2048 [s.w.s a.toNat, s.w.s d.toNat])
    (fun s => .multi false (s.w.s d.toNat) (s.w.s a.toNat) (s.w.s b.toNat) (s.w.group (s.w.s b.toNat))) s)
/-- `mst` (R371). -/
def execMst (n : BitVec 4) (d a b : BitVec 6) (s : State) : Host.Outcome State Fault Refusal :=
  .next (copyUnit [] n (fun s => groupChecks s.w (s.w.s b.toNat) 64 65536 [s.w.s a.toNat, s.w.s d.toNat])
    (fun s => .multi true (s.w.s d.toNat) (s.w.s a.toNat) (s.w.s b.toNat) (s.w.group (s.w.s b.toNat))) s)

/-! Transfers. -/

/-- n bytes from an address, cut at 64-byte lines. -/
def linesFrom (va : DWord) (n : Nat) : List (DWord × Nat) :=
  if n = 0 then []
  else
    let o := va.toNat % 64
    (List.range ((o + n + 63) / 64)).map fun i =>
      let lo := if i = 0 then 0 else 64 * i - o
      (va + BitVec.ofNat 64 lo, min n (64 * (i + 1) - o) - lo)

/-- What a transfer has met: its state, ERR bits and failing pages, virtual page numbers of sources and of destinations; whether a
request of it waits, so that none of it is done yet, and the lines whose slices refused one (R330). -/
structure Xfer where
  s : State
  op : Nat := 0
  err : BitVec 3 := 0
  badSrc : List Nat := []
  badDst : List Nat := []
  wait : Bool := false
  refused : List Nat := []

/-- A transfer whose request for a line waits: for a link or port in training, or for its slice. -/
def Xfer.held (x : Xfer) (train : Bool) (line : Nat) : Xfer :=
  { x with wait := true, refused := if train then x.refused else line :: x.refused }

/-- Read one part of a source (R365): bytes beyond a down link or of a home in reset read 0. -/
def Xfer.read (x : Xfer) (va : DWord) (n : Nat) : Xfer × List Byte :=
  let zeros := List.replicate n (0 : Byte)
  let fail := fun (s : State) (e : BitVec 3) => ({ x with s := s, err := x.err ||| e, badSrc := va.toNat / 4096 :: x.badSrc }, zeros)
  match x.s.translate x.s.engineVia va .read with
  | (s1, .error e) => fail s1 e.err
  | (s1, .ok l) =>
    if ¬ s1.locOk l.pa n false then fail s1 errFault
    else
      match s1.readLoc (s1.engine x.op) l n with
      | (s2, .ok v) => ({ x with s := s2 }, bytesOf n v)
      | (s2, .error .poison) => fail (s2.consumePoison l) errFault
      | (s2, .error e) =>
        match e.waits with
        | some t => (x.held t (l.pa / 64), zeros)
        | none => ({ x with s := e.note s2, err := x.err ||| errUnreach }, zeros)

def Xfer.readParts : List (DWord × Nat) → Xfer → Xfer × List Byte
  | [], x => (x, [])
  | (va, n) :: r, x =>
    let (x1, a) := x.read va n
    let (x2, b) := Xfer.readParts r x1
    (x2, a ++ b)

/-- Translate the parts of a destination: failing pages, and the locations of the others (R365). -/
def Xfer.place : List (DWord × Nat) → Xfer → Xfer × List (DWord × Nat × Option Loc)
  | [], x => (x, [])
  | (va, n) :: r, x =>
    let (s1, t) := x.s.translate x.s.engineVia va .write
    let bad := fun (s : State) (e : BitVec 3) => { x with s := s, err := x.err ||| e, badDst := va.toNat / 4096 :: x.badDst }
    let (x1, l) : Xfer × Option Loc := match t with
      | .error e => (bad s1 e.err, none)
      | .ok l =>
        if ¬ s1.locOk l.pa n false then (bad s1 errFault, none)
        else if s1.poisoned (l.pa / 64) ∧ l.pa < 2 ^ 40 ∧ n < 64 ∧ ¬ s1.homeLost l then (bad (s1.consumePoison l) errFault, none)
        else ({ x with s := s1 }, some l)
    let (x2, ls) := Xfer.place r x1
    (x2, (va, n, l) :: ls)

/-- Write stretches of one line, each at its offset: bytes beyond a down link or to a home in reset are dropped, once for the line
(R365), and a line that takes no partial write sets FAULT (R335). -/
def Xfer.write (va : DWord) (l : Loc) : List (Nat × List Byte) → Xfer → Xfer
  | [], x => x
  | (o, bs) :: r, x =>
    match x.s.writeLoc (x.s.engine x.op) { l with pa := l.pa + o } bs (bs.length = 64) with
    | (s1, .ok _) => Xfer.write va l r { x with s := s1 }
    | (s1, .error .poison) => { x with s := s1.consumePoison l, err := x.err ||| errFault }
    | (s1, .error e) =>
      match e.waits with
      | some t => x.held t (l.pa / 64)
      | none => { x with s := s1.dropStore va l e, err := x.err ||| e.err }

/-- The device's choice for each of a list of bytes (R3). -/
def picks : Nat → State → List Bool × State
  | 0, s => ([], s)
  | n + 1, s =>
    let (b, s1) := s.pick
    let (bs, s2) := picks n s1
    (b :: bs, s2)

/-- Bytes whose source lies in a failing page, and whether the transfer met one at all (R365). -/
def Xfer.failed (x : Xfer) : Bool := x.badSrc ≠ [] || x.badDst ≠ []

/-- Which bytes of a part are written (R365): all of them unless the transfer met a failing page; otherwise none of a failing
page, and any of the others. -/
def Xfer.select (x : Xfer) (src : Option DWord) (dst : Option DWord) (n : Nat) : List Bool × Xfer :=
  if ¬ x.failed then (List.replicate n true, x)
  else
    let (ps, s1) := picks n x.s
    let inBad := fun (bad : List Nat) (a : Option DWord) (i : Nat) =>
      (a.map fun va => bad.contains ((va + BitVec.ofNat 64 i).toNat / 4096)).getD false
    (ps.zipIdx.map fun p => p.1 && ¬ inBad x.badSrc src p.2 && ¬ inBad x.badDst dst p.2, { x with s := s1 })

/-- Write the selected bytes of a part, whole when all are selected. -/
def Xfer.writePart (x : Xfer) (va : DWord) (l : Loc) (src : Option DWord) (bs : List Byte) : Xfer :=
  let (sel, x1) := x.select src (some va) bs.length
  Xfer.write va l (keptRuns (bs.zip sel) 0) x1

/-- Write the placed parts of a destination with their bytes. -/
def Xfer.writeParts (src : Option DWord) : List (DWord × Nat × Option Loc) → List Byte → Nat → Xfer → Xfer
  | [], _, _, x => x
  | (va, n, l) :: r, bs, o, x =>
    let x1 := match l with
      | some l => x.writePart va l (src.map (· + BitVec.ofNat 64 o)) (bs.take n)
      | none => x
    Xfer.writeParts src r (bs.drop n) (o + n) x1

/-- Rows (destination, source, bytes) read in order. -/
def Xfer.readRows : List (DWord × DWord × Nat) → Xfer → Xfer × List (List Byte)
  | [], x => (x, [])
  | (_, src, n) :: r, x =>
    let (x1, bs) := Xfer.readParts (linesFrom src n) x
    let (x2, bss) := Xfer.readRows r x1
    (x2, bs :: bss)

def Xfer.placeRows : List (DWord × DWord × Nat) → Xfer → Xfer × List (List (DWord × Nat × Option Loc))
  | [], x => (x, [])
  | (dst, _, n) :: r, x =>
    let (x1, p) := Xfer.place (linesFrom dst n) x
    let (x2, ps) := Xfer.placeRows r x1
    (x2, p :: ps)

/-- A copy between memory ranges (R362, R363): every source is read, then the rows are written in order. DESIGN CHOICE (assumption
34): where the ranges overlap, a destination byte never takes a byte that the same copy has already written, one of the
alternatives that R362 leaves open. -/
def Xfer.copyRows (rows : List (DWord × DWord × Nat)) (x : Xfer) : Xfer :=
  let (x1, data) := Xfer.readRows rows x
  let (x2, places) := Xfer.placeRows rows x1
  (rows.zip (data.zip places)).foldl (fun x r => Xfer.writeParts (some r.1.2.1) r.2.2 r.2.1 0 x) x2

/-- A copy into an allotment (R364). -/
def Xfer.intoBuffer (u : BitVec 1) (off : Nat) (src : DWord) (n : Nat) (x : Xfer) : Xfer :=
  let (x1, bs) := Xfer.readParts (linesFrom src n) x
  let (sel, x2) := x1.select (some src) none n
  let s2 := x2.s.keepOld u (((sel.zipIdx).filter Prod.fst).map fun b => (off + b.2) / 4).eraseDups
  let wg := ((bs.zip sel).zipIdx.foldl (fun (g : Group) b => if b.1.2 then g.setBuf u (off + b.2) b.1.1 else g) s2.wg)
  { x2 with s := { s2 with wg := wg } }

/-- A copy out of the A allotment (R364). -/
def Xfer.outOfBuffer (off : Nat) (dst : DWord) (n : Nat) (x : Xfer) : Xfer :=
  let bs := (List.range n).map fun i => x.s.wg.buf 0 (off + i)
  let (x1, ps) := Xfer.place (linesFrom dst n) x
  Xfer.writeParts none ps bs 0 x1

/-- The transfer of a copy (R362 to R364). -/
def runCopy (op fn : Nat) (d a b : DWord) (mod : BitVec 22) (s : State) : Xfer :=
  let x : Xfer := { s := s, op := op }
  match fn with
  | 0 => x.copyRows [(d, a, b.toNat)]
  | 1 =>
    let ss := 64 * bitsOf mod.toNat 0 11
    let ds := 64 * bitsOf mod.toNat 11 11
    x.copyRows ((List.range (bitsOf b.toNat 32 16)).map fun r =>
      (d + BitVec.ofNat 64 (r * ds), a + BitVec.ofNat 64 (r * ss), bitsOf b.toNat 0 32))
  | 4 => x.intoBuffer 1 d.toNat a b.toNat
  | 5 => x.intoBuffer 0 d.toNat a b.toNat
  | _ => x.outOfBuffer a.toNat d b.toNat

/-! Address groups (R368 to R371). -/

/-- Addr(g, m, o) (R368). -/
def memberAddr (g : DWord) (m : Nat) (o : DWord) : DWord :=
  0x7000_0000_0000 + BitVec.ofNat 64 (bitsOf g.toNat (8 * m) 8 * 2 ^ 36) + o

/-- ERR bit of a failing member (R370). -/
def memberErr : XFault → BitVec 3
  | .peerDown => errPeer
  | _ => errFault

/-- The handle of a member address names LD m as its owner (R368). -/
def State.ownerIs (s : State) (m : Nat) (va : DWord) (acc : Access) : Bool :=
  match (s.handle s.engineVia va.toNat acc).2 with
  | .ok (o, _, _) => o = m
  | .error _ => true

/-- Translate one member address. -/
def State.memberXlate (s : State) (m : Nat) (va : DWord) (acc : Access) : State × Except (BitVec 3) Loc :=
  if ¬ inPeer va.toNat ∨ ¬ s.ownerIs m va acc then (s, .error errFault)
  else
    match s.translate s.engineVia va acc with
    | (s1, .ok l) => (s1, if s1.locOk l.pa 64 false then .ok l else .error errFault)
    | (s1, .error e) => (s1, .error (memberErr e))

/-- Why a member's part is not read: an ERR bit (R370), or a request for a line that waits. -/
inductive Miss
  | err (e : BitVec 3) | wait (train : Bool) (line : Nat)
deriving DecidableEq, Repr

/-- The lines of a member's part read (R369). -/
def State.memberRead (op m : Nat) : List DWord → State → State × Except Miss (List Byte)
  | [], s => (s, .ok [])
  | va :: r, s =>
    match s.memberXlate m va .read with
    | (s1, .error e) => (s1, .error (.err e))
    | (s1, .ok l) =>
      match s1.readLoc (s1.engine op) l 64 with
      | (s2, .error .poison) => (s2.consumePoison l, .error (.err errFault))
      | (s2, .error e) => (s2, .error (match e.waits with | some t => .wait t (l.pa / 64) | none => .err errPeer))
      | (s2, .ok v) =>
        match State.memberRead op m r s2 with
        | (s3, .ok bs) => (s3, .ok (bytesOf 64 v ++ bs))
        | x => x

/-- Every member read: the transfer, and the parts of those that do not fail. -/
def Xfer.members (g o : DWord) (n : Nat) : List Nat → Xfer → Xfer × List (Nat × List Byte)
  | [], x => (x, [])
  | m :: r, x =>
    match State.memberRead x.op m (parts 64 n (memberAddr g m o)) x.s with
    | (s1, .ok bs) =>
      let (x2, xs) := Xfer.members g o n r { x with s := s1 }
      (x2, (m, bs) :: xs)
    | (s1, .error (.err e)) => Xfer.members g o n r { x with s := s1, err := x.err ||| e }
    | (_, .error (.wait t line)) => Xfer.members g o n r (x.held t line)

/-- The sum of the members' values in the order of R369. -/
def reduceMembers (v : Nat → Option Num) : Nat :=
  let f := fun (a b : Option Num) => match a, b with
    | some x, some y => some (Fmt.decode .f32 false (Fmt.code .f32 (Num.sum false [x, y]).1))
    | some x, none => some x
    | none, y => y
  match f (f (v 0) (v 1)) (f (v 2) (v 3)) with
  | some x => Fmt.code .f32 x
  | none => 0

/-- The result words of `mlr` (R369). -/
def mlrBytes (n : Nat) (xs : List (Nat × List Byte)) : List Byte :=
  (List.range n).flatMap fun j =>
    bytesOf 4 (reduceMembers fun m => (xs.find? fun x => x.1 = m).map fun x =>
      Fmt.decode .bf16 false (ofBytes ((x.2.drop (2 * j)).take 2)))

/-- A member's part of `mst` (R371): written in full when all of it translates, else nothing. -/
def mstMember (g o : DWord) (src : DWord) (data : List Byte) (x : Xfer) (m : Nat) : Xfer :=
  let rec find : List DWord → State → State × Except (BitVec 3) (List (DWord × Nat × Option Loc))
    | [], s => (s, .ok [])
    | va :: r, s =>
      match s.memberXlate m va .write with
      | (s1, .error e) => (s1, .error e)
      | (s1, .ok l) =>
        if s1.homeLost l ∧ l.pa < 2 ^ 40 then (s1, .error errPeer)
        else
          match find r s1 with
          | (s2, .ok ls) => (s2, .ok ((va, 64, some l) :: ls))
          | y => y
  match find (parts 64 data.length (memberAddr g m o)) x.s with
  | (s1, .error e) => { x with s := s1, err := x.err ||| e }
  | (s1, .ok ps) => Xfer.writeParts (some src) ps data 0 { x with s := s1 }

/-- `mst` (R371). -/
def runMst (op : Nat) (d a b g : DWord) (s : State) : Xfer :=
  let (x, data) := Xfer.readParts (linesFrom a (bitsOf b.toNat 0 32)) { s := s, op := op }
  (groupMembers g).foldl (mstMember g d a data) x

/-- `mlr` (R369, R370): a failure of any member or of the destination writes nothing. -/
def runMlr (op : Nat) (d a b g : DWord) (s : State) : Xfer :=
  let n := bitsOf b.toNat 0 32
  let (x1, xs) := Xfer.members g a (2 * n) (groupMembers g) { s := s, op := op }
  let (x2, ps) := Xfer.place ((parts 64 (4 * n) d).map fun p => (p, 64)) x1
  if x1.err ≠ 0 ∨ x2.failed then { x2 with err := x1.err ||| if x2.failed then errFault else 0 }
  else Xfer.writeParts none ps (mlrBytes n xs) 0 x2

/-- A transfer of operation o has been tried: it completes, once no port holds a write of it; one that waits for a link, a port in
training or a slice is done later (R330, R377). -/
def Xfer.finish (o : Op) (x : Xfer) (s : State) : State :=
  if x.wait then x.refused.reverse.foldl (fun s line => s.refused (s.engine o.id) line) s
  else if x.s.heldBy (fun w => w = .op o.id) = [] then x.s.releaseOp o x.err
  else
    let members := match o.kind with | .multi true _ _ _ _ => true | _ => false
    { x.s with ops := x.s.ops.map fun y =>
        if y.id = o.id then { y with kind := .posted members, err := y.err ||| x.err } else y }

/-- A copy or an `mst` completes (R365, R371). -/
def execCopyCompletion (op : Nat) (s : State) : Host.Outcome State Fault Refusal :=
  .next (
    match s.findOp op with
    | none => s
    | some o =>
      match o.kind with
      | .copy fn d a b mod => s.atWarp o.place fun s => (runCopy op fn d a b mod s).finish o s
      | .multi true d a b g => s.atWarp o.place fun s => (runMst op d a b g s).finish o s
      | .posted _ => if s.heldBy (fun w => w = .op op) = [] then s.releaseOp o 0 else s
      | _ => s)

/-- `mlr` completes (R369, R370). -/
def execMlrCompletion (op : Nat) (s : State) : Host.Outcome State Fault Refusal :=
  .next (
    match s.findOp op with
    | none => s
    | some o =>
      match o.kind with
      | .multi false d a b g => s.atWarp o.place fun s => (runMlr op d a b g s).finish o s
      | _ => s)

end Sys2Proof.Machine
end

