-- ==== Sys2Proof/WellFormed.lean ====
section
/-! DEFINITION. Well-formed instructions: every field that the encoding tables reserve values of holds one that they list
(R37, R48, R53, R61), and a step of the device names columns, ports, channels, modules and regions that exist. -/

namespace Sys2Proof

/-- Scope codes 0 to 6 (R10, R61). -/
def scopeOk (s : BitVec 3) : Bool := s.toNat < 7

/-- Columns 0 to 47 (R19). -/
def colOk (c : BitVec 6) : Bool := c.toNat < 48

/-- UALink ports 0 to 17 and PCIe ports 32 and 33 (R379). -/
def portOk (p : BitVec 6) : Bool := p.toNat < 18 || p == 32 || p == 33

/-- A store of 1 to 64 bytes within one line. -/
def storeOk (pa : BitVec 56) (d : List Byte) : Bool := d.length ≠ 0 && pa.toNat % 64 + d.length ≤ 64

def Place.ok (p : Place) : Bool := colOk p.col

def Reader.ok : Reader → Bool
  | .warp p => p.ok
  | .hart h n _ => colOk h.col && n ≠ 0 && n.toNat ≤ 64
  | .port n => portOk n

def ReqPort.ok : ReqPort → Bool
  | .core _ col _ => colOk col
  | .copyEngine c => colOk c.col
  | .atomicUnit c => colOk c.col
  | .slice _ col => colOk col
  | .hart h => colOk h.col
  | .link n => portOk n

/-- What a hart does at an address: a store lies within its line, an AMO is naturally aligned and one of Table 4 of R309. -/
def HartOp.ok (pa : BitVec 56) : HartOp → Bool
  | .store data => storeOk pa data
  | .amo fn _ _ => fn ≠ 15 && pa.toNat % (if fn = 1 ∨ fn = 10 ∨ fn = 12 then 8 else 4) = 0
  | _ => true

/-- The check of one instruction. -/
def Instr.wellFormed : Instr → Bool
  | .hintImm _ => true
  | .hintImmh _ => true
  | .hintRc _ => true
  | .hintRep _ _ => true
  | .hintMod _ => true
  | .hintCp p _ => p.toNat < 4
  | .hintSch _ => true
  | .hintKv _ => true
  | .add _ _ _ => true
  | .sub _ _ _ => true
  | .mul _ _ _ => true
  | .mulh _ _ _ => true
  | .mulhn _ _ _ => true
  | .div _ _ _ => true
  | .divn _ _ _ => true
  | .rem _ _ _ => true
  | .remn _ _ _ => true
  | .and _ _ _ => true
  | .or _ _ _ => true
  | .xor _ _ _ => true
  | .andn _ _ _ => true
  | .shl _ _ _ => true
  | .shr _ _ _ => true
  | .sar _ _ _ => true
  | .rol _ _ _ => true
  | .min _ _ _ => true
  | .max _ _ _ => true
  | .minn _ _ _ => true
  | .maxn _ _ _ => true
  | .clz _ _ => true
  | .ctz _ _ => true
  | .popc _ _ => true
  | .sextB _ _ => true
  | .sextH _ _ => true
  | .sextW _ _ => true
  | .bfx _ _ _ => true
  | .bfi _ _ _ => true
  | .mov _ _ => true
  | .cmpEq _ _ _ => true
  | .cmpNe _ _ _ => true
  | .cmpLt _ _ _ => true
  | .cmpLe _ _ _ => true
  | .cmpLtn _ _ _ => true
  | .cmpLen _ _ _ => true
  | .sel _ _ _ => true
  | .addi _ _ _ => true
  | .andi _ _ _ => true
  | .ori _ _ _ => true
  | .xori _ _ _ => true
  | .shli _ _ _ => true
  | .shri _ _ _ => true
  | .sari _ _ _ => true
  | .slti _ _ _ => true
  | .sltni _ _ _ => true
  | .li _ _ => true
  | .adr _ _ => true
  | .sldB64 _ _ _ _ => true
  | .sldB32 _ _ _ _ => true
  | .sstB64 _ _ _ => true
  | .sstB32 _ _ _ => true
  | .sldSt _ _ _ s => scopeOk s
  | .sstSt _ _ s => scopeOk s
  | .casm _ _ _ _ => true
  | .claim _ _ _ => true
  | .br _ => true
  | .brAny g _ => g ≠ 0
  | .brAll g _ => g.toNat % 8 ≠ 0
  | .brNone g _ => g.toNat % 8 ≠ 0
  | .brd _ _ => true
  | .call _ => true
  | .rsr _ _ => true
  | .wsr _ _ => true
  | .trap _ => true
  | .tret => true
  | .fenceAcq s => scopeOk s
  | .fenceRel s => scopeOk s
  | .fenceFull s => scopeOk s
  | .wait _ _ _ => true
  | .waitr _ _ _ => true
  | .nap _ => true
  | .refill _ => true
  | .exitI => true
  | .succ _ => true
  | .succClr => true
  | .retire => true
  | .yield => true
  | .jr _ _ => true
  | .stkSave _ _ => true
  | .stkLoad _ => true
  | .acget _ _ => true
  | .acset _ _ => true
  | .qdrop _ _ => true
  | .vadd _ _ _ => true
  | .vsub _ _ _ => true
  | .vmul _ _ _ => true
  | .vmulh _ _ _ => true
  | .vmulhn _ _ _ => true
  | .vmad _ _ _ => true
  | .vmin _ _ _ => true
  | .vmax _ _ _ => true
  | .vminn _ _ _ => true
  | .vmaxn _ _ _ => true
  | .vabs _ _ => true
  | .vand _ _ _ => true
  | .vor _ _ _ => true
  | .vxor _ _ _ => true
  | .vandn _ _ _ => true
  | .vshl _ _ _ => true
  | .vshr _ _ _ => true
  | .vsar _ _ _ => true
  | .vrol _ _ _ => true
  | .vclz _ _ => true
  | .vpopc _ _ => true
  | .vaddsat _ _ _ => true
  | .vsubsat _ _ _ => true
  | .vaddsatn _ _ _ => true
  | .vsubsatn _ _ _ => true
  | .vdot4 _ _ _ => true
  | .vdot4n _ _ _ => true
  | .vmov _ _ => true
  | .vbfx _ _ _ => true
  | .vbfi _ _ _ => true
  | .vaddX _ _ _ _ => true
  | .vsubX _ _ _ _ => true
  | .vmulX _ _ _ _ => true
  | .vmulhX _ _ _ _ => true
  | .vmulhnX _ _ _ _ => true
  | .vmadX _ _ _ _ => true
  | .vminX _ _ _ _ => true
  | .vmaxX _ _ _ _ => true
  | .vminnX _ _ _ _ => true
  | .vmaxnX _ _ _ _ => true
  | .vandX _ _ _ _ => true
  | .vorX _ _ _ _ => true
  | .vxorX _ _ _ _ => true
  | .vandnX _ _ _ _ => true
  | .vshlX _ _ _ _ => true
  | .vshrX _ _ _ _ => true
  | .vsarX _ _ _ _ => true
  | .vrolX _ _ _ _ => true
  | .vaddsatX _ _ _ _ => true
  | .vsubsatX _ _ _ _ => true
  | .vaddsatnX _ _ _ _ => true
  | .vsubsatnX _ _ _ _ => true
  | .vdot4X _ _ _ _ => true
  | .vdot4nX _ _ _ _ => true
  | .vmovs _ _ _ => true
  | .vbfxX _ _ _ _ => true
  | .vbfiX _ _ _ _ => true
  | .vfadd _ _ _ => true
  | .vfsub _ _ _ => true
  | .vfmul _ _ _ => true
  | .vffma _ _ _ => true
  | .vffms _ _ _ => true
  | .vfmin _ _ _ => true
  | .vfmax _ _ _ => true
  | .vfabs _ _ => true
  | .vfneg _ _ => true
  | .vfrnd _ _ => true
  | .vfclass _ _ => true
  | .vfscl _ _ _ => true
  | .vfcpys _ _ _ => true
  | .vfaddX _ _ _ _ => true
  | .vfsubX _ _ _ _ => true
  | .vfmulX _ _ _ _ => true
  | .vffmaX _ _ _ _ => true
  | .vffmsX _ _ _ _ => true
  | .vfminX _ _ _ _ => true
  | .vfmaxX _ _ _ _ => true
  | .vfsclX _ _ _ _ => true
  | .vfcpysX _ _ _ _ => true
  | .vhaddF16 _ _ _ => true
  | .vhmulF16 _ _ _ => true
  | .vhfmaF16 _ _ _ => true
  | .vhaddBf16 _ _ _ => true
  | .vhmulBf16 _ _ _ => true
  | .vhfmaBf16 _ _ _ => true
  | .vhminF16 _ _ _ => true
  | .vhmaxF16 _ _ _ => true
  | .vhminBf16 _ _ _ => true
  | .vhmaxBf16 _ _ _ => true
  | .vhdot2Bf16 _ _ _ => true
  | .vcmp c _ _ _ t => c.toNat < 8 && t.toNat < 3 && (c.toNat < 6 || t == 2)
  | .vsel _ _ _ _ => true
  | .vrcp _ _ _ => true
  | .vrsq _ _ _ => true
  | .vsqrt _ _ _ => true
  | .vex2 _ _ _ => true
  | .vlg2 _ _ _ => true
  | .vsin _ _ _ => true
  | .vcos _ _ _ => true
  | .vtanh _ _ _ => true
  | .vdiv _ _ _ => true
  | .vshfl _ _ _ _ => true
  | .vshflx _ _ _ _ => true
  | .vbcast _ _ _ _ => true
  | .vredAdd _ _ _ _ _ => true
  | .vredMin _ _ _ _ _ => true
  | .vredMax _ _ _ _ _ => true
  | .vredAnd _ _ _ _ => true
  | .vredOr _ _ _ _ => true
  | .vredXor _ _ _ _ => true
  | .vscanAdd _ _ _ _ _ => true
  | .vscanAddf _ _ _ _ _ => true
  | .vballot _ _ _ _ => true
  | .vtopk _ _ _ _ => true
  | .vcompact _ _ _ _ => true
  | .vcvt t _ _ _ s => t.toNat < 9 && s.toNat < 9
  | .vqnt _ _ _ _ => true
  | .vscl _ _ _ _ => true
  | .vi4xe _ _ _ => true
  | .vi4xd _ _ _ => true
  | .ld w _ _ _ _ => w.toNat < 7
  | .ldB32St s _ _ _ _ => scopeOk s
  | .ldB64St s _ _ _ _ => scopeOk s
  | .ldp _ w _ _ _ => w.toNat < 7
  | .st w _ _ _ _ => w.toNat < 7
  | .stB32St s _ _ _ _ => scopeOk s
  | .gath _ _ w _ _ => w.toNat < 5
  | .atomCo _ _ f _ _ => f.toNat < 15
  | .atomCl _ _ f _ _ => f.toNat < 15
  | .atomCm _ _ f _ _ => f.toNat < 15
  | .atomLd _ _ f _ _ => f.toNat < 15
  | .atomPk _ _ f _ _ => f.toNat < 15
  | .atomSy _ _ f _ _ => f.toNat < 15
  | .bld _ _ _ _ w => w.toNat < 3
  | .bst _ _ _ _ w => w.toNat < 3
  | .batomAdd _ _ _ _ _ => true
  | .batomMin _ _ _ _ _ => true
  | .batomMax _ _ _ _ _ => true
  | .batomExch _ _ _ _ _ => true
  | .batomCas _ _ _ _ _ => true
  | .barInit _ _ => true
  | .barArw _ _ => true
  | .barArrive _ _ => true
  | .barWait _ _ => true
  | .barJoin _ => true
  | .barDrop _ => true
  | .mma _ _ _ _ => true
  | .mmas _ _ _ _ => true
  | .mdist _ _ _ _ => true
  | .mtopk _ _ _ => true
  | .mrel => true
  | .tcfg _ _ => true
  | .tzero _ => true
  | .trow _ _ _ _ => true
  | .tcol _ _ _ _ => true
  | .tsetr _ _ _ => true
  | .tsetc _ _ _ => true
  | .tld _ _ _ => true
  | .tst _ _ _ => true
  | .tsave _ _ => true
  | .tload _ _ => true
  | .tdrop _ => true
  | .cpy _ _ _ _ => true
  | .cpy2d _ _ _ _ => true
  | .mlr _ _ _ _ => true
  | .mst _ _ _ _ => true
  | .cpyw _ _ _ _ => true
  | .cpya _ _ _ _ => true
  | .cpyo _ _ _ _ => true
  | .itemTake n => n.toNat ≤ 64
  | .startTake => true
  | .warpRetirement => true
  | .successorStart => true
  | .popAtArrival => true
  | .fairSwap => true
  | .napExpiry p => p.ok
  | .allowanceCycle c => colOk c.col
  | .ldpReply _ _ => true
  | .gatherCompletion _ => true
  | .entryCreation _ => true
  | .arbiterGrant c => colOk c.col
  | .passCompletion _ => true
  | .copyCompletion _ => true
  | .mlrCompletion _ => true
  | .asyncReportTrap => true
  | .launchRecord _ => true
  | .kernelObjectRead _ _ => true
  | .gangPlacement _ => true
  | .timeSliceExpiry _ _ => true
  | .preemption p => p.ok
  | .workgroupSave _ => true
  | .gangRestore _ => true
  | .earlyEnd _ _ _ => true
  | .queueCancel _ _ => true
  | .queueSuspend _ _ => true
  | .storeAtHome x data => colOk x.hart.col && storeOk x.pa data
  | .ticketedRequest home r => colOk home.col && r.port.ok
  | .columnScopeStore _ col pa data => colOk col && storeOk pa data
  | .readAtHome who pa _ => who.ok && (match who with | .hart _ n _ => pa.toNat % 64 + n.toNat ≤ 64 | _ => true)
  | .hartOwnershipRequest x op => colOk x.hart.col && op.ok x.pa
  | .directoryEviction _ => true
  | .parityAlert _ channel _ => channel.toNat < 128
  | .pageWalk _ _ _ _ => true
  | .faultPost _ => true
  | .consStore _ _ _ => true
  | .resumeRetry _ _ _ p => p.ok
  | .resumeAbort _ _ _ p => p.ok
  | .vxinvalStall h _ => colOk h.hart.col
  | .vxinvalPage h _ _ => colOk h.hart.col
  | .vxinvalGpage h _ _ => colOk h.hart.col
  | .vxinvalAll h => colOk h.hart.col
  | .vxpooltopWrite h _ _ => colOk h.col
  | .peerRequest _ _ _ _ => true
  | .inboundPortRequest port _ _ => portOk port
  | .flitCrcMismatch _ m _ => m.toNat < 96
  | .laneTest _ m _ _ _ => m.toNat < 96
  | .enterTraining port => portOk port
  | .trainingComplete port => portOk port
  | .trainingTimeout port => portOk port
  | .portEnable port => portOk port
  | .portDisable port => portOk port
  | .fenceCompletion => true
  | .governorEvaluation _ col _ _ => colOk col
  | .thermalTrip => true
  | .quiescePoint c => colOk c.col
  | .vxgovWrite h _ _ => colOk h.col
  | .clusterGating c => colOk c.col
  | .wakeEnd c => colOk c.col
  | .timingErrorReplay c => colOk c.col
  | .stallEnd _ _ _ => true
  | .vxerrPop _ => true
  | .computeDieFailure _ _ => true
  | .baseDieFailure _ => true
  | .coresLost _ col => colOk col
  | .baseDiePartLost _ col => colOk col
  | .firstLight _ => true
  | .attestationRequest _ => true
  | .rgnctlWrite _ k _ => k.toNat < 240
  | .csrWrite h _ _ _ => colOk h.col
  | .tick => true

end Sys2Proof
end

