-- ==== Sys2Proof/Decode.lean ====
section
/-! DEFINITION. From words to instructions and back (R33 to R61): the decoder, which refuses every reserved encoding by name,
the encoder, and the decoder as the host asks it. -/

namespace Sys2Proof

/-- Why a word is no instruction (R37, R59). Each raises cause 0x01. -/
inductive DecodeError
  /-- A major that Table 5 does not assign. -/
  | unassignedMajor
  /-- Major 0x3F, which is never assigned. -/
  | reservedMajor
  /-- An fn or hint kind that R60 or Table 3 does not list. -/
  | reservedFn
  /-- A reserved field that is not 0. -/
  | reservedField
  /-- A value of a field that R61, Table 3 or an entry reserves. -/
  | reservedValue
deriving DecidableEq, Repr

/-- n bits of a word from bit lo up, for the word as a number and as it stands. -/
def fldN (w lo n : Nat) : BitVec n := BitVec.ofNat n (w / 2 ^ lo)

def fld (w : Word) (lo n : Nat) : BitVec n := fldN w.toNat lo n

/-- An instruction whose reserved fields must be 0. -/
def res (zero : Bool) (i : Instr) : Except DecodeError Instr := if zero then .ok i else .error .reservedField

/-- Major 0x00: the hint kinds (R48). -/
def decodeHint (w : Word) : Except DecodeError Instr :=
  match (fld w 22 4).toNat with
  | 0 => .ok (.hintImm (fld w 0 22))
  | 1 => .ok (.hintImmh (fld w 0 22))
  | 2 => .ok (.hintRc (fld w 0 22))
  | 3 => res (fld w 10 12 == 0) (.hintRep (fld w 6 4) (fld w 0 6))
  | 4 => .ok (.hintMod (fld w 0 22))
  | 5 => res (fld w 19 3 == 0) (.hintCp (fld w 16 3) (fld w 0 16))
  | 6 => res (fld w 3 19 == 0) (.hintSch (fld w 0 3))
  | 7 => res (fld w 8 14 == 0) (.hintKv (fld w 0 8))
  | _ => .error .reservedFn

/-- Major 0x01: the SR forms. -/
def decodeSr (w : Word) : Except DecodeError Instr :=
  match (fld w 18 8).toNat with
  | 0 => .ok (.add (fld w 12 6) (fld w 6 6) (fld w 0 6))
  | 1 => .ok (.sub (fld w 12 6) (fld w 6 6) (fld w 0 6))
  | 2 => .ok (.mul (fld w 12 6) (fld w 6 6) (fld w 0 6))
  | 3 => .ok (.mulh (fld w 12 6) (fld w 6 6) (fld w 0 6))
  | 4 => .ok (.mulhn (fld w 12 6) (fld w 6 6) (fld w 0 6))
  | 5 => .ok (.div (fld w 12 6) (fld w 6 6) (fld w 0 6))
  | 6 => .ok (.divn (fld w 12 6) (fld w 6 6) (fld w 0 6))
  | 7 => .ok (.rem (fld w 12 6) (fld w 6 6) (fld w 0 6))
  | 8 => .ok (.remn (fld w 12 6) (fld w 6 6) (fld w 0 6))
  | 9 => .ok (.and (fld w 12 6) (fld w 6 6) (fld w 0 6))
  | 10 => .ok (.or (fld w 12 6) (fld w 6 6) (fld w 0 6))
  | 11 => .ok (.xor (fld w 12 6) (fld w 6 6) (fld w 0 6))
  | 12 => .ok (.andn (fld w 12 6) (fld w 6 6) (fld w 0 6))
  | 13 => .ok (.shl (fld w 12 6) (fld w 6 6) (fld w 0 6))
  | 14 => .ok (.shr (fld w 12 6) (fld w 6 6) (fld w 0 6))
  | 15 => .ok (.sar (fld w 12 6) (fld w 6 6) (fld w 0 6))
  | 16 => .ok (.rol (fld w 12 6) (fld w 6 6) (fld w 0 6))
  | 17 => .ok (.min (fld w 12 6) (fld w 6 6) (fld w 0 6))
  | 18 => .ok (.max (fld w 12 6) (fld w 6 6) (fld w 0 6))
  | 19 => .ok (.minn (fld w 12 6) (fld w 6 6) (fld w 0 6))
  | 20 => .ok (.maxn (fld w 12 6) (fld w 6 6) (fld w 0 6))
  | 21 => res (fld w 0 6 == 0) (.clz (fld w 12 6) (fld w 6 6))
  | 22 => res (fld w 0 6 == 0) (.ctz (fld w 12 6) (fld w 6 6))
  | 23 => res (fld w 0 6 == 0) (.popc (fld w 12 6) (fld w 6 6))
  | 24 => res (fld w 0 6 == 0) (.sextB (fld w 12 6) (fld w 6 6))
  | 25 => res (fld w 0 6 == 0) (.sextH (fld w 12 6) (fld w 6 6))
  | 26 => res (fld w 0 6 == 0) (.sextW (fld w 12 6) (fld w 6 6))
  | 27 => .ok (.bfx (fld w 12 6) (fld w 6 6) (fld w 0 6))
  | 28 => .ok (.bfi (fld w 12 6) (fld w 6 6) (fld w 0 6))
  | 29 => res (fld w 0 6 == 0) (.mov (fld w 12 6) (fld w 6 6))
  | 30 => .ok (.cmpEq (fld w 12 6) (fld w 6 6) (fld w 0 6))
  | 31 => .ok (.cmpNe (fld w 12 6) (fld w 6 6) (fld w 0 6))
  | 32 => .ok (.cmpLt (fld w 12 6) (fld w 6 6) (fld w 0 6))
  | 33 => .ok (.cmpLe (fld w 12 6) (fld w 6 6) (fld w 0 6))
  | 34 => .ok (.cmpLtn (fld w 12 6) (fld w 6 6) (fld w 0 6))
  | 35 => .ok (.cmpLen (fld w 12 6) (fld w 6 6) (fld w 0 6))
  | 36 => .ok (.sel (fld w 12 6) (fld w 6 6) (fld w 0 6))
  | _ => .error .reservedFn

/-- Major 0x02: the SI forms. -/
def decodeSi (w : Word) : Except DecodeError Instr :=
  match (fld w 22 4).toNat with
  | 0 => .ok (.addi (fld w 16 6) (fld w 10 6) (fld w 0 10))
  | 1 => .ok (.andi (fld w 16 6) (fld w 10 6) (fld w 0 10))
  | 2 => .ok (.ori (fld w 16 6) (fld w 10 6) (fld w 0 10))
  | 3 => .ok (.xori (fld w 16 6) (fld w 10 6) (fld w 0 10))
  | 4 => .ok (.shli (fld w 16 6) (fld w 10 6) (fld w 0 10))
  | 5 => .ok (.shri (fld w 16 6) (fld w 10 6) (fld w 0 10))
  | 6 => .ok (.sari (fld w 16 6) (fld w 10 6) (fld w 0 10))
  | 7 => .ok (.slti (fld w 16 6) (fld w 10 6) (fld w 0 10))
  | 8 => .ok (.sltni (fld w 16 6) (fld w 10 6) (fld w 0 10))
  | 9 => res (fld w 10 6 == 0) (.li (fld w 16 6) (fld w 0 10))
  | 10 => res (fld w 10 6 == 0) (.adr (fld w 16 6) (fld w 0 10))
  | _ => .error .reservedFn

/-- Major 0x03: the SM forms. -/
def decodeSm (w : Word) : Except DecodeError Instr :=
  match (fld w 22 4).toNat with
  | 0 => .ok (.sldB64 (fld w 18 4) (fld w 12 6) (fld w 6 6) (fld w 0 6))
  | 1 => .ok (.sldB32 (fld w 18 4) (fld w 12 6) (fld w 6 6) (fld w 0 6))
  | 2 => res (fld w 18 4 == 0) (.sstB64 (fld w 12 6) (fld w 6 6) (fld w 0 6))
  | 3 => res (fld w 18 4 == 0) (.sstB32 (fld w 12 6) (fld w 6 6) (fld w 0 6))
  | 4 => res (fld w 3 3 == 0) (.sldSt (fld w 18 4) (fld w 12 6) (fld w 6 6) (fld w 0 3))
  | 5 => res (fld w 18 4 == 0 && fld w 3 3 == 0) (.sstSt (fld w 12 6) (fld w 6 6) (fld w 0 3))
  | 6 => res (fld w 4 2 == 0) (.casm (fld w 18 4) (fld w 12 6) (fld w 6 6) (fld w 0 4))
  | 7 => res (fld w 18 4 == 0) (.claim (fld w 12 6) (fld w 6 6) (fld w 0 6))
  | _ => .error .reservedFn

/-- Major 0x04: the uniform branches (R61). -/
def decodeBr (w : Word) : Except DecodeError Instr :=
  match (fld w 20 2).toNat with
  | 0 => if fld w 22 4 = 0 then .ok (.br (fld w 0 20)) else .ok (.brAny (fld w 22 4) (fld w 0 20))
  | 1 => .ok (.brAll (fld w 22 4) (fld w 0 20))
  | 2 => .ok (.brNone (fld w 22 4) (fld w 0 20))
  | _ => .error .reservedValue

/-- Major 0x05: `brd`. -/
def decodeBrd (w : Word) : Except DecodeError Instr :=
  res (fld w 20 2 == 0) (.brd (fld w 22 4) (fld w 0 20))

/-- Major 0x06: `call`. -/
def decodeCall (w : Word) : Except DecodeError Instr :=
  res (fld w 20 6 == 0) (.call (fld w 0 20))

/-- Major 0x07: SYS. -/
def decodeSys (w : Word) : Except DecodeError Instr :=
  match (fld w 18 8).toNat with
  | 0 => .ok (.rsr (fld w 12 6) (fld w 0 12))
  | 1 => .ok (.wsr (fld w 6 12) (fld w 0 6))
  | 2 => res (fld w 6 12 == 0) (.trap (fld w 0 6))
  | 3 => res (fld w 0 18 == 0) .tret
  | 4 =>
    match (fld w 3 2).toNat with
    | 0 => res (fld w 5 13 == 0) (.fenceAcq (fld w 0 3))
    | 1 => res (fld w 5 13 == 0) (.fenceRel (fld w 0 3))
    | 2 => res (fld w 5 13 == 0) (.fenceFull (fld w 0 3))
    | _ => .error .reservedValue
  | 5 => res (fld w 10 2 == 0) (.wait (fld w 12 6) (fld w 6 4) (fld w 0 6))
  | 6 => res (fld w 10 2 == 0) (.waitr (fld w 12 6) (fld w 6 4) (fld w 0 6))
  | 7 => res (fld w 12 6 == 0 && fld w 0 6 == 0) (.nap (fld w 6 6))
  | 8 => res (fld w 0 12 == 0) (.refill (fld w 12 6))
  | 9 => res (fld w 0 18 == 0) .exitI
  | 10 =>
    match (fld w 3 1).toNat with
    | 0 => res (fld w 4 14 == 0) (.succ (fld w 0 3))
    | _ => res (fld w 4 14 == 0 && fld w 0 3 == 0) .succClr
  | 11 => res (fld w 0 18 == 0) .retire
  | 12 => res (fld w 0 18 == 0) .yield
  | 13 => res (fld w 0 6 == 0) (.jr (fld w 12 6) (fld w 6 6))
  | 14 => res (fld w 0 6 == 0) (.stkSave (fld w 12 6) (fld w 6 6))
  | 15 => res (fld w 12 6 == 0 && fld w 0 6 == 0) (.stkLoad (fld w 6 6))
  | 16 => res (fld w 10 2 == 0 && fld w 0 6 == 0) (.acget (fld w 12 6) (fld w 6 4))
  | 17 => res (fld w 10 8 == 0) (.acset (fld w 6 4) (fld w 0 6))
  | 18 => res (fld w 8 4 == 0 && fld w 0 6 == 0) (.qdrop (fld w 12 6) (fld w 6 2))
  | _ => .error .reservedFn

/-- Major 0x08: VI. -/
def decodeVi (w : Word) : Except DecodeError Instr :=
  match (fld w 21 5).toNat with
  | 0 => .ok (.vadd (fld w 14 7) (fld w 7 7) (fld w 0 7))
  | 1 => .ok (.vsub (fld w 14 7) (fld w 7 7) (fld w 0 7))
  | 2 => .ok (.vmul (fld w 14 7) (fld w 7 7) (fld w 0 7))
  | 3 => .ok (.vmulh (fld w 14 7) (fld w 7 7) (fld w 0 7))
  | 4 => .ok (.vmulhn (fld w 14 7) (fld w 7 7) (fld w 0 7))
  | 5 => .ok (.vmad (fld w 14 7) (fld w 7 7) (fld w 0 7))
  | 6 => .ok (.vmin (fld w 14 7) (fld w 7 7) (fld w 0 7))
  | 7 => .ok (.vmax (fld w 14 7) (fld w 7 7) (fld w 0 7))
  | 8 => .ok (.vminn (fld w 14 7) (fld w 7 7) (fld w 0 7))
  | 9 => .ok (.vmaxn (fld w 14 7) (fld w 7 7) (fld w 0 7))
  | 10 => res (fld w 0 7 == 0) (.vabs (fld w 14 7) (fld w 7 7))
  | 11 => .ok (.vand (fld w 14 7) (fld w 7 7) (fld w 0 7))
  | 12 => .ok (.vor (fld w 14 7) (fld w 7 7) (fld w 0 7))
  | 13 => .ok (.vxor (fld w 14 7) (fld w 7 7) (fld w 0 7))
  | 14 => .ok (.vandn (fld w 14 7) (fld w 7 7) (fld w 0 7))
  | 15 => .ok (.vshl (fld w 14 7) (fld w 7 7) (fld w 0 7))
  | 16 => .ok (.vshr (fld w 14 7) (fld w 7 7) (fld w 0 7))
  | 17 => .ok (.vsar (fld w 14 7) (fld w 7 7) (fld w 0 7))
  | 18 => .ok (.vrol (fld w 14 7) (fld w 7 7) (fld w 0 7))
  | 19 => res (fld w 0 7 == 0) (.vclz (fld w 14 7) (fld w 7 7))
  | 20 => res (fld w 0 7 == 0) (.vpopc (fld w 14 7) (fld w 7 7))
  | 21 => .ok (.vaddsat (fld w 14 7) (fld w 7 7) (fld w 0 7))
  | 22 => .ok (.vsubsat (fld w 14 7) (fld w 7 7) (fld w 0 7))
  | 23 => .ok (.vaddsatn (fld w 14 7) (fld w 7 7) (fld w 0 7))
  | 24 => .ok (.vsubsatn (fld w 14 7) (fld w 7 7) (fld w 0 7))
  | 25 => .ok (.vdot4 (fld w 14 7) (fld w 7 7) (fld w 0 7))
  | 26 => .ok (.vdot4n (fld w 14 7) (fld w 7 7) (fld w 0 7))
  | 27 => res (fld w 0 7 == 0) (.vmov (fld w 14 7) (fld w 7 7))
  | 28 => .ok (.vbfx (fld w 14 7) (fld w 7 7) (fld w 0 7))
  | 29 => .ok (.vbfi (fld w 14 7) (fld w 7 7) (fld w 0 7))
  | _ => .error .reservedFn

/-- Major 0x09: VIX. -/
def decodeVix (w : Word) : Except DecodeError Instr :=
  match (fld w 21 5).toNat with
  | 0 => .ok (.vaddX (fld w 14 7) (fld w 7 7) (fld w 6 1) (fld w 0 6))
  | 1 => .ok (.vsubX (fld w 14 7) (fld w 7 7) (fld w 6 1) (fld w 0 6))
  | 2 => .ok (.vmulX (fld w 14 7) (fld w 7 7) (fld w 6 1) (fld w 0 6))
  | 3 => .ok (.vmulhX (fld w 14 7) (fld w 7 7) (fld w 6 1) (fld w 0 6))
  | 4 => .ok (.vmulhnX (fld w 14 7) (fld w 7 7) (fld w 6 1) (fld w 0 6))
  | 5 => .ok (.vmadX (fld w 14 7) (fld w 7 7) (fld w 6 1) (fld w 0 6))
  | 6 => .ok (.vminX (fld w 14 7) (fld w 7 7) (fld w 6 1) (fld w 0 6))
  | 7 => .ok (.vmaxX (fld w 14 7) (fld w 7 7) (fld w 6 1) (fld w 0 6))
  | 8 => .ok (.vminnX (fld w 14 7) (fld w 7 7) (fld w 6 1) (fld w 0 6))
  | 9 => .ok (.vmaxnX (fld w 14 7) (fld w 7 7) (fld w 6 1) (fld w 0 6))
  | 11 => .ok (.vandX (fld w 14 7) (fld w 7 7) (fld w 6 1) (fld w 0 6))
  | 12 => .ok (.vorX (fld w 14 7) (fld w 7 7) (fld w 6 1) (fld w 0 6))
  | 13 => .ok (.vxorX (fld w 14 7) (fld w 7 7) (fld w 6 1) (fld w 0 6))
  | 14 => .ok (.vandnX (fld w 14 7) (fld w 7 7) (fld w 6 1) (fld w 0 6))
  | 15 => .ok (.vshlX (fld w 14 7) (fld w 7 7) (fld w 6 1) (fld w 0 6))
  | 16 => .ok (.vshrX (fld w 14 7) (fld w 7 7) (fld w 6 1) (fld w 0 6))
  | 17 => .ok (.vsarX (fld w 14 7) (fld w 7 7) (fld w 6 1) (fld w 0 6))
  | 18 => .ok (.vrolX (fld w 14 7) (fld w 7 7) (fld w 6 1) (fld w 0 6))
  | 21 => .ok (.vaddsatX (fld w 14 7) (fld w 7 7) (fld w 6 1) (fld w 0 6))
  | 22 => .ok (.vsubsatX (fld w 14 7) (fld w 7 7) (fld w 6 1) (fld w 0 6))
  | 23 => .ok (.vaddsatnX (fld w 14 7) (fld w 7 7) (fld w 6 1) (fld w 0 6))
  | 24 => .ok (.vsubsatnX (fld w 14 7) (fld w 7 7) (fld w 6 1) (fld w 0 6))
  | 25 => .ok (.vdot4X (fld w 14 7) (fld w 7 7) (fld w 6 1) (fld w 0 6))
  | 26 => .ok (.vdot4nX (fld w 14 7) (fld w 7 7) (fld w 6 1) (fld w 0 6))
  | 27 => res (fld w 7 7 == 0) (.vmovs (fld w 14 7) (fld w 6 1) (fld w 0 6))
  | 28 => .ok (.vbfxX (fld w 14 7) (fld w 7 7) (fld w 6 1) (fld w 0 6))
  | 29 => .ok (.vbfiX (fld w 14 7) (fld w 7 7) (fld w 6 1) (fld w 0 6))
  | _ => .error .reservedFn

/-- Major 0x0A: VF. -/
def decodeVf (w : Word) : Except DecodeError Instr :=
  match (fld w 21 5).toNat with
  | 0 => .ok (.vfadd (fld w 14 7) (fld w 7 7) (fld w 0 7))
  | 1 => .ok (.vfsub (fld w 14 7) (fld w 7 7) (fld w 0 7))
  | 2 => .ok (.vfmul (fld w 14 7) (fld w 7 7) (fld w 0 7))
  | 3 => .ok (.vffma (fld w 14 7) (fld w 7 7) (fld w 0 7))
  | 4 => .ok (.vffms (fld w 14 7) (fld w 7 7) (fld w 0 7))
  | 5 => .ok (.vfmin (fld w 14 7) (fld w 7 7) (fld w 0 7))
  | 6 => .ok (.vfmax (fld w 14 7) (fld w 7 7) (fld w 0 7))
  | 7 => res (fld w 0 7 == 0) (.vfabs (fld w 14 7) (fld w 7 7))
  | 8 => res (fld w 0 7 == 0) (.vfneg (fld w 14 7) (fld w 7 7))
  | 9 => res (fld w 0 7 == 0) (.vfrnd (fld w 14 7) (fld w 7 7))
  | 10 => res (fld w 0 7 == 0) (.vfclass (fld w 14 7) (fld w 7 7))
  | 11 => .ok (.vfscl (fld w 14 7) (fld w 7 7) (fld w 0 7))
  | 12 => .ok (.vfcpys (fld w 14 7) (fld w 7 7) (fld w 0 7))
  | _ => .error .reservedFn

/-- Major 0x0B: VFX. -/
def decodeVfx (w : Word) : Except DecodeError Instr :=
  match (fld w 21 5).toNat with
  | 0 => .ok (.vfaddX (fld w 14 7) (fld w 7 7) (fld w 6 1) (fld w 0 6))
  | 1 => .ok (.vfsubX (fld w 14 7) (fld w 7 7) (fld w 6 1) (fld w 0 6))
  | 2 => .ok (.vfmulX (fld w 14 7) (fld w 7 7) (fld w 6 1) (fld w 0 6))
  | 3 => .ok (.vffmaX (fld w 14 7) (fld w 7 7) (fld w 6 1) (fld w 0 6))
  | 4 => .ok (.vffmsX (fld w 14 7) (fld w 7 7) (fld w 6 1) (fld w 0 6))
  | 5 => .ok (.vfminX (fld w 14 7) (fld w 7 7) (fld w 6 1) (fld w 0 6))
  | 6 => .ok (.vfmaxX (fld w 14 7) (fld w 7 7) (fld w 6 1) (fld w 0 6))
  | 11 => .ok (.vfsclX (fld w 14 7) (fld w 7 7) (fld w 6 1) (fld w 0 6))
  | 12 => .ok (.vfcpysX (fld w 14 7) (fld w 7 7) (fld w 6 1) (fld w 0 6))
  | _ => .error .reservedFn

/-- Major 0x0C: VH. -/
def decodeVh (w : Word) : Except DecodeError Instr :=
  match (fld w 21 5).toNat with
  | 0 => .ok (.vhaddF16 (fld w 14 7) (fld w 7 7) (fld w 0 7))
  | 1 => .ok (.vhmulF16 (fld w 14 7) (fld w 7 7) (fld w 0 7))
  | 2 => .ok (.vhfmaF16 (fld w 14 7) (fld w 7 7) (fld w 0 7))
  | 3 => .ok (.vhaddBf16 (fld w 14 7) (fld w 7 7) (fld w 0 7))
  | 4 => .ok (.vhmulBf16 (fld w 14 7) (fld w 7 7) (fld w 0 7))
  | 5 => .ok (.vhfmaBf16 (fld w 14 7) (fld w 7 7) (fld w 0 7))
  | 6 => .ok (.vhminF16 (fld w 14 7) (fld w 7 7) (fld w 0 7))
  | 7 => .ok (.vhmaxF16 (fld w 14 7) (fld w 7 7) (fld w 0 7))
  | 8 => .ok (.vhminBf16 (fld w 14 7) (fld w 7 7) (fld w 0 7))
  | 9 => .ok (.vhmaxBf16 (fld w 14 7) (fld w 7 7) (fld w 0 7))
  | 10 => .ok (.vhdot2Bf16 (fld w 14 7) (fld w 7 7) (fld w 0 7))
  | _ => .error .reservedFn

/-- Major 0x0D: VC. -/
def decodeVc (w : Word) : Except DecodeError Instr :=
  .ok (.vcmp (fld w 22 4) (fld w 16 6) (fld w 9 7) (fld w 2 7) (fld w 0 2))

/-- Major 0x0E: VS. -/
def decodeVs (w : Word) : Except DecodeError Instr :=
  res (fld w 0 1 == 0) (.vsel (fld w 22 4) (fld w 15 7) (fld w 8 7) (fld w 1 7))

/-- Major 0x0F: VL1. -/
def decodeVl1 (w : Word) : Except DecodeError Instr :=
  match (fld w 22 4).toNat with
  | 0 => res (fld w 0 4 == 0) (.vrcp (fld w 18 4) (fld w 11 7) (fld w 4 7))
  | 1 => res (fld w 0 4 == 0) (.vrsq (fld w 18 4) (fld w 11 7) (fld w 4 7))
  | 2 => res (fld w 0 4 == 0) (.vsqrt (fld w 18 4) (fld w 11 7) (fld w 4 7))
  | 3 => res (fld w 0 4 == 0) (.vex2 (fld w 18 4) (fld w 11 7) (fld w 4 7))
  | 4 => res (fld w 0 4 == 0) (.vlg2 (fld w 18 4) (fld w 11 7) (fld w 4 7))
  | 5 => res (fld w 0 4 == 0) (.vsin (fld w 18 4) (fld w 11 7) (fld w 4 7))
  | 6 => res (fld w 0 4 == 0) (.vcos (fld w 18 4) (fld w 11 7) (fld w 4 7))
  | 7 => res (fld w 0 4 == 0) (.vtanh (fld w 18 4) (fld w 11 7) (fld w 4 7))
  | 8 => res (fld w 0 4 == 0) (.vdiv (fld w 18 4) (fld w 11 7) (fld w 4 7))
  | _ => .error .reservedFn

/-- Major 0x10: VL2. -/
def decodeVl2 (w : Word) : Except DecodeError Instr :=
  match (fld w 22 4).toNat with
  | 0 => res (fld w 3 1 == 0) (.vshfl (fld w 18 4) (fld w 11 7) (fld w 4 7) (fld w 0 3))
  | 1 => res (fld w 3 1 == 0) (.vshflx (fld w 18 4) (fld w 11 7) (fld w 4 7) (fld w 0 3))
  | 2 => res (fld w 3 1 == 0) (.vbcast (fld w 18 4) (fld w 11 7) (fld w 4 7) (fld w 0 3))
  | 3 => .ok (.vredAdd (fld w 18 4) (fld w 11 7) (fld w 4 7) (fld w 3 1) (fld w 0 3))
  | 4 => .ok (.vredMin (fld w 18 4) (fld w 11 7) (fld w 4 7) (fld w 3 1) (fld w 0 3))
  | 5 => .ok (.vredMax (fld w 18 4) (fld w 11 7) (fld w 4 7) (fld w 3 1) (fld w 0 3))
  | 6 => res (fld w 3 1 == 0) (.vredAnd (fld w 18 4) (fld w 11 7) (fld w 4 7) (fld w 0 3))
  | 7 => res (fld w 3 1 == 0) (.vredOr (fld w 18 4) (fld w 11 7) (fld w 4 7) (fld w 0 3))
  | 8 => res (fld w 3 1 == 0) (.vredXor (fld w 18 4) (fld w 11 7) (fld w 4 7) (fld w 0 3))
  | 9 => .ok (.vscanAdd (fld w 18 4) (fld w 11 7) (fld w 4 7) (fld w 3 1) (fld w 0 3))
  | 10 => .ok (.vscanAddf (fld w 18 4) (fld w 11 7) (fld w 4 7) (fld w 3 1) (fld w 0 3))
  | 11 => res (fld w 3 1 == 0) (.vballot (fld w 18 4) (fld w 11 7) (fld w 4 7) (fld w 0 3))
  | 12 => res (fld w 3 1 == 0) (.vtopk (fld w 18 4) (fld w 11 7) (fld w 4 7) (fld w 0 3))
  | 13 => res (fld w 3 1 == 0) (.vcompact (fld w 18 4) (fld w 11 7) (fld w 4 7) (fld w 0 3))
  | _ => .error .reservedFn

/-- Major 0x11: VCV. -/
def decodeVcv (w : Word) : Except DecodeError Instr :=
  match (fld w 22 4).toNat with
  | 0 => .ok (.vcvt (fld w 22 4) (fld w 18 4) (fld w 11 7) (fld w 4 7) (fld w 0 4))
  | 1 => .ok (.vcvt (fld w 22 4) (fld w 18 4) (fld w 11 7) (fld w 4 7) (fld w 0 4))
  | 2 => .ok (.vcvt (fld w 22 4) (fld w 18 4) (fld w 11 7) (fld w 4 7) (fld w 0 4))
  | 3 => .ok (.vcvt (fld w 22 4) (fld w 18 4) (fld w 11 7) (fld w 4 7) (fld w 0 4))
  | 4 => .ok (.vcvt (fld w 22 4) (fld w 18 4) (fld w 11 7) (fld w 4 7) (fld w 0 4))
  | 5 => .ok (.vcvt (fld w 22 4) (fld w 18 4) (fld w 11 7) (fld w 4 7) (fld w 0 4))
  | 6 => .ok (.vcvt (fld w 22 4) (fld w 18 4) (fld w 11 7) (fld w 4 7) (fld w 0 4))
  | 7 => .ok (.vcvt (fld w 22 4) (fld w 18 4) (fld w 11 7) (fld w 4 7) (fld w 0 4))
  | 8 => .ok (.vcvt (fld w 22 4) (fld w 18 4) (fld w 11 7) (fld w 4 7) (fld w 0 4))
  | 9 => res (fld w 2 2 == 0) (.vqnt (fld w 18 4) (fld w 11 7) (fld w 4 7) (fld w 0 2))
  | 10 => res (fld w 2 2 == 0) (.vscl (fld w 18 4) (fld w 11 7) (fld w 4 7) (fld w 0 2))
  | 11 => res (fld w 0 4 == 0) (.vi4xe (fld w 18 4) (fld w 11 7) (fld w 4 7))
  | 12 => res (fld w 0 4 == 0) (.vi4xd (fld w 18 4) (fld w 11 7) (fld w 4 7))
  | _ => .error .reservedFn

/-- Major 0x12: LDW. -/
def decodeLdw (w : Word) : Except DecodeError Instr :=
  .ok (.ld (fld w 23 3) (fld w 19 4) (fld w 12 7) (fld w 5 7) (fld w 0 5))

/-- Major 0x13: LDS. -/
def decodeLds (w : Word) : Except DecodeError Instr :=
  .ok (.ldB32St (fld w 23 3) (fld w 19 4) (fld w 12 7) (fld w 5 7) (fld w 0 5))

/-- Major 0x14: LDS64. -/
def decodeLds64 (w : Word) : Except DecodeError Instr :=
  .ok (.ldB64St (fld w 23 3) (fld w 19 4) (fld w 12 7) (fld w 5 7) (fld w 0 5))

/-- Major 0x15: LDSP. -/
def decodeLdsp (w : Word) : Except DecodeError Instr :=
  .ok (.ldp (fld w 22 4) (fld w 19 3) (fld w 12 7) (fld w 5 7) (fld w 0 5))

/-- Major 0x16: STW. -/
def decodeStw (w : Word) : Except DecodeError Instr :=
  .ok (.st (fld w 23 3) (fld w 19 4) (fld w 12 7) (fld w 5 7) (fld w 0 5))

/-- Major 0x17: STS. -/
def decodeSts (w : Word) : Except DecodeError Instr :=
  .ok (.stB32St (fld w 23 3) (fld w 19 4) (fld w 12 7) (fld w 5 7) (fld w 0 5))

/-- Major 0x18: GATH. -/
def decodeGath (w : Word) : Except DecodeError Instr :=
  res (fld w 12 5 == 0) (.gath (fld w 22 4) (fld w 20 2) (fld w 17 3) (fld w 5 7) (fld w 0 5))

/-- Major 0x1A: the core-scope atomics. -/
def decodeAtomCo (w : Word) : Except DecodeError Instr :=
  .ok (.atomCo (fld w 22 4) (fld w 18 4) (fld w 14 4) (fld w 7 7) (fld w 0 7))

/-- Major 0x1B: the cluster-scope atomics. -/
def decodeAtomCl (w : Word) : Except DecodeError Instr :=
  .ok (.atomCl (fld w 22 4) (fld w 18 4) (fld w 14 4) (fld w 7 7) (fld w 0 7))

/-- Major 0x1C: the column-scope atomics. -/
def decodeAtomCm (w : Word) : Except DecodeError Instr :=
  .ok (.atomCm (fld w 22 4) (fld w 18 4) (fld w 14 4) (fld w 7 7) (fld w 0 7))

/-- Major 0x1D: the device-scope atomics. -/
def decodeAtomLd (w : Word) : Except DecodeError Instr :=
  .ok (.atomLd (fld w 22 4) (fld w 18 4) (fld w 14 4) (fld w 7 7) (fld w 0 7))

/-- Major 0x1E: the package-scope atomics. -/
def decodeAtomPk (w : Word) : Except DecodeError Instr :=
  .ok (.atomPk (fld w 22 4) (fld w 18 4) (fld w 14 4) (fld w 7 7) (fld w 0 7))

/-- Major 0x1F: the system-scope atomics. -/
def decodeAtomSy (w : Word) : Except DecodeError Instr :=
  .ok (.atomSy (fld w 22 4) (fld w 18 4) (fld w 14 4) (fld w 7 7) (fld w 0 7))

/-- Major 0x20: BUF. -/
def decodeBuf (w : Word) : Except DecodeError Instr :=
  match (fld w 22 4).toNat with
  | 0 => res (fld w 17 1 == 0) (.bld (fld w 18 4) (fld w 16 1) (fld w 9 7) (fld w 2 7) (fld w 0 2))
  | 1 => res (fld w 17 1 == 0) (.bst (fld w 18 4) (fld w 16 1) (fld w 9 7) (fld w 2 7) (fld w 0 2))
  | 2 => res (fld w 17 1 == 0 && fld w 1 1 == 0) (.batomAdd (fld w 18 4) (fld w 16 1) (fld w 9 7) (fld w 2 7) (fld w 0 1))
  | 3 => res (fld w 17 1 == 0 && fld w 1 1 == 0) (.batomMin (fld w 18 4) (fld w 16 1) (fld w 9 7) (fld w 2 7) (fld w 0 1))
  | 4 => res (fld w 17 1 == 0 && fld w 1 1 == 0) (.batomMax (fld w 18 4) (fld w 16 1) (fld w 9 7) (fld w 2 7) (fld w 0 1))
  | 5 => res (fld w 17 1 == 0 && fld w 1 1 == 0) (.batomExch (fld w 18 4) (fld w 16 1) (fld w 9 7) (fld w 2 7) (fld w 0 1))
  | 6 => res (fld w 17 1 == 0 && fld w 1 1 == 0) (.batomCas (fld w 18 4) (fld w 16 1) (fld w 9 7) (fld w 2 7) (fld w 0 1))
  | _ => .error .reservedFn

/-- Major 0x21: BAR. -/
def decodeBar (w : Word) : Except DecodeError Instr :=
  match (fld w 22 4).toNat with
  | 0 => res (fld w 4 12 == 0) (.barInit (fld w 16 6) (fld w 0 4))
  | 1 => res (fld w 4 12 == 0) (.barArw (fld w 16 6) (fld w 0 4))
  | 2 => res (fld w 4 12 == 0) (.barArrive (fld w 16 6) (fld w 0 4))
  | 3 => res (fld w 4 12 == 0) (.barWait (fld w 16 6) (fld w 0 4))
  | 4 => res (fld w 4 18 == 0) (.barJoin (fld w 0 4))
  | 5 => res (fld w 4 18 == 0) (.barDrop (fld w 0 4))
  | _ => .error .reservedFn

/-- Major 0x22: MX. -/
def decodeMx (w : Word) : Except DecodeError Instr :=
  match (fld w 21 5).toNat with
  | 0 => res (fld w 16 4 == 0) (.mma (fld w 20 1) (fld w 12 4) (fld w 5 7) (fld w 0 5))
  | 1 => res (fld w 16 4 == 0) (.mmas (fld w 20 1) (fld w 12 4) (fld w 5 7) (fld w 0 5))
  | 2 => res (fld w 16 4 == 0) (.mdist (fld w 20 1) (fld w 12 4) (fld w 5 7) (fld w 0 5))
  | 3 => res (fld w 20 1 == 0 && fld w 0 5 == 0) (.mtopk (fld w 16 4) (fld w 12 4) (fld w 5 7))
  | 4 => res (fld w 0 21 == 0) .mrel
  | _ => .error .reservedFn

/-- Major 0x23: TL. -/
noncomputable def decodeTl (w : Word) : Except DecodeError Instr :=
  match (fld w 21 5).toNat with
  | 0 => res (fld w 10 7 == 0 && fld w 0 4 == 0) (.tcfg (fld w 17 4) (fld w 4 6))
  | 1 => res (fld w 0 17 == 0) (.tzero (fld w 17 4))
  | 2 => .ok (.trow (fld w 17 4) (fld w 10 7) (fld w 4 6) (fld w 0 4))
  | 3 => .ok (.tcol (fld w 17 4) (fld w 10 7) (fld w 4 6) (fld w 0 4))
  | 4 => res (fld w 0 4 == 0) (.tsetr (fld w 17 4) (fld w 10 7) (fld w 4 6))
  | 5 => res (fld w 0 4 == 0) (.tsetc (fld w 17 4) (fld w 10 7) (fld w 4 6))
  | 6 => res (fld w 0 4 == 0) (.tld (fld w 17 4) (fld w 10 7) (fld w 4 6))
  | 7 => res (fld w 0 4 == 0) (.tst (fld w 17 4) (fld w 10 7) (fld w 4 6))
  | 8 => res (fld w 10 7 == 0 && fld w 0 4 == 0) (.tsave (fld w 17 4) (fld w 4 6))
  | 9 => res (fld w 10 7 == 0 && fld w 0 4 == 0) (.tload (fld w 17 4) (fld w 4 6))
  | 10 => res (fld w 0 17 == 0) (.tdrop (fld w 17 4))
  | _ => .error .reservedFn

/-- Major 0x24: CPY. -/
noncomputable def decodeCpy (w : Word) : Except DecodeError Instr :=
  match (fld w 22 4).toNat with
  | 0 => .ok (.cpy (fld w 18 4) (fld w 12 6) (fld w 6 6) (fld w 0 6))
  | 1 => .ok (.cpy2d (fld w 18 4) (fld w 12 6) (fld w 6 6) (fld w 0 6))
  | 2 => .ok (.mlr (fld w 18 4) (fld w 12 6) (fld w 6 6) (fld w 0 6))
  | 3 => .ok (.mst (fld w 18 4) (fld w 12 6) (fld w 6 6) (fld w 0 6))
  | 4 => .ok (.cpyw (fld w 18 4) (fld w 12 6) (fld w 6 6) (fld w 0 6))
  | 5 => .ok (.cpya (fld w 18 4) (fld w 12 6) (fld w 6 6) (fld w 0 6))
  | 6 => .ok (.cpyo (fld w 18 4) (fld w 12 6) (fld w 6 6) (fld w 0 6))
  | _ => .error .reservedFn

/-- The instruction that the fields of a word name, by its major (R58), for the majors below TL, and the majors that Table 5
leaves unassigned. -/
def decodeLow (w : Word) : Except DecodeError Instr :=
  match (fld w 26 6).toNat with
  | 0x00 => decodeHint w
  | 0x01 => decodeSr w
  | 0x02 => decodeSi w
  | 0x03 => decodeSm w
  | 0x04 => decodeBr w
  | 0x05 => decodeBrd w
  | 0x06 => decodeCall w
  | 0x07 => decodeSys w
  | 0x08 => decodeVi w
  | 0x09 => decodeVix w
  | 0x0A => decodeVf w
  | 0x0B => decodeVfx w
  | 0x0C => decodeVh w
  | 0x0D => decodeVc w
  | 0x0E => decodeVs w
  | 0x0F => decodeVl1 w
  | 0x10 => decodeVl2 w
  | 0x11 => decodeVcv w
  | 0x12 => decodeLdw w
  | 0x13 => decodeLds w
  | 0x14 => decodeLds64 w
  | 0x15 => decodeLdsp w
  | 0x16 => decodeStw w
  | 0x17 => decodeSts w
  | 0x18 => decodeGath w
  | 0x1A => decodeAtomCo w
  | 0x1B => decodeAtomCl w
  | 0x1C => decodeAtomCm w
  | 0x1D => decodeAtomLd w
  | 0x1E => decodeAtomPk w
  | 0x1F => decodeAtomSy w
  | 0x20 => decodeBuf w
  | 0x21 => decodeBar w
  | 0x22 => decodeMx w
  | 0x3F => .error .reservedMajor
  | _ => .error .unassignedMajor

/-- The instruction that the fields of a word name. Lean's runtime builds no constructor numbered 244 or more, so this
function and those that use it are not compiled; the kernel evaluates them. -/
noncomputable def decodeFields (w : Word) : Except DecodeError Instr :=
  match (fld w 26 6).toNat with
  | 0x23 => decodeTl w
  | 0x24 => decodeCpy w
  | _ => decodeLow w

/-- The decoder: total on words, refusing by name. -/
noncomputable def decode (w : Word) : Except DecodeError Instr :=
  match decodeFields w with
  | .ok i => if i.wellFormed then .ok i else .error .reservedValue
  | .error e => .error e

/-- A field to be packed: its width and its value. -/
def bits {n : Nat} (x : BitVec n) : Nat × Nat := (n, x.toNat)

/-- A field packed below those packed before. -/
def below (x : Nat) (f : Nat × Nat) : Nat := x * 2 ^ f.1 + f.2

/-- The word whose fields are, from bit 31 down, those of a list. -/
def word (fs : List (Nat × Nat)) : Word := BitVec.ofNat 32 (fs.foldl below 0)

/-- The encoder: the word of an instruction (R33, R34, R58, R60); a step of the device that has no encoding has none. -/
def encode : Instr → Option Word
  | .hintImm p => some (word [bits 0x0#6, bits 0x0#4, bits p])
  | .hintImmh p => some (word [bits 0x0#6, bits 0x1#4, bits p])
  | .hintRc o => some (word [bits 0x0#6, bits 0x2#4, bits o])
  | .hintRep t n => some (word [bits 0x0#6, bits 0x3#4, bits 0x0#12, bits t, bits n])
  | .hintMod p => some (word [bits 0x0#6, bits 0x4#4, bits p])
  | .hintCp p s => some (word [bits 0x0#6, bits 0x5#4, bits 0x0#3, bits p, bits s])
  | .hintSch c => some (word [bits 0x0#6, bits 0x6#4, bits 0x0#19, bits c])
  | .hintKv k => some (word [bits 0x0#6, bits 0x7#4, bits 0x0#14, bits k])
  | .add d a b => some (word [bits 0x1#6, bits 0x0#8, bits d, bits a, bits b])
  | .sub d a b => some (word [bits 0x1#6, bits 0x1#8, bits d, bits a, bits b])
  | .mul d a b => some (word [bits 0x1#6, bits 0x2#8, bits d, bits a, bits b])
  | .mulh d a b => some (word [bits 0x1#6, bits 0x3#8, bits d, bits a, bits b])
  | .mulhn d a b => some (word [bits 0x1#6, bits 0x4#8, bits d, bits a, bits b])
  | .div d a b => some (word [bits 0x1#6, bits 0x5#8, bits d, bits a, bits b])
  | .divn d a b => some (word [bits 0x1#6, bits 0x6#8, bits d, bits a, bits b])
  | .rem d a b => some (word [bits 0x1#6, bits 0x7#8, bits d, bits a, bits b])
  | .remn d a b => some (word [bits 0x1#6, bits 0x8#8, bits d, bits a, bits b])
  | .and d a b => some (word [bits 0x1#6, bits 0x9#8, bits d, bits a, bits b])
  | .or d a b => some (word [bits 0x1#6, bits 0xA#8, bits d, bits a, bits b])
  | .xor d a b => some (word [bits 0x1#6, bits 0xB#8, bits d, bits a, bits b])
  | .andn d a b => some (word [bits 0x1#6, bits 0xC#8, bits d, bits a, bits b])
  | .shl d a b => some (word [bits 0x1#6, bits 0xD#8, bits d, bits a, bits b])
  | .shr d a b => some (word [bits 0x1#6, bits 0xE#8, bits d, bits a, bits b])
  | .sar d a b => some (word [bits 0x1#6, bits 0xF#8, bits d, bits a, bits b])
  | .rol d a b => some (word [bits 0x1#6, bits 0x10#8, bits d, bits a, bits b])
  | .min d a b => some (word [bits 0x1#6, bits 0x11#8, bits d, bits a, bits b])
  | .max d a b => some (word [bits 0x1#6, bits 0x12#8, bits d, bits a, bits b])
  | .minn d a b => some (word [bits 0x1#6, bits 0x13#8, bits d, bits a, bits b])
  | .maxn d a b => some (word [bits 0x1#6, bits 0x14#8, bits d, bits a, bits b])
  | .clz d a => some (word [bits 0x1#6, bits 0x15#8, bits d, bits a, bits 0x0#6])
  | .ctz d a => some (word [bits 0x1#6, bits 0x16#8, bits d, bits a, bits 0x0#6])
  | .popc d a => some (word [bits 0x1#6, bits 0x17#8, bits d, bits a, bits 0x0#6])
  | .sextB d a => some (word [bits 0x1#6, bits 0x18#8, bits d, bits a, bits 0x0#6])
  | .sextH d a => some (word [bits 0x1#6, bits 0x19#8, bits d, bits a, bits 0x0#6])
  | .sextW d a => some (word [bits 0x1#6, bits 0x1A#8, bits d, bits a, bits 0x0#6])
  | .bfx d a b => some (word [bits 0x1#6, bits 0x1B#8, bits d, bits a, bits b])
  | .bfi d a b => some (word [bits 0x1#6, bits 0x1C#8, bits d, bits a, bits b])
  | .mov d a => some (word [bits 0x1#6, bits 0x1D#8, bits d, bits a, bits 0x0#6])
  | .cmpEq d a b => some (word [bits 0x1#6, bits 0x1E#8, bits d, bits a, bits b])
  | .cmpNe d a b => some (word [bits 0x1#6, bits 0x1F#8, bits d, bits a, bits b])
  | .cmpLt d a b => some (word [bits 0x1#6, bits 0x20#8, bits d, bits a, bits b])
  | .cmpLe d a b => some (word [bits 0x1#6, bits 0x21#8, bits d, bits a, bits b])
  | .cmpLtn d a b => some (word [bits 0x1#6, bits 0x22#8, bits d, bits a, bits b])
  | .cmpLen d a b => some (word [bits 0x1#6, bits 0x23#8, bits d, bits a, bits b])
  | .sel d a b => some (word [bits 0x1#6, bits 0x24#8, bits d, bits a, bits b])
  | .addi d a i => some (word [bits 0x2#6, bits 0x0#4, bits d, bits a, bits i])
  | .andi d a i => some (word [bits 0x2#6, bits 0x1#4, bits d, bits a, bits i])
  | .ori d a i => some (word [bits 0x2#6, bits 0x2#4, bits d, bits a, bits i])
  | .xori d a i => some (word [bits 0x2#6, bits 0x3#4, bits d, bits a, bits i])
  | .shli d a i => some (word [bits 0x2#6, bits 0x4#4, bits d, bits a, bits i])
  | .shri d a i => some (word [bits 0x2#6, bits 0x5#4, bits d, bits a, bits i])
  | .sari d a i => some (word [bits 0x2#6, bits 0x6#4, bits d, bits a, bits i])
  | .slti d a i => some (word [bits 0x2#6, bits 0x7#4, bits d, bits a, bits i])
  | .sltni d a i => some (word [bits 0x2#6, bits 0x8#4, bits d, bits a, bits i])
  | .li d i => some (word [bits 0x2#6, bits 0x9#4, bits d, bits 0x0#6, bits i])
  | .adr d i => some (word [bits 0x2#6, bits 0xA#4, bits d, bits 0x0#6, bits i])
  | .sldB64 l d a i => some (word [bits 0x3#6, bits 0x0#4, bits l, bits d, bits a, bits i])
  | .sldB32 l d a i => some (word [bits 0x3#6, bits 0x1#4, bits l, bits d, bits a, bits i])
  | .sstB64 d a i => some (word [bits 0x3#6, bits 0x2#4, bits 0x0#4, bits d, bits a, bits i])
  | .sstB32 d a i => some (word [bits 0x3#6, bits 0x3#4, bits 0x0#4, bits d, bits a, bits i])
  | .sldSt l d a s => some (word [bits 0x3#6, bits 0x4#4, bits l, bits d, bits a, bits 0x0#3, bits s])
  | .sstSt d a s => some (word [bits 0x3#6, bits 0x5#4, bits 0x0#4, bits d, bits a, bits 0x0#3, bits s])
  | .casm l d a n => some (word [bits 0x3#6, bits 0x6#4, bits l, bits d, bits a, bits 0x0#2, bits n])
  | .claim d a b => some (word [bits 0x3#6, bits 0x7#4, bits 0x0#4, bits d, bits a, bits b])
  | .br o => some (word [bits 0x4#6, bits 0x0#6, bits o])
  | .brAny g o => some (word [bits 0x4#6, bits g, bits 0x0#2, bits o])
  | .brAll g o => some (word [bits 0x4#6, bits g, bits 0x1#2, bits o])
  | .brNone g o => some (word [bits 0x4#6, bits g, bits 0x2#2, bits o])
  | .brd g o => some (word [bits 0x5#6, bits g, bits 0x0#2, bits o])
  | .call o => some (word [bits 0x6#6, bits 0x0#6, bits o])
  | .rsr d n => some (word [bits 0x7#6, bits 0x0#8, bits d, bits n])
  | .wsr n b => some (word [bits 0x7#6, bits 0x1#8, bits n, bits b])
  | .trap n => some (word [bits 0x7#6, bits 0x2#8, bits 0x0#12, bits n])
  | .tret => some (word [bits 0x7#6, bits 0x3#8, bits 0x0#18])
  | .fenceAcq s => some (word [bits 0x7#6, bits 0x4#8, bits 0x0#15, bits s])
  | .fenceRel s => some (word [bits 0x7#6, bits 0x4#8, bits 0x1#15, bits s])
  | .fenceFull s => some (word [bits 0x7#6, bits 0x4#8, bits 0x2#15, bits s])
  | .wait d n t => some (word [bits 0x7#6, bits 0x5#8, bits d, bits 0x0#2, bits n, bits t])
  | .waitr d n b => some (word [bits 0x7#6, bits 0x6#8, bits d, bits 0x0#2, bits n, bits b])
  | .nap a => some (word [bits 0x7#6, bits 0x7#8, bits 0x0#6, bits a, bits 0x0#6])
  | .refill d => some (word [bits 0x7#6, bits 0x8#8, bits d, bits 0x0#12])
  | .exitI => some (word [bits 0x7#6, bits 0x9#8, bits 0x0#18])
  | .succ n => some (word [bits 0x7#6, bits 0xA#8, bits 0x0#15, bits n])
  | .succClr => some (word [bits 0x7#6, bits 0xA#8, bits 0x8#18])
  | .retire => some (word [bits 0x7#6, bits 0xB#8, bits 0x0#18])
  | .yield => some (word [bits 0x7#6, bits 0xC#8, bits 0x0#18])
  | .jr d a => some (word [bits 0x7#6, bits 0xD#8, bits d, bits a, bits 0x0#6])
  | .stkSave d a => some (word [bits 0x7#6, bits 0xE#8, bits d, bits a, bits 0x0#6])
  | .stkLoad a => some (word [bits 0x7#6, bits 0xF#8, bits 0x0#6, bits a, bits 0x0#6])
  | .acget d n => some (word [bits 0x7#6, bits 0x10#8, bits d, bits 0x0#2, bits n, bits 0x0#6])
  | .acset n b => some (word [bits 0x7#6, bits 0x11#8, bits 0x0#8, bits n, bits b])
  | .qdrop d q => some (word [bits 0x7#6, bits 0x12#8, bits d, bits 0x0#4, bits q, bits 0x0#6])
  | .vadd d a b => some (word [bits 0x8#6, bits 0x0#5, bits d, bits a, bits b])
  | .vsub d a b => some (word [bits 0x8#6, bits 0x1#5, bits d, bits a, bits b])
  | .vmul d a b => some (word [bits 0x8#6, bits 0x2#5, bits d, bits a, bits b])
  | .vmulh d a b => some (word [bits 0x8#6, bits 0x3#5, bits d, bits a, bits b])
  | .vmulhn d a b => some (word [bits 0x8#6, bits 0x4#5, bits d, bits a, bits b])
  | .vmad d a b => some (word [bits 0x8#6, bits 0x5#5, bits d, bits a, bits b])
  | .vmin d a b => some (word [bits 0x8#6, bits 0x6#5, bits d, bits a, bits b])
  | .vmax d a b => some (word [bits 0x8#6, bits 0x7#5, bits d, bits a, bits b])
  | .vminn d a b => some (word [bits 0x8#6, bits 0x8#5, bits d, bits a, bits b])
  | .vmaxn d a b => some (word [bits 0x8#6, bits 0x9#5, bits d, bits a, bits b])
  | .vabs d a => some (word [bits 0x8#6, bits 0xA#5, bits d, bits a, bits 0x0#7])
  | .vand d a b => some (word [bits 0x8#6, bits 0xB#5, bits d, bits a, bits b])
  | .vor d a b => some (word [bits 0x8#6, bits 0xC#5, bits d, bits a, bits b])
  | .vxor d a b => some (word [bits 0x8#6, bits 0xD#5, bits d, bits a, bits b])
  | .vandn d a b => some (word [bits 0x8#6, bits 0xE#5, bits d, bits a, bits b])
  | .vshl d a b => some (word [bits 0x8#6, bits 0xF#5, bits d, bits a, bits b])
  | .vshr d a b => some (word [bits 0x8#6, bits 0x10#5, bits d, bits a, bits b])
  | .vsar d a b => some (word [bits 0x8#6, bits 0x11#5, bits d, bits a, bits b])
  | .vrol d a b => some (word [bits 0x8#6, bits 0x12#5, bits d, bits a, bits b])
  | .vclz d a => some (word [bits 0x8#6, bits 0x13#5, bits d, bits a, bits 0x0#7])
  | .vpopc d a => some (word [bits 0x8#6, bits 0x14#5, bits d, bits a, bits 0x0#7])
  | .vaddsat d a b => some (word [bits 0x8#6, bits 0x15#5, bits d, bits a, bits b])
  | .vsubsat d a b => some (word [bits 0x8#6, bits 0x16#5, bits d, bits a, bits b])
  | .vaddsatn d a b => some (word [bits 0x8#6, bits 0x17#5, bits d, bits a, bits b])
  | .vsubsatn d a b => some (word [bits 0x8#6, bits 0x18#5, bits d, bits a, bits b])
  | .vdot4 d a b => some (word [bits 0x8#6, bits 0x19#5, bits d, bits a, bits b])
  | .vdot4n d a b => some (word [bits 0x8#6, bits 0x1A#5, bits d, bits a, bits b])
  | .vmov d a => some (word [bits 0x8#6, bits 0x1B#5, bits d, bits a, bits 0x0#7])
  | .vbfx d a b => some (word [bits 0x8#6, bits 0x1C#5, bits d, bits a, bits b])
  | .vbfi d a b => some (word [bits 0x8#6, bits 0x1D#5, bits d, bits a, bits b])
  | .vaddX d a x b => some (word [bits 0x9#6, bits 0x0#5, bits d, bits a, bits x, bits b])
  | .vsubX d a x b => some (word [bits 0x9#6, bits 0x1#5, bits d, bits a, bits x, bits b])
  | .vmulX d a x b => some (word [bits 0x9#6, bits 0x2#5, bits d, bits a, bits x, bits b])
  | .vmulhX d a x b => some (word [bits 0x9#6, bits 0x3#5, bits d, bits a, bits x, bits b])
  | .vmulhnX d a x b => some (word [bits 0x9#6, bits 0x4#5, bits d, bits a, bits x, bits b])
  | .vmadX d a x b => some (word [bits 0x9#6, bits 0x5#5, bits d, bits a, bits x, bits b])
  | .vminX d a x b => some (word [bits 0x9#6, bits 0x6#5, bits d, bits a, bits x, bits b])
  | .vmaxX d a x b => some (word [bits 0x9#6, bits 0x7#5, bits d, bits a, bits x, bits b])
  | .vminnX d a x b => some (word [bits 0x9#6, bits 0x8#5, bits d, bits a, bits x, bits b])
  | .vmaxnX d a x b => some (word [bits 0x9#6, bits 0x9#5, bits d, bits a, bits x, bits b])
  | .vandX d a x b => some (word [bits 0x9#6, bits 0xB#5, bits d, bits a, bits x, bits b])
  | .vorX d a x b => some (word [bits 0x9#6, bits 0xC#5, bits d, bits a, bits x, bits b])
  | .vxorX d a x b => some (word [bits 0x9#6, bits 0xD#5, bits d, bits a, bits x, bits b])
  | .vandnX d a x b => some (word [bits 0x9#6, bits 0xE#5, bits d, bits a, bits x, bits b])
  | .vshlX d a x b => some (word [bits 0x9#6, bits 0xF#5, bits d, bits a, bits x, bits b])
  | .vshrX d a x b => some (word [bits 0x9#6, bits 0x10#5, bits d, bits a, bits x, bits b])
  | .vsarX d a x b => some (word [bits 0x9#6, bits 0x11#5, bits d, bits a, bits x, bits b])
  | .vrolX d a x b => some (word [bits 0x9#6, bits 0x12#5, bits d, bits a, bits x, bits b])
  | .vaddsatX d a x b => some (word [bits 0x9#6, bits 0x15#5, bits d, bits a, bits x, bits b])
  | .vsubsatX d a x b => some (word [bits 0x9#6, bits 0x16#5, bits d, bits a, bits x, bits b])
  | .vaddsatnX d a x b => some (word [bits 0x9#6, bits 0x17#5, bits d, bits a, bits x, bits b])
  | .vsubsatnX d a x b => some (word [bits 0x9#6, bits 0x18#5, bits d, bits a, bits x, bits b])
  | .vdot4X d a x b => some (word [bits 0x9#6, bits 0x19#5, bits d, bits a, bits x, bits b])
  | .vdot4nX d a x b => some (word [bits 0x9#6, bits 0x1A#5, bits d, bits a, bits x, bits b])
  | .vmovs d x b => some (word [bits 0x9#6, bits 0x1B#5, bits d, bits 0x0#7, bits x, bits b])
  | .vbfxX d a x b => some (word [bits 0x9#6, bits 0x1C#5, bits d, bits a, bits x, bits b])
  | .vbfiX d a x b => some (word [bits 0x9#6, bits 0x1D#5, bits d, bits a, bits x, bits b])
  | .vfadd d a b => some (word [bits 0xA#6, bits 0x0#5, bits d, bits a, bits b])
  | .vfsub d a b => some (word [bits 0xA#6, bits 0x1#5, bits d, bits a, bits b])
  | .vfmul d a b => some (word [bits 0xA#6, bits 0x2#5, bits d, bits a, bits b])
  | .vffma d a b => some (word [bits 0xA#6, bits 0x3#5, bits d, bits a, bits b])
  | .vffms d a b => some (word [bits 0xA#6, bits 0x4#5, bits d, bits a, bits b])
  | .vfmin d a b => some (word [bits 0xA#6, bits 0x5#5, bits d, bits a, bits b])
  | .vfmax d a b => some (word [bits 0xA#6, bits 0x6#5, bits d, bits a, bits b])
  | .vfabs d a => some (word [bits 0xA#6, bits 0x7#5, bits d, bits a, bits 0x0#7])
  | .vfneg d a => some (word [bits 0xA#6, bits 0x8#5, bits d, bits a, bits 0x0#7])
  | .vfrnd d a => some (word [bits 0xA#6, bits 0x9#5, bits d, bits a, bits 0x0#7])
  | .vfclass d a => some (word [bits 0xA#6, bits 0xA#5, bits d, bits a, bits 0x0#7])
  | .vfscl d a b => some (word [bits 0xA#6, bits 0xB#5, bits d, bits a, bits b])
  | .vfcpys d a b => some (word [bits 0xA#6, bits 0xC#5, bits d, bits a, bits b])
  | .vfaddX d a x b => some (word [bits 0xB#6, bits 0x0#5, bits d, bits a, bits x, bits b])
  | .vfsubX d a x b => some (word [bits 0xB#6, bits 0x1#5, bits d, bits a, bits x, bits b])
  | .vfmulX d a x b => some (word [bits 0xB#6, bits 0x2#5, bits d, bits a, bits x, bits b])
  | .vffmaX d a x b => some (word [bits 0xB#6, bits 0x3#5, bits d, bits a, bits x, bits b])
  | .vffmsX d a x b => some (word [bits 0xB#6, bits 0x4#5, bits d, bits a, bits x, bits b])
  | .vfminX d a x b => some (word [bits 0xB#6, bits 0x5#5, bits d, bits a, bits x, bits b])
  | .vfmaxX d a x b => some (word [bits 0xB#6, bits 0x6#5, bits d, bits a, bits x, bits b])
  | .vfsclX d a x b => some (word [bits 0xB#6, bits 0xB#5, bits d, bits a, bits x, bits b])
  | .vfcpysX d a x b => some (word [bits 0xB#6, bits 0xC#5, bits d, bits a, bits x, bits b])
  | .vhaddF16 d a b => some (word [bits 0xC#6, bits 0x0#5, bits d, bits a, bits b])
  | .vhmulF16 d a b => some (word [bits 0xC#6, bits 0x1#5, bits d, bits a, bits b])
  | .vhfmaF16 d a b => some (word [bits 0xC#6, bits 0x2#5, bits d, bits a, bits b])
  | .vhaddBf16 d a b => some (word [bits 0xC#6, bits 0x3#5, bits d, bits a, bits b])
  | .vhmulBf16 d a b => some (word [bits 0xC#6, bits 0x4#5, bits d, bits a, bits b])
  | .vhfmaBf16 d a b => some (word [bits 0xC#6, bits 0x5#5, bits d, bits a, bits b])
  | .vhminF16 d a b => some (word [bits 0xC#6, bits 0x6#5, bits d, bits a, bits b])
  | .vhmaxF16 d a b => some (word [bits 0xC#6, bits 0x7#5, bits d, bits a, bits b])
  | .vhminBf16 d a b => some (word [bits 0xC#6, bits 0x8#5, bits d, bits a, bits b])
  | .vhmaxBf16 d a b => some (word [bits 0xC#6, bits 0x9#5, bits d, bits a, bits b])
  | .vhdot2Bf16 d a b => some (word [bits 0xC#6, bits 0xA#5, bits d, bits a, bits b])
  | .vcmp c d a b t => some (word [bits 0xD#6, bits c, bits d, bits a, bits b, bits t])
  | .vsel g d a b => some (word [bits 0xE#6, bits g, bits d, bits a, bits b, bits 0x0#1])
  | .vrcp l d a => some (word [bits 0xF#6, bits 0x0#4, bits l, bits d, bits a, bits 0x0#4])
  | .vrsq l d a => some (word [bits 0xF#6, bits 0x1#4, bits l, bits d, bits a, bits 0x0#4])
  | .vsqrt l d a => some (word [bits 0xF#6, bits 0x2#4, bits l, bits d, bits a, bits 0x0#4])
  | .vex2 l d a => some (word [bits 0xF#6, bits 0x3#4, bits l, bits d, bits a, bits 0x0#4])
  | .vlg2 l d a => some (word [bits 0xF#6, bits 0x4#4, bits l, bits d, bits a, bits 0x0#4])
  | .vsin l d a => some (word [bits 0xF#6, bits 0x5#4, bits l, bits d, bits a, bits 0x0#4])
  | .vcos l d a => some (word [bits 0xF#6, bits 0x6#4, bits l, bits d, bits a, bits 0x0#4])
  | .vtanh l d a => some (word [bits 0xF#6, bits 0x7#4, bits l, bits d, bits a, bits 0x0#4])
  | .vdiv l d a => some (word [bits 0xF#6, bits 0x8#4, bits l, bits d, bits a, bits 0x0#4])
  | .vshfl l d a m => some (word [bits 0x10#6, bits 0x0#4, bits l, bits d, bits a, bits 0x0#1, bits m])
  | .vshflx l d a m => some (word [bits 0x10#6, bits 0x1#4, bits l, bits d, bits a, bits 0x0#1, bits m])
  | .vbcast l d a m => some (word [bits 0x10#6, bits 0x2#4, bits l, bits d, bits a, bits 0x0#1, bits m])
  | .vredAdd l d a v m => some (word [bits 0x10#6, bits 0x3#4, bits l, bits d, bits a, bits v, bits m])
  | .vredMin l d a v m => some (word [bits 0x10#6, bits 0x4#4, bits l, bits d, bits a, bits v, bits m])
  | .vredMax l d a v m => some (word [bits 0x10#6, bits 0x5#4, bits l, bits d, bits a, bits v, bits m])
  | .vredAnd l d a m => some (word [bits 0x10#6, bits 0x6#4, bits l, bits d, bits a, bits 0x0#1, bits m])
  | .vredOr l d a m => some (word [bits 0x10#6, bits 0x7#4, bits l, bits d, bits a, bits 0x0#1, bits m])
  | .vredXor l d a m => some (word [bits 0x10#6, bits 0x8#4, bits l, bits d, bits a, bits 0x0#1, bits m])
  | .vscanAdd l d a v m => some (word [bits 0x10#6, bits 0x9#4, bits l, bits d, bits a, bits v, bits m])
  | .vscanAddf l d a v m => some (word [bits 0x10#6, bits 0xA#4, bits l, bits d, bits a, bits v, bits m])
  | .vballot l d a m => some (word [bits 0x10#6, bits 0xB#4, bits l, bits d, bits a, bits 0x0#1, bits m])
  | .vtopk l d a m => some (word [bits 0x10#6, bits 0xC#4, bits l, bits d, bits a, bits 0x0#1, bits m])
  | .vcompact l d a m => some (word [bits 0x10#6, bits 0xD#4, bits l, bits d, bits a, bits 0x0#1, bits m])
  | .vcvt t l d a s => some (word [bits 0x11#6, bits t, bits l, bits d, bits a, bits s])
  | .vqnt l d a b => some (word [bits 0x11#6, bits 0x9#4, bits l, bits d, bits a, bits 0x0#2, bits b])
  | .vscl l d a b => some (word [bits 0x11#6, bits 0xA#4, bits l, bits d, bits a, bits 0x0#2, bits b])
  | .vi4xe l d a => some (word [bits 0x11#6, bits 0xB#4, bits l, bits d, bits a, bits 0x0#4])
  | .vi4xd l d a => some (word [bits 0x11#6, bits 0xC#4, bits l, bits d, bits a, bits 0x0#4])
  | .ld w l d a b => some (word [bits 0x12#6, bits w, bits l, bits d, bits a, bits b])
  | .ldB32St s l d a b => some (word [bits 0x13#6, bits s, bits l, bits d, bits a, bits b])
  | .ldB64St s l d a b => some (word [bits 0x14#6, bits s, bits l, bits d, bits a, bits b])
  | .ldp c w d a b => some (word [bits 0x15#6, bits c, bits w, bits d, bits a, bits b])
  | .st w g v a b => some (word [bits 0x16#6, bits w, bits g, bits v, bits a, bits b])
  | .stB32St s g v a b => some (word [bits 0x17#6, bits s, bits g, bits v, bits a, bits b])
  | .gath c q w a b => some (word [bits 0x18#6, bits c, bits q, bits w, bits 0x0#5, bits a, bits b])
  | .atomCo g l f d a => some (word [bits 0x1A#6, bits g, bits l, bits f, bits d, bits a])
  | .atomCl g l f d a => some (word [bits 0x1B#6, bits g, bits l, bits f, bits d, bits a])
  | .atomCm g l f d a => some (word [bits 0x1C#6, bits g, bits l, bits f, bits d, bits a])
  | .atomLd g l f d a => some (word [bits 0x1D#6, bits g, bits l, bits f, bits d, bits a])
  | .atomPk g l f d a => some (word [bits 0x1E#6, bits g, bits l, bits f, bits d, bits a])
  | .atomSy g l f d a => some (word [bits 0x1F#6, bits g, bits l, bits f, bits d, bits a])
  | .bld l u d a w => some (word [bits 0x20#6, bits 0x0#4, bits l, bits 0x0#1, bits u, bits d, bits a, bits w])
  | .bst g u v a w => some (word [bits 0x20#6, bits 0x1#4, bits g, bits 0x0#1, bits u, bits v, bits a, bits w])
  | .batomAdd l u d a w => some (word [bits 0x20#6, bits 0x2#4, bits l, bits 0x0#1, bits u, bits d, bits a, bits 0x0#1, bits w])
  | .batomMin l u d a w => some (word [bits 0x20#6, bits 0x3#4, bits l, bits 0x0#1, bits u, bits d, bits a, bits 0x0#1, bits w])
  | .batomMax l u d a w => some (word [bits 0x20#6, bits 0x4#4, bits l, bits 0x0#1, bits u, bits d, bits a, bits 0x0#1, bits w])
  | .batomExch l u d a w => some (word [bits 0x20#6, bits 0x5#4, bits l, bits 0x0#1, bits u, bits d, bits a, bits 0x0#1, bits w])
  | .batomCas l u d a w => some (word [bits 0x20#6, bits 0x6#4, bits l, bits 0x0#1, bits u, bits d, bits a, bits 0x0#1, bits w])
  | .barInit a b => some (word [bits 0x21#6, bits 0x0#4, bits a, bits 0x0#12, bits b])
  | .barArw a b => some (word [bits 0x21#6, bits 0x1#4, bits a, bits 0x0#12, bits b])
  | .barArrive a b => some (word [bits 0x21#6, bits 0x2#4, bits a, bits 0x0#12, bits b])
  | .barWait a b => some (word [bits 0x21#6, bits 0x3#4, bits a, bits 0x0#12, bits b])
  | .barJoin b => some (word [bits 0x21#6, bits 0x4#4, bits 0x0#18, bits b])
  | .barDrop b => some (word [bits 0x21#6, bits 0x5#4, bits 0x0#18, bits b])
  | .mma r c a b => some (word [bits 0x22#6, bits 0x0#5, bits r, bits 0x0#4, bits c, bits a, bits b])
  | .mmas r c a b => some (word [bits 0x22#6, bits 0x1#5, bits r, bits 0x0#4, bits c, bits a, bits b])
  | .mdist r c a b => some (word [bits 0x22#6, bits 0x2#5, bits r, bits 0x0#4, bits c, bits a, bits b])
  | .mtopk l c d => some (word [bits 0x22#6, bits 0x3#5, bits 0x0#1, bits l, bits c, bits d, bits 0x0#5])
  | .mrel => some (word [bits 0x22#6, bits 0x4#5, bits 0x0#21])
  | .tcfg c s => some (word [bits 0x23#6, bits 0x0#5, bits c, bits 0x0#7, bits s, bits 0x0#4])
  | .tzero c => some (word [bits 0x23#6, bits 0x1#5, bits c, bits 0x0#17])
  | .trow c v s l => some (word [bits 0x23#6, bits 0x2#5, bits c, bits v, bits s, bits l])
  | .tcol c v s l => some (word [bits 0x23#6, bits 0x3#5, bits c, bits v, bits s, bits l])
  | .tsetr c v s => some (word [bits 0x23#6, bits 0x4#5, bits c, bits v, bits s, bits 0x0#4])
  | .tsetc c v s => some (word [bits 0x23#6, bits 0x5#5, bits c, bits v, bits s, bits 0x0#4])
  | .tld c v s => some (word [bits 0x23#6, bits 0x6#5, bits c, bits v, bits s, bits 0x0#4])
  | .tst c v s => some (word [bits 0x23#6, bits 0x7#5, bits c, bits v, bits s, bits 0x0#4])
  | .tsave c s => some (word [bits 0x23#6, bits 0x8#5, bits c, bits 0x0#7, bits s, bits 0x0#4])
  | .tload c s => some (word [bits 0x23#6, bits 0x9#5, bits c, bits 0x0#7, bits s, bits 0x0#4])
  | .tdrop c => some (word [bits 0x23#6, bits 0xA#5, bits c, bits 0x0#17])
  | .cpy n d a b => some (word [bits 0x24#6, bits 0x0#4, bits n, bits d, bits a, bits b])
  | .cpy2d n d a b => some (word [bits 0x24#6, bits 0x1#4, bits n, bits d, bits a, bits b])
  | .mlr n d a b => some (word [bits 0x24#6, bits 0x2#4, bits n, bits d, bits a, bits b])
  | .mst n d a b => some (word [bits 0x24#6, bits 0x3#4, bits n, bits d, bits a, bits b])
  | .cpyw n d a b => some (word [bits 0x24#6, bits 0x4#4, bits n, bits d, bits a, bits b])
  | .cpya n d a b => some (word [bits 0x24#6, bits 0x5#4, bits n, bits d, bits a, bits b])
  | .cpyo n d a b => some (word [bits 0x24#6, bits 0x6#4, bits n, bits d, bits a, bits b])
  | .itemTake _ => none
  | .startTake => none
  | .warpRetirement => none
  | .successorStart => none
  | .popAtArrival => none
  | .fairSwap => none
  | .napExpiry _ => none
  | .allowanceCycle _ => none
  | .ldpReply _ _ => none
  | .gatherCompletion _ => none
  | .entryCreation _ => none
  | .arbiterGrant _ => none
  | .passCompletion _ => none
  | .copyCompletion _ => none
  | .mlrCompletion _ => none
  | .asyncReportTrap => none
  | .launchRecord _ => none
  | .kernelObjectRead _ _ => none
  | .gangPlacement _ => none
  | .timeSliceExpiry _ _ => none
  | .preemption _ => none
  | .workgroupSave _ => none
  | .gangRestore _ => none
  | .earlyEnd _ _ _ => none
  | .queueCancel _ _ => none
  | .queueSuspend _ _ => none
  | .storeAtHome _ _ => none
  | .ticketedRequest _ _ => none
  | .columnScopeStore _ _ _ _ => none
  | .readAtHome _ _ _ => none
  | .hartOwnershipRequest _ _ => none
  | .directoryEviction _ => none
  | .parityAlert _ _ _ => none
  | .pageWalk _ _ _ _ => none
  | .faultPost _ => none
  | .consStore _ _ _ => none
  | .resumeRetry _ _ _ _ => none
  | .resumeAbort _ _ _ _ => none
  | .vxinvalStall _ _ => none
  | .vxinvalPage _ _ _ => none
  | .vxinvalGpage _ _ _ => none
  | .vxinvalAll _ => none
  | .vxpooltopWrite _ _ _ => none
  | .peerRequest _ _ _ _ => none
  | .inboundPortRequest _ _ _ => none
  | .flitCrcMismatch _ _ _ => none
  | .laneTest _ _ _ _ _ => none
  | .enterTraining _ => none
  | .trainingComplete _ => none
  | .trainingTimeout _ => none
  | .portEnable _ => none
  | .portDisable _ => none
  | .fenceCompletion => none
  | .governorEvaluation _ _ _ _ => none
  | .thermalTrip => none
  | .quiescePoint _ => none
  | .vxgovWrite _ _ _ => none
  | .clusterGating _ => none
  | .wakeEnd _ => none
  | .timingErrorReplay _ => none
  | .stallEnd _ _ _ => none
  | .vxerrPop _ => none
  | .computeDieFailure _ _ => none
  | .baseDieFailure _ => none
  | .coresLost _ _ => none
  | .baseDiePartLost _ _ => none
  | .firstLight _ => none
  | .attestationRequest _ => none
  | .rgnctlWrite _ _ _ => none
  | .csrWrite _ _ _ _ => none
  | .tick => none

/-- Whether a constructor is an instruction or hint word; the others are the device's own steps. -/
def Instr.isWord (i : Instr) : Bool := (encode i).isSome

/-- The bytes of a word as memory holds it: little-endian (R33). -/
def wordBytes (w : Word) : List Byte := [w.extractLsb' 0 8, w.extractLsb' 8 8, w.extractLsb' 16 8, w.extractLsb' 24 8]

/-- The word whose bytes stand in memory at four ascending addresses (R33). -/
def wordOf (b0 b1 b2 b3 : Byte) : Word := b3 ++ b2 ++ b1 ++ b0

/-- The instruction that the decoder reads from the bits that the opcode table gives a row. -/
noncomputable def decodeTableWord (_nbits w : Nat) : Option Instr :=
  match wordBytes (BitVec.ofNat 32 w) with
  | [b0, b1, b2, b3] => match decode (wordOf b0 b1 b2 b3) with
    | .ok i => some i
    | .error _ => none
  | _ => none

end Sys2Proof
end

