-- ==== Sys2Proof/Machine/Home.lean ====
section
/-! DEFINITION. What happens at a home slice and behind it (R319 to R338): stores and reads performed there, the caches of column
harts, tickets, the directory, and the command parity of the memory. -/

namespace Sys2Proof.Machine

/-- The home LD of a line of memory that can be reached and is online; none elsewhere. -/
def State.homeOf (s : State) (pa : Nat) : Option Nat :=
  match paKind s.vxpkg.toNat pa with
  | .mem ld => if s.online pa ∧ ¬ (s.ldOf ld).baseReset then some ld else none
  | _ => none

/-- A location as its home sees it. -/
def homeLoc (ld pa : Nat) : Loc := ⟨pa, false, ld, 0⟩

/-- What a strong store does besides storing, once its home has applied it: 8 bytes can be a resume command (R357), and 64 bytes
that are a launch line launch (R388). -/
def State.storeEffects (writer a : Nat) (data : List Byte) (s : State) : State :=
  let s1 := if data.length = 8 ∧ a % 8 = 0 then s.strong8 a (ofBytes data) else s
  match launchLine a with
  | some (ld, col) => if data.length = 64 ∧ a % 64 = 0 then s1.handOn ld col writer data else s1
  | none => s1

/-! Events that wait. -/

/-- The event of this step cannot be performed yet: it comes again in the next cycle. DEDUCED, assumption 75. -/
def State.comeAgain (s : State) : State := { s with again := true }

/-- The access of an event waits for a link, a port or its slice (R330, R377, R381); one that its slice refuses draws its ticket. -/
def State.holdEvent (ag : Agent) (line : Nat) (e : Lost) (s : State) : State :=
  (match e with | .ticket => s.refused ag line | _ => s).comeAgain

/-- A hart that runs does f, once the acknowledgement that it waits for has come (R338, R351). -/
def State.asHart (h : HartId) (f : State → State) (s : State) : State :=
  if ¬ s.hartUp h then s else if s.acked (.hart h) then f s else s.comeAgain

/-! Stores and reads of column harts (R271, R328, R335). -/

/-- A store of a hart was not performed: a poisoned line takes an exception (R335), an unreachable one counts (R377), and one that
waits comes again. -/
def State.hartLost (h : HartId) (l : Loc) (e : Lost) (s : State) : State :=
  match e with
  | .poison => (s.consumePoison l).hartExc h .storeAccessFault
  | e => if e.waits.isSome then s.holdEvent (Agent.hart h) (l.pa / 64) e else s.countDrop h.ld.toNat e

/-- A hart's store performed at its home (R325, R328, R335): 8 bytes can be a resume command (R357). It launches nothing (R388). -/
def State.hartStore (h : HartId) (a : Nat) (data : List Byte) (s : State) : State :=
  let l := s.hartLoc h a
  if ¬ s.locOk a data.length true then s.hartExc h .storeAccessFault
  else
    match s.writeLoc (Agent.hart h) l data (data.length = 64) with
    | (s1, .ok _) =>
      if data.length = 8 ∧ a % 8 = 0 ∧ s.applied (Agent.hart h) l data then s1.strong8 a (ofBytes data) else s1
    | (s1, .error e) => s1.hartLost h l e

/-- `STORE_AT_HOME` (R325), of a column hart; its program, and whether its PMP allows the access, are input (R19). A refused one takes
an access fault. -/
def execStoreAtHome (x : HartAt) (data : List (BitVec 8)) (s : State) : Host.Outcome State Fault Refusal :=
  .next (s.asHart x.hart fun s =>
    if data = [] ∨ 64 < x.pa.toNat % 64 + data.length then s
    else if ¬ x.allow then s.hartExc x.hart .storeAccessFault
    else s.hartStore x.hart x.pa.toNat data)

/-- The line of an address in a hart's caches. -/
def State.hartLine (s : State) (h : HartId) (a : Nat) : Option HartLine := s.hartLines.find? fun x => x.hart = h ∧ x.line = a / 64

/-- Bytes as a hart finds them: its own dirty bytes over the home copy. -/
def State.hartBytes (s : State) (h : HartId) (a n : Nat) : List Byte :=
  let dirty := ((s.hartLine h a).map HartLine.dirty).getD []
  (List.range n).map fun i => (dirty.find? fun d => d.1 = a + i).elim (s.mem.get memDefault (a + i)) Prod.snd

/-- Lines that a hart's L1D and L2 hold (R26): 64 KiB and 1 MiB. DESIGN CHOICE (assumption 62): the L2 holds none of the lines of the
L1D, and both are one set of lines. -/
def hartPlaces : Nat := 17408

/-- A hart writes back the dirty bytes of a line and keeps it clean (R328, R329): it launches nothing (R388), and bytes whose home
cannot be reached are dropped (R377). -/
def State.writeBack (h : HartId) (line : Nat) (s : State) : State :=
  match s.hartLines.find? fun x => x.hart = h ∧ x.line = line ∧ x.dirty ≠ [] with
  | none => s
  | some x =>
    let e := line * 64 / 2 ^ 38
    if s.unreachable h.ld.toNat e then
      ({ s with hartLines := s.hartLines.map fun y => if y = x then { y with dirty := [] } else y }).countDrop h.ld.toNat
        (.unreach (s.edgeLost h.ld.toNat e))
    else s.recall (64 * line)

/-- A hart's caches no longer hold a line. -/
def State.dropHartLine (h : HartId) (line : Nat) (s : State) : State :=
  { s with hartLines := s.hartLines.filter fun x => ¬ (x.hart = h ∧ x.line = line) }

/-- A hart's caches have a place for one more line: the one brought in or written longest ago leaves full caches. DESIGN CHOICE for
which line leaves, assumption 62. -/
def State.hartRoom (h : HartId) (s : State) : State :=
  let mine := s.hartLines.filter fun x => x.hart = h
  if mine.length < hartPlaces then s
  else match mine.getLast? with
    | some x => (s.writeBack h x.line).dropHartLine h x.line
    | none => s

/-- A read of a hart (R328, R334, R335): its own caches serve a line that they hold; otherwise the home does, and the hart keeps a
shared copy. -/
def State.hartRead (h : HartId) (a n : Nat) (s : State) : State :=
  let l := s.hartLoc h a
  if ¬ s.locOk a n true then s.hartExc h .loadAccessFault
  else if (s.hartLine h a).isSome then s.hartGot h (s.hartBytes h a n)
  else
    match s.readLoc (Agent.hart h) l n with
    | (s1, .ok x) =>
      let s2 := s1.hartGot h (bytesOf n x)
      if a < 2 ^ 40 ∧ (s.homeOf a).isSome then
        let s3 := s2.hartRoom h
        { s3 with hartLines := ⟨h, a / 64, false, []⟩ :: s3.hartLines }
      else s2
    | (s1, .error .poison) => (s1.consumePoison l).hartExc h .loadAccessFault
    | (s1, .error e) => if e.waits.isSome then s1.holdEvent (Agent.hart h) (a / 64) e else s1.hartGot h (List.replicate n 0)

/-- Memory errors change stored bytes of the 256-byte group of an address: byte number and difference (R334). -/
def State.addErrors (a : Nat) (errs : List (BitVec 8 × BitVec 8)) (s : State) : State :=
  { s with flips := errs.foldl (fun c e =>
      let k := a / 256 * 256 + e.1.toNat
      c.set 0 k (c.get 0 k ^^^ e.2)) s.flips }

/-- A read performed at the home slice (R328, R334, R335): a hart's line is recalled, and the CRC of every atom of the line is
checked. -/
def State.readBy (who : Reader) (a : Nat) (s : State) : State :=
  match who with
  | .hart h n allow =>
    s.asHart h fun s =>
      if n.toNat = 0 ∨ 64 < a % 64 + n.toNat then s
      else if ¬ allow then s.hartExc h .loadAccessFault
      else s.hartRead h a n.toNat
  | .warp p =>
    if (s.homeOf a).isNone then s
    else s.atWarp p fun t => if t.w.place = p then (t.readLoc (t.me none) (homeLoc (a / 2 ^ 38) a) 1).1 else t
  | .port n =>
    match s.homeOf a with
    | none => s
    | some ld =>
      let ag : Agent := ⟨portLd n.toNat, .device, some (.link n), some 6, 0⟩
      match s.readLoc ag (homeLoc ld a) 1 with
      | (s1, .error .poison) => s1.consumePoison (homeLoc ld a)
      | (s1, .error e) => if e.waits.isSome then s1.holdEvent ag (a / 64) e else s1
      | (s1, .ok _) => s1

/-- `READ_AT_HOME` (R328), after the memory errors that hit its group (R334); one that waits comes again with them. -/
def execReadAtHome (who : Reader) (pa : BitVec 56) (errs : List (BitVec 8 × BitVec 8)) (s : State) :
    Host.Outcome State Fault Refusal :=
  .next (
    let a := pa.toNat
    let t := (if (s.homeOf a).isSome then s.addErrors a errs else s).readBy who a
    if t.again then s.readBy who a else t)

/-! Ownership and the Zicbom instructions (R328, R329). -/

/-- Hart h owns the line of an address: another hart's dirty bytes are written back, and every other copy is invalidated before the
grant (R328). What keeps it from that, if anything does. -/
def State.obtain (h : HartId) (a : Nat) (s : State) : State × Except Lost Unit :=
  match s.hartLine h a with
  | some x =>
    if x.owned then (s, .ok ())
    else
      match s.reach (Agent.hart h) (a / 2 ^ 38) (a / 64) with
      | .error e => (s, .error e)
      | .ok _ =>
        ({ s with
            hartLines := { x with owned := true } :: s.hartLines.filter fun y => y.line ≠ a / 64
            copies := s.copies.filter fun c => c.line ≠ a / 64 }, .ok ())
  | none =>
    match s.readLoc (Agent.hart h) (s.hartLoc h a) 1 with
    | (s1, .error e) => (s1, .error e)
    | (s1, .ok _) =>
      let s2 := s1.hartRoom h
      ({ s2 with
          hartLines := ⟨h, a / 64, true, []⟩ :: s2.hartLines.filter fun y => y.line ≠ a / 64
          copies := s2.copies.filter fun c => c.line ≠ a / 64 }, .ok ())

/-- A hart holds at most 256 dirty lines (R329): before a 257th, the one written least recently is written back. -/
def State.dirtyRoom (h : HartId) (line : Nat) (s : State) : State :=
  let dirty := s.hartLines.filter fun x => x.hart = h ∧ x.dirty ≠ [] ∧ x.line ≠ line
  if dirty.length < 256 then s
  else match dirty.getLast? with
    | some x => s.writeBack h x.line
    | none => s

/-- A hart writes bytes of a line that it owns: the line is its most recently written one. -/
def State.dirtyBytes (h : HartId) (a : Nat) (data : List Byte) (s : State) : State :=
  let s1 := s.dirtyRoom h (a / 64)
  let x := (s1.hartLine h a).getD ⟨h, a / 64, true, []⟩
  let d := data.zipIdx.foldl (fun c b => (Cells.erase c (a + b.2)).insert (a + b.2) b.1) x.dirty
  { s1 with hartLines := { x with dirty := d } :: s1.hartLines.filter fun y => ¬ (y.hart = h ∧ y.line = a / 64) }

/-- A cached store of a hart (R328, R329); 8 bytes can be a resume command (R357). -/
def State.hartCached (h : HartId) (a : Nat) (data : List Byte) (s : State) : State :=
  match s.obtain h a with
  | (s1, .error e) => s1.hartLost h (s.hartLoc h a) e
  | (s1, .ok _) =>
    let s2 := s1.dirtyBytes h a data
    if data.length = 8 ∧ a % 8 = 0 then s2.strong8 a (ofBytes data) else s2

/-- What an AMO stores over a value. -/
def amoNew (fn old x y : Nat) : List Byte :=
  let n := (atomShape fn).1
  bytesOf n (atomNew fn old (x % 2 ^ (8 * n)) (y % 2 ^ (8 * n)))

/-- A cached AMO of a hart: the old value is what it reads. -/
def State.hartAmo (h : HartId) (a fn x y : Nat) (s : State) : State :=
  match s.obtain h a with
  | (s1, .error e) => s1.hartLost h (s.hartLoc h a) e
  | (s1, .ok _) =>
    let old := s1.hartBytes h a (atomShape fn).1
    (s1.hartCached h a (amoNew fn (ofBytes old) x y)).hartGot h old

/-- An AMO of a hart at an address that is not cached, strong at system scope (R271): a control register (R337), or an address beyond
the package's memory, where a PCIe window carries only what R380 lists. -/
def State.hartAmoAt (h : HartId) (a fn x y : Nat) (s : State) : State :=
  let n := (atomShape fn).1
  let l := s.hartLoc h a
  let ag := Agent.hart h
  if ¬ s.locOk a n true ∨ pcieBad s.vxpkg.toNat fn l then s.hartExc h .storeAccessFault
  else
    match s.readLoc ag l n with
    | (s1, .ok old) => (s1.writeAtomic ag l (amoNew fn old x y)).hartGot h (bytesOf n old)
    | (s1, .error .poison) => (s1.consumePoison l).hartExc h .storeAccessFault
    | (s1, .error e) =>
      if e.waits.isSome then s1.holdEvent ag (a / 64) e else (s1.countDrop h.ld.toNat e).hartGot h (List.replicate n 0)

/-- The 64 bytes of a line as a hart finds them: its own, or those that it reads at the home (R328, R388). -/
def State.lineFor (h : HartId) (line : Nat) (s : State) : State × Except Lost (List Byte) :=
  if (s.hartLine h (64 * line)).isSome then (s, .ok (s.hartBytes h (64 * line) 64))
  else
    match s.readLoc (Agent.hart h) (s.hartLoc h (64 * line)) 64 with
    | (s1, .ok x) => (s1, .ok (bytesOf 64 x))
    | (s1, .error e) => (s1, .error e)

/-- `cbo.clean`, `cbo.flush` and `cbo.inval`, which acts as `cbo.flush` (R329): on a launch line all 64 bytes go as one launch store
at system scope, dirty or not (R388). -/
def State.hartClean (h : HartId) (a : Nat) (flush : Bool) (s : State) : State :=
  let line := a / 64
  let l := s.hartLoc h (64 * line)
  match launchLine (64 * line) with
  | some (ld, col) =>
    match s.lineFor h line with
    | (s1, .error e) => s1.hartLost h l e
    | (s1, .ok bytes) =>
      match s1.writeLoc (Agent.hart h) l bytes true with
      | (s2, .ok _) =>
        let s3 := if flush ∨ (s.hartLine h a).isNone then s2
          else { s2 with hartLines := ⟨h, line, false, []⟩ :: s2.hartLines }
        s3.handOn ld col l.stall bytes
      | (s2, .error e) => s2.hartLost h l e
  | none =>
    if ((s.hartLine h a).any fun x => x.dirty ≠ []) ∧ s.linkWaits h.ld.toNat (line * 64 / 2 ^ 38) line then s.comeAgain
    else
      let s1 := s.writeBack h line
      if flush then s1.dropHartLine h line else s1

/-- A hart acts on a line of memory in its caches (R328, R329); an address beyond memory is not cached. The hart's program, and
whether its PMP allows the access, are input (R19): a refused one takes an access fault. -/
def execHartOwnershipRequest (x : HartAt) (op : HartOp) (s : State) : Host.Outcome State Fault Refusal :=
  .next (s.asHart x.hart fun s =>
    let h := x.hart
    let a := x.pa.toNat
    let far := (s.homeOf a).isNone
    if ¬ x.allow then s.hartExc h .storeAccessFault
    else
      match op with
      | .own =>
        if far then if s.locOk a 8 true then s else s.hartExc h .storeAccessFault
        else
          match s.obtain h a with
          | (s1, .error e) => s1.hartLost h (s.hartLoc h a) e
          | (s1, .ok _) => s1
      | .store data =>
        if data = [] ∨ 64 < a % 64 + data.length then s
        else if far then s.hartStore h a data
        else s.hartCached h a data
      | .amo fn u v =>
        if fn = 15 ∨ a % (atomShape fn.toNat).1 ≠ 0 then s
        else if far then s.hartAmoAt h a fn.toNat u.toNat v.toNat
        else s.hartAmo h a fn.toNat u.toNat v.toNat
      | .clean => if far ∧ ¬ s.locOk a 8 true then s.hartExc h .storeAccessFault else s.hartClean h a false
      | .flush => if far ∧ ¬ s.locOk a 8 true then s.hartExc h .storeAccessFault else s.hartClean h a true
      | .inval => if far ∧ ¬ s.locOk a 8 true then s.hartExc h .storeAccessFault else s.hartClean h a true)

/-! Tickets, scopes and the directory. -/

/-- A request at a home slice (R330): it arrives and takes one of the 448 trackers or is refused with a ticket; it is sent again
with its ticket and accepted when that is at the head and a tracker is free; or it is done. A port that holds a ticket sends no
other request there. -/
def execTicketedRequest (home : SliceId) (r : PortRequest) (s : State) : Host.Outcome State Fault Refusal :=
  .next (
    let ld := home.ld.toNat
    let col := home.col.toNat
    let q := ReqId.outside r.port r.tag
    let c := s.colOf ld col
    let x := c.slice
    let put := fun (y : Slice) => s.setCol ld col { c with slice := y }
    if (s.ldOf ld).baseReset ∨ c.hartLost ∨ ¬ (s.ldOf ld).homes.getLsbD col then s
    else
      match r.act with
      | .arrive =>
        if x.holds r.port then s
        else if x.busy < 448 then put { x with busy := x.busy + 1 }
        else (put (x.refuse q)).countMem ld 0
      | .again =>
        if (x.tickets.any fun t => t.req = q) ∧ x.accepts q then
          put { x with busy := x.busy + 1, tickets := x.tickets.filter fun t => t.req ≠ q }
        else s
      | .done => put { x with busy := x.busy - 1 })

/-- A store of cluster or column scope (R326): applied in the column at once and sent on to the home, whose order every copy
follows. In one order of accesses the two are one step. It is dropped when the home cannot be reached (R377) or the line is poisoned
(R335). -/
def execColumnScopeStore (ld : BitVec 2) (col : BitVec 6) (pa : BitVec 56) (data : List (BitVec 8)) (s : State) :
    Host.Outcome State Fault Refusal :=
  .next (
    match s.homeOf pa.toNat with
    | none => s
    | some home =>
      let ag : Agent := ⟨ld.toNat, .device, some (.slice ld col), some 3, 0⟩
      let l := homeLoc home pa.toNat
      match s.writeLoc ag l data (data.length = 64) with
      | (s1, .ok _) => s1
      | (s1, .error .poison) => s1.consumePoison l
      | (s1, .error e) => if e.waits.isSome then s1.holdEvent ag (l.pa / 64) e else s1.countDrop ld.toNat e)

/-- The home evicts a directory entry (R324): every copy that it records, in columns other than the home's, is invalidated. -/
def State.evictDirectory (line : Nat) (s : State) : State :=
  let ld := line * 64 / 2 ^ 38
  { s with copies := s.copies.filter fun c =>
      c.line ≠ line || (c.ld.toNat = ld && c.col.toNat = s.homeCol line) }

def execDirectoryEviction (pa : BitVec 56) (s : State) : Host.Outcome State Fault Refusal :=
  .next (s.evictDirectory (pa.toNat / 64))

/-- A command parity alert of a channel (R336): the commands are replayed; a fifth alert on one command marks the channel
failed. `again`: on the same command as the alert before. -/
def execParityAlert (ld : BitVec 2) (channel : BitVec 9) (again : Bool) (s : State) : Host.Outcome State Fault Refusal :=
  .next (
    let n := ld.toNat
    let d := s.ldOf n
    let (count, failed) := d.channels.get (0, false) channel.toNat
    let k := if again then count + 1 else 1
    if failed then s
    else if 5 ≤ k then
      (s.setLd n { d with channels := d.channels.set (0, false) channel.toNat (k, true) }).raiseReplace n
    else (s.setLd n { d with channels := d.channels.set (0, false) channel.toNat (k, false) }).countMem n 16)

end Sys2Proof.Machine
end

