-- ==== Sys2Proof/Machine/Walker.lean ====
section
/-! DEFINITION. Walks, the fault ring, invalidations, the peer window and the ports as completers, as steps of the device
(R346 to R358, R378). -/

namespace Sys2Proof.Machine

/-- A walk of a stall's tables (R344 to R348): it leaves A and D set. Whether it is cached is the cache's own choice (R350),
and here it is not. -/
def execPageWalk (ld : BitVec 2) (stall : BitVec 10) (va : BitVec 64) (acc : Access) (s : State) :
    Host.Outcome State Fault Refusal :=
  .next (
    if inPeer va.toNat then s
    else
      let s1 := s.readRec ld.toNat stall.toNat
      match s1.stallRec ld.toNat stall.toNat with
      | none => s1
      | some r =>
        { (s1.walkBoth ⟨ld.toNat, 0, 8, stall.toNat⟩ r va.toNat acc).1 with tlb := s.tlb, walkWords := s.walkWords })

/-- The oldest held fault entry whose ring has room is posted (R356). -/
def execFaultPost (ld : BitVec 2) (s : State) : Host.Outcome State Fault Refusal := .next (s.postFault ld.toNat)

/-- Held entries are posted while there is room. -/
def postMany (ld : Nat) : Nat → State → State
  | 0, s => s
  | n + 1, s => postMany ld n (s.postFault ld)

/-- A strong store to CONS (R356): the device reads it again and posts what it holds. -/
def execConsStore (ld : BitVec 2) (stall : BitVec 10) (v : BitVec 64) (s : State) : Host.Outcome State Fault Refusal :=
  .next (
    let s0 := s.readRing ld.toNat stall.toNat
    match s0.ring ld.toNat stall.toNat with
    | none => s0
    | some (b, _) =>
      let s1 := s0.devWrite ld.toNat stall.toNat (b + 8) (bytesOf 8 v.toNat)
      postMany ld.toNat (s1.ldOf ld.toNat).heldFaults.length s1)

/-- The doubleword of a command (R357). -/
def commandWord (action : Nat) (fnum : BitVec 16) (p : Place) : Nat :=
  fnum.toNat * 2 ^ 48 + action * 2 ^ 46 + p.col.toNat * 2 ^ 7 + p.core.toNat * 2 ^ 4 + p.slot.toNat

/-- A command is stored to RESUME and takes effect (R357), unless the line takes no store. -/
def State.resume (ld stall v : Nat) (s : State) : State :=
  let s0 := s.readRec ld stall
  match s0.ring ld stall with
  | none => s0
  | some (b, _) =>
    let s1 := s0.devWrite ld stall (b + 16) (bytesOf 8 v)
    if s0.bad (b / 64) ∨ ¬ s0.online b then s1 else s1.command ld stall v

def execResumeRetry (ld : BitVec 2) (stall : BitVec 10) (fnum : BitVec 16) (p : Place) (s : State) :
    Host.Outcome State Fault Refusal := .next (s.resume ld.toNat stall.toNat (commandWord 0 fnum p))

def execResumeAbort (ld : BitVec 2) (stall : BitVec 10) (fnum : BitVec 16) (p : Place) (s : State) :
    Host.Outcome State Fault Refusal := .next (s.resume ld.toNat stall.toNat (commandWord 1 fnum p))

/-! Invalidations (R350, R351). -/

/-- What vxinval holds after a write (Table 2 of R342). -/
def State.setVxinval (ld kind : Nat) (stall : BitVec 10) (page : BitVec 47) (s : State) : State :=
  s.setLd ld { s.ldOf ld with vxinval := BitVec.ofNat 64 (kind * 2 ^ 62 + stall.toNat * 2 ^ 52 + page.toNat) }

/-- A column's kept word lies in its stall's handle table (R352): only KIND 00 and 11 drop those. -/
def State.ownWord (s : State) (e : WalkWord) : Bool :=
  match s.stallRec e.ld.toNat e.stall with
  | some r => decide (bitsOf r.2.2.2 12 44 * 4096 ≤ e.pa ∧ e.pa < bitsOf r.2.2.2 12 44 * 4096 + 4096)
  | none => false

/-- The kept words that an invalidation drops. The device reads the record of a stall again after any that names it (R343). -/
def State.dropKept (ld kind stall : Nat) (s : State) : State :=
  { s with walkWords := s.walkWords.filter fun e =>
      ¬ (e.ld.toNat = ld ∧ (kind = 3 ∨ (e.stall = stall ∧ (kind = 0 ∨ ¬ s.ownWord e)))) }

/-- A write to vxinval (R350): it retires when the accesses that a dropped entry has translated are performed (R351). -/
def State.invalidate (who : Option Waiter) (ld kind : Nat) (stall : BitVec 10) (page : BitVec 47) (s : State) : State :=
  let f : TlbEntry → Bool := fun e =>
    match kind with
    | 0 => decide (e.stall = stall.toNat)
    | 1 => decide (e.stall = stall.toNat) && decide (e.page % 2 ^ 45 = page.toNat % 2 ^ 45)
    | 2 => decide (e.stall = stall.toNat) && e.gpages.contains page.toNat
    | _ => true
  ((s.setVxinval ld kind stall page).dropTlb who ld f).dropKept ld kind stall.toNat

/-- The exception that an access to a custom CSR raises in a mode (R342): none in M and HS mode. -/
def csrTrap : HartMode → Option HartCause
  | .m => none
  | .hs => none
  | .vs => some .virtualInstruction
  | .vu => some .virtualInstruction
  | .u => some .illegalInstruction

/-- A hart that runs accesses a custom CSR in a mode: the access f, or its exception (R342). -/
def State.custom (h : HartId) (mode : HartMode) (f : State → State) (s : State) : State :=
  s.asHart h fun s =>
    match csrTrap mode with
    | none => f s
    | some c => s.hartExc h c

/-- A hart writes vxinval (R342, R350). -/
def State.hartInvalidate (h : HartBy) (kind : Nat) (stall : BitVec 10) (page : BitVec 47) (s : State) : State :=
  s.custom h.hart h.mode fun t => t.invalidate (some (.hart h.hart)) h.hart.ld.toNat kind stall page

def execVxinvalStall (h : HartBy) (stall : BitVec 10) (s : State) : Host.Outcome State Fault Refusal :=
  .next (s.hartInvalidate h 0 stall 0)
def execVxinvalPage (h : HartBy) (stall : BitVec 10) (page : BitVec 47) (s : State) : Host.Outcome State Fault Refusal :=
  .next (s.hartInvalidate h 1 stall page)
def execVxinvalGpage (h : HartBy) (stall : BitVec 10) (page : BitVec 47) (s : State) : Host.Outcome State Fault Refusal :=
  .next (s.hartInvalidate h 2 stall page)
def execVxinvalAll (h : HartBy) (s : State) : Host.Outcome State Fault Refusal := .next (s.hartInvalidate h 3 0 0)

/-- A write to vxpooltop (R342, R349). -/
def execVxpooltopWrite (h : HartId) (mode : HartMode) (v : BitVec 64) (s : State) : Host.Outcome State Fault Refusal :=
  .next (s.custom h mode fun t => t.setLd h.ld.toNat { t.ldOf h.ld.toNat with vxpooltop := v.truncate 32 })

/-- A peer-window request at the owner's exchange port (R353): the walk in the owner stall's context leaves its traces. -/
def execPeerRequest (ld : BitVec 2) (stall : BitVec 10) (va : BitVec 64) (acc : Access) (s : State) :
    Host.Outcome State Fault Refusal :=
  .next (if inPeer va.toNat then (s.translate ⟨ld.toNat, 0, 8, stall.toNat⟩ va acc).1 else s)

/-! Requests that enter through a port (R378, R380): system-scope accesses of stall 0 (R435). -/

/-- The package address that a port request names: the module's own physical space (R341, R378). -/
def State.portAddr (s : State) (pa : Nat) : Option Nat :=
  if pa < 2 ^ 40 then some pa
  else if 2 ^ 55 ≤ pa ∧ (pa - 2 ^ 55) / 2 ^ 40 = s.vxpkg.toNat then some (pa % 2 ^ 40) else none

/-- A reply leaves at the port. -/
def State.reply (port : BitVec 6) (pa : BitVec 56) (bs : List Byte) (s : State) : State :=
  { s with outbox := s.outbox ++ [(port.toNat, pa, bs)] }

/-- A port as an agent: its requests are strong at system scope and act for stall 0 (R271, R435). -/
def Agent.inbound (port : BitVec 6) : Agent := ⟨portLd port.toNat, .device, some (.link port), some 6, 0⟩

/-- A request of a port was not performed: a poisoned line ends the stall (R335), an unreachable home counts a store (R377), and one
that waits comes again. -/
def State.portLost (port : BitVec 6) (l : Loc) (store : Bool) (e : Lost) (s : State) : State :=
  match e with
  | .poison => s.consumePoison l
  | e =>
    if e.waits.isSome then s.holdEvent (Agent.inbound port) (l.pa / 64) e
    else if store then s.countDrop (portLd port.toNat) e else s

/-- A read of a port: what it reads is the reply. -/
def State.portRead (port : BitVec 6) (pa : BitVec 56) (a n : Nat) (s : State) : State :=
  let l := homeLoc (a / 2 ^ 38) a
  match s.readLoc (Agent.inbound port) l n with
  | (s1, .ok x) => s1.reply port pa (bytesOf n x)
  | (s1, .error e) => s1.portLost port l false e

/-- A write of a port is a launch store when it covers exactly a launch line (R388), and a command when it is 8 bytes (R357). -/
def State.portWrite (port : BitVec 6) (a : Nat) (data : List Byte) (s : State) : State :=
  let l := homeLoc (a / 2 ^ 38) a
  match s.writeLoc (Agent.inbound port) l data (data.length = 64 && a % 64 = 0) with
  | (s1, .ok _) => if s.dead (a / 64) then s1 else s1.storeEffects 0 a data
  | (s1, .error e) => s1.portLost port l true e

/-- An atomic of a port (R378, R380): the old value is the reply. -/
def State.portAtomic (port : BitVec 6) (pa : BitVec 56) (a fn x y : Nat) (s : State) : State :=
  let n := (atomShape fn).1
  let l := homeLoc (a / 2 ^ 38) a
  match s.readLoc (Agent.inbound port) l n with
  | (s1, .ok old) =>
    let new := amoNew fn old x y
    let s2 := s1.writeAtomic (Agent.inbound port) l new
    (if n = 8 then s2.strong8 a (ofBytes new) else s2).reply port pa (bytesOf n old)
  | (s1, .error e) => s1.portLost port l true e

/-- A request that a port which is up takes in (R378, R380). -/
def execInboundPortRequest (port : BitVec 6) (pa : BitVec 56) (req : PortReq) (s : State) : Host.Outcome State Fault Refusal :=
  .next (
    match (if (s.portOf port.toNat).state = .up then s.portAddr pa.toNat else none) with
    | none => s
    | some a =>
      match req with
      | .read n => if a % 64 + n ≤ 64 ∧ s.locOk a n true then s.portRead port pa a n else s
      | .write data =>
        if a % 64 + data.length ≤ 64 ∧ data ≠ [] ∧ s.locOk a data.length true then s.portWrite port a data else s
      | .atomic fn x y =>
        let n := (atomShape fn.toNat).1
        if a % n = 0 ∧ fn ≠ 15 ∧ s.locOk a n true ∧ (port.toNat < 18 ∨ [0, 1, 9, 10, 11, 12].contains fn.toNat) then
          s.portAtomic port pa a fn.toNat x.toNat y.toNat
        else s)

end Sys2Proof.Machine
end

