-- ==== Sys2Proof/Machine/Power.lean ====
section
/-! DEFINITION. Power: the allowance counter, the governor, lane rates, gating and replays (R421 to R434). -/

namespace Sys2Proof.Machine

/-! Cost of a warp's next trap unit (R422). -/

/-- The word at an address as the warp's next fetch would find it; none where that fetch faults. -/
def State.peekWord (s : State) (pc : BitVec 48) : Option Word :=
  match s.xlate (pc.zeroExtend 64) .exec with
  | (s1, .ok l) =>
    match paKind s.vxpkg.toNat l.pa with
    | .mem h =>
      if s1.online l.pa ∧ ¬ s1.unreachable s.w.place.ld.toNat h ∧ ¬ s1.bad (l.pa / 64) then
        some (BitVec.ofNat 32 ((s1.recall l.pa).peek l.pa 4))
      else none
    | _ => none
  | _ => none

/-- A word of a major other than TL and CPY encodes an instruction. -/
def validLow (x : Word) : Bool :=
  match decodeLow x with
  | .ok i => i.wellFormed
  | .error _ => false

/-- A word of major TL encodes an instruction: its fn is listed and its reserved fields are 0. -/
def validTl (x : Word) : Bool :=
  let f := (fld x 21 5).toNat
  if f = 0 ∨ f = 8 ∨ f = 9 then fld x 10 7 == 0 && fld x 0 4 == 0
  else if f = 1 ∨ f = 10 then fld x 0 17 == 0
  else if f = 2 ∨ f = 3 then true
  else f < 8 && fld x 0 4 == 0

/-- Cost of the class of a target word (Table 1 of R422); none for a word that is no instruction. -/
def classCost (x : Word) : Option Nat :=
  let m := (fld x 26 6).toNat
  let fn := (fld x 21 5).toNat
  if m = 0x23 then if validTl x then some (if 2 ≤ fn ∧ fn ≤ 7 then 8 else 1) else none
  else if m = 0x24 then if (fld x 22 4).toNat ≤ 6 then some 1 else none
  else if m = 0 ∨ ¬ validLow x then none
  else if m = 0x0F ∨ m = 0x10 then some 16
  else if m = 0x22 then some (if fn = 3 ∨ fn = 4 then 1 else 8)
  else if (0x08 ≤ m ∧ m ≤ 0x18) ∨ (0x1A ≤ m ∧ m ≤ 0x20) then some 8
  else some 1

/-- Cost of a unit with a REP count that ends at a word (R422): 1 when the word is no instruction. -/
def wordCost (count : Nat) (x : Word) : Nat :=
  match classCost x with
  | some k => count * k
  | none => 1

/-- The count of a REP hint word. -/
def repCount (x : Word) : Option Nat :=
  match decodeHint x with
  | .ok (.hintRep _ n) => some (n.toNat + 1)
  | _ => none

/-- Cost of the unit at an address, whose hints so far give the count n: a unit that ends at its fifth hint, or that cannot be fetched,
costs 1 (R422). Of two REP hints the first counts, as it does when the unit issues. -/
def State.unitCostAt (s : State) : Nat → BitVec 48 → Option Nat → Nat
  | 0, _, _ => 1
  | k + 1, pc, n =>
    match s.peekWord pc with
    | none => 1
    | some x => if fld x 26 6 = 0 then s.unitCostAt k (pc + 4) (n.orElse fun _ => repCount x) else wordCost (n.getD 1) x

/-- Cost of the next trap unit of the warp at a place. -/
def State.unitCost (s : State) (p : Place) : Nat :=
  let t := s.focus p
  t.unitCostAt 5 t.w.unitPc none

/-! The cycle of a cluster (R421, R100, R101). -/

/-- Warps of a cluster. -/
def State.warpsOf (s : State) (c : Cluster) : List Warp := s.allWarps.filter fun w => clusterAt w.place = c

/-- A warp that the cycle may select (R100): it runs, is not parked, waits for no fence and no pre-emption, which waits for a `casm` in
progress (R313), and its next unit was found ready. -/
def Warp.candidate (w : Warp) : Bool :=
  w.life = .run && w.park = .none && w.fence.isNone && ¬ (w.preempt && ¬ w.inh && w.casm.isNone) && ¬ w.blocked

/-- x is older than y (R421, R101): started earlier, or in the same cycle on a lower core or slot. -/
def olderWarp (x y : Warp) : Bool :=
  let k := fun (w : Warp) => (w.started * 8 + w.place.core.toNat) * 16 + w.place.slot.toNat
  k x ≤ k y

/-- x precedes y: higher class, then age (R421). -/
def byClass (x y : Warp) : Bool := y.cls.toNat < x.cls.toNat || (x.cls = y.cls && olderWarp x y)

/-- Insertion sort of warps. -/
def insertWarp (le : Warp → Warp → Bool) (x : Warp) : List Warp → List Warp
  | [] => [x]
  | y :: r => if le x y then x :: y :: r else y :: insertWarp le x r

def sortWarps (le : Warp → Warp → Bool) (ws : List Warp) : List Warp := ws.foldr (insertWarp le) []

/-- A warp whose withheld count exceeds 1 024 counts as ready for one issue (R101). -/
def Warp.exempt (w : Warp) : Bool := 1024 < w.withheld

/-- The walk of R421 down the ranking with budget b: the places it withholds. -/
def withheldBy : Int → List (Place × Nat) → List Place
  | _, [] => []
  | b, (p, k) :: r => if (k : Int) ≤ b then withheldBy (b - k) r else p :: r.map Prod.fst

/-- The ready warps of one core in the order of R100. -/
def coreOrder (ws : List Warp) : List Place :=
  let a := sortWarps olderWarp (ws.filter Warp.exempt)
  let b := sortWarps olderWarp (ws.filter fun w => ¬ w.exempt ∧ 256 ≤ w.waitCount)
  let c := sortWarps byClass (ws.filter fun w => ¬ w.exempt ∧ w.waitCount < 256)
  (a ++ b ++ c).map Warp.place

/-- The counts of R101 after a selection: `out` are withheld, `ready` are ready. -/
def Warp.count (w : Warp) (out ready : List Place) : Warp :=
  if out.contains w.place then { w with withheld := w.withheld + 1, waitCount := 0 }
  else if ready.contains w.place then { w with waitCount := w.waitCount + 1 }
  else { w with withheld := 0, waitCount := 0 }

/-- A write at a port came from a core of a cluster. -/
def HeldWrite.fromCluster (c : Cluster) (h : HeldWrite) : Bool :=
  match h.sender with
  | some (.core ld col core) => clusterAt ⟨ld, col, core, 0⟩ = c
  | _ => false

/-- The cluster is idle (R431): no warp holds a slot, nothing is in its table or copy queue, and its cores hold no request slot. -/
def State.clusterIdle (s : State) (c : Cluster) : Bool :=
  (s.warpsOf c).isEmpty && (s.clusterOf c).entries.isEmpty && (s.ops.all fun o => clusterAt o.place ≠ c)
    && s.ports.all fun p => p.2.held.all fun h => ¬ h.fromCluster c

/-- The first steps of a cluster's cycle (R421): the units issued in the cycle before are charged, the counter is refilled, and the
engine takes a grant. Once in a cycle. -/
def State.refillGrant (c : Cluster) (s : State) : State :=
  let x := s.clusterOf c
  if x.gate ≠ .on ∨ x.begun then s
  else
    let col := s.colOf c.ld.toNat c.col.toNat
    (s.setCluster c { x with
      c := min (col.cap.toNat : Int) (x.c - x.spent + refillOf col), spent := 0, begun := true
      idle := if s.clusterIdle c then x.idle else s.tick.toNat }).arbiterGrant c

/-- The cycle of R421 up to the selection of warps: refill, grant, walk and the issue order of each core; the cores are served in
rotating order (R242). -/
def State.allowanceCycle (c : Cluster) (s : State) : State :=
  let s0 := s.refillGrant c
  if (s0.clusterOf c).gate ≠ .on then s
  else
    let s1 := s0.setCluster c { s0.clusterOf c with begun := false }
    let ws := if (s1.clusterOf c).changing then [] else (s1.warpsOf c).filter Warp.candidate
    let rank := (sortWarps byClass (ws.filter fun w => ¬ w.exempt)).map fun w => (w.place, s1.unitCost w.place)
    let out := withheldBy (s1.clusterOf c).c rank
    let go := ws.filter fun w => ¬ out.contains w.place
    let cores := (List.range 4).map fun i => go.filter fun w => w.place.core.toNat % 4 = (i + s.tick.toNat) % 4
    let s2 := s1.mapWarps fun w => if clusterAt w.place = c then w.count out (go.map Warp.place) else w
    { s2 with issueQ := (s2.issueQ.filter fun p => clusterAt p ≠ c) ++ cores.flatMap coreOrder }

def execAllowanceCycle (c : Cluster) (s : State) : Host.Outcome State Fault Refusal := .next (s.allowanceCycle c)

/-! The governor (R425 to R427) and lane rates (R429). -/

/-- The rate that a cluster is to run at (R429). -/
def State.effective (s : State) (c : Cluster) : BitVec 2 :=
  effectiveRate (s.colOf c.ld.toNat c.col.toNat) (s.clusterOf c) c.cl

/-- A cluster whose effective rate differs from the rate in force begins to quiesce (R429). -/
def State.checkRate (c : Cluster) (s : State) : State :=
  if s.effective c ≠ (s.clusterOf c).rate then s.setCluster c { s.clusterOf c with changing := true } else s

/-- Both clusters of a column. -/
def columnClusters (ld : BitVec 2) (col : BitVec 6) : List Cluster := [⟨ld, col, 0⟩, ⟨ld, col, 1⟩]

def State.checkRates (ld : BitVec 2) (col : BitVec 6) (s : State) : State :=
  (columnClusters ld col).foldl (fun s c => s.checkRate c) s

/-- Entry and leave conditions of Table 5 at a level, for a temperature in °C and a power in W. -/
def enters (level temp power : Nat) : Bool :=
  match level with
  | 1 => 88 ≤ temp || 3600 < power
  | 2 => 96 ≤ temp
  | 3 => 104 ≤ temp
  | _ => false

def leaves (level temp power : Nat) : Bool :=
  match level with
  | 1 => temp < 85 && power ≤ 3600
  | 2 => temp < 93
  | 3 => temp < 101
  | _ => false

/-- The level after an evaluation (R425). -/
def nextLevel (level floor temp power : Nat) : Nat :=
  if level < 3 ∧ enters (level + 1) temp power then level + 1
  else if leaves level temp power ∧ floor < level then level - 1
  else if level < floor then level + 1
  else level

/-- The throttle report of a level change (R427): one that is pending or waits has its TVAL rewritten and keeps its place. -/
def Warp.throttleReport (w : Warp) (v : DWord) : Warp :=
  if w.reports.any fun r => r.cause = 0x0C then
    { w with reports := w.reports.map fun r => if r.cause = 0x0C then { r with tval := v } else r }
  else w.report 0x0C v w.issued

/-- What a level change does to a resident warp (R427). EVMASK.THR is bit 0 (R406). -/
def Warp.throttle (w : Warp) (old new : BitVec 2) : Warp :=
  let w1 := { w with thrPrev := old, thrChg := true }
  if w.evmask.getLsbD 0 then w1.throttleReport (BitVec.ofNat 64 (old.toNat * 16 + new.toNat)) else w1

/-- A level takes effect (R427), for the warps that have started on the column. -/
def State.setLevel (ld : BitVec 2) (col : BitVec 6) (new : BitVec 2) (s : State) : State :=
  let c := s.colOf ld.toNat col.toNat
  let s1 := (s.setCol ld.toNat col.toNat { c with level := new }).mapWarps fun w =>
    if w.place.ld = ld ∧ w.place.col = col ∧ w.life ≠ .start then w.throttle c.level new else w
  s1.checkRates ld col

/-- A column's governor evaluates its hottest sensor and the module's power (R425). -/
def State.evaluate (ld : BitVec 2) (col : BitVec 6) (s : State) : State :=
  let c := s.colOf ld.toNat col.toNat
  let n := BitVec.ofNat 2 (nextLevel c.level.toNat c.floor.toNat c.temp s.power)
  if n = c.level then s else s.setLevel ld col n

/-- A thermal trip (R428): every other piece of state is lost. The coming events and the free-value counter are the model's own
and stay. -/
def State.trip (s : State) : State :=
  { State.reset with
    phase := .tripped, mgmt := s.mgmt ++ [.thermTrip], outbox := s.outbox, agenda := s.agenda, fresh := s.fresh
    opLatency := s.opLatency }

def execThermalTrip (s : State) : Host.Outcome State Fault Refusal := .next s.trip

/-- What the sensors of a column and of the module's power now show, and the evaluation of the column's governor (R425); a sensor at
115 °C trips the module (R428). -/
def execGovernorEvaluation (ld : BitVec 2) (col : BitVec 6) (temp power : Nat) (s : State) : Host.Outcome State Fault Refusal :=
  .next (
    if 115 ≤ temp then s.trip
    else
      let s1 := { s with power := power }
      (s1.setCol ld.toNat col.toNat { s1.colOf ld.toNat col.toNat with temp := temp }).evaluate ld col)

/-- The quiesce point and the switch (R429): the effective rate as it stands now. -/
def execQuiescePoint (c : Cluster) (s : State) : Host.Outcome State Fault Refusal :=
  .next (
    let x := s.clusterOf c
    if x.changing then s.setCluster c { x with rate := s.effective c, changing := false } else s)

/-- A CLK field of vxgov after a write: 11 leaves it (R430). -/
def clkField (old new : BitVec 2) : BitVec 2 := if new = 3 then old else new

/-- The write of a CLK field clears the cluster's replay cap; 11 is no write of the field (R430). -/
def State.clearCap (c : Cluster) (new : BitVec 2) (s : State) : State :=
  if new = 3 then s else s.setCluster c { s.clusterOf c with replayCap := false }

/-- A write to vxgov (R430). -/
def State.writeGov (h : HartId) (v : BitVec 64) (s : State) : State :=
  let c := s.colOf h.ld.toNat h.col.toNat
  let f := fun lo n => bitsOf v.toNat lo n
  let new0 := BitVec.ofNat 2 (f 0 2)
  let new1 := BitVec.ofNat 2 (f 2 2)
  let s1 := s.setCol h.ld.toNat h.col.toNat
    { c with
      cap := BitVec.ofNat 16 (f 48 16), budget := BitVec.ofNat 16 (max 64 (f 32 16)), floor := BitVec.ofNat 2 (f 28 2)
      clk0 := clkField c.clk0 new0, clk1 := clkField c.clk1 new1 }
  ((s1.clearCap ⟨h.ld, h.col, 0⟩ new0).clearCap ⟨h.ld, h.col, 1⟩ new1).checkRates h.ld h.col

def execVxgovWrite (h : HartId) (mode : HartMode) (v : BitVec 64) (s : State) : Host.Outcome State Fault Refusal :=
  .next (s.custom h mode fun t => t.writeGov h v)

/-! Gating and wakes (R431 to R433), and timing-error replays (R434). -/

/-- A cluster that has been idle for 50 µs gates (R431): its L1s and C are lost. -/
def execClusterGating (c : Cluster) (s : State) : Host.Outcome State Fault Refusal :=
  .next (
    let x := s.clusterOf c
    if x.gate = .on ∧ s.clusterIdle c ∧ x.idle + idleCycles ≤ s.tick.toNat then
      let s1 : State := { s with
        copies := s.copies.filter fun y =>
          ¬ (y.ld = c.ld ∧ y.col = c.col ∧ y.holder ≠ 0 ∧ (y.holder - 1) % 8 / 4 = c.cl.toNat) }
      s1.setCluster c { x with gate := .gated, c := 0, spent := 0 }
    else s)

/-- A wake ends (R432): C is 0 (R421), and the next requested wake begins. -/
def execWakeEnd (c : Cluster) (s : State) : Host.Outcome State Fault Refusal :=
  .next (
    let x := s.clusterOf c
    if x.gate = .waking then
      (s.setCluster c { x with gate := .on, c := 0, spent := 0, begun := false, idle := s.tick.toNat }).startWakes c.ld.toNat
    else s)

/-- A failing beat or send is repeated (R434), which changes no value; more than 256 repeats within 1 ms cap the cluster. -/
def execTimingErrorReplay (c : Cluster) (s : State) : Host.Outcome State Fault Refusal :=
  .next (
    let x := s.clusterOf c
    if x.rate = 2 ∧ x.gate = .on then
      let recent := (x.replays.filter fun t => s.tick.toNat < t + 1000 * Config.cyclesPerUs) ++ [s.tick.toNat]
      (s.setCluster c { x with replays := recent, replayCap := x.replayCap || 256 < recent.length }).checkRate c
    else s)

end Sys2Proof.Machine
end

