-- ==== Sys2Proof/Machine/Links.lean ====
section
/-! DEFINITION. The edges between base dies and the ports (R373 to R385). -/

namespace Sys2Proof.Machine

/-- The number of an edge and the LDs at its ends (R17). -/
def edgeNo : Edge → Nat
  | .e01 => 0 | .e23 => 1 | .e02 => 2 | .e13 => 3

def edgeEnds : Edge → Nat × Nat
  | .e01 => (0, 1) | .e23 => (2, 3) | .e02 => (0, 2) | .e13 => (1, 3)

def State.moduleOf (s : State) (k : Nat) : Module := s.modules.get Module.reset k
def State.setModule (k : Nat) (m : Module) (s : State) : State := { s with modules := s.modules.set Module.reset k m }

/-- Saturating addition of 1. -/
def satInc {n : Nat} (x : BitVec n) : BitVec n := if x = BitVec.allOnes n then x else x + 1

/-- A module retrains (R375); its edge counts it (R385). -/
def State.retrain (e : Edge) (k : Nat) (m : Module) (s : State) : State :=
  let s1 := s.setModule k { m with retraining := true, replaying := false, replays := [] }
  { s1 with retrains := s1.retrains.set 0 (edgeNo e) (satInc (s1.retrains.get 0 (edgeNo e))) }

/-- FE cycles of 1 ms and of 4 ms. -/
def msCycles : Nat := 1000 * Config.cyclesPerUs

/-- A flit fails its CRC (R375): a replay, or a retraining when a replay of the module is outstanding or 16 have run within 1 ms, in
either direction. Whether an earlier replay is still outstanding is an alternative of R3. -/
def execFlitCrcMismatch (e : Edge) (module : BitVec 7) (_dir : Bool) (s : State) : Host.Outcome State Fault Refusal :=
  .next (
    let k := moduleKey (edgeNo e) module.toNat
    let m := s.moduleOf k
    if m.out ∨ m.retraining ∨ 96 ≤ module.toNat then s
    else
      let (still, s1) := if m.replaying then s.pick else (false, s)
      let recent := (m.replays.filter fun t => s.tick.toNat < t + msCycles) ++ [s.tick.toNat]
      if still ∨ 16 < recent.length then s1.retrain e k m
      else s1.setModule k { m with replaying := true, replays := recent })

/-- REPLACE is raised at both ends of an edge (R376, R443). -/
def State.raiseEdge (e : Edge) (s : State) : State := (s.raiseReplace (edgeEnds e).1).raiseReplace (edgeEnds e).2

/-- A direction in which n more lanes fail: redundant lanes replace them while there are any, else it falls to x32 (R376). DESIGN
CHOICE (assumption 74): at x32 it counts all four redundant lanes as in use. -/
def Direction.test (d : Direction) (n : Nat) : Direction :=
  if d.half then d else if d.spares + n ≤ 4 then { d with spares := d.spares + n } else ⟨true, 4⟩

/-- A module runs at x32 in some direction. -/
def Module.half (m : Module) : Bool := m.there.half || m.back.half

/-- The lane test that ends a retraining (R376): `out` and `back` are the lanes of each direction that fail besides those replaced
before, and `halfOk` says whether the module passes at x32. -/
def execLaneTest (e : Edge) (module : BitVec 7) (out back : BitVec 7) (halfOk : Bool) (s : State) :
    Host.Outcome State Fault Refusal :=
  .next (
    let k := moduleKey (edgeNo e) module.toNat
    let m := s.moduleOf k
    let m1 := { m with retraining := false, there := m.there.test out.toNat, back := m.back.test back.toNat }
    let fell := m1.there.half ≠ m.there.half || m1.back.half ≠ m.back.half
    if ¬ m.retraining ∨ m.out then s
    else if m1.half ∧ ¬ halfOk then (s.setModule k { m1 with out := true }).raiseEdge e
    else if fell then (s.setModule k m1).raiseEdge e
    else s.setModule k m1)

/-- Ports of the module: UALink 0 to 17, PCIe 32 and 33 (R383). -/
def portEnBit (n : Nat) : Nat := if n = 32 then 18 else if n = 33 then 19 else n

/-- A warp is the owner of a write. -/
def State.ownsWrite (s : State) (w : Warp) (o : Owner) : Bool :=
  match o with
  | .warp key seq idx => w.key = key && w.idx = idx && s.allGroups.any fun g => g.key = key && g.seq = seq
  | _ => false

/-- A warp marks a write of it that a port lost (R382). -/
def Warp.lostWrite (w : Warp) (n : Nat) : Warp := { w with mstat := w.mstat ||| 2, lostPort := lowerPort w.lostPort n }

/-- What the loss of a posted write at a port does to its owner (R382, R402): the issuing warp marks it, also for an operation, which
sets UNREACH, or PEER for the members of an `mst`; a completion word is replaced by its error report. -/
def State.loseWrite (n : Nat) (s : State) (h : HeldWrite) : State :=
  let s1 := { s with vxualdrop := satInc s.vxualdrop }
  match h.owner with
  | .warp _ _ _ => s1.mapWarps fun w => if s.ownsWrite w h.owner then w.lostWrite n else w
  | .op id =>
    { s1.mapWarps (fun w => if s.ops.any fun o => o.id = id ∧ o.place = w.place then w.lostWrite n else w) with
      ops := s1.ops.map fun o =>
        if o.id = id then { o with err := o.err ||| match o.kind with | .posted true => errPeer | _ => errUnreach } else o }
  | .word ld writer info _ => s1.postError ld.toNat 2 writer.toNat info
  | .device => s1

/-- Held posted writes are lost when their port goes down or is disabled (R382), and launches whose words were among them leave. -/
def State.loseHeld (n : Nat) (s : State) : State :=
  ((s.portOf n).held.foldl (fun s h => s.loseWrite n h) (s.setPort n { s.portOf n with held := [] })).wordsSent

/-- The ports of the module. -/
def allPorts : List Nat := List.range 18 ++ [32, 33]

/-- A port that trains begins at this cycle. -/
def State.train (n : Nat) (s : State) : State := s.setPort n { s.portOf n with state := .training, since := s.tick.toNat }

/-- A port goes down (R379, R382). -/
def State.portDown (n : Nat) (s : State) : State := (s.setPort n { s.portOf n with state := .down }).loseHeld n

/-- A port whose replay cannot recover enters training (R379). -/
def execEnterTraining (port : BitVec 6) (s : State) : Host.Outcome State Fault Refusal :=
  .next (if (s.portOf port.toNat).state = .up then s.train port.toNat else s)

/-- A port that completes training returns to up (R379, R381), and will send what it held. vxpkg is fixed once a UALink port has
reached up (R436). -/
def execTrainingComplete (port : BitVec 6) (s : State) : Host.Outcome State Fault Refusal :=
  .next (
    let n := port.toNat
    if (s.portOf n).state = .training then
      { s.setPort n { s.portOf n with state := .up } with pkgFixed := s.pkgFixed || n < 18 }
    else s)

/-- A port still training after 4 ms, or that fails training, goes down (R379). -/
def execTrainingTimeout (port : BitVec 6) (s : State) : Host.Outcome State Fault Refusal :=
  .next (if (s.portOf port.toNat).state = .training then s.portDown port.toNat else s)

/-- EN is written from 0 to 1 (R385). -/
def State.enablePort (n : Nat) (s : State) : State :=
  let s1 := { s with vxualen := s.vxualen ||| ((1 : BitVec 20) <<< portEnBit n) }
  if (s.portOf n).state = .down ∨ (s.portOf n).state = .disabled then s1.train n else s1

/-- EN is written from 1 to 0 (R385). -/
def State.disablePort (n : Nat) (s : State) : State :=
  let s1 := { s with vxualen := s.vxualen &&& ~~~((1 : BitVec 20) <<< portEnBit n) }
  (s1.setPort n { s1.portOf n with state := .disabled }).loseHeld n

def execPortEnable (port : BitVec 6) (s : State) : Host.Outcome State Fault Refusal :=
  .next (if s.vxualen.getLsbD (portEnBit port.toNat) then s else s.enablePort port.toNat)

def execPortDisable (port : BitVec 6) (s : State) : Host.Outcome State Fault Refusal :=
  .next (if s.vxualen.getLsbD (portEnBit port.toNat) then s.disablePort port.toNat else s)

/-- A write of vxualen (R385). -/
def State.writeUalen (v : Nat) (s : State) : State :=
  allPorts.foldl (fun s n =>
    let old := s.vxualen.getLsbD (portEnBit n)
    let new := v.testBit (portEnBit n)
    if new && ¬ old then s.enablePort n else if old && ¬ new then s.disablePort n else s) s

end Sys2Proof.Machine
end

