-- ==== Sys2Proof/Machine/Stalls.lean ====
section
/-! DEFINITION. The end of a stall and the error reports (R437 to R439), and dies and columns that fail while the module runs
(R440 to R442). -/

namespace Sys2Proof.Machine

/-- The end of a stall (R438): its steps 3 and 4 follow when its launches have ended. -/
def execStallEnd (ld : BitVec 2) (stall : BitVec 10) (poison : Bool) (s : State) : Host.Outcome State Fault Refusal :=
  .next (s.beginStallEnd ld.toNat stall.toNat poison).complete

/-- A write to vxerr removes the head (R437). -/
def State.popError (ld : Nat) (s : State) : State := s.setLd ld { s.ldOf ld with errors := (s.ldOf ld).errors.drop 1 }

def execVxerrPop (ld : BitVec 2) (s : State) : Host.Outcome State Fault Refusal := .next (s.popError ld.toNat)

/-! Parts that fail. -/

/-- A place lies on the lost cores. -/
def onLost (ld : Nat) (lost : Nat → Bool) (p : Place) : Bool := p.ld.toNat = ld && lost p.col.toNat

/-- The clusters of the lost columns keep no allowance and no reservation table; they wake no more, and other wakes begin (R432). -/
def State.dropClusters (ld : Nat) (lost : Nat → Bool) (s : State) : State :=
  let s1 := { s with clusters := s.clusters.filter fun c => ¬ (c.1 / 96 = ld ∧ lost (c.1 % 96 / 2)) }
  let s2 := s1.setLd ld { s1.ldOf ld with wakes := (s1.ldOf ld).wakes.filter fun c => ¬ lost c.col.toNat }
  (List.range 4).foldl (fun s _ => s.startWakes ld) s2

/-- The warps on the cores of some columns of an LD stop at once, and what they had not performed is not performed (R440);
a write that a port has taken is the port's. -/
def State.dropWarps (ld : Nat) (lost : Nat → Bool) (s : State) : State :=
  let gone := onLost ld lost
  let keys := (s.allGroups.filter fun g => ¬ g.saved ∧ g.key.ld.toNat = ld ∧ lost g.col.toNat).map Group.key
  let s1 : State :=
    { s with
      w := if s.w.life ≠ .empty ∧ gone s.w.place then { s.w with life := .empty } else s.w
      sel := s.sel && ¬ gone s.w.place
      warps := s.warps.filter fun w => ¬ gone w.place
      wg := if s.wg.warps ≠ 0 ∧ keys.contains s.wg.key then Group.none else s.wg
      groups := s.groups.filter fun g => ¬ keys.contains g.key
      ops := s.ops.filter fun o => ¬ gone o.place
      issueQ := s.issueQ.filter fun p => ¬ gone p }
  (s1.setLd ld { s1.ldOf ld with heldFaults := (s1.ldOf ld).heldFaults.filter fun h => ¬ gone h.place }).dropClusters ld lost

/-- Every launch that f names ends with FAULTED (R404). -/
def State.faultLaunches (f : Launch → Bool) (s : State) : State :=
  (s.allLaunches.filter f).foldl (fun s l => s.endLaunch l.ld l.record.queue l.seq stFaulted) s

/-- A launch has a workgroup resident on some columns of an LD. -/
def State.residentOn (s : State) (ld : Nat) (lost : Nat → Bool) (l : Launch) : Bool :=
  (s.groupsOf l).any fun g => ¬ g.saved && g.key.ld.toNat = ld && lost g.col.toNat

/-- The copies and translations that the caches of some columns' cores hold are gone with them (R351); the slices that recorded
the copies drop their records. -/
def State.dropL1 (ld : Nat) (lost : Nat → Bool) (s : State) : State :=
  { s with
    copies := s.copies.filter fun c => ¬ (c.ld.toNat = ld ∧ lost c.col.toNat ∧ c.holder ≠ 0)
    tlb := s.tlb.filter fun t => ¬ (t.ld.toNat = ld ∧ lost t.col.toNat ∧ t.holder ≠ 9)
    walkWords := s.walkWords.filter fun t => ¬ (t.ld.toNat = ld ∧ lost t.col.toNat) }

/-- The cores of some columns fail (R440, R442). -/
def State.failCores (ld : Nat) (lost : Nat → Bool) (s : State) : State :=
  ((s.faultLaunches (s.residentOn ld lost)).dropWarps ld lost).dropL1 ld lost

/-- A column leaves vxcols and COLS (R441). -/
def State.loseColumn (ld col : Nat) (s : State) : State :=
  let s1 := s.setLd ld { s.ldOf ld with cols := (s.ldOf ld).cols &&& ~~~((1 : BitVec 48) <<< col) }
  (s1.postError ld 5 0 col).raiseReplace ld

/-- The cores of some columns of an LD are lost (R442): the columns that still had them leave vxcols (R441). -/
def State.loseCores (ld : Nat) (lost : Nat → Bool) (s : State) : State :=
  let now := (List.range 48).filter fun c => lost c && (s.ldOf ld).cols.getLsbD c
  now.foldl (fun s c => (s.setCol ld c { s.colOf ld c with coresLost := true }).loseColumn ld c) (s.failCores ld lost)

/-- A compute die fails (R440), and its 24 columns lose their cores (R441, R442). -/
def execComputeDieFailure (ld : BitVec 2) (die : BitVec 1) (s : State) : Host.Outcome State Fault Refusal :=
  .next (
    let n := ld.toNat
    if (s.ldOf n).dieReset.getLsbD die.toNat then s
    else
      let s1 := s.loseCores n fun c => decide (c / 24 = die.toNat)
      ((s1.setLd n { s1.ldOf n with dieReset := (s1.ldOf n).dieReset ||| (1 <<< die.toNat) }).raiseReplace n).complete)

/-- A base die enters reset with its LD (R331, R440): its slices discard their tickets, and its caches and ports are gone. -/
def State.resetBase (n : Nat) (s : State) : State :=
  let s1 := s.setLd n { s.ldOf n with baseReset := true, dieReset := 3, wakes := [] }
  { s1 with
    columns := (List.range 48).foldl (fun c k =>
      c.set Column.reset (colKey n k) { s1.colOf n k with slice := Slice.reset }) s1.columns
    copies := s1.copies.filter fun c => c.ld.toNat ≠ n ∧ c.line * 64 / 2 ^ 38 ≠ n
    hartLines := s1.hartLines.filter fun h => h.hart.ld.toNat ≠ n ∧ h.line * 64 / 2 ^ 38 ≠ n
    tlb := s1.tlb.filter fun t => t.ld.toNat ≠ n
    walkWords := s1.walkWords.filter fun t => t.ld.toNat ≠ n
    accepted := s1.accepted.filter fun r => match r with | .access _ _ _ line => line * 64 / 2 ^ 38 ≠ n | .outside _ _ => true }

/-- A base die fails (R440): every launch of the LD ends with FAULTED; its ports no longer answer. -/
def execBaseDieFailure (ld : BitVec 2) (s : State) : Host.Outcome State Fault Refusal :=
  .next (
    let n := ld.toNat
    if (s.ldOf n).baseReset then s
    else
      let ports := allPorts.filter fun p => portLd p = n ∧ ((s.portOf p).state = .up ∨ (s.portOf p).state = .training)
      let s1 := (ports.foldl (fun s p => s.portDown p) s).faultLaunches fun l => l.ld = ld
      (((s1.dropWarps n fun _ => true).resetBase n).raiseReplace n).complete)

/-- The cores of an exposed column fail (R442). A column lost before keeps its one report. -/
def execCoresLost (ld : BitVec 2) (col : BitVec 6) (s : State) : Host.Outcome State Fault Refusal :=
  .next (s.loseCores ld.toNat (· = col.toNat)).complete

/-- The bytes that a lost hart had not written back: whether they reach the home first is an alternative (R3). -/
def State.dropHart (ld col : Nat) (s : State) : State :=
  let mine := s.hartLines.filter fun h => h.hart.ld.toNat = ld ∧ h.hart.col.toNat = col
  let (b, s1) := if mine.any fun h => h.dirty ≠ [] then s.pick else (false, s)
  { s1 with
    mem := if b then mine.foldl (fun m h => h.dirty.foldl (fun m x => m.set memDefault x.1 x.2) m) s1.mem else s1.mem
    hartLines := s1.hartLines.filter fun h => ¬ (h.hart.ld.toNat = ld ∧ h.hart.col.toNat = col) }

/-- A line homed in a slice: the first from a free place on (R442). DESIGN CHOICE, assumption 76. -/
def State.lostLine (s : State) (ld col : Nat) : Nat :=
  let at_ := Config.lostLine s.fresh % (0x3C_0000_0000 / 64 - 1024)
  ((List.range 1024).find? fun i => s.homeCol (ld * 2 ^ 32 + at_ + i) = col).elim 0 fun i => ld * 2 ^ 32 + at_ + i

/-- The lines of a lost slice become poisoned (R335, R442): POISONLOG keeps one if it is empty, UNCORR goes to its largest value, and
one report stands for them, since no access has consumed them (R439). DESIGN CHOICE, assumption 76. -/
def State.logLost (ld col : Nat) (s : State) : State :=
  let line := s.lostLine ld col
  let s1 := s.poisonLine line
  let l := s1.ldOf ld
  let s2 := { s1.setLd ld { l with memerr := l.memerr ||| 0x0000_FFFF_0000_0000 } with poison := s.poison, fresh := s.fresh + 1 }
  s2.reportPoison (homeLoc ld (64 * line))

/-- The slice of a column is gone (R442): the lines homed in it are poisoned, copies of them are invalidated, and its own
visitor copies drop from the records. -/
def State.dropSlice (ld col : Nat) (s : State) : State :=
  let homed := fun (line : Nat) => decide (line * 64 / 2 ^ 38 = ld ∧ s.homeCol line = col)
  let s1 : State :=
    { s with
      copies := s.copies.filter fun c => ¬ homed c.line ∧ ¬ (c.ld.toNat = ld ∧ c.col.toNat = col ∧ c.holder = 0)
      hartLines := s.hartLines.filter fun h => ¬ homed h.line
      healed := s.healed.filter fun l => ¬ homed l
      accepted := s.accepted.filter fun r => match r with | .access _ _ _ line => ¬ homed line | .outside _ _ => true }
  (s1.setCol ld col { s1.colOf ld col with hartLost := true, slice := Slice.reset }).logLost ld col

/-- The base-die part of an exposed column is lost (R442), and its cores with it. -/
def execBaseDiePartLost (ld : BitVec 2) (col : BitVec 6) (s : State) : Host.Outcome State Fault Refusal :=
  .next (
    let n := ld.toNat
    let c := col.toNat
    if (s.colOf n c).hartLost ∨ ¬ (s.ldOf n).homes.getLsbD c then s
    else
      let s1 := s.faultLaunches fun l => l.ld = ld && l.col = col
      (((s1.dropHart n c).dropSlice n c).loseCores n (· = c)).complete)

end Sys2Proof.Machine
end

