-- ==== Sys2Proof/Machine/Csr.lean ====
section
/-! DEFINITION. The custom CSRs of the column harts (R342, R385, R395, R430, R436): what they read, and what a write does. -/

namespace Sys2Proof.Machine

/-! Reads. -/

/-- The regions of an LD that can be used: those that use no retired pseudo-channel (R443). -/
def LdState.usable (l : LdState) : Nat := (List.range 240).countP fun k => ¬ l.pairRetired (k % 32)

/-- A compute die's spare, the built column of the highest position, serves (R21). -/
def spareUsed (failed : BitVec 25) : Bool := failed ≠ 0 && ¬ failed.getLsbD 24

/-- vxcap (Table 9 of R436). -/
def capWord (l : LdState) : DWord :=
  BitVec.ofNat 64 (l.replace.toNat * 2 ^ 63 + l.day.toNat * 2 ^ 62 + l.usable * 2 ^ 40
    + min (popCount l.retiredPcs.toNat 256) 15 * 2 ^ 16 + ((spareUsed l.failed0).toNat + (spareUsed l.failed1).toNat) * 2 ^ 8
    + popCount l.cols.toNat 48)

/-- vxerr (Table 9 of R436). -/
def errorWord (es : List ErrReport) : DWord :=
  match es with
  | [] => 0
  | e :: _ =>
    BitVec.ofNat 64 (2 ^ 63 + e.ovf.toNat * 2 ^ 62 + e.kind.toNat * 2 ^ 59 + e.stall.toNat * 2 ^ 49 + e.info.toNat)

/-- vxqcfg of a queue (Table 4 of R395). -/
def State.queueWord (s : State) (ld q : Nat) : DWord :=
  let x := s.queueOf ld q
  BitVec.ofNat 64 (s.depthOf ld q * 2 ^ 56 + x.suspend.toNat * 2 ^ 50 + x.cancel.toNat * 2 ^ 49 + x.en.toNat * 2 ^ 48
    + x.nblk.toNat * 2 ^ 32 + x.slice.toNat * 2 ^ 16 + x.owner.toNat)

/-- The edge that vxedgeh or vxedgev of an LD shows (R385). -/
def edgeOf (ld : Nat) (vertical : Bool) : Nat := if vertical then 2 + ld % 2 else ld / 2

/-- vxedgeh and vxedgev (Table 6 of R385): a module counts by the worse of its two directions. -/
def State.edgeWord (s : State) (e : Nat) : DWord :=
  let m := fun i => s.moduleOf (moduleKey e i)
  let out := (List.range 96).countP fun i => (m i).out
  let half := (List.range 96).countP fun i => ¬ (m i).out && (m i).half
  let spares := ((List.range 96).map fun i => (m i).there.spares + (m i).back.spares).sum
  BitVec.ofNat 64 ((s.retrains.get 0 e).toNat * 2 ^ 48 + min spares 1023 * 2 ^ 32 + half * 2 ^ 16 + out * 2 ^ 8 + (96 - half - out))

/-- Code of a port's state (Table 6 of R385). -/
def portCode : PortState → Nat
  | .down => 0 | .training => 1 | .up => 2 | .disabled => 3

/-- vxualst (Table 6 of R385). -/
def State.portWord (s : State) : DWord :=
  BitVec.ofNat 64 ((allPorts.map fun n => portCode (s.portOf n).state * 4 ^ portEnBit n).sum)

/-- vxgov (Table 4 of R430). -/
def govWord (c : Column) : DWord :=
  BitVec.ofNat 64 (c.cap.toNat * 2 ^ 48 + c.budget.toNat * 2 ^ 32 + c.level.toNat * 2 ^ 30 + c.floor.toNat * 2 ^ 28
    + c.clk1.toNat * 4 + c.clk0.toNat)

/-- What hart h reads from mhartid (R25) or a custom CSR; none for a number that no table assigns. -/
def State.csrValue (s : State) (h : HartId) (csr : Nat) : Option DWord :=
  let ld := h.ld.toNat
  let l := s.ldOf ld
  let c := s.colOf ld h.col.toNat
  let q := c.vxqsel.toNat
  match csr with
  | 0xF14 => some (BitVec.ofNat 64 (colKey ld h.col.toNat))
  | 0x5C0 => some (l.stalltab.zeroExtend 64)
  | 0x5C1 => some l.vxinval
  | 0x5C2 => some (s.vxarena.zeroExtend 64)
  | 0x5C3 => some (s.vxarenan.zeroExtend 64)
  | 0x5C4 => some (l.vxpool.zeroExtend 64)
  | 0x5C5 => some (l.vxpooltop.zeroExtend 64)
  | 0x5C6 => some (l.vxpoolcap.zeroExtend 64)
  | 0x5C7 => some (BitVec.ofNat 64 (Config.launchBase ld h.col.toNat))
  | 0x5C8 => some (s.edgeWord (edgeOf ld false))
  | 0x5C9 => some (s.edgeWord (edgeOf ld true))
  | 0x5CA => some s.portWord
  | 0x5CB => some (s.vxualen.zeroExtend 64)
  | 0x5CC => some s.vxualdrop
  | 0x5CD => some l.edgedrop
  | 0x5D0 => some (c.vxqsel.zeroExtend 64)
  | 0x5D1 => some (s.queueWord ld q)
  | 0x5D2 => some ((s.queueOf ld q).tvec.zeroExtend 64)
  | 0x5D3 => some (s.queueOf ld q).save
  | 0x5D8 => some (govWord c)
  | 0x5E0 => some (capWord l)
  | 0x5E1 => some (l.cols.zeroExtend 64)
  | 0x5E2 => some (errorWord l.errors)
  | 0x5E3 => some (c.vxstall.zeroExtend 64)
  | 0x5E4 => some (BitVec.ofNat 64 ((if l.endings.isEmpty then 0 else 2 ^ 63) + l.stallEnd.toNat))
  | 0x5E5 => some (s.vxpkg.zeroExtend 64)
  | _ => none

/-- A read of a custom CSR by hart h in a mode (R342): the value, or the exception. mhartid is RISC-V's own, read in M mode. -/
def State.csrRead (s : State) (h : HartId) (mode : HartMode) (csr : Nat) : Except HartCause (Option DWord) :=
  match (if csr = 0xF14 then (if mode = .m then none else some .illegalInstruction) else csrTrap mode) with
  | some c => .error c
  | none => .ok (s.csrValue h csr)

/-- Bit 16 of `sip` in every hart of an LD (R437). -/
def State.errorPending (s : State) (ld : Nat) : Bool := ¬ (s.ldOf ld).errors.isEmpty

/-! Writes. -/

/-- n bits of a value from bit lo. -/
def fieldOf (n lo : Nat) (v : DWord) : BitVec n := BitVec.ofNat n (v.toNat / 2 ^ lo)

/-- A write to vxqcfg of a queue (R395, R397). -/
def State.writeQcfg (ld q : Nat) (v : DWord) (s : State) : State :=
  let x := s.queueOf ld q
  let nblk := if s.depthOf ld q = 0 then fieldOf 16 32 v else x.nblk
  let s1 := s.setQueueOf ld q
    { x with en := v.getLsbD 48, nblk := nblk, slice := fieldOf 16 16 v, owner := fieldOf 10 0 v, suspend := v.getLsbD 50 }
  let s2 := if v.getLsbD 49 then s1.cancel ld q else s1
  if v.getLsbD 50 then s2.suspend ld q else s2

/-- A write to vxqsave, ignored while launches are held (R395). -/
def State.writeQsave (ld q : Nat) (v : DWord) (s : State) : State :=
  if s.depthOf ld q = 0 then s.setQueueOf ld q { s.queueOf ld q with save := v &&& 0x00FF_FFFF_FFFF_0000 } else s

/-- A write to vxstallend (R436): ignored while BUSY, and for stall 0. -/
def State.writeStallEnd (ld : Nat) (v : DWord) (s : State) : State :=
  let l := s.ldOf ld
  let st := fieldOf 10 0 v
  if l.endings ≠ [] ∨ st = 0 then s
  else ((s.setLd ld { l with stallEnd := st }).beginStallEnd ld st.toNat false).complete

/-- RETRAINS of an edge is written (R385). -/
def State.writeEdge (e : Nat) (v : DWord) (s : State) : State := { s with retrains := s.retrains.set 0 e (fieldOf 16 48 v) }

/-- The write of a custom CSR by hart h, which may write it; numbers that no table assigns, and RO registers, keep. -/
def State.csrWrite (h : HartId) (csr : Nat) (v : DWord) (s : State) : State :=
  let ld := h.ld.toNat
  let l := s.ldOf ld
  let c := s.colOf ld h.col.toNat
  let q := c.vxqsel.toNat
  match csr with
  | 0x5C0 => s.setLd ld { l with stalltab := v.truncate 56 &&& 0xFF_FFFF_FFFF_0000 }
  | 0x5C1 => s.invalidate (some (.hart h)) ld (v.toNat / 2 ^ 62) (fieldOf 10 52 v) (fieldOf 47 0 v)
  | 0x5C2 => { s with vxarena := v.truncate 56 &&& 0xFF_FFFF_FFFF_F000 }
  | 0x5C3 => { s with vxarenan := v.truncate 32 }
  | 0x5C4 => s.setLd ld { l with vxpool := v.truncate 56 &&& 0xFF_FFFF_FFFF_FFF8 }
  | 0x5C5 => s.setLd ld { l with vxpooltop := v.truncate 32 }
  | 0x5C6 => s.setLd ld { l with vxpoolcap := v.truncate 32 }
  | 0x5C8 => s.writeEdge (edgeOf ld false) v
  | 0x5C9 => s.writeEdge (edgeOf ld true) v
  | 0x5CB => s.writeUalen v.toNat
  | 0x5CC => { s with vxualdrop := v }
  | 0x5CD => s.setLd ld { l with edgedrop := v }
  | 0x5D0 => s.setCol ld h.col.toNat { c with vxqsel := fieldOf 6 0 v }
  | 0x5D1 => s.writeQcfg ld q v
  | 0x5D2 => s.setQueueOf ld q { s.queueOf ld q with tvec := v.truncate 48 &&& 0xFFFF_FFFF_FFFC }
  | 0x5D3 => s.writeQsave ld q v
  | 0x5D8 => s.writeGov h v
  | 0x5E2 => s.popError ld
  | 0x5E3 => s.setCol ld h.col.toNat { c with vxstall := fieldOf 10 0 v }
  | 0x5E4 => s.writeStallEnd ld v
  | 0x5E5 => if s.pkgFixed then s else { s with vxpkg := v.truncate 16 }
  | _ => s

/-- A write to a custom CSR under the access rules of R342. -/
def execCsrWrite (h : HartId) (mode : HartMode) (csr : BitVec 12) (v : BitVec 64) (s : State) : Host.Outcome State Fault Refusal :=
  .next (s.custom h mode fun t => t.csrWrite h csr.toNat v)

/-- A write to RGNCTL k of an LD by system software (R338), for whose acknowledgement no agent of the package waits. -/
def execRgnctlWrite (ld : BitVec 2) (k : BitVec 8) (v : BitVec 64) (s : State) : Host.Outcome State Fault Refusal :=
  .next (s.writeRgnctl none ld.toNat k.toNat v)

end Sys2Proof.Machine
end

