-- ==== Sys2Proof/Machine/Start.lean ====
section
/-! DEFINITION. First light and daylight (R21, R443 to R446), attestation (R447), and the passing of an FE cycle (R128). -/

namespace Sys2Proof.Machine

/-- An image is accepted (R446): both signatures verify against keys whose hashes are fused, and its version is not below the
counter. -/
def imageOk (f : Fuses) (c : ImageCopy) : Bool :=
  c.edSigned && c.mlSigned && c.edKey = f.edKey && c.mlKey = f.mlKey && f.rollback ≤ c.version

/-- The copies of the images in pairs (R446): the number of the accepted copy of each; none when both copies of one are
rejected. -/
def acceptedImages (f : Fuses) : Nat → List ImageCopy → Option (List Nat)
  | _, [] => some []
  | n, [a] => if imageOk f a then some [n] else none
  | n, a :: b :: r =>
    if imageOk f a then (acceptedImages f (n + 2) r).map (fun x => n :: x)
    else if imageOk f b then (acceptedImages f (n + 2) r).map (fun x => (n + 1) :: x) else none

def imagesOf (inp : StartInput) : Option (List Nat) := acceptedImages inp.fuses 0 inp.images

/-- The bits of a mask that p names. -/
def bitsWhere (n : Nat) (p : Nat → Bool) : BitVec n := BitVec.ofNat n (((List.range n).filter p).map fun k => 2 ^ k).sum

/-- Positions of a compute die's 25 built columns that fail test (R21). -/
def failedOn (inp : StartInput) (ld die : Nat) : BitVec 25 :=
  bitsWhere 25 fun p => inp.failedCols.any fun f => f.1.toNat = ld && f.2.1.toNat = die && f.2.2 = p

/-- The positions of the columns that a die exposes, in the order of their logical numbers (R21, R443). -/
def exposedAt (failed : BitVec 25) : List Nat := ((List.range 25).filter fun p => ¬ failed.getLsbD p).take 24

/-- The physical position of a logical column within its compute die (R21). -/
def LdState.position (l : LdState) (col : Nat) : Option Nat := (exposedAt (if col < 24 then l.failed0 else l.failed1))[col % 24]?

/-- vxcols of an LD (R443): the missing logical numbers are the highest of each die's half. -/
def columnMask (n0 n1 : Nat) : BitVec 48 := BitVec.ofNat 48 (2 ^ n0 - 1 + (2 ^ n1 - 1) * 2 ^ 24)

/-- The pseudo-channels of an LD that are retired (R443). -/
def retiredAt (inp : StartInput) (ld : Nat) : BitVec 256 :=
  bitsWhere 256 fun k => inp.retired.any fun r => r.1.toNat = ld && r.2.1 = k / 64 && r.2.2 = k % 64

/-- The pseudo-channels of an LD that have failed while the module ran (R336): those of channel 32t + i are 2i and 2i + 1 of stack t
(assumption 44). -/
def State.failedPcs (s : State) (ld : Nat) : List (BitVec 2 × Nat × Nat) :=
  ((s.ldOf ld).channels.filter fun c => c.2.2).flatMap fun c =>
    [0, 1].map fun b => (BitVec.ofNat 2 ld, c.1 / 32, 2 * (c.1 % 32) + b)

/-- The columns of an LD as step 6 maps them (R443). -/
def LdState.mapped (inp : StartInput) (ld : Nat) (l : LdState) : LdState :=
  let f0 := failedOn inp ld 0
  let f1 := failedOn inp ld 1
  { l with
    cols := columnMask (exposedAt f0).length (exposedAt f1).length
    failed0 := f0, failed1 := f1 }

/-- The first column of compute die 0 of LD0 that passes, in physical order (R445). -/
def firstColumn (inp : StartInput) : Option Nat := (exposedAt (failedOn inp 0 0)).head?

/-- The step that stops the start, if one does (R444 to R446): the earliest of them. -/
def firstStop (inp : StartInput) : Option Nat :=
  let a := if (imagesOf inp).isNone then [1] else []
  let b := match inp.stopStep with | some n => if 1 ≤ n ∧ n ≤ 8 then [n] else [] | none => []
  let c := if (firstColumn inp).isNone then [5] else []
  (a ++ b ++ c).foldl (fun m n => match m with | none => some n | some x => some (min x n)) none

/-- What a start keeps: what has left the module, and the model's own fields. Nothing is up: no column is mapped, DAY is clear, and
every port is down. -/
def State.powered (s : State) : State :=
  let dark : LdState := { LdState.reset with day := false, cols := 0, homes := 0 }
  { State.reset with
    phase := .off, images := [], dayCaps := [], mgmt := s.mgmt, outbox := s.outbox, agenda := s.agenda, fresh := s.fresh
    opLatency := s.opLatency, lds := (List.range 4).foldl (fun c ld => c.set LdState.reset ld dark) []
    ports := allPorts.foldl (fun c n => c.set Port.reset n { Port.reset with state := .down }) [] }

/-- The start stops (R444): the module reports the step's number. -/
def State.stopStart (n : Nat) (s : State) : State := { s with phase := .stopped n, mgmt := s.mgmt ++ [.stopStep n] }

/-- Step 5 ends (R444, R445): TICK is 0, and region 0 of LD0 is the only memory; the hart of the first column that passes runs alone,
as column 0, and its slice serves the region. -/
def State.lit (inp : StartInput) (s : State) : State :=
  let t := s.powered
  let first := (firstColumn inp).getD 0
  let l := t.ldOf 0
  { t.setLd 0 { l with homes := 1, failed0 := BitVec.ofNat 25 (2 ^ first - 1) } with
    phase := .starting 5, start := some inp, images := (imagesOf inp).getD [] }

/-- First light (R444): the steps from power-good to the end of step 5, or to the step that stops them; the others follow with time. -/
def execFirstLight (inp : StartInput) (s : State) : Host.Outcome State Fault Refusal :=
  .next (
    let inp1 := { inp with retired := inp.retired ++ (List.range 4).flatMap s.failedPcs }
    match firstStop inp with
    | some n => if n ≤ 5 then { s.powered with images := if n = 1 then [] else (imagesOf inp).getD [] }.stopStart n else s.lit inp1
    | none => s.lit inp1)

/-- An LD that starts with less than its full capacity raises REPLACE (R443). -/
def State.raiseShort (ld : Nat) (s : State) : State :=
  if (s.ldOf ld).cols ≠ BitVec.allOnes 48 ∨ (s.ldOf ld).usable < 240 then s.raiseReplace ld else s

/-- Step 8 ends (R443, R444): region 0 of LD0 keeps its bytes and all other memory is 0; regions of retired pseudo-channels are
offline; every exposed column's hart and slice is in service, and DAY is set. -/
def State.daylight (inp : StartInput) (s : State) : State :=
  let t1 := (List.range 4).foldl (fun t ld =>
    t.setLd ld { t.ldOf ld with day := true, homes := (t.ldOf ld).cols, retiredPcs := retiredAt inp ld }) s
  let t2 := (List.range 4).foldl (fun t ld => t.raiseShort ld) t1
  { t2 with phase := .daylight, start := none, dayCaps := (List.range 4).map fun ld => capWord (t2.ldOf ld) }

/-- What the end of step n does (R444): 6 maps columns, 7 begins to train the ports, 8 is daylight. -/
def State.endStep (inp : StartInput) (n : Nat) (s : State) : State :=
  match n with
  | 6 => { (List.range 4).foldl (fun t ld => t.setLd ld ((t.ldOf ld).mapped inp ld)) s with phase := .starting 6 }
  | 7 => { allPorts.foldl (fun t p => t.train p) s with phase := .starting 7 }
  | _ => s.daylight inp

/-- The value of TICK at which a step ends. -/
def endOfStep (inp : StartInput) (n : Nat) : Nat := if n = 6 then inp.ends.1 else if n = 7 then inp.ends.2.1 else inp.ends.2.2

/-- The next step of a start under way, once its time has come (R444): it ends, or it stops the start. -/
def State.advance (s : State) : State :=
  match s.phase, s.start with
  | .starting k, some inp =>
    if s.tick.toNat < endOfStep inp (k + 1) then s
    else if firstStop inp = some (k + 1) then s.stopStart (k + 1)
    else s.endStep inp (k + 1)
  | _, _ => s

/-! Attestation (R447). -/

/-- The Kryfilum hart answers an SPDM request through PCIe port 0 with measurements signed by both keys (R447). -/
def execAttestationRequest (nonce : BitVec 256) (s : State) : Host.Outcome State Fault Refusal :=
  .next (
    if s.phase = .daylight ∧ (s.portOf 32).state = .up then
      let meas := s.images.map Config.measurement ++ [Config.fuseMeasurement, Config.capMeasurement s.dayCaps]
      let m := nonce.toNat :: meas
      { s with mgmt := s.mgmt ++ [.attestation nonce meas (Config.signEd25519 m) (Config.signMlDsa m)] }
    else s)

/-! The passing of a cycle. -/

/-- The path count of a warp grows (R194). -/
def Warp.tickPath (w : Warp) : Warp :=
  if w.life = .run ∧ w.park = .none ∧ ¬ w.inh ∧ w.dh < w.depth then { w with pathCount := w.pathCount + 1 } else w

/-- The slice timer of a queue's current launch runs while a workgroup of it is resident (R410). -/
def State.tickTimer (s : State) (l : Launch) : Launch :=
  if s.isHead l ∧ s.resident l then { l with timer := l.timer + 1 } else l

/-- One FE cycle of 0.625 ns passes (R128): TICK, path counts, slice timers, and the time before the next event. -/
def execTick (s : State) : Host.Outcome State Fault Refusal :=
  .next (
    let s1 := (s.mapWarps Warp.tickPath).mapLaunches s.tickTimer
    { s1 with
      tick := s.tick + 1
      agenda := match s.agenda with | (n + 1, e) :: r => (n, e) :: r | a => a })

end Sys2Proof.Machine
end

