-- ==== Sys2Proof/Machine/Dispatch.lean ====
section
/-! DEFINITION. The meaning of every constructor: one arm each, one call of its own meaning. -/

namespace Sys2Proof.Machine

/-- What one step of the device does (R13 to R15). -/
def exec (i : Instr) (s : State) : Host.Outcome State Fault Refusal :=
  match i with
  | .hintImm p => Sys2Proof.Machine.execHintImm p s
  | .hintImmh p => Sys2Proof.Machine.execHintImmh p s
  | .hintRc o => Sys2Proof.Machine.execHintRc o s
  | .hintRep t n => Sys2Proof.Machine.execHintRep t n s
  | .hintMod p => Sys2Proof.Machine.execHintMod p s
  | .hintCp p z => Sys2Proof.Machine.execHintCp p z s
  | .hintSch c => Sys2Proof.Machine.execHintSch c s
  | .hintKv k => Sys2Proof.Machine.execHintKv k s
  | .add d a b => Sys2Proof.Machine.execAdd d a b s
  | .sub d a b => Sys2Proof.Machine.execSub d a b s
  | .mul d a b => Sys2Proof.Machine.execMul d a b s
  | .mulh d a b => Sys2Proof.Machine.execMulh d a b s
  | .mulhn d a b => Sys2Proof.Machine.execMulhn d a b s
  | .div d a b => Sys2Proof.Machine.execDiv d a b s
  | .divn d a b => Sys2Proof.Machine.execDivn d a b s
  | .rem d a b => Sys2Proof.Machine.execRem d a b s
  | .remn d a b => Sys2Proof.Machine.execRemn d a b s
  | .and d a b => Sys2Proof.Machine.execAnd d a b s
  | .or d a b => Sys2Proof.Machine.execOr d a b s
  | .xor d a b => Sys2Proof.Machine.execXor d a b s
  | .andn d a b => Sys2Proof.Machine.execAndn d a b s
  | .shl d a b => Sys2Proof.Machine.execShl d a b s
  | .shr d a b => Sys2Proof.Machine.execShr d a b s
  | .sar d a b => Sys2Proof.Machine.execSar d a b s
  | .rol d a b => Sys2Proof.Machine.execRol d a b s
  | .min d a b => Sys2Proof.Machine.execMin d a b s
  | .max d a b => Sys2Proof.Machine.execMax d a b s
  | .minn d a b => Sys2Proof.Machine.execMinn d a b s
  | .maxn d a b => Sys2Proof.Machine.execMaxn d a b s
  | .clz d a => Sys2Proof.Machine.execClz d a s
  | .ctz d a => Sys2Proof.Machine.execCtz d a s
  | .popc d a => Sys2Proof.Machine.execPopc d a s
  | .sextB d a => Sys2Proof.Machine.execSextB d a s
  | .sextH d a => Sys2Proof.Machine.execSextH d a s
  | .sextW d a => Sys2Proof.Machine.execSextW d a s
  | .bfx d a b => Sys2Proof.Machine.execBfx d a b s
  | .bfi d a b => Sys2Proof.Machine.execBfi d a b s
  | .mov d a => Sys2Proof.Machine.execMov d a s
  | .cmpEq d a b => Sys2Proof.Machine.execCmpEq d a b s
  | .cmpNe d a b => Sys2Proof.Machine.execCmpNe d a b s
  | .cmpLt d a b => Sys2Proof.Machine.execCmpLt d a b s
  | .cmpLe d a b => Sys2Proof.Machine.execCmpLe d a b s
  | .cmpLtn d a b => Sys2Proof.Machine.execCmpLtn d a b s
  | .cmpLen d a b => Sys2Proof.Machine.execCmpLen d a b s
  | .sel d a b => Sys2Proof.Machine.execSel d a b s
  | .addi d a imm => Sys2Proof.Machine.execAddi d a imm s
  | .andi d a imm => Sys2Proof.Machine.execAndi d a imm s
  | .ori d a imm => Sys2Proof.Machine.execOri d a imm s
  | .xori d a imm => Sys2Proof.Machine.execXori d a imm s
  | .shli d a imm => Sys2Proof.Machine.execShli d a imm s
  | .shri d a imm => Sys2Proof.Machine.execShri d a imm s
  | .sari d a imm => Sys2Proof.Machine.execSari d a imm s
  | .slti d a imm => Sys2Proof.Machine.execSlti d a imm s
  | .sltni d a imm => Sys2Proof.Machine.execSltni d a imm s
  | .li d imm => Sys2Proof.Machine.execLi d imm s
  | .adr d imm => Sys2Proof.Machine.execAdr d imm s
  | .sldB64 l d a imm => Sys2Proof.Machine.execSldB64 l d a imm s
  | .sldB32 l d a imm => Sys2Proof.Machine.execSldB32 l d a imm s
  | .sstB64 d a imm => Sys2Proof.Machine.execSstB64 d a imm s
  | .sstB32 d a imm => Sys2Proof.Machine.execSstB32 d a imm s
  | .sldSt l d a z => Sys2Proof.Machine.execSldSt l d a z s
  | .sstSt d a z => Sys2Proof.Machine.execSstSt d a z s
  | .casm l d a n => Sys2Proof.Machine.execCasm l d a n s
  | .claim d a b => Sys2Proof.Machine.execClaim d a b s
  | .br o => Sys2Proof.Machine.execBr o s
  | .brAny g o => Sys2Proof.Machine.execBrAny g o s
  | .brAll g o => Sys2Proof.Machine.execBrAll g o s
  | .brNone g o => Sys2Proof.Machine.execBrNone g o s
  | .brd g o => Sys2Proof.Machine.execBrd g o s
  | .call o => Sys2Proof.Machine.execCall o s
  | .rsr d n => Sys2Proof.Machine.execRsr d n s
  | .wsr n b => Sys2Proof.Machine.execWsr n b s
  | .trap n => Sys2Proof.Machine.execTrap n s
  | .tret => Sys2Proof.Machine.execTret s
  | .fenceAcq z => Sys2Proof.Machine.execFenceAcq z s
  | .fenceRel z => Sys2Proof.Machine.execFenceRel z s
  | .fenceFull z => Sys2Proof.Machine.execFenceFull z s
  | .wait d n t => Sys2Proof.Machine.execWait d n t s
  | .waitr d n b => Sys2Proof.Machine.execWaitr d n b s
  | .nap a => Sys2Proof.Machine.execNap a s
  | .refill d => Sys2Proof.Machine.execRefill d s
  | .exitI => Sys2Proof.Machine.execExitI s
  | .succ n => Sys2Proof.Machine.execSucc n s
  | .succClr => Sys2Proof.Machine.execSuccClr s
  | .retire => Sys2Proof.Machine.execRetire s
  | .yield => Sys2Proof.Machine.execYield s
  | .jr d a => Sys2Proof.Machine.execJr d a s
  | .stkSave d a => Sys2Proof.Machine.execStkSave d a s
  | .stkLoad a => Sys2Proof.Machine.execStkLoad a s
  | .acget d n => Sys2Proof.Machine.execAcget d n s
  | .acset n b => Sys2Proof.Machine.execAcset n b s
  | .qdrop d q => Sys2Proof.Machine.execQdrop d q s
  | .vadd d a b => Sys2Proof.Machine.execVadd d a b s
  | .vsub d a b => Sys2Proof.Machine.execVsub d a b s
  | .vmul d a b => Sys2Proof.Machine.execVmul d a b s
  | .vmulh d a b => Sys2Proof.Machine.execVmulh d a b s
  | .vmulhn d a b => Sys2Proof.Machine.execVmulhn d a b s
  | .vmad d a b => Sys2Proof.Machine.execVmad d a b s
  | .vmin d a b => Sys2Proof.Machine.execVmin d a b s
  | .vmax d a b => Sys2Proof.Machine.execVmax d a b s
  | .vminn d a b => Sys2Proof.Machine.execVminn d a b s
  | .vmaxn d a b => Sys2Proof.Machine.execVmaxn d a b s
  | .vabs d a => Sys2Proof.Machine.execVabs d a s
  | .vand d a b => Sys2Proof.Machine.execVand d a b s
  | .vor d a b => Sys2Proof.Machine.execVor d a b s
  | .vxor d a b => Sys2Proof.Machine.execVxor d a b s
  | .vandn d a b => Sys2Proof.Machine.execVandn d a b s
  | .vshl d a b => Sys2Proof.Machine.execVshl d a b s
  | .vshr d a b => Sys2Proof.Machine.execVshr d a b s
  | .vsar d a b => Sys2Proof.Machine.execVsar d a b s
  | .vrol d a b => Sys2Proof.Machine.execVrol d a b s
  | .vclz d a => Sys2Proof.Machine.execVclz d a s
  | .vpopc d a => Sys2Proof.Machine.execVpopc d a s
  | .vaddsat d a b => Sys2Proof.Machine.execVaddsat d a b s
  | .vsubsat d a b => Sys2Proof.Machine.execVsubsat d a b s
  | .vaddsatn d a b => Sys2Proof.Machine.execVaddsatn d a b s
  | .vsubsatn d a b => Sys2Proof.Machine.execVsubsatn d a b s
  | .vdot4 d a b => Sys2Proof.Machine.execVdot4 d a b s
  | .vdot4n d a b => Sys2Proof.Machine.execVdot4n d a b s
  | .vmov d a => Sys2Proof.Machine.execVmov d a s
  | .vbfx d a b => Sys2Proof.Machine.execVbfx d a b s
  | .vbfi d a b => Sys2Proof.Machine.execVbfi d a b s
  | .vaddX d a x b => Sys2Proof.Machine.execVaddX d a x b s
  | .vsubX d a x b => Sys2Proof.Machine.execVsubX d a x b s
  | .vmulX d a x b => Sys2Proof.Machine.execVmulX d a x b s
  | .vmulhX d a x b => Sys2Proof.Machine.execVmulhX d a x b s
  | .vmulhnX d a x b => Sys2Proof.Machine.execVmulhnX d a x b s
  | .vmadX d a x b => Sys2Proof.Machine.execVmadX d a x b s
  | .vminX d a x b => Sys2Proof.Machine.execVminX d a x b s
  | .vmaxX d a x b => Sys2Proof.Machine.execVmaxX d a x b s
  | .vminnX d a x b => Sys2Proof.Machine.execVminnX d a x b s
  | .vmaxnX d a x b => Sys2Proof.Machine.execVmaxnX d a x b s
  | .vandX d a x b => Sys2Proof.Machine.execVandX d a x b s
  | .vorX d a x b => Sys2Proof.Machine.execVorX d a x b s
  | .vxorX d a x b => Sys2Proof.Machine.execVxorX d a x b s
  | .vandnX d a x b => Sys2Proof.Machine.execVandnX d a x b s
  | .vshlX d a x b => Sys2Proof.Machine.execVshlX d a x b s
  | .vshrX d a x b => Sys2Proof.Machine.execVshrX d a x b s
  | .vsarX d a x b => Sys2Proof.Machine.execVsarX d a x b s
  | .vrolX d a x b => Sys2Proof.Machine.execVrolX d a x b s
  | .vaddsatX d a x b => Sys2Proof.Machine.execVaddsatX d a x b s
  | .vsubsatX d a x b => Sys2Proof.Machine.execVsubsatX d a x b s
  | .vaddsatnX d a x b => Sys2Proof.Machine.execVaddsatnX d a x b s
  | .vsubsatnX d a x b => Sys2Proof.Machine.execVsubsatnX d a x b s
  | .vdot4X d a x b => Sys2Proof.Machine.execVdot4X d a x b s
  | .vdot4nX d a x b => Sys2Proof.Machine.execVdot4nX d a x b s
  | .vmovs d x b => Sys2Proof.Machine.execVmovs d x b s
  | .vbfxX d a x b => Sys2Proof.Machine.execVbfxX d a x b s
  | .vbfiX d a x b => Sys2Proof.Machine.execVbfiX d a x b s
  | .vfadd d a b => Sys2Proof.Machine.execVfadd d a b s
  | .vfsub d a b => Sys2Proof.Machine.execVfsub d a b s
  | .vfmul d a b => Sys2Proof.Machine.execVfmul d a b s
  | .vffma d a b => Sys2Proof.Machine.execVffma d a b s
  | .vffms d a b => Sys2Proof.Machine.execVffms d a b s
  | .vfmin d a b => Sys2Proof.Machine.execVfmin d a b s
  | .vfmax d a b => Sys2Proof.Machine.execVfmax d a b s
  | .vfabs d a => Sys2Proof.Machine.execVfabs d a s
  | .vfneg d a => Sys2Proof.Machine.execVfneg d a s
  | .vfrnd d a => Sys2Proof.Machine.execVfrnd d a s
  | .vfclass d a => Sys2Proof.Machine.execVfclass d a s
  | .vfscl d a b => Sys2Proof.Machine.execVfscl d a b s
  | .vfcpys d a b => Sys2Proof.Machine.execVfcpys d a b s
  | .vfaddX d a x b => Sys2Proof.Machine.execVfaddX d a x b s
  | .vfsubX d a x b => Sys2Proof.Machine.execVfsubX d a x b s
  | .vfmulX d a x b => Sys2Proof.Machine.execVfmulX d a x b s
  | .vffmaX d a x b => Sys2Proof.Machine.execVffmaX d a x b s
  | .vffmsX d a x b => Sys2Proof.Machine.execVffmsX d a x b s
  | .vfminX d a x b => Sys2Proof.Machine.execVfminX d a x b s
  | .vfmaxX d a x b => Sys2Proof.Machine.execVfmaxX d a x b s
  | .vfsclX d a x b => Sys2Proof.Machine.execVfsclX d a x b s
  | .vfcpysX d a x b => Sys2Proof.Machine.execVfcpysX d a x b s
  | .vhaddF16 d a b => Sys2Proof.Machine.execVhaddF16 d a b s
  | .vhmulF16 d a b => Sys2Proof.Machine.execVhmulF16 d a b s
  | .vhfmaF16 d a b => Sys2Proof.Machine.execVhfmaF16 d a b s
  | .vhaddBf16 d a b => Sys2Proof.Machine.execVhaddBf16 d a b s
  | .vhmulBf16 d a b => Sys2Proof.Machine.execVhmulBf16 d a b s
  | .vhfmaBf16 d a b => Sys2Proof.Machine.execVhfmaBf16 d a b s
  | .vhminF16 d a b => Sys2Proof.Machine.execVhminF16 d a b s
  | .vhmaxF16 d a b => Sys2Proof.Machine.execVhmaxF16 d a b s
  | .vhminBf16 d a b => Sys2Proof.Machine.execVhminBf16 d a b s
  | .vhmaxBf16 d a b => Sys2Proof.Machine.execVhmaxBf16 d a b s
  | .vhdot2Bf16 d a b => Sys2Proof.Machine.execVhdot2Bf16 d a b s
  | .vcmp c d a b t => Sys2Proof.Machine.execVcmp c d a b t s
  | .vsel g d a b => Sys2Proof.Machine.execVsel g d a b s
  | .vrcp l d a => Sys2Proof.Machine.execVrcp l d a s
  | .vrsq l d a => Sys2Proof.Machine.execVrsq l d a s
  | .vsqrt l d a => Sys2Proof.Machine.execVsqrt l d a s
  | .vex2 l d a => Sys2Proof.Machine.execVex2 l d a s
  | .vlg2 l d a => Sys2Proof.Machine.execVlg2 l d a s
  | .vsin l d a => Sys2Proof.Machine.execVsin l d a s
  | .vcos l d a => Sys2Proof.Machine.execVcos l d a s
  | .vtanh l d a => Sys2Proof.Machine.execVtanh l d a s
  | .vdiv l d a => Sys2Proof.Machine.execVdiv l d a s
  | .vshfl l d a m => Sys2Proof.Machine.execVshfl l d a m s
  | .vshflx l d a m => Sys2Proof.Machine.execVshflx l d a m s
  | .vbcast l d a m => Sys2Proof.Machine.execVbcast l d a m s
  | .vredAdd l d a v m => Sys2Proof.Machine.execVredAdd l d a v m s
  | .vredMin l d a v m => Sys2Proof.Machine.execVredMin l d a v m s
  | .vredMax l d a v m => Sys2Proof.Machine.execVredMax l d a v m s
  | .vredAnd l d a m => Sys2Proof.Machine.execVredAnd l d a m s
  | .vredOr l d a m => Sys2Proof.Machine.execVredOr l d a m s
  | .vredXor l d a m => Sys2Proof.Machine.execVredXor l d a m s
  | .vscanAdd l d a v m => Sys2Proof.Machine.execVscanAdd l d a v m s
  | .vscanAddf l d a v m => Sys2Proof.Machine.execVscanAddf l d a v m s
  | .vballot l d a m => Sys2Proof.Machine.execVballot l d a m s
  | .vtopk l d a m => Sys2Proof.Machine.execVtopk l d a m s
  | .vcompact l d a m => Sys2Proof.Machine.execVcompact l d a m s
  | .vcvt t l d a z => Sys2Proof.Machine.execVcvt t l d a z s
  | .vqnt l d a b => Sys2Proof.Machine.execVqnt l d a b s
  | .vscl l d a b => Sys2Proof.Machine.execVscl l d a b s
  | .vi4xe l d a => Sys2Proof.Machine.execVi4xe l d a s
  | .vi4xd l d a => Sys2Proof.Machine.execVi4xd l d a s
  | .ld w l d a b => Sys2Proof.Machine.execLd w l d a b s
  | .ldB32St z l d a b => Sys2Proof.Machine.execLdB32St z l d a b s
  | .ldB64St z l d a b => Sys2Proof.Machine.execLdB64St z l d a b s
  | .ldp c w d a b => Sys2Proof.Machine.execLdp c w d a b s
  | .st w g v a b => Sys2Proof.Machine.execSt w g v a b s
  | .stB32St z g v a b => Sys2Proof.Machine.execStB32St z g v a b s
  | .gath c q w a b => Sys2Proof.Machine.execGath c q w a b s
  | .atomCo g l f d a => Sys2Proof.Machine.execAtomCo g l f d a s
  | .atomCl g l f d a => Sys2Proof.Machine.execAtomCl g l f d a s
  | .atomCm g l f d a => Sys2Proof.Machine.execAtomCm g l f d a s
  | .atomLd g l f d a => Sys2Proof.Machine.execAtomLd g l f d a s
  | .atomPk g l f d a => Sys2Proof.Machine.execAtomPk g l f d a s
  | .atomSy g l f d a => Sys2Proof.Machine.execAtomSy g l f d a s
  | .bld l u d a w => Sys2Proof.Machine.execBld l u d a w s
  | .bst g u v a w => Sys2Proof.Machine.execBst g u v a w s
  | .batomAdd l u d a w => Sys2Proof.Machine.execBatomAdd l u d a w s
  | .batomMin l u d a w => Sys2Proof.Machine.execBatomMin l u d a w s
  | .batomMax l u d a w => Sys2Proof.Machine.execBatomMax l u d a w s
  | .batomExch l u d a w => Sys2Proof.Machine.execBatomExch l u d a w s
  | .batomCas l u d a w => Sys2Proof.Machine.execBatomCas l u d a w s
  | .barInit a b => Sys2Proof.Machine.execBarInit a b s
  | .barArw a b => Sys2Proof.Machine.execBarArw a b s
  | .barArrive a b => Sys2Proof.Machine.execBarArrive a b s
  | .barWait a b => Sys2Proof.Machine.execBarWait a b s
  | .barJoin b => Sys2Proof.Machine.execBarJoin b s
  | .barDrop b => Sys2Proof.Machine.execBarDrop b s
  | .mma r c a b => Sys2Proof.Machine.execMma r c a b s
  | .mmas r c a b => Sys2Proof.Machine.execMmas r c a b s
  | .mdist r c a b => Sys2Proof.Machine.execMdist r c a b s
  | .mtopk l c d => Sys2Proof.Machine.execMtopk l c d s
  | .mrel => Sys2Proof.Machine.execMrel s
  | .tcfg c z => Sys2Proof.Machine.execTcfg c z s
  | .tzero c => Sys2Proof.Machine.execTzero c s
  | .trow c v z l => Sys2Proof.Machine.execTrow c v z l s
  | .tcol c v z l => Sys2Proof.Machine.execTcol c v z l s
  | .tsetr c v z => Sys2Proof.Machine.execTsetr c v z s
  | .tsetc c v z => Sys2Proof.Machine.execTsetc c v z s
  | .tld c v z => Sys2Proof.Machine.execTld c v z s
  | .tst c v z => Sys2Proof.Machine.execTst c v z s
  | .tsave c z => Sys2Proof.Machine.execTsave c z s
  | .tload c z => Sys2Proof.Machine.execTload c z s
  | .tdrop c => Sys2Proof.Machine.execTdrop c s
  | .cpy n d a b => Sys2Proof.Machine.execCpy n d a b s
  | .cpy2d n d a b => Sys2Proof.Machine.execCpy2d n d a b s
  | .mlr n d a b => Sys2Proof.Machine.execMlr n d a b s
  | .mst n d a b => Sys2Proof.Machine.execMst n d a b s
  | .cpyw n d a b => Sys2Proof.Machine.execCpyw n d a b s
  | .cpya n d a b => Sys2Proof.Machine.execCpya n d a b s
  | .cpyo n d a b => Sys2Proof.Machine.execCpyo n d a b s
  | .itemTake n => Sys2Proof.Machine.execItemTake n s
  | .startTake => Sys2Proof.Machine.execStartTake s
  | .warpRetirement => Sys2Proof.Machine.execWarpRetirement s
  | .successorStart => Sys2Proof.Machine.execSuccessorStart s
  | .popAtArrival => Sys2Proof.Machine.execPopAtArrival s
  | .fairSwap => Sys2Proof.Machine.execFairSwap s
  | .napExpiry p => Sys2Proof.Machine.execNapExpiry p s
  | .allowanceCycle c => Sys2Proof.Machine.execAllowanceCycle c s
  | .ldpReply op lane => Sys2Proof.Machine.execLdpReply op lane s
  | .gatherCompletion op => Sys2Proof.Machine.execGatherCompletion op s
  | .entryCreation op => Sys2Proof.Machine.execEntryCreation op s
  | .arbiterGrant c => Sys2Proof.Machine.execArbiterGrant c s
  | .passCompletion op => Sys2Proof.Machine.execPassCompletion op s
  | .copyCompletion op => Sys2Proof.Machine.execCopyCompletion op s
  | .mlrCompletion op => Sys2Proof.Machine.execMlrCompletion op s
  | .asyncReportTrap => Sys2Proof.Machine.execAsyncReportTrap s
  | .launchRecord ld => Sys2Proof.Machine.execLaunchRecord ld s
  | .kernelObjectRead ld q => Sys2Proof.Machine.execKernelObjectRead ld q s
  | .gangPlacement ld => Sys2Proof.Machine.execGangPlacement ld s
  | .timeSliceExpiry ld q => Sys2Proof.Machine.execTimeSliceExpiry ld q s
  | .preemption p => Sys2Proof.Machine.execPreemption p s
  | .workgroupSave g => Sys2Proof.Machine.execWorkgroupSave g s
  | .gangRestore ld => Sys2Proof.Machine.execGangRestore ld s
  | .earlyEnd ld q status => Sys2Proof.Machine.execEarlyEnd ld q status s
  | .queueCancel ld q => Sys2Proof.Machine.execQueueCancel ld q s
  | .queueSuspend ld q => Sys2Proof.Machine.execQueueSuspend ld q s
  | .storeAtHome x data => Sys2Proof.Machine.execStoreAtHome x data s
  | .ticketedRequest home r => Sys2Proof.Machine.execTicketedRequest home r s
  | .columnScopeStore ld col pa data => Sys2Proof.Machine.execColumnScopeStore ld col pa data s
  | .readAtHome who pa errs => Sys2Proof.Machine.execReadAtHome who pa errs s
  | .hartOwnershipRequest x op => Sys2Proof.Machine.execHartOwnershipRequest x op s
  | .directoryEviction pa => Sys2Proof.Machine.execDirectoryEviction pa s
  | .parityAlert ld channel again => Sys2Proof.Machine.execParityAlert ld channel again s
  | .pageWalk ld stall va acc => Sys2Proof.Machine.execPageWalk ld stall va acc s
  | .faultPost ld => Sys2Proof.Machine.execFaultPost ld s
  | .consStore ld stall v => Sys2Proof.Machine.execConsStore ld stall v s
  | .resumeRetry ld stall fnum p => Sys2Proof.Machine.execResumeRetry ld stall fnum p s
  | .resumeAbort ld stall fnum p => Sys2Proof.Machine.execResumeAbort ld stall fnum p s
  | .vxinvalStall ld stall => Sys2Proof.Machine.execVxinvalStall ld stall s
  | .vxinvalPage ld stall page => Sys2Proof.Machine.execVxinvalPage ld stall page s
  | .vxinvalGpage ld stall page => Sys2Proof.Machine.execVxinvalGpage ld stall page s
  | .vxinvalAll ld => Sys2Proof.Machine.execVxinvalAll ld s
  | .vxpooltopWrite h mode v => Sys2Proof.Machine.execVxpooltopWrite h mode v s
  | .peerRequest ld stall va acc => Sys2Proof.Machine.execPeerRequest ld stall va acc s
  | .inboundPortRequest port pa req => Sys2Proof.Machine.execInboundPortRequest port pa req s
  | .flitCrcMismatch e module dir => Sys2Proof.Machine.execFlitCrcMismatch e module dir s
  | .laneTest e module dir failing halfOk => Sys2Proof.Machine.execLaneTest e module dir failing halfOk s
  | .enterTraining port => Sys2Proof.Machine.execEnterTraining port s
  | .trainingComplete port => Sys2Proof.Machine.execTrainingComplete port s
  | .trainingTimeout port => Sys2Proof.Machine.execTrainingTimeout port s
  | .portEnable port => Sys2Proof.Machine.execPortEnable port s
  | .portDisable port => Sys2Proof.Machine.execPortDisable port s
  | .fenceCompletion => Sys2Proof.Machine.execFenceCompletion s
  | .governorEvaluation ld col temp power => Sys2Proof.Machine.execGovernorEvaluation ld col temp power s
  | .thermalTrip => Sys2Proof.Machine.execThermalTrip s
  | .quiescePoint c => Sys2Proof.Machine.execQuiescePoint c s
  | .vxgovWrite h mode v => Sys2Proof.Machine.execVxgovWrite h mode v s
  | .clusterGating c => Sys2Proof.Machine.execClusterGating c s
  | .wakeEnd c => Sys2Proof.Machine.execWakeEnd c s
  | .timingErrorReplay c => Sys2Proof.Machine.execTimingErrorReplay c s
  | .stallEnd ld stall poison => Sys2Proof.Machine.execStallEnd ld stall poison s
  | .vxerrPop ld => Sys2Proof.Machine.execVxerrPop ld s
  | .computeDieFailure ld die => Sys2Proof.Machine.execComputeDieFailure ld die s
  | .baseDieFailure ld => Sys2Proof.Machine.execBaseDieFailure ld s
  | .coresLost ld col => Sys2Proof.Machine.execCoresLost ld col s
  | .baseDiePartLost ld col => Sys2Proof.Machine.execBaseDiePartLost ld col s
  | .firstLight inp => Sys2Proof.Machine.execFirstLight inp s
  | .attestationRequest nonce => Sys2Proof.Machine.execAttestationRequest nonce s
  | .rgnctlWrite ld k v => Sys2Proof.Machine.execRgnctlWrite ld k v s
  | .csrWrite h mode csr v => Sys2Proof.Machine.execCsrWrite h mode csr v s
  | .tick => Sys2Proof.Machine.execTick s

end Sys2Proof.Machine
end

