-- ==== Sys2Proof/Machine/Fetch.lean ====
section
/-! DEFINITION. Fetching the next word of the running warp, running it, and the end of its trap unit (R33, R47, R57, R100). -/

namespace Sys2Proof.Machine

/-- The warp parks at a page fault of its fetch (R354): its unit has neither issued nor read anything, so that its class and what it
will read stay. -/
def State.fetchFault (va : DWord) (stage : BitVec 2) (gpa : Nat) (s : State) : State :=
  let w := if s.w.windows = [] then s.w else s.w.commitAll
  let t := { s with w := w }.faultPark va .exec stage gpa 0
  { t with w := { t.w with cls := s.w.cls } }

/-- The next word of the running warp, or what its fetch leads to (R57 step 1): a recoverable fault, which leaves the unit's lanes as
they stand, trap 0x06, or a wait. -/
def State.fetchWord (s : State) : Except State (State × Word) :=
  let va := s.w.pc.zeroExtend 64
  match s.xlate va .exec with
  | (s1, .error (.page st g)) => .error (s1.fetchFault va st g)
  | (s1, .error _) => .error (s1.trap 0x06 va)
  | (s1, .ok l) =>
    if ¬ s1.locOk l.pa 4 false then .error (s1.trap 0x06 va)
    else
      match s1.linkReady (s1.me none) false [l] with
      | .error e => .error (e.state s1)
      | .ok _ =>
        match s1.readLoc (s1.me none) l 4 with
        | (s2, .ok x) => .ok (s2, BitVec.ofNat 32 x)
        | (s2, .error .poison) => .error ((s2.consumePoison l).trap 0x06 va)
        | (s2, .error e) => .error (e.note (s2.trap 0x06 va))

/-- A word that decodes to no instruction (R37): a hint word ends no unit, any other does. -/
def State.undecoded (x : Word) (s : State) : State := if fld x 26 6 = 0 then s.illegalHint x else s.illegal x

/-- A word runs: the meaning of the instruction it decodes to, or the illegal-instruction trap. -/
noncomputable def runWord (x : Word) (s : State) : Host.Outcome State Fault Refusal :=
  match decode x with
  | .ok i => exec i s
  | .error _ => .next (s.undecoded x)

/-! The same for Lean's compiler, which builds no constructor numbered 244 or more: words of majors TL and CPY go straight to
their meanings. -/

/-- A word with reserved fields runs when they are 0. -/
def runIf (zero : Bool) (x : Word) (s : State) (o : Host.Outcome State Fault Refusal) : Host.Outcome State Fault Refusal :=
  if zero then o else .next (s.undecoded x)

def runTl (x : Word) (s : State) : Host.Outcome State Fault Refusal :=
  match (fld x 21 5).toNat with
  | 0 => runIf (fld x 10 7 == 0 && fld x 0 4 == 0) x s (execTcfg (fld x 17 4) (fld x 4 6) s)
  | 1 => runIf (fld x 0 17 == 0) x s (execTzero (fld x 17 4) s)
  | 2 => execTrow (fld x 17 4) (fld x 10 7) (fld x 4 6) (fld x 0 4) s
  | 3 => execTcol (fld x 17 4) (fld x 10 7) (fld x 4 6) (fld x 0 4) s
  | 4 => runIf (fld x 0 4 == 0) x s (execTsetr (fld x 17 4) (fld x 10 7) (fld x 4 6) s)
  | 5 => runIf (fld x 0 4 == 0) x s (execTsetc (fld x 17 4) (fld x 10 7) (fld x 4 6) s)
  | 6 => runIf (fld x 0 4 == 0) x s (execTld (fld x 17 4) (fld x 10 7) (fld x 4 6) s)
  | 7 => runIf (fld x 0 4 == 0) x s (execTst (fld x 17 4) (fld x 10 7) (fld x 4 6) s)
  | 8 => runIf (fld x 10 7 == 0 && fld x 0 4 == 0) x s (execTsave (fld x 17 4) (fld x 4 6) s)
  | 9 => runIf (fld x 10 7 == 0 && fld x 0 4 == 0) x s (execTload (fld x 17 4) (fld x 4 6) s)
  | 10 => runIf (fld x 0 17 == 0) x s (execTdrop (fld x 17 4) s)
  | _ => .next (s.undecoded x)

def runCpyWord (x : Word) (s : State) : Host.Outcome State Fault Refusal :=
  match (fld x 22 4).toNat with
  | 0 => execCpy (fld x 18 4) (fld x 12 6) (fld x 6 6) (fld x 0 6) s
  | 1 => execCpy2d (fld x 18 4) (fld x 12 6) (fld x 6 6) (fld x 0 6) s
  | 2 => execMlr (fld x 18 4) (fld x 12 6) (fld x 6 6) (fld x 0 6) s
  | 3 => execMst (fld x 18 4) (fld x 12 6) (fld x 6 6) (fld x 0 6) s
  | 4 => execCpyw (fld x 18 4) (fld x 12 6) (fld x 6 6) (fld x 0 6) s
  | 5 => execCpya (fld x 18 4) (fld x 12 6) (fld x 6 6) (fld x 0 6) s
  | 6 => execCpyo (fld x 18 4) (fld x 12 6) (fld x 6 6) (fld x 0 6) s
  | _ => .next (s.undecoded x)

/-- What the fields of a word lead to. -/
def runDecoded (r : Except DecodeError Instr) (x : Word) (s : State) : Host.Outcome State Fault Refusal :=
  match r with
  | .ok i => if i.wellFormed then exec i s else .next (s.undecoded x)
  | .error _ => .next (s.undecoded x)

def runWordC (x : Word) (s : State) : Host.Outcome State Fault Refusal :=
  match (fld x 26 6).toNat with
  | 0x23 => runTl x s
  | 0x24 => runCpyWord x s
  | _ => runDecoded (decodeLow x) x s

theorem runWord_decoded (x : Word) (s : State) : runWord x s = runDecoded (decodeFields x) x s := by
  unfold runWord runDecoded decode
  cases decodeFields x with
  | ok i => by_cases h : i.wellFormed <;> simp [h]
  | error e => rfl

theorem runDecoded_res (z : Bool) (x : Word) (s : State) (i : Instr) (h : i.wellFormed = true) :
    runDecoded (res z i) x s = runIf z x s (exec i s) := by
  cases z <;> simp [res, runIf, runDecoded, h]

theorem runTl_eq (x : Word) (s : State) : runDecoded (decodeTl x) x s = runTl x s := by
  unfold decodeTl runTl
  generalize (fld x 21 5).toNat = n
  rcases n with _ | _ | _ | _ | _ | _ | _ | _ | _ | _ | _ | n <;>
    first | exact runDecoded_res _ x s _ rfl | rfl

theorem runCpyWord_eq (x : Word) (s : State) : runDecoded (decodeCpy x) x s = runCpyWord x s := by
  unfold decodeCpy runCpyWord
  generalize (fld x 22 4).toNat = n
  rcases n with _ | _ | _ | _ | _ | _ | _ | n <;> rfl

@[csimp] theorem runWord_eq : @runWord = @runWordC := by
  funext x s
  rw [runWord_decoded]
  unfold runWordC decodeFields
  by_cases h1 : (fld x 26 6).toNat = 0x23
  · rw [h1]; exact runTl_eq x s
  · by_cases h2 : (fld x 26 6).toNat = 0x24
    · rw [h2]; exact runCpyWord_eq x s
    · repeat' first | contradiction | rfl | split

/-- The word left its unit unfinished: a hint joined it. -/
def unitGoesOn (s t : State) : Bool := t.w.hints.length = s.w.hints.length + 1 && t.w.place = s.w.place && t.w.life = s.w.life

/-- The unit was not ready and has not issued (R100). -/
def notIssued (s t : State) : Bool :=
  t.w.issued = s.w.issued && t.w.place = s.w.place && t.w.pc = s.w.unitPc && t.w.park = s.w.park && t.w.inh = s.w.inh
    && t.w.life = s.w.life && t.w.key = s.w.key && t.w.fence = s.w.fence

/-- An issued unit is charged to the allowance of its cluster once all its cores have issued (R421). -/
def State.charge (p : Place) (cost : Nat) (s : State) : State :=
  let c := clusterAt p
  s.setCluster c { s.clusterOf c with spent := (s.clusterOf c).spent + cost }

/-- The counts of R101 return to 0. -/
def Warp.resetCounts (w : Warp) : Warp := { w with waitCount := 0, withheld := 0 }

/-- The other warps of a core are no longer selected in this cycle. -/
def State.coreDone (p : Place) (s : State) : State := { s with issueQ := s.issueQ.filter fun q => ¬ sameCore p q }

/-- A unit that needs a reservation entry, held while no entry is free: its claim failed (R242). -/
def State.failedClaim (s : State) (x : Word) : Bool := fld x 26 6 = 0x22 && 32 ≤ s.tableLoad

/-- After a word whose unit began in s: the unit goes on, or its warp is no longer selected. A unit that issued is charged, and its
core issues nothing more in this cycle; nor does a core whose claim failed, whose warp counts as ready and not selected (R242). -/
def State.endUnit (s : State) (cost : Nat) (claim : Bool) (t : State) : State :=
  if unitGoesOn s t then t
  else
    let p := s.w.place
    let t0 := { t with sel := false }
    if notIssued s t ∧ claim then t0.coreDone p
    else
      let t1 := t0.mapWarps fun w => if w.place = p then w.resetCounts else w
      if notIssued s t then t1 else (t1.coreDone p).charge p cost

/-- One word of the selected warp: fetched, run, and the unit ended where it ends. -/
def State.runNext (s : State) : Host.Outcome State Fault Refusal :=
  match s.fetchWord with
  | .error t => .next (s.endUnit 1 false t)
  | .ok (s1, x) =>
    match runWord x s1 with
    | .next t => .next (s1.endUnit (wordCost s1.w.rep.1 x) (s1.failedClaim x) t)
    | .fault f => .fault f
    | .refused r => .refused r

/-! Whether the next trap unit of a warp is ready (R100). -/

/-- The next trap unit of the running warp is tried, word by word: the state in which it is held, if it is not ready; none if it
would issue. An arrival pop that is still due waits for its fill. -/
def State.tryUnit : Nat → State → Option State
  | 0, _ => none
  | n + 1, s =>
    if s.w.arrived then
      let t := s.popArrival
      if t.w.arrived ∧ t.w.park = .none ∧ t.w.life = .run ∧ t.w.inh = s.w.inh then some t else none
    else
      match s.fetchWord with
      | .error t => if notIssued s t then some t else none
      | .ok (s1, x) =>
        match runWord x s1 with
        | .next t => if unitGoesOn s1 t then State.tryUnit n t else if notIssued s1 t then some t else none
        | _ => none

/-- The running warp is ready, or not: then what its unit did while it was held stays, such as a ticket drawn (R330). With 64
tagged sends unacknowledged it is not ready (R317). -/
def State.lookAt (s : State) : State :=
  match (if s.sendsFree then s.tryUnit 6 else some s) with
  | some t => { t with w := { t.w with blocked := true } }
  | none => { s with w := { s.w with blocked := false } }

/-- The warps of a cluster are looked at before its cycle selects among them (R100). -/
def State.probe (c : Cluster) (s : State) : State :=
  ((s.warpsOf c).filter fun w => w.life = .run && w.park = .none && w.fence.isNone).foldl
    (fun s w => s.atWarp w.place State.lookAt) s

/-! A warp placed for one instruction. -/

/-- Where the instruction of `State.withFetchWord` lies: an address of LD0 that its stall maps to itself. -/
def codeAddr : Nat := 0x10_0000

/-- The launch, workgroup and kernel of that warp: one workgroup of one warp with every register, tile and buffer byte that a
kernel may ask for. -/
def loadKernel : Kernel := ⟨0x10_0000, 1, [0], 16, 120, 1, 1, 262144, 524288, 0⟩
def loadLaunch : Launch := { Launch.none with record := { Record.zero with n := 1 }, order := 4, kernel := some loadKernel, gangs := 1 }
def loadGroup : Group := { Group.none with warps := 1, alen := 262144, wlen := 524288 }

/-- The warp that runs it, from registers as they are: all lanes occupied and active. -/
def loadWarp (w : Warp) : Warp :=
  { w with
    place := Place.zero, life := .run, idx := 0, key := GroupKey.zero, occ := BitVec.allOnes 64
    sregs := w.sregs.set 0 56 (BitVec.allOnes 64), pc := BitVec.ofNat 48 codeAddr, depth := 0, stack := [], hints := []
    badHint := none, park := .none, fence := none, preempt := false, left := [], view := none, casm := none, blocked := false }

/-- The record of stall 0 at physical address 0: enabled, both stages bare, a fault ring of 64 entries at 0x2_0000 (R343). -/
def loadRecord : List Byte := bytesOf 8 0 ++ bytesOf 8 0 ++ bytesOf 8 0x2_0006 ++ bytesOf 8 0 ++ bytesOf 8 1

end Sys2Proof.Machine
end

