-- ==== Sys2Proof/Machine/Schedule.lean ====
section
/-! DEFINITION. What the device does of itself in an FE cycle: boundaries of warps, completions, starts, retirements, the
distributor and the slow clocks of ports and clusters, each by the meaning of its own event. -/

namespace Sys2Proof.Machine

/-- The state after an event. -/
def State.after (s : State) (o : Host.Outcome State Fault Refusal) : State :=
  match o with
  | .next t => t
  | _ => s

/-- f at each warp that meets p, as the running one. -/
def State.eachWarp (p : Warp → Bool) (f : State → State) (s : State) : State :=
  ((s.allWarps.filter p).map Warp.place).foldl (fun s q => s.atWarp q fun t => if p t.w then f t else t) s

/-! Boundaries of the warps that run (R187, R195, R198, R404, R412). -/

/-- What a warp takes at a boundary once its fence and its pops are done (R198): pre-emption, else a pending report, else a fair
swap. A pre-emption that waits for tagged sends holds the others (R318); while the cluster changes its rate, a pre-emption or a report
waits until issue resumes (R429). DESIGN CHOICE (assumption 70): a path count of 4 096 or more stands while a handler runs, and the swap
follows at the first boundary after its `tret` (R194). -/
def State.takeAt (s : State) : State :=
  if s.w.preempt ∧ ¬ s.w.inh then (if s.preemptible then s.takePreempt else s)
  else if s.w.park ≠ .none ∨ s.w.inh then s
  else if s.w.reports ≠ [] then (if s.quiesces then s else s.takeReport)
  else if 4096 ≤ s.w.pathCount ∧ s.w.dh < s.w.depth then s.after (execFairSwap s)
  else s

/-- The running warp at a trap-unit boundary (R187, R195, R198, R404, R412): the fence in progress, the early end of its launch, the
arrival pops, and what follows them, all at this boundary. A `casm` in progress has not reached one (R313). -/
def State.boundary (s : State) : State :=
  let s1 := if s.w.fence.isSome then s.after (execFenceCompletion s) else s
  if s1.w.inProgress then s1
  else if s1.lc.ending.isSome then { s1 with w := s1.w.stop }
  else
    let s2 := s1.popFirst
    if s2.popDue ∨ s2.w.life ≠ .run then s2 else s2.takeAt

/-- The boundary of the selected warp at its reconvergence PC (R187): it stays selected while it is ready. -/
def State.arriveSelected (s : State) : State :=
  let t := s.boundary
  { t with sel := t.w.place = s.w.place && t.w.candidate && ¬ t.w.arrived }

/-! Completions. -/

/-- An operation whose time has come (R238, R242, R303, R305, R365, R370). -/
def State.completeOp (o : Op) (s : State) : State :=
  match o.kind with
  | .ldp _ _ left _ _ => (laneList left).foldl (fun s l => s.after (execLdpReply o.id (BitVec.ofNat 6 l) s)) s
  | .gath _ _ _ _ _ => s.after (execGatherCompletion o.id s)
  | .copy _ _ _ _ _ => s.after (execCopyCompletion o.id s)
  | .multi true _ _ _ _ => s.after (execCopyCompletion o.id s)
  | .posted _ => s.after (execCopyCompletion o.id s)
  | .multi false _ _ _ _ => s.after (execMlrCompletion o.id s)
  | .matrix _ _ _ _ _ _ _ _ _ _ true => s.after (execPassCompletion o.id s)
  | .matrix _ _ _ _ _ _ _ _ _ _ false => s.after (execEntryCreation o.id s)

def State.completeOps (s : State) : State :=
  (s.ops.filter fun o => o.ready ≤ s.tick.toNat).foldl (fun s o => s.completeOp o) s

/-- Naps that end (R99). -/
def State.endNaps (s : State) : State :=
  (s.allWarps.filter fun w => match w.park with | .nap t => t ≤ s.tick.toNat | _ => false).foldl
    (fun s w => s.after (execNapExpiry w.place s)) s

/-! Workgroups. -/

/-- The resume commands of the cycle before take effect (R357, R358). -/
def State.obeyAll (s : State) : State := s.eachWarp (fun w => w.faultInfo.any fun i => i.cmd.isSome) State.obey

/-- Resume commands (R357), successors of workgroups that retired in an earlier cycle (R94), starts of warps whose cluster is powered
(R77, R419, R432), then the boundaries of the warps that run. -/
def State.runWarps (s0 : State) : State :=
  let s := s0.obeyAll
  let on := fun (w : Warp) => decide ((s.clusterOf (clusterAt w.place)).gate = .on)
  let s1 := s.eachWarp (fun w => w.life = .retired) fun t => t.after (execSuccessorStart t)
  let s2 := s1.eachWarp (fun w => w.life = .start && on w) fun t => t.after (execStartTake t)
  s2.eachWarp (fun w => w.life = .run) State.boundary

/-- The retirements of a cycle, in ascending order of warp index (R88, R221), then the saves of vacated workgroups (R415). -/
def State.endWarps (s : State) : State :=
  let s1 := (List.range 16).foldl (fun s i =>
    s.eachWarp (fun w => w.idx.toNat = i && (w.life = .retiring || w.life = .stopping)) fun t => t.after (execWarpRetirement t)) s
  (s1.allGroups.filter s1.vacated).foldl (fun s g => s.after (execWorkgroupSave g.key s)) s1

/-! The distributor and the fault rings of one LD. -/

/-- Kernel objects to read, and slices that have run out (R394, R410). -/
def State.runQueues (ld : Nat) (s : State) : State :=
  (s.allLaunches.filter fun l => l.ld.toNat = ld ∧ s.isHead l).foldl (fun s l =>
    let q := s.queueOf ld l.record.queue.toNat
    let s1 := if l.kernel.isNone ∧ l.ending.isNone then s.after (execKernelObjectRead l.ld l.record.queue s) else s
    if q.slice ≠ 0 ∧ q.slice.toNat * Config.cyclesPerUs ≤ l.timer then s1.after (execTimeSliceExpiry l.ld l.record.queue s1)
    else s1) s

/-- The distributor's step in a cycle: one record, the heads of its queues, a pre-emption, one placement or restore. -/
def State.distribute (ld : BitVec 2) (s : State) : State :=
  if (s.ldOf ld.toNat).baseReset then s
  else
    let s1 := s.after (execLaunchRecord ld s)
    let s2 := ((s1.runQueues ld.toNat).observeDrain ld.toNat).preemptFor ld.toNat
    let s3 :=
      match s2.nextWork ld.toNat with
      | some (.restore _ _, _) => s2.after (execGangRestore ld s2)
      | _ => s2.after (execGangPlacement ld s2)
    s3.after (execFaultPost ld s3)

/-! Ports and clusters. -/

/-- Ports that are up send what they hold (R380), ports that have trained for 4 ms go down (R379), and launches whose words have
left end (R396). -/
def State.timePorts (s : State) : State :=
  (allPorts.foldl (fun s n =>
    let p := s.portOf n
    if p.state = .training ∧ p.since + 4 * msCycles ≤ s.tick.toNat then s.after (execTrainingTimeout (BitVec.ofNat 6 n) s)
    else s.sendHeld n) s).wordsSent.complete

/-- FE cycles of 10 µs (R425). -/
def governorCycles : Nat := 10 * Config.cyclesPerUs

/-- Every 10 µs every column's governor evaluates (R425). -/
def State.timeGovernors (s : State) : State :=
  if s.tick.toNat % governorCycles ≠ 0 then s
  else (List.range 192).foldl (fun s i => s.evaluate (BitVec.ofNat 2 (i / 48)) (BitVec.ofNat 6 (i % 48))) s

/-- The cluster at a package index (R25). -/
def clusterNo (i : Nat) : Cluster := ⟨BitVec.ofNat 2 (i / 96), BitVec.ofNat 6 (i % 96 / 2), BitVec.ofNat 1 i⟩

/-- Rate changes, gating and wakes (R429, R431, R432). -/
def State.timeClusters (s : State) : State :=
  (List.range 384).foldl (fun s i =>
    let c := clusterNo i
    let x := s.clusterOf c
    if x.gate = .waking ∧ x.idle ≤ s.tick.toNat then s.after (execWakeEnd c s)
    else if x.changing then s.after (execQuiescePoint c s)
    else if x.gate = .on ∧ x.idle + idleCycles ≤ s.tick.toNat then s.after (execClusterGating c s)
    else s) s

/-- What a cycle does before its clusters select warps. -/
def State.beginCycle (s : State) : State :=
  let s0 := s.timePorts.timeGovernors.admitTickets.ackWaits
  let s1 := (s0.completeOps.mapWarps Warp.unparkReady).endNaps.runWarps
  let s2 := [(0 : BitVec 2), 1, 2, 3].foldl (fun s ld => s.distribute ld) s1
  s2.timeClusters

/-- A cycle before daylight (R444): nothing but the start itself and what has no warp in it goes on. -/
def State.startCycle (s : State) : State := s.advance.timePorts.admitTickets.ackWaits

/-- The clusters whose cycle can change anything: those with warps or entries, or whose counter is not full. -/
def State.served (s : State) : List Cluster :=
  ((List.range 384).map clusterNo).filter fun c =>
    let x := s.clusterOf c
    x.gate = .on && (x.c ≠ ((s.colOf c.ld.toNat c.col.toNat).cap.toNat : Int) || x.spent ≠ 0 || ¬ x.entries.isEmpty
      || ¬ (s.warpsOf c).isEmpty)

/-- The place at the head of the issue queue is selected, unless its warp has stopped being ready. -/
def State.select (p : Place) (s : State) : State :=
  let t := s.focus p
  if t.w.place = p ∧ t.w.candidate then { t with sel := true } else t

/-- Whether events still reach the module (R428, R444): a start always does; once step 3 has ended, so do the sensors; once step 5
has, everything does, until a trip. -/
def State.alive (s : State) (i : Instr) : Bool :=
  match s.phase, i with
  | .daylight, _ => true
  | .starting _, _ => true
  | _, .firstLight _ => true
  | .stopped n, .thermalTrip => 4 ≤ n
  | .stopped n, .governorEvaluation _ _ _ _ => 4 ≤ n
  | .stopped n, _ => 6 ≤ n
  | _, _ => false

/-! Events that come again. -/

/-- Who sends an event: its events are performed in their order (R330). -/
def Instr.sender : Instr → Option ReqPort
  | .storeAtHome x _ => some (.hart x.hart)
  | .readAtHome (.hart h _ _) _ _ => some (.hart h)
  | .readAtHome (.port n) _ _ => some (.link n)
  | .hartOwnershipRequest x _ => some (.hart x.hart)
  | .vxinvalStall h _ => some (.hart h.hart)
  | .vxinvalPage h _ _ => some (.hart h.hart)
  | .vxinvalGpage h _ _ => some (.hart h.hart)
  | .vxinvalAll h => some (.hart h.hart)
  | .vxpooltopWrite h _ _ => some (.hart h)
  | .vxgovWrite h _ _ => some (.hart h)
  | .csrWrite h _ _ _ => some (.hart h)
  | .inboundPortRequest port _ _ => some (.link port)
  | .columnScopeStore ld col _ _ => some (.slice ld col)
  | _ => none

/-- The events that are due now, and the rest. -/
def dueNow : List (Nat × Instr) → List (Nat × Instr) × List (Nat × Instr)
  | (0, i) :: r => let (a, b) := dueNow r; ((0, i) :: a, b)
  | r => ([], r)

/-- An event comes again in the next cycle, with the later ones of its sender behind it; the others that are due now go first. -/
def requeue (i : Instr) (r : List (Nat × Instr)) : List (Nat × Instr) :=
  let (now, rest) := dueNow r
  let mine := fun (e : Nat × Instr) => (Instr.sender i).isSome && Instr.sender e.2 = Instr.sender i
  let later := match rest with
    | (n + 1, e) :: q => (n, e) :: q
    | q => q
  now.filter (fun e => ¬ mine e) ++ (1, i) :: now.filter mine ++ later

/-- After the event i: it comes again if it waits. -/
def State.settle (i : Instr) (s : State) : State :=
  if s.again then { s with again := false, agenda := requeue i s.agenda } else s

end Sys2Proof.Machine
end

