-- ==== Sys2Proof/Machine/Step.lean ====
section
/-! DEFINITION. One step of the device, and the state in which the next step fetches a given instruction. -/

namespace Sys2Proof.Machine

/-- One step: the next word of the selected warp; the event that is due, which comes again if it waits; the next selection; the cycle of
the next cluster; the end of the cycle; or the beginning of the next. -/
def step (s : State) : Host.Outcome State Fault Refusal :=
  if s.sel then if s.w.arrived then .next s.arriveSelected else s.runNext
  else
    match s.agenda with
    | (0, i) :: r =>
      let t := { s with agenda := r, again := false }
      if i.isWord then .fault .notAnEvent
      else if ¬ s.alive i then .next t
      else
        match exec i t with
        | .next u => .next (u.settle i)
        | o => o
    | _ =>
      match s.issueQ, s.cycle with
      | p :: r, _ => .next ({ s with issueQ := r }.select p)
      | [], some (c :: r) => execAllowanceCycle c (({ s with cycle := some r }.refillGrant c).probe c)
      | [], some [] => execTick { s.endWarps with cycle := none }
      | [], none =>
        if s.phase = .daylight then .next { s.beginCycle with cycle := some s.beginCycle.served } else execTick s.startCycle

/-- s with the instruction of a word placed for the next step: a launch of one warp on core 0 of column 0 of LD0 whose next word
it is, with the record of its stall (stall 0), and that warp selected. This stands for the launch that brings a program. -/
def State.withFetchWord (s : State) (_nbits w : Nat) : State :=
  let l := s.ldOf 0
  let s1 := s.setLd 0 { l with stalltab := 0, baseReset := false, rgnctl := l.rgnctl.set 4 0 4 }
  let s2 := s1.setQueueOf 0 0 { s1.queueOf 0 0 with owner := 0 }
  let s3 := (s2.poke 0 loadRecord).poke codeAddr (bytesOf 4 (w % 2 ^ 32))
  { s3 with
    w := loadWarp s.w, wg := loadGroup, lc := loadLaunch
    warps := s.warps.filter fun x => x.place ≠ Place.zero
    groups := s.groups.filter fun g => g.key ≠ GroupKey.zero
    launches := s.launches.filter fun m => m.order ≠ 4
    tlb := [], walkWords := [], sel := true }

end Sys2Proof.Machine
end

