-- ==== Sys2Proof/Safety.lean ====
section
/-! DEFINITION. The terms in which claims speak: memory in canonical form, when a trap unit is accepted and the state in which
it has ended, and the tables of results that the manual gives, in exact arithmetic. -/

namespace Sys2Proof.Machine

/-! States. -/

/-- Memory is in canonical form: addresses rise, and no entry equals what an unlisted address reads as. -/
def Memory.wf (m : Cells Byte) : Bool := Cells.wf memDefault m

/-- The byte of memory at a physical address. -/
def State.byteAt (s : State) (a : Nat) : Byte := s.mem.get memDefault a

/-- The value of n bytes of memory from an address on, little-endian (R5). -/
def State.valueAt (s : State) (a : Nat) : Nat → Nat
  | 0 => 0
  | n + 1 => (s.byteAt a).toNat + 256 * s.valueAt (a + 1) n

/-- A step that goes on is safe: the device neither faults nor refuses, which it does for no instruction of the manual. -/
def State.safe (s : State) : Prop := ∃ t, step s = .next t

/-- The hints of the unit are those that its target accepts besides SCH (R49), and no word of the unit is illegal (R57): the
target uses the low modBits bits of a MOD payload, accepts the kinds acc, and needs an RC hint if needRc. -/
def State.accepts (s : State) (modBits : Nat) (acc : List Nat) (needRc : Bool) : Prop :=
  s.badWord modBits = none ∧ mismatch acc needRc s.w.hints = none

/-- The workgroup of the running warp has a warp that has not retired: itself. -/
def State.groupRuns (s : State) : Prop := ∀ g ∈ s.allGroups, g.key = s.w.key → g.allRetired = false

/-- The state after a unit that leaves the warp as w and goes on at pc: its hints are spent, its class follows SCH (R52), and
one more unit has issued; no lane of the unit is left, and no value that it read when it parked. -/
def State.done (s : State) (w : Warp) (pc : BitVec 48) : State :=
  { s with
    w := { w with
      left := s.w.leftAfter, hints := [], badHint := none, pc := pc, cls := s.classAfter, issued := s.w.issued + 1
      view := none } }

/-- The registers after a unit that is no closing event: the windows that end with it commit, then its results (R41 to R43). -/
def Warp.ran (w : Warp) (la : Nat) (load : LoadKind) (xs : List RegWrite) : Warp := w.tickWindows.results la load xs

/-- The state after a unit that only computes registers. -/
def State.computed (s : State) (xs : List RegWrite) : State := s.done (s.w.ran 0 .none xs) (s.w.pc + 4)

/-- The state after a closing event that goes on at pc (R44): every window commits, then its results. -/
def State.closed (s : State) (xs : List RegWrite) (pc : BitVec 48) : State := s.done (s.w.commitAll.apply xs) pc

/-- A unit over vector registers can run: its hints are accepted, its registers are allotted (R36) and not pending (R303), and
each queue that it names holds a complete entry for each repetition (R306). -/
structure State.VectorReady (s : State) (acc : List Nat) (runs : List (Nat × Nat)) (srcs : List Nat) : Prop where
  accepts : s.accepts 22 acc false
  allotted : s.regsOk runs srcs = true
  settled : ∀ r ∈ s.unitRegs runs srcs, s.pendingLanes r = false
  queued : ∀ q ∈ queuesOf srcs, s.w.rep.1 ≤ (s.w.queue q).length ∧ ∀ e ∈ (s.w.queue q).take s.w.rep.1, e.value.isSome

/-- The state after a unit over vector registers: the heads it read are gone, its flags join FSTAT, and its results follow its
lookahead. -/
def State.vectorDone (s : State) (la : Nat) (srcs : List Nat) (r : List RegWrite × BitVec 8) : State :=
  s.done (({ s.w.popped srcs s.w.rep.1 with fstat := s.w.fstat ||| r.2 } : Warp).ran la .none r.1) (s.w.pc + 4)

/-- A request of the agent to memory at l, whose home LD is h, is served at once: the home is reached (R377), no module that carries
it retrains, the home slice has a tracker free, the agent's port holds no ticket there and no place that a ticket won (R330), and no
`casm` of another agent has locked the line (R312). -/
structure State.Serves (s : State) (ag : Agent) (l : Loc) (h : Nat) : Prop where
  home : paKind s.vxpkg.toNat l.pa = .mem h
  up : s.unreachable ag.ld h = false
  linked : s.linkWaits ag.ld h (l.pa / 64) = false
  free : (s.sliceOf (l.pa / 64)).busy < 448
  turn : ∀ p, ag.port = some p → (s.sliceOf (l.pa / 64)).holds p = false
  fresh : ∀ r, ag.request (l.pa / 64) = some r → s.accepted.contains r = false
  unlocked : s.lockedOut ag.owner (l.pa / 64) = false

/-- A line is online, without error in any byte, and held by no column hart. -/
structure State.Intact (s : State) (pa : Nat) : Prop where
  online : s.online pa = true
  sound : s.bad (pa / 64) = false
  clean : ∀ c ∈ s.flips, c.1 / 64 ≠ pa / 64
  unheld : ∀ h ∈ s.hartLines, h.line ≠ pa / 64

/-- A virtual address translates for an access of n bytes to memory that serves the running warp at once: at l, in the state s1 that
the translation leaves. -/
structure State.Reaches (s : State) (va : DWord) (acc : Access) (n : Nat) (s1 : State) (l : Loc) : Prop where
  room : reportsFull s.w = false ∧ s.slotsFree 1 = true
  aligned : va.toNat % n = 0
  maps : s.xlate va acc = (s1, .ok l)
  serves : ∃ h, s1.Serves (s1.me none) l h
  intact : s1.Intact l.pa

/-- No strong store of narrow scope that a port holds goes before a strong store or atomic of scope sc of the running warp (R277). -/
def State.NoneAhead (s : State) (sc : BitVec 3) : Prop := sc.toNat ≤ 3 → ∀ h ∈ s.ownHeld, ∀ c, h.scope = some c → 3 < c.toNat

/-! The scalar results of R113, R114 and R116. -/

/-- Lowest bit and width of the field that B names (R114). -/
def fieldLow (b : DWord) : Nat := b.toNat % 64
def fieldWidth (b : DWord) : Nat := min (b.toNat / 256 % 128) (64 - fieldLow b)

def oneIf (p : Prop) [Decidable p] : DWord := if p then 1 else 0

/-- The SR forms with two operands: A, B and the old D give the value (Table 3 of R113, R114). -/
def srForms (d a b : BitVec 6) : List (Instr × (DWord → DWord → DWord → DWord)) :=
  [(.add d a b, fun A B _ => BitVec.ofNat 64 (A.toNat + B.toNat)),
   (.sub d a b, fun A B _ => BitVec.ofInt 64 ((A.toNat : Int) - B.toNat)),
   (.mul d a b, fun A B _ => BitVec.ofNat 64 (A.toNat * B.toNat)),
   (.mulh d a b, fun A B _ => BitVec.ofInt 64 (A.toInt * B.toInt / 2 ^ 64)),
   (.mulhn d a b, fun A B _ => BitVec.ofNat 64 (A.toNat * B.toNat / 2 ^ 64)),
   (.div d a b, fun A B _ =>
      if B = 0 then BitVec.allOnes 64
      else if A.toInt = -2 ^ 63 ∧ B.toInt = -1 then 0x8000_0000_0000_0000
      else BitVec.ofInt 64 (A.toInt.tdiv B.toInt)),
   (.divn d a b, fun A B _ => if B = 0 then BitVec.allOnes 64 else BitVec.ofNat 64 (A.toNat / B.toNat)),
   (.rem d a b, fun A B _ =>
      if B = 0 then A
      else if A.toInt = -2 ^ 63 ∧ B.toInt = -1 then 0
      else BitVec.ofInt 64 (A.toInt - B.toInt * A.toInt.tdiv B.toInt)),
   (.remn d a b, fun A B _ => if B = 0 then A else BitVec.ofNat 64 (A.toNat - B.toNat * (A.toNat / B.toNat))),
   (.and d a b, fun A B _ => A &&& B),
   (.or d a b, fun A B _ => A ||| B),
   (.xor d a b, fun A B _ => A ^^^ B),
   (.andn d a b, fun A B _ => A &&& ~~~B),
   (.shl d a b, fun A B _ => BitVec.ofNat 64 (A.toNat * 2 ^ (B.toNat % 64))),
   (.shr d a b, fun A B _ => BitVec.ofNat 64 (A.toNat / 2 ^ (B.toNat % 64))),
   (.sar d a b, fun A B _ => BitVec.ofInt 64 (A.toInt / 2 ^ (B.toNat % 64))),
   (.rol d a b, fun A B _ =>
      BitVec.ofNat 64 (A.toNat * 2 ^ (B.toNat % 64)) ||| BitVec.ofNat 64 (A.toNat / 2 ^ (64 - B.toNat % 64))),
   (.min d a b, fun A B _ => BitVec.ofInt 64 (min A.toInt B.toInt)),
   (.max d a b, fun A B _ => BitVec.ofInt 64 (max A.toInt B.toInt)),
   (.minn d a b, fun A B _ => BitVec.ofNat 64 (min A.toNat B.toNat)),
   (.maxn d a b, fun A B _ => BitVec.ofNat 64 (max A.toNat B.toNat)),
   (.bfx d a b, fun A B _ => BitVec.ofNat 64 (A.toNat / 2 ^ fieldLow B % 2 ^ fieldWidth B)),
   (.bfi d a b, fun A B D =>
      BitVec.ofNat 64
        (D.toNat - D.toNat / 2 ^ fieldLow B % 2 ^ fieldWidth B * 2 ^ fieldLow B
          + A.toNat % 2 ^ fieldWidth B * 2 ^ fieldLow B)),
   (.cmpEq d a b, fun A B _ => oneIf (A.toNat = B.toNat)),
   (.cmpNe d a b, fun A B _ => oneIf (A.toNat ≠ B.toNat)),
   (.cmpLt d a b, fun A B _ => oneIf (A.toInt < B.toInt)),
   (.cmpLe d a b, fun A B _ => oneIf (A.toInt ≤ B.toInt)),
   (.cmpLtn d a b, fun A B _ => oneIf (A.toNat < B.toNat)),
   (.cmpLen d a b, fun A B _ => oneIf (A.toNat ≤ B.toNat)),
   (.sel d a b, fun A B D => if D.toNat = 0 then B else A)]

/-- The unary SR forms (Table 3 of R113). -/
def srForms1 (d a : BitVec 6) : List (Instr × (DWord → DWord)) :=
  [(.clz d a, fun A => if A = 0 then 64 else BitVec.ofNat 64 (63 - A.toNat.log2)),
   (.ctz d a, fun A => if A = 0 then 64 else BitVec.ofNat 64 (A &&& (0 - A)).toNat.log2),
   (.popc d a, fun A => BitVec.ofNat 64 ((List.range 64).map fun i => (A.getLsbD i).toNat).sum),
   (.sextB d a, fun A => (A.truncate 8).signExtend 64),
   (.sextH d a, fun A => (A.truncate 16).signExtend 64),
   (.sextW d a, fun A => (A.truncate 32).signExtend 64),
   (.mov d a, fun A => A)]

/-- The immediate of an SI form (R50): its own ten bits, with the IMM payload above them, with the IMMH payload above both;
each extended from its own width. -/
def Warp.siImm (w : Warp) (i : BitVec 10) : DWord :=
  match w.hintImm, w.hintImmh with
  | none, _ => i.signExtend 64
  | some p, none => (p ++ i).signExtend 64
  | some p, some h => (h ++ p ++ i : BitVec 54).signExtend 64

/-- The SI forms that are no shifts: A, the immediate I and the PC give the value (Table 4 of R116). -/
def siForms (d a : BitVec 6) (i : BitVec 10) : List (Instr × (DWord → DWord → BitVec 48 → DWord)) :=
  [(.addi d a i, fun A I _ => BitVec.ofInt 64 (A.toInt + I.toInt)),
   (.andi d a i, fun A I _ => A &&& I),
   (.ori d a i, fun A I _ => A ||| I),
   (.xori d a i, fun A I _ => A ^^^ I),
   (.slti d a i, fun A I _ => oneIf (A.toInt < I.toInt)),
   (.sltni d a i, fun A I _ => oneIf (A.toNat < I.toNat)),
   (.li d i, fun _ I _ => I),
   (.adr d i, fun _ I pc => BitVec.ofInt 64 (((pc.toNat : Int) + I.toInt * 4) % 2 ^ 48))]

/-- The SI shifts. -/
def siShifts (d a : BitVec 6) (i : BitVec 10) : List (Instr × (DWord → Nat → DWord)) :=
  [(.shli d a i, fun A n => BitVec.ofNat 64 (A.toNat * 2 ^ n)),
   (.shri d a i, fun A n => BitVec.ofNat 64 (A.toNat / 2 ^ n)),
   (.sari d a i, fun A n => BitVec.ofInt 64 (A.toInt / 2 ^ n))]

/-! What each target accepts (R49, R57). -/

/-- Instructions of the warp that bind hints: every word but a hint word (R47). -/
def isTarget (i : Instr) : Bool :=
  i.isWord && match i with
    | .hintImm _ | .hintImmh _ | .hintRc _ | .hintRep _ _ | .hintMod _ | .hintCp _ _ | .hintSch _ | .hintKv _ => false
    | _ => true

/-- The kinds of Table 4 of R49 that a target accepts, besides SCH. -/
def acceptedKinds : Instr → List Nat
  | .addi _ _ _ | .andi _ _ _ | .ori _ _ _ | .xori _ _ _ | .shli _ _ _ | .shri _ _ _ | .sari _ _ _ | .slti _ _ _ | .sltni _ _ _
  | .li _ _ | .adr _ _ => [0, 1]
  | .sldB64 _ _ _ _ | .sldB32 _ _ _ _ | .sstB64 _ _ _ | .sstB32 _ _ _ => [0, 5]
  | .sldSt _ _ _ _ | .sstSt _ _ _ | .ld _ _ _ _ _ | .ldB32St _ _ _ _ _ | .ldB64St _ _ _ _ _ | .ldp _ _ _ _ _ | .st _ _ _ _ _
  | .stB32St _ _ _ _ _ | .gath _ _ _ _ _ | .atomCo _ _ _ _ _ | .atomCl _ _ _ _ _ | .atomCm _ _ _ _ _ | .atomLd _ _ _ _ _
  | .atomPk _ _ _ _ _ | .atomSy _ _ _ _ _ => [5]
  | .brd _ _ => [2]
  | .vadd _ _ _ | .vsub _ _ _ | .vmul _ _ _ | .vmulh _ _ _ | .vmulhn _ _ _ | .vmad _ _ _ | .vmin _ _ _ | .vmax _ _ _
  | .vminn _ _ _ | .vmaxn _ _ _ | .vabs _ _ | .vand _ _ _ | .vor _ _ _ | .vxor _ _ _ | .vandn _ _ _ | .vshl _ _ _ | .vshr _ _ _
  | .vsar _ _ _ | .vrol _ _ _ | .vclz _ _ | .vpopc _ _ | .vaddsat _ _ _ | .vsubsat _ _ _ | .vaddsatn _ _ _ | .vsubsatn _ _ _
  | .vdot4 _ _ _ | .vdot4n _ _ _ | .vmov _ _ | .vbfx _ _ _ | .vbfi _ _ _ | .vfadd _ _ _ | .vfsub _ _ _ | .vfmul _ _ _
  | .vffma _ _ _ | .vffms _ _ _ | .vfmin _ _ _ | .vfmax _ _ _ | .vfabs _ _ | .vfneg _ _ | .vfrnd _ _ | .vfclass _ _
  | .vfscl _ _ _ | .vfcpys _ _ _ | .vhaddF16 _ _ _ | .vhmulF16 _ _ _ | .vhfmaF16 _ _ _ | .vhaddBf16 _ _ _ | .vhmulBf16 _ _ _
  | .vhfmaBf16 _ _ _ | .vhminF16 _ _ _ | .vhmaxF16 _ _ _ | .vhminBf16 _ _ _ | .vhmaxBf16 _ _ _ | .vhdot2Bf16 _ _ _
  | .vrcp _ _ _ | .vrsq _ _ _ | .vsqrt _ _ _ | .vex2 _ _ _ | .vlg2 _ _ _ | .vsin _ _ _ | .vcos _ _ _ | .vtanh _ _ _ | .vdiv _ _ _
  | .vcvt _ _ _ _ _ | .vqnt _ _ _ _ | .vscl _ _ _ _ | .vi4xe _ _ _ | .vi4xd _ _ _ => [3]
  | .vaddX _ _ x _ | .vsubX _ _ x _ | .vmulX _ _ x _ | .vmulhX _ _ x _ | .vmulhnX _ _ x _ | .vmadX _ _ x _ | .vminX _ _ x _
  | .vmaxX _ _ x _ | .vminnX _ _ x _ | .vmaxnX _ _ x _ | .vandX _ _ x _ | .vorX _ _ x _ | .vxorX _ _ x _ | .vandnX _ _ x _
  | .vshlX _ _ x _ | .vshrX _ _ x _ | .vsarX _ _ x _ | .vrolX _ _ x _ | .vaddsatX _ _ x _ | .vsubsatX _ _ x _
  | .vaddsatnX _ _ x _ | .vsubsatnX _ _ x _ | .vdot4X _ _ x _ | .vdot4nX _ _ x _ | .vmovs _ x _ | .vbfxX _ _ x _ | .vbfiX _ _ x _
  | .vfaddX _ _ x _ | .vfsubX _ _ x _ | .vfmulX _ _ x _ | .vffmaX _ _ x _ | .vffmsX _ _ x _ | .vfminX _ _ x _ | .vfmaxX _ _ x _
  | .vfsclX _ _ x _ | .vfcpysX _ _ x _ => if x = 1 then [0, 3] else [3]
  | .mma _ _ _ _ | .mmas _ _ _ _ | .mdist _ _ _ _ => [7]
  | .vtopk _ _ _ _ | .mtopk _ _ _ | .cpy2d _ _ _ _ => [4]
  | _ => []

/-- A hint that a target must carry: RC for `brd` (R49). -/
def needsRc : Instr → Bool
  | .brd _ _ => true
  | _ => false

/-- The bits of a MOD payload that a target lays out (R48): k of `vtopk` and `mtopk`, both strides of `cpy.2d`. -/
def modWidth : Instr → Nat
  | .vtopk _ _ _ _ => 7
  | .mtopk _ _ _ => 4
  | _ => 22

/-- The target is privileged, and the warp is not in a trap handler (R126, R406, R409). -/
def State.deniedTo (s : State) : Instr → Bool
  | .tret => ! s.w.inh
  | .wsr n _ => decide (0x030 ≤ n.toNat ∧ n.toNat ≤ 0x034) && ! s.w.inh
  | _ => false

/-- A word names an assigned special register (R125, R126). -/
def namesRegister : Instr → Bool
  | .rsr _ n => srAssigned n.toNat
  | .wsr n _ => srAssigned n.toNat
  | _ => true

/-! Lane results. -/

/-- Field of B of R139: lowest bit and width. -/
def laneLow (b : Word) : Nat := b.toNat % 32
def laneWidth (b : Word) : Nat := min (b.toNat / 256 % 64) (32 - laneLow b)

/-- Byte k of a word, and its signed value. -/
def byteNat (a : Word) (k : Nat) : Nat := a.toNat / 2 ^ (8 * k) % 256
def byteInt (a : Word) (k : Nat) : Int := if byteNat a k < 128 then byteNat a k else (byteNat a k : Int) - 256

/-- The values of Table 4 of R138 and of R139 of the functions that VI and VIX share, in the order of the table: A, B, D. -/
def laneFns : List (Word → Word → Word → Word) :=
  [fun A B _ => BitVec.ofNat 32 (A.toNat + B.toNat),
   fun A B _ => BitVec.ofInt 32 ((A.toNat : Int) - B.toNat),
   fun A B _ => BitVec.ofNat 32 (A.toNat * B.toNat),
   fun A B _ => BitVec.ofInt 32 (A.toInt * B.toInt / 2 ^ 32),
   fun A B _ => BitVec.ofNat 32 (A.toNat * B.toNat / 2 ^ 32),
   fun A B D => BitVec.ofNat 32 (A.toNat * B.toNat + D.toNat),
   fun A B _ => BitVec.ofInt 32 (min A.toInt B.toInt),
   fun A B _ => BitVec.ofInt 32 (max A.toInt B.toInt),
   fun A B _ => BitVec.ofNat 32 (min A.toNat B.toNat),
   fun A B _ => BitVec.ofNat 32 (max A.toNat B.toNat),
   fun A B _ => A &&& B,
   fun A B _ => A ||| B,
   fun A B _ => A ^^^ B,
   fun A B _ => A &&& ~~~B,
   fun A B _ => BitVec.ofNat 32 (A.toNat * 2 ^ (B.toNat % 32)),
   fun A B _ => BitVec.ofNat 32 (A.toNat / 2 ^ (B.toNat % 32)),
   fun A B _ => BitVec.ofInt 32 (A.toInt / 2 ^ (B.toNat % 32)),
   fun A B _ => BitVec.ofNat 32 (A.toNat * 2 ^ (B.toNat % 32)) ||| BitVec.ofNat 32 (A.toNat / 2 ^ (32 - B.toNat % 32)),
   fun A B _ => BitVec.ofInt 32 (max (-2 ^ 31) (min (2 ^ 31 - 1) (A.toInt + B.toInt))),
   fun A B _ => BitVec.ofInt 32 (max (-2 ^ 31) (min (2 ^ 31 - 1) (A.toInt - B.toInt))),
   fun A B _ => BitVec.ofNat 32 (min (2 ^ 32 - 1) (A.toNat + B.toNat)),
   fun A B _ => BitVec.ofNat 32 (A.toNat - B.toNat),
   fun A B D => BitVec.ofInt 32 (D.toInt + byteInt A 0 * byteInt B 0 + byteInt A 1 * byteInt B 1 + byteInt A 2 * byteInt B 2
      + byteInt A 3 * byteInt B 3),
   fun A B D => BitVec.ofNat 32 (D.toNat + byteNat A 0 * byteNat B 0 + byteNat A 1 * byteNat B 1 + byteNat A 2 * byteNat B 2
      + byteNat A 3 * byteNat B 3),
   fun A B _ => BitVec.ofNat 32 (A.toNat / 2 ^ laneLow B % 2 ^ laneWidth B),
   fun A B D => BitVec.ofNat 32
      (D.toNat - D.toNat / 2 ^ laneLow B % 2 ^ laneWidth B * 2 ^ laneLow B + A.toNat % 2 ^ laneWidth B * 2 ^ laneLow B)]

/-- The VI forms of two sources, in the order of the table. -/
def viForms (d a b : BitVec 7) : List (Instr × (Word → Word → Word → Word)) :=
  [.vadd d a b, .vsub d a b, .vmul d a b, .vmulh d a b, .vmulhn d a b, .vmad d a b, .vmin d a b, .vmax d a b, .vminn d a b,
   .vmaxn d a b, .vand d a b, .vor d a b, .vxor d a b, .vandn d a b, .vshl d a b, .vshr d a b, .vsar d a b, .vrol d a b,
   .vaddsat d a b, .vsubsat d a b, .vaddsatn d a b, .vsubsatn d a b, .vdot4 d a b, .vdot4n d a b, .vbfx d a b,
   .vbfi d a b].zip laneFns

/-- The VIX forms, in the order of the table. -/
def vixForms (d a : BitVec 7) (x : BitVec 1) (b : BitVec 6) : List (Instr × (Word → Word → Word → Word)) :=
  [.vaddX d a x b, .vsubX d a x b, .vmulX d a x b, .vmulhX d a x b, .vmulhnX d a x b, .vmadX d a x b, .vminX d a x b,
   .vmaxX d a x b, .vminnX d a x b, .vmaxnX d a x b, .vandX d a x b, .vorX d a x b, .vxorX d a x b, .vandnX d a x b,
   .vshlX d a x b, .vshrX d a x b, .vsarX d a x b, .vrolX d a x b, .vaddsatX d a x b, .vsubsatX d a x b, .vaddsatnX d a x b,
   .vsubsatnX d a x b, .vdot4X d a x b, .vdot4nX d a x b, .vbfxX d a x b, .vbfiX d a x b].zip laneFns

/-- The class mask of Table 6 of R144. -/
def classMask (A : Word) : Word :=
  let m := A.toNat % 2 ^ 31
  let s := decide (2 ^ 31 ≤ A.toNat)
  if 0x7FC0_0000 ≤ m then 0x200
  else if 0x7F80_0000 < m then 0x100
  else if m = 0x7F80_0000 then (if s then 0x001 else 0x080)
  else if 0x0080_0000 ≤ m then (if s then 0x002 else 0x040)
  else if m ≠ 0 then (if s then 0x004 else 0x020)
  else if s then 0x008 else 0x010

/-- The VI and VF forms of one source that move or count bits (R138, R143), and the class mask (R144): the value and the flag
that an input raises, NV for a signalling NaN (R141). -/
def laneForms1 (d a : BitVec 7) : List (Instr × (Word → Word × BitVec 8)) :=
  [(.vabs d a, fun A => (BitVec.ofNat 32 A.toInt.natAbs, 0)),
   (.vclz d a, fun A => (if A = 0 then 32 else BitVec.ofNat 32 (31 - A.toNat.log2), 0)),
   (.vpopc d a, fun A => (BitVec.ofNat 32 ((List.range 32).map fun i => (A.getLsbD i).toNat).sum, 0)),
   (.vmov d a, fun A => (A, 0)),
   (.vfabs d a, fun A => (BitVec.ofNat 32 (A.toNat % 2 ^ 31), 0)),
   (.vfneg d a, fun A => (BitVec.ofNat 32 (A.toNat + 2 ^ 31), 0)),
   (.vfclass d a, fun A => (classMask A, if classMask A = 0x100 then flagNV else 0))]

/-- B of a VIX form (R137): S[sb][31:0], or the immediate of 6 or 28 signed bits (R50). -/
def Warp.immB (w : Warp) (x : BitVec 1) (b : BitVec 6) : Word :=
  if x = 0 then (w.s b.toNat).truncate 32
  else
    match w.hintImm with
    | none => b.signExtend 32
    | some p => (p ++ b : BitVec 28).signExtend 32

/-- V[f][L] as repetition i reads it with stride t (R51). -/
def Warp.lane (w : Warp) (f : BitVec 7) (i t l : Nat) : Word := (w.src (stepField f.toNat i t) i).at l

/-- Repetition i of a lane form: for each lane L of EM, V[vd][L] := f L, read before anything is written. -/
def laneResult (d : BitVec 7) (t : Nat) (f : Nat → Warp → Nat → Word) (i : Nat) (w : Warp) : List RegWrite × BitVec 8 :=
  ([.v (d.toNat + i * t) w.em (Vec.ofFn fun l => f i w l)], 0)

/-! Rounded results. -/

/-- The same with the flags that the lanes of EM raise. -/
def laneResult1 (d : BitVec 7) (t : Nat) (f : Nat → Warp → Nat → Word × BitVec 8) (i : Nat) (w : Warp) :
    List RegWrite × BitVec 8 :=
  ([.v (d.toNat + i * t) w.em (Vec.ofFn fun l => (f i w l).1)],
    (laneList w.em).foldl (fun x l => x ||| (f i w l).2) 0)

/-- Element l of n elements that are rounded together (R165 to R171): none is an element not acted on, the Bool an invalid
operation. Its code and its flags. -/
def roundedElem (f : Fmt) (fm : BitVec 19) (sat : Bool) (n : Nat) (xs : Nat → Option (Num × Bool)) (l : Nat) : Nat × BitVec 8 :=
  match xs l with
  | none => (0, 0)
  | some (x, inv) =>
    let ds := (List.range n).map fun k => f.discarded ((xs k).map Prod.fst)
    let r := f.round (fmMode fm) sat (fmFtz fm) (if fmMode fm = 5 then rsThreshold ds l else 0) x
    (r.1, r.2 ||| flagIf inv flagNV)

/-- The same for a form of R141, which detects tininess as IEEE 754 does (assumption 35). -/
def ieeeElem (f : Fmt) (fm : BitVec 19) (n : Nat) (xs : Nat → Option (Num × Bool)) (l : Nat) : Nat × BitVec 8 :=
  let r := roundedElem f fm false n xs l
  (r.1, r.2 ||| f.ieeeUf (fmMode fm) ((xs l).map Prod.fst))

/-- The OR of flags over the elements of a list. -/
def flagsOver (ls : List Nat) (f : Nat → BitVec 8) : BitVec 8 := ls.foldl (fun x l => x ||| f l) 0

/-- Repetition i of an FP32 form that rounds (R140 to R143): element l is lane l. -/
def fpResult (d : BitVec 7) (t : Nat) (f : Nat → Warp → Nat → Num × Bool) (i : Nat) (w : Warp) : List RegWrite × BitVec 8 :=
  let r := ieeeElem .f32 w.fm 64 fun l => if lane w.em l then some (f i w l) else none
  ([.v (d.toNat + i * t) w.em (Vec.ofFn fun l => BitVec.ofNat 32 (r l).1)], flagsOver lanes fun l => (r l).2)

/-- Half h of lane l of a vector register is element 2l + h (R142, R147). -/
def halfResult (f : Fmt) (d : BitVec 7) (t : Nat) (g : Nat → Warp → Nat → Nat → Num × Bool) (i : Nat) (w : Warp) :
    List RegWrite × BitVec 8 :=
  let r := ieeeElem f w.fm 128 fun k => if lane w.em (k / 2) then some (g i w (k / 2) (k % 2)) else none
  ([.v (d.toNat + i * t) w.em (Vec.ofFn fun l => BitVec.ofNat 32 ((r (2 * l)).1 + 65536 * (r (2 * l + 1)).1))],
    flagsOver (List.range 128) fun k => (r k).2)

/-- The value that an FP32 word holds under `fm` (R143): a subnormal reads as zero under ftz. -/
def Warp.f32 (w : Warp) (x : Word) : Num := Fmt.decode .f32 (fmFtz w.fm) x.toNat
/-- The value of half h. -/
def Warp.f16 (w : Warp) (f : Fmt) (x : Word) (h : Nat) : Num := f.decode (fmFtz w.fm) (x.toNat / 2 ^ (16 * h) % 65536)
/-- An exact sum; zeros of both signs give -0 under RD only (R141). -/
def Warp.total (w : Warp) (xs : List Num) : Num × Bool := Num.sum (fmMode w.fm = 3) xs
/-- a × b + d exactly, invalid where the product or the sum is. -/
def Warp.fused (w : Warp) (a b d : Num) : Num × Bool :=
  ((w.total [(a.mul b).1, d]).1, (a.mul b).2 || (w.total [(a.mul b).1, d]).2)

/-- The rounding functions of Table 5 of R143: a, b, d to the exact value. -/
def fpFns : List (Warp → Num → Num → Num → Num × Bool) :=
  [fun w a b _ => w.total [a, b], fun w a b _ => w.total [a, b.negate], fun _ a b _ => a.mul b, fun w a b d => w.fused a b d,
   fun w a b d => w.fused a b d.negate, fun _ a b _ => fpScaled a b]

def vfForms (d a b : BitVec 7) : List (Instr × (Warp → Num → Num → Num → Num × Bool)) :=
  [.vfadd d a b, .vfsub d a b, .vfmul d a b, .vffma d a b, .vffms d a b, .vfscl d a b].zip fpFns

def vfxForms (d a : BitVec 7) (x : BitVec 1) (b : BitVec 6) : List (Instr × (Warp → Num → Num → Num → Num × Bool)) :=
  [.vfaddX d a x b, .vfsubX d a x b, .vfmulX d a x b, .vffmaX d a x b, .vffmsX d a x b, .vfsclX d a x b].zip fpFns

/-- B of a VFX form (R146): S[sb][31:0], the exact FP32 value of imm6, or imm[27:0] above four zero bits. -/
def Warp.immF (w : Warp) (x : BitVec 1) (b : BitVec 6) : Word :=
  if x = 0 then (w.s b.toNat).truncate 32
  else
    match w.hintImm with
    | none => BitVec.ofNat 32 (Fmt.code .f32 (.fin (decide (b.toInt < 0)) b.toInt.natAbs 0 false))
    | some p => (p ++ b : BitVec 28) ++ (0 : BitVec 4)

/-- The VH forms that round to their own format (Table 8 of R147). -/
def vhForms (d a b : BitVec 7) : List (Instr × Fmt × (Warp → Num → Num → Num → Num × Bool)) :=
  [(.vhaddF16 d a b, .f16, fun w a b _ => w.total [a, b]), (.vhmulF16 d a b, .f16, fun _ a b _ => a.mul b),
   (.vhfmaF16 d a b, .f16, fun w a b d => w.fused a b d), (.vhaddBf16 d a b, .bf16, fun w a b _ => w.total [a, b]),
   (.vhmulBf16 d a b, .bf16, fun _ a b _ => a.mul b), (.vhfmaBf16 d a b, .bf16, fun w a b d => w.fused a b d)]

/-- minimumNumber or maximumNumber of two codes (R144), with the flag it sets. -/
def bestCode (f : Fmt) (w : Warp) (wantMax : Bool) (a b : Nat) : Nat × BitVec 8 :=
  let r := Num.minMax wantMax (f.decode (fmFtz w.fm) a) (f.decode (fmFtz w.fm) b)
  (f.code r.1, flagIf r.2 flagNV)

/-- The conditions of Table 9 of R151 on integers, and on FP32 values, where only `ne` and `un` hold of a NaN. -/
def intCond (c : Nat) (x y : Int) : Bool :=
  match c with
  | 0 => x = y | 1 => x ≠ y | 2 => x < y | 3 => x ≤ y | 4 => y < x | _ => y ≤ x
def numCond (c : Nat) (x y : Num) : Bool :=
  if x.isNan || y.isNan then c = 1 || c = 6
  else
    match c with
    | 0 => x.eq y | 1 => ! x.eq y | 2 => x.lt y | 3 => x.lt y || x.eq y | 4 => y.lt x | 5 => y.lt x || x.eq y | 6 => false | _ => true

/-! Frames. -/

/-- t differs from w in none of the status, trap, stack, item, counter and guard registers that no load, store, atomic, buffer or tile
instruction writes. -/
structure Warp.Keeps (w t : Warp) : Prop where
  place : t.place = w.place ∧ t.life = w.life ∧ t.idx = w.idx ∧ t.key = w.key ∧ t.pkg = w.pkg
  items : t.occ = w.occ ∧ t.item = w.item ∧ t.age = w.age
  stack : t.stack = w.stack ∧ t.depth = w.depth ∧ t.crpc = w.crpc ∧ t.spill = w.spill
  status : t.fstat = w.fstat ∧ t.mstat = w.mstat ∧ t.evmask = w.evmask ∧ t.reports = w.reports
  charges : t.counters = w.counters ∧ t.grp = w.grp
  traps : t.tvec = w.tvec ∧ t.tcause = w.tcause ∧ t.epc = w.epc ∧ t.tval = w.tval
  handler : t.inh = w.inh ∧ t.pre = w.pre ∧ t.rst = w.rst ∧ t.abort = w.abort ∧ t.saveptr = w.saveptr ∧ t.dh = w.dh
    ∧ t.crpcSaved = w.crpcSaved

/-- No scalar register of t, no vector register but the n from d on in the lanes of m, and no tile and dirty bit differ from those of w
once the windows that end have committed. -/
def Warp.KeepsRegs (w t : Warp) (d n : Nat) (m : Mask) : Prop :=
  (∀ r, t.s r = w.tickWindows.s r)
  ∧ (∀ r l, l < 64 → r < d ∨ d + n ≤ r ∨ m.getLsbD l = false → (t.v r).at l = (w.tickWindows.v r).at l)

/-- No byte of memory of t differs from s but the n at each of some locations. -/
def State.keepsMem (s t : State) (n : Nat) (ls : List (Nat × DWord × Loc)) : Prop :=
  ∀ x, (∀ f ∈ ls, x < f.2.2.pa ∨ f.2.2.pa + n ≤ x) → t.byteAt x = s.byteAt x

/-! The rows of Table 2 of R159, and exact values. -/

/-- A float format: its width, mantissa bits, bias and Emin, its largest finite value with the code, its canonical NaN (R160; none in
E2M1, where R169 gives 0), whether it has infinities, and whether fm.ftz flushes it (R171). -/
structure FloatRow where
  fmt : Fmt
  width : Nat
  mant : Nat
  bias : Int
  emin : Int
  big : ℚ
  top : Nat
  nan : Nat
  infs : Bool
  flushed : Bool

def floatRows : List FloatRow :=
  [⟨.f32, 32, 23, 127, -126, (2 - 1 / 2 ^ 23) * 2 ^ 127, 0x7F7FFFFF, 0x7FC00000, true, true⟩,
   ⟨.bf16, 16, 7, 127, -126, (2 - 1 / 2 ^ 7) * 2 ^ 127, 0x7F7F, 0x7FC0, true, true⟩,
   ⟨.f16, 16, 10, 15, -14, 65504, 0x7BFF, 0x7E00, true, true⟩,
   ⟨.e4m3, 8, 3, 7, -6, 448, 0x7E, 0x7F, false, false⟩,
   ⟨.e5m2, 8, 2, 15, -14, 57344, 0x7B, 0x7E, true, false⟩,
   ⟨.e2m1, 4, 1, 1, 0, 6, 0x7, 0, false, false⟩]

/-- The value of a finite number; 0 for a NaN or an infinity. -/
def Num.value : Num → ℚ
  | .fin neg m e _ => (if neg = true then -1 else 1) * m * 2 ^ e
  | _ => 0

/-- Which of two values that are no NaN orders below the other, with -0 below +0 (R144). -/
def Num.below (x y : Num) : Prop :=
  match x, y with
  | .inf true, y => y ≠ .inf true
  | x, .inf false => x ≠ .inf false
  | .fin n a e p, .fin k b f q =>
    (Num.fin n a e p).value < (Num.fin k b f q).value
      ∨ ((Num.fin n a e p).value = (Num.fin k b f q).value ∧ n = true ∧ k = false)
  | _, _ => False

/-- The exact magnitude x that m × 2^k stands for: itself or, where more than m × 2^k is known to lie there, any value up to the next
multiple; the spacing q is then coarse enough. -/
def standsFor (m : Nat) (k : Int) (more : Bool) (q x : ℚ) : Prop :=
  (more = false ∧ x = m * 2 ^ k) ∨ (more = true ∧ m * 2 ^ k < x ∧ x < (m + 1) * 2 ^ k ∧ (2 : ℚ) ^ (k + 32) ≤ q)

/-- Table 4 of R166: x lies between lo = n × q and hi = lo + q, and y is the one of them that the mode selects; lo when x is lo. -/
def selects (mode : Nat) (neg : Bool) (thr : Nat) (x q y : ℚ) : Prop :=
  let n := ⌊x / q⌋
  let lo := n * q
  let hi := lo + q
  let d := ⌊2 ^ 32 * (x - lo) / q⌋
  let up := (mode = 0 ∧ (hi - x < x - lo ∨ (hi - x = x - lo ∧ n % 2 = 1))) ∨ (mode = 2 ∧ neg = false) ∨ (mode = 3 ∧ neg = true)
    ∨ (mode = 4 ∧ hi - x ≤ x - lo) ∨ (mode = 5 ∧ (thr : Int) < d / 2 ^ 16)
  (x = lo ∧ y = lo) ∨ (x ≠ lo ∧ up ∧ y = hi) ∨ (x ≠ lo ∧ ¬ up ∧ y = lo)

/-! Special functions, cross-lane values and conversions. -/

/-- Repetition i of a VL1 function (R153, R156): its value in each lane of EM with its flags, flushed under ftz. -/
def specialResult (fn : Nat) (d a : BitVec 7) (t i : Nat) (w : Warp) : List RegWrite × BitVec 8 :=
  let r := fun l => flushResult w.fm (specialRaw fn (w.f32 (w.lane a i t l)) (fmFtz w.fm))
  ([.v (d.toNat + i * t) w.em (Vec.ofFn fun l => (r l).1)], flagsOver (laneList w.em) fun l => (r l).2)

/-- The approximate VL1 forms with their function codes (Table 11 of R155). -/
def specialForms (l : BitVec 4) (d a : BitVec 7) : List (Instr × Nat) :=
  [(.vrcp l d a, 0), (.vrsq l d a, 1), (.vex2 l d a, 3), (.vlg2 l d a, 4), (.vsin l d a, 5), (.vcos l d a, 6), (.vtanh l d a, 7)]

/-- The lanes of a mask, ascending. -/
def membersOf (c : Mask) : List Nat := (List.range 64).filter fun j => c.getLsbD j

/-- The VL2 forms of one source that set no flag (Table 9 of R205): members, a(j) and the lane give the value. -/
def crossForms (l : BitVec 4) (d a : BitVec 7) (m : BitVec 3) : List (Instr × (List Nat → (Nat → Word) → Nat → Word)) :=
  [(.vbcast l d a m, fun C x _ => x (C.headD 0)),
   (.vredAdd l d a 0 m, fun C x _ => BitVec.ofNat 32 (C.map fun j => (x j).toNat).sum),
   (.vredMin l d a 0 m, fun C x _ => BitVec.ofInt 32 (C.foldl (fun v j => min v (x j).toInt) (2 ^ 31 - 1))),
   (.vredMax l d a 0 m, fun C x _ => BitVec.ofInt 32 (C.foldl (fun v j => max v (x j).toInt) (-2 ^ 31))),
   (.vredAnd l d a m, fun C x _ => C.foldl (fun v j => v &&& x j) (BitVec.allOnes 32)),
   (.vredOr l d a m, fun C x _ => C.foldl (fun v j => v ||| x j) 0),
   (.vredXor l d a m, fun C x _ => C.foldl (fun v j => v ^^^ x j) 0),
   (.vscanAdd l d a 0 m, fun C x k => BitVec.ofNat 32 ((C.filter (· ≤ k)).map fun j => (x j).toNat).sum),
   (.vscanAdd l d a 1 m, fun C x k => BitVec.ofNat 32 ((C.filter (· < k)).map fun j => (x j).toNat).sum)]

/-- The VL2 forms of a register pair that set no flag: members, a(j), b(j) and the lane give the value. -/
def pairForms (l : BitVec 4) (d a : BitVec 7) (m : BitVec 3) :
    List (Instr × (List Nat → (Nat → Word) → (Nat → Word) → Nat → Word)) :=
  [(.vshfl l d a m, fun C x y k => if (y k).toNat % 64 ∈ C then x ((y k).toNat % 64) else 0),
   (.vshflx l d a m, fun C x y k => if k ^^^ (y k).toNat % 64 ∈ C then x (k ^^^ (y k).toNat % 64) else 0),
   (.vcompact l d a m, fun C x y k =>
      match (C.filter fun j => (y j).toNat ≠ 0)[C.countP (· < k)]? with
      | some p => x p
      | none => 0)]

/-- The VL2 forms on FP32 values (R204): the addends or candidates of a lane give the value and its flags. -/
def sumForms (l : BitVec 4) (d a : BitVec 7) (m : BitVec 3) : List (Instr × (List Nat → Nat → List Nat)) :=
  [(.vredAdd l d a 1 m, fun C _ => C), (.vscanAddf l d a 0 m, fun C k => C.filter (· ≤ k)),
   (.vscanAddf l d a 1 m, fun C k => C.filter (· < k))]

/-- Word k of lane l of the source run of n registers at repetition i (R176). -/
def Warp.runWord (w : Warp) (a : BitVec 7) (n i t l k : Nat) : Word :=
  if n = 1 then w.lane a i t l else (w.v (a.toNat + i * t + k)).at l

/-- Element j of width ws of a run's words (R158). -/
def elemOf (ws : Nat) (word : Nat → Word) (j : Nat) : Nat := (word (j * ws / 32)).toNat / 2 ^ (j * ws % 32) % 2 ^ ws

/-- Word k of the run whose element j has code `code j` of width wd (R158). -/
def runOf (wd : Nat) (code : Nat → Nat) (k : Nat) : Word :=
  BitVec.ofNat 32 ((List.range (32 / wd)).map fun q => code (k * (32 / wd) + q) % 2 ^ wd * 2 ^ (wd * q)).sum

/-- Results of a conversion: register k of the run of n at vd, in the lanes of EM. -/
def runResult (d : BitVec 7) (t n i : Nat) (w : Warp) (word : Nat → Nat → Word) : List RegWrite :=
  (List.range n).map fun k => .v (d.toNat + i * t + k) w.em (Vec.ofFn fun l => word l k)

/-! Memory operations. -/

/-- A unit over the registers `regs` and the single sources `srcs` can begin: its hints are accepted, no register of it is pending
(R303), and each queue that it names has a complete head (R306). -/
structure State.UnitReady (s : State) (acc : List Nat) (regs : List Nat) (srcs : List Nat) : Prop where
  accepts : s.accepts 22 acc false
  settled : ∀ r ∈ regs, s.pendingLanes r = false
  queued : ∀ q ∈ queuesOf srcs, ∃ e r, s.w.queue q = e :: r ∧ e.value.isSome

/-- Lanes of a mask with their addresses S[b] + V[a][L] (R293). -/
def State.laneAddrs (s : State) (b : BitVec 5) (a : BitVec 7) (m : Mask) : List (Nat × DWord) :=
  (membersOf m).map fun l => (l, s.w.s b.toNat + ((s.w.src a.toNat 0).at l).zeroExtend 64)

/-- A memory instruction that needs n request slots may issue (R295, R407). -/
def State.mayIssue (s : State) (n : Nat) : Prop := reportsFull s.w = false ∧ s.slotsFree n = true

/-- Bytes of a width code of a vector access, and the registers of its run (Table 2 of R296). -/
def codeBytes (w : Nat) : Nat := if w < 2 then 1 else if w < 4 then 2 else 4 * 2 ^ (w - 4)
def codeRegs (w : Nat) : Nat := if w < 5 then 1 else 2 ^ (w - 4)

/-- What register k of the run receives of the value read (Table 2 of R296): codes 0 and 2 extend the sign. -/
def codeValue (w k x : Nat) : Word :=
  if w = 0 then (BitVec.ofNat 8 x).signExtend 32
  else if w = 2 then (BitVec.ofNat 16 x).signExtend 32
  else BitVec.ofNat 32 (x / 2 ^ (32 * k))

/-- The value that a list of (lane, value) pairs gives a lane, 0 without one. -/
def valueOf (xs : List (Nat × Nat)) (l : Nat) : Nat := ((xs.find? fun x => x.1 = l).map Prod.snd).getD 0

/-- The results of a load into the run of n registers at d: the lanes that were read receive their part (R296). -/
def runLoads (d : BitVec 7) (n : Nat) (value : Nat → Nat → Word) (xs : List (Nat × Nat)) : List RegWrite :=
  (List.range n).map fun k => .v (d.toNat + k) (maskOf fun l => (xs.map Prod.fst).contains l) (Vec.ofFn fun l => value k (valueOf xs l))

/-- Every location lies in memory that serves the agent at once, intact and held by no hart. -/
def State.allPlain (s : State) (ag : Agent) (ls : List (Nat × DWord × Loc)) : Prop :=
  ∀ x ∈ ls, (∃ h, s.Serves ag x.2.2 h) ∧ s.Intact x.2.2.pa

/-- The new value of a location by an atomic (Table 4 of R309) on n-byte operands: old value, x and n. -/
def atomicValue (fn : Nat) (old x y : Nat) : Nat :=
  let o := BitVec.ofNat 32 old
  let v := BitVec.ofNat 32 x
  match fn with
  | 0 => (old + x) % 2 ^ 32
  | 1 => (old + x) % 2 ^ 64
  | 2 => (BitVec.ofInt 32 (min o.toInt v.toInt)).toNat
  | 3 => (BitVec.ofInt 32 (max o.toInt v.toInt)).toNat
  | 4 => min old x
  | 5 => max old x
  | 6 => old &&& x
  | 7 => old ||| x
  | 8 => old ^^^ x
  | 9 => x
  | 10 => x
  | 11 => if old = x then y else old
  | 12 => if old = x then y else old
  | 13 => addf .f32 old x
  | _ => addf .bf16 (old % 65536) (x % 65536) + 65536 * addf .bf16 (old / 65536 % 65536) (x / 65536 % 65536)

/-- An operation is charged to counter c and placed among those of the running warp (R299). -/
def State.charged (s : State) (c : BitVec 4) (k : OpKind) : State :=
  { s with
    w := s.w.setCounter c.toNat ⟨(s.w.counter c.toNat).cnt + 1, (s.w.counter c.toNat).err⟩
    ops := s.ops ++ [⟨s.nextOp, s.w.place, c, s.tick.toNat + s.opLatency, 0, s.w.issued, k, []⟩], nextOp := s.nextOp + 1 }

/-- Operation o of the running warp has ended in t with its gathered errors and err (R299). -/
def State.released (s : State) (o : Op) (err : BitVec 3) (t : State) : Prop :=
  (∀ p ∈ t.ops, p.id ≠ o.id)
    ∧ t.w.counter o.ac.toNat = ⟨(s.w.counter o.ac.toNat).cnt - 1, (s.w.counter o.ac.toNat).err ||| o.err ||| err⟩

/-- The running warp's tile c has 32 columns of elements of n bits, and a row for every lane of EM (R230, R236). -/
def State.tileMeets (s : State) (c : BitVec 4) (n : Nat) : Prop :=
  (s.w.tile c.toNat).shape ≠ 0 ∧ (s.w.tile c.toNat).cols = 32 ∧ (s.w.tile c.toNat).bits = n
    ∧ ∀ l < 64, s.w.em.getLsbD l = true → l < (s.w.tile c.toNat).rows

/-- The tile and dirty bit of a warp after a write of tile c (R253). -/
def Warp.wroteTile (w : Warp) (c : BitVec 4) (t : Tile) : Warp :=
  { w.setTile c.toNat t with dirty := w.dirty ||| (1 <<< c.toNat) }

/-- A line of memory that is online, served at once at its home ld, without error and held by no hart (R325, R328). -/
structure State.PlainLine (s : State) (ag : Agent) (l : Loc) (ld : Nat) : Prop where
  serves : s.Serves ag l ld
  intact : s.Intact l.pa

/-- Source runs and fields of a conversion whose source run has n registers (R176). -/
def sourcesOf (a : BitVec 7) (n : Nat) : List (Nat × Nat) × List Nat := if n = 1 then ([], [a.toNat]) else ([(a.toNat, n)], [])

end Sys2Proof.Machine
end

