-- ==== Sys2Proof/Certificates/Slice0/Obligations.lean ====
section
/-! DEFINITION. The statements about the model that are to be proved. -/

open Sys2Proof Sys2Proof.Machine

/-! Trap units. -/

/-- R57 steps 2 to 4 with R49 and R55: a target reports the first illegal word of its unit, else its privilege, else the first hint
that it does not accept; each is a trap with EPC at the unit's first word. R49: the hints that a target with the kinds acc accepts:
kinds of acc or SCH, each at most once, IMMH only with IMM, and RC where it is needed. R47: a hint word does nothing but join its trap
unit. R47, R49, R57: a fifth hint word ends the unit with the hint-mismatch trap at the first duplicated kind, or at itself; an
illegal word among the four comes first. That a fifth hint traps at once, with the offset of the first duplicated kind or else its
own, is the model's reading (assumption 21). -/
def Obligations.UnitChecks : Prop :=
  (∀ (i : Instr) (s : State), isTarget i = true → i.wellFormed = true → namesRegister i = true →
    (∀ x, s.badWord (modWidth i) = some x → exec i s = .next (s.trap 0x01 (x.zeroExtend 64)))
    ∧ (s.badWord (modWidth i) = none → s.deniedTo i = true → exec i s = .next (s.trap 0x0E 0))
    ∧ (∀ o, s.badWord (modWidth i) = none → s.deniedTo i = false →
        mismatch (acceptedKinds i) (needsRc i) s.w.hints = some o → exec i s = .next (s.trap 0x03 (BitVec.ofNat 64 o))))
  ∧ (∀ (acc : List Nat) (needRc : Bool) (hs : List Hint),
    mismatch acc needRc hs = none ↔
      (∀ h ∈ hs, hintKind h ∈ acc ∨ hintKind h = 6) ∧ (hs.map hintKind).Nodup
        ∧ (1 ∈ hs.map hintKind → 0 ∈ hs.map hintKind) ∧ (needRc = true → 2 ∈ hs.map hintKind))
  ∧ (∀ s : State, s.w.hints.length < 4 →
    let join := fun h : Hint =>
      (.next { s with w := { s.w with hints := s.w.hints ++ [h], pc := s.w.pc + 4 } } : Host.Outcome State Fault Refusal)
    (∀ p, exec (.hintImm p) s = join (.imm p)) ∧ (∀ p, exec (.hintImmh p) s = join (.immh p))
    ∧ (∀ o, exec (.hintRc o) s = join (.rc o)) ∧ (∀ t n, exec (.hintRep t n) s = join (.rep t n))
    ∧ (∀ p, exec (.hintMod p) s = join (.mod p)) ∧ (∀ p z, p.toNat < 4 → exec (.hintCp p z) s = join (.cp p z))
    ∧ (∀ c, exec (.hintSch c) s = join (.sch c)) ∧ (∀ k, exec (.hintKv k) s = join (.kv k)))
  ∧ (∀ (s : State) (i : Instr) (h : Hint), s.w.hints.length = 4 →
    ((∃ p, i = .hintImm p ∧ h = .imm p) ∨ (∃ p, i = .hintImmh p ∧ h = .immh p) ∨ (∃ o, i = .hintRc o ∧ h = .rc o)
      ∨ (∃ t n, i = .hintRep t n ∧ h = .rep t n) ∨ (∃ p, i = .hintMod p ∧ h = .mod p)
      ∨ (∃ p z, p.toNat < 4 ∧ i = .hintCp p z ∧ h = .cp p z) ∨ (∃ c, i = .hintSch c ∧ h = .sch c)
      ∨ (∃ k, i = .hintKv k ∧ h = .kv k)) →
    let ks := (s.w.hints ++ [h]).map hintKind
    exec i s = .next (match s.w.badHint with
      | some x => s.trap 0x01 (x.2.zeroExtend 64)
      | none =>
        s.trap 0x03 (BitVec.ofNat 64 (4 * ((List.range 5).find? fun j => (ks.take j).contains (ks.getD j 8)).getD 4))))

/-! The scalar pipe. -/

/-- R113, R114: the value that each SR form writes, A, B and D being S[sa], S[sb] and the old S[sd]. -/
def Obligations.ScalarResults : Prop :=
  ∀ (s : State) (d a b : BitVec 6), s.accepts 22 [] false →
    (∀ x ∈ srForms d a b, exec x.1 s = .next (s.computed [.s d.toNat (x.2 (s.w.s a.toNat) (s.w.s b.toNat) (s.w.s d.toNat))]))
    ∧ ∀ x ∈ srForms1 d a, exec x.1 s = .next (s.computed [.s d.toNat (x.2 (s.w.s a.toNat))])

/-- R50, R116: the value that each SI form other than a shift writes, I being the immediate with its hints. R116, R117: an SI
shift by 0 to 63 writes its value; any other immediate takes the illegal-operand trap. -/
def Obligations.ImmediateResults : Prop :=
  (∀ (s : State) (d a : BitVec 6) (i : BitVec 10), s.accepts 22 [0, 1] false →
    ∀ x ∈ siForms d a i, exec x.1 s = .next (s.computed [.s d.toNat (x.2 (s.w.s a.toNat) (s.w.siImm i) s.w.pc)]))
  ∧ (∀ (s : State) (d a : BitVec 6) (i : BitVec 10), s.accepts 22 [0, 1] false →
    ∀ x ∈ siShifts d a i,
      exec x.1 s = .next
        (if 0 ≤ (s.w.siImm i).toInt ∧ (s.w.siImm i).toInt ≤ 63
         then s.computed [.s d.toNat (x.2 (s.w.s a.toNat) (s.w.siImm i).toNat)]
         else s.trap 0x02 0))

/-- R13, R108: what a write of a scalar register leaves in each register: s0 stays 0, `fm` keeps bits [18:0], `em` the bits of
occupied lanes. R39: lane l of the guard mask G: all ones when g[2:0] is 0, otherwise bit l of k1 to k7, inverted when g[3] is
1. -/
def Obligations.ScalarRegisterRules : Prop :=
  (∀ (w : Warp) (r : Nat) (v : DWord),
    (w.setS r v).s 0 = 0
    ∧ (r ≠ 0 → (w.setS r v).s r = if r = 55 then v &&& 0x7FFFF else if r = 56 then v &&& w.occ else v)
    ∧ ∀ q, q ≠ r → (w.setS r v).s q = w.s q)
  ∧ (∀ (w : Warp) (g : BitVec 4) (l : Nat), l < 64 →
    (w.guard g).getLsbD l =
      if g.toNat % 8 = 0 then true else (w.s (56 + g.toNat % 8)).getLsbD l ^^ decide (8 ≤ g.toNat))

/-- R118, R119: a scalar load reads its bytes little-endian, zero-extends them and commits them by la; memory beyond the
translation's own updates does not change. R118: a scalar store writes the low bytes of its data register and goes on; it writes
no register. A weak store passes the write buffers (R321). R118: a scalar load or store at an address that is not a multiple of
its size takes trap 0x04 with TVAL the address. R297, R317: the strong scalar forms load and store 8 bytes, each a tagged send; a
store of device scope or wider is also the command that a resume doubleword makes of it (R357). -/
def Obligations.ScalarAccesses : Prop :=
  (∀ (s s1 : State) (l : Loc) (la : BitVec 4) (d a i : BitVec 6) (n : Nat) (ins : Instr),
    (ins = .sldB64 la d a i ∧ n = 8) ∨ (ins = .sldB32 la d a i ∧ n = 4) →
    s.accepts 22 [0, 5] false → ¬ (la ≠ 0 ∧ (d = 55 ∨ d = 56)) →
    s.Reaches (s.w.s a.toNat + s.w.imm 6 i.toNat * BitVec.ofNat 64 n) .read n s1 l →
    ∃ t, exec ins s = .next t ∧ (∀ x, t.byteAt x = s1.byteAt x)
      ∧ t.w = (s.done (s.w.ran la.toNat .memory [.s d.toNat (BitVec.ofNat 64 (s1.valueAt l.pa n))]) (s.w.pc + 4)).w)
  ∧ (∀ (s s1 : State) (l : Loc) (d a i : BitVec 6) (n : Nat) (ins : Instr),
    (ins = .sstB64 d a i ∧ n = 8) ∨ (ins = .sstB32 d a i ∧ n = 4) →
    s.accepts 22 [0, 5] false →
    s.Reaches (s.w.s a.toNat + s.w.imm 6 i.toNat * BitVec.ofNat 64 n) .write n s1 l →
    exec ins s = .next (((s1.poke l.pa (bytesOf n (s.w.s d.toNat).toNat)).buffer l n).done (s.w.ran 0 .none []) (s.w.pc + 4)))
  ∧ (∀ (s : State) (la : BitVec 4) (d a i : BitVec 6) (n : Nat) (ins : Instr),
    (ins = .sldB64 la d a i ∧ n = 8) ∨ (ins = .sldB32 la d a i ∧ n = 4) ∨ (ins = .sstB64 d a i ∧ n = 8)
      ∨ (ins = .sstB32 d a i ∧ n = 4) →
    s.accepts 22 [0, 5] false → ((ins = .sldB64 la d a i ∨ ins = .sldB32 la d a i) → ¬ (la ≠ 0 ∧ (d = 55 ∨ d = 56))) →
    reportsFull s.w = false → s.slotsFree 1 = true →
    (s.w.s a.toNat + s.w.imm 6 i.toNat * BitVec.ofNat 64 n).toNat % n ≠ 0 →
    exec ins s = .next (s.trap 0x04 (s.w.s a.toNat + s.w.imm 6 i.toNat * BitVec.ofNat 64 n)))
  ∧ (∀ (s s1 : State) (l : Loc) (la : BitVec 4) (d a : BitVec 6) (sc : BitVec 3), s.accepts 22 [5] false →
    (¬ (la ≠ 0 ∧ (d = 55 ∨ d = 56)) → s.Reaches (s.w.s a.toNat) .read 8 s1 l →
      let s2 := s.send [s1.valueAt l.pa 8]
      ∃ t, exec (.sldSt la d a sc) s = .next t ∧ (∀ x, t.byteAt x = s1.byteAt x)
        ∧ t.w = (s2.done (s2.w.ran la.toNat .memory [.s d.toNat (BitVec.ofNat 64 (s1.valueAt l.pa 8))]) (s.w.pc + 4)).w)
    ∧ (s.Reaches (s.w.s a.toNat) .write 8 s1 l → s1.NoneAhead sc →
      let v := (s.w.s d.toNat).toNat
      let s2 := (s1.poke l.pa (bytesOf 8 v)).send [0]
      let s3 := if 4 ≤ sc.toNat then s2.strong8 l.pa v else s2
      exec (.sstSt d a sc) s = .next (s3.done (s3.w.ran 0 .none []) (s3.w.pc + 4))))

/-! Control. -/

/-- R120, R123: a uniform branch is taken by its kind over T := EM & G; taken, it closes the windows and goes to its target modulo
2^48; not taken, it goes on. R121: `call` leaves PC + 4, exactly (R12), in s54 and jumps. R122: `jr` traps at a target that is not a
multiple of 4, then at one beyond 48 bits; otherwise it links and jumps. R186: `brd` splits EM by its guard. An empty part pushes
nothing; otherwise the join entry and the sibling entry are pushed, the taken part runs at the target, and the reconvergence PC is
that of its RC hint. -/
def Obligations.Branches : Prop :=
  (∀ (s : State) (g : BitVec 4) (o : BitVec 20), s.accepts 22 [] false →
    let t := s.w.em &&& s.w.guard g
    let go := fun taken : Bool =>
      (.next (if taken then s.closed [] (s.w.pc + BitVec.ofInt 48 (o.toInt * 4)) else s.computed []) : Host.Outcome State Fault Refusal)
    exec (.br o) s = go true
    ∧ exec (.brAny g o) s = go (decide (g.toNat % 8 = 0) || decide (t ≠ 0))
    ∧ (g.toNat % 8 ≠ 0 → exec (.brAll g o) s = go (decide (t = s.w.em)) ∧ exec (.brNone g o) s = go (decide (t = 0))))
  ∧ (∀ (s : State) (o : BitVec 20), s.accepts 22 [] false →
    exec (.call o) s = .next (s.closed [.s 54 (BitVec.ofNat 64 (s.w.pc.toNat + 4))] (s.w.pc + BitVec.ofInt 48 (o.toInt * 4))))
  ∧ (∀ (s : State) (d a : BitVec 6), s.accepts 22 [] false →
    exec (.jr d a) s = .next
      (let t := s.w.s a.toNat
       if t.toNat % 4 ≠ 0 then s.trap 0x04 t
       else if 2 ^ 48 ≤ t.toNat then s.trap 0x06 t
       else s.closed [.s d.toNat (BitVec.ofNat 64 (s.w.pc.toNat + 4))] (BitVec.ofNat 48 t.toNat)))
  ∧ (∀ (s : State) (g : BitVec 4) (o : BitVec 20), s.accepts 22 [2] true →
    let w := s.w
    let t := w.em &&& w.guard g
    let n := w.em &&& ~~~ w.guard g
    let tgt := w.pc + BitVec.ofInt 48 (o.toInt * 4)
    let rc := w.pc + BitVec.ofInt 48 ((w.hintRc.getD 0).toInt * 4)
    (t = 0 → exec (.brd g o) s = .next (s.closed [] (w.pc + 4)))
    ∧ (t ≠ 0 → n = 0 → exec (.brd g o) s = .next (s.closed [] tgt))
    ∧ (t ≠ 0 → n ≠ 0 → w.depth + 2 ≤ 32 → w.stack.length = w.depth →
        exec (.brd g o) s = .next
          (({ s with w := { w with
              stack := ⟨w.pc + 4, n, rc, w.fm, true⟩ :: ⟨rc, w.em, w.crpc, w.fm, false⟩ :: w.stack
              depth := w.depth + 2, pathCount := 0, crpc := rc } }).closed [.s 56 t] tgt))
    ∧ (t ≠ 0 → n ≠ 0 → (1022 < w.depth ∨ (30 < w.depth ∧ w.spill = 0)) →
        exec (.brd g o) s = .next (s.trap 0x09 (BitVec.ofNat 64 w.depth)))
    ∧ ∀ s1, t ≠ 0 → n ≠ 0 → s.push [⟨rc, w.em, w.crpc, w.fm, false⟩, ⟨w.pc + 4, n, rc, w.fm, true⟩] = .ok s1 →
        exec (.brd g o) s = .next (({ s1 with w := { s1.w with crpc := rc } }).closed [.s 56 t] tgt))

/-- R104, R125: `rsr` reads an assigned number, and an unassigned one is an illegal instruction. The words are those of the
encoding of `rsr`. A read of QLEFT is a tagged send (R317). R126, R9: `wsr` gives each field of its register the bits that its
access code lets through; read-only registers ignore it. A write of STKSPILL with entries in memory is an illegal operand (R192).
That an unassigned number is found before the privilege of the word is the model's reading (assumption 42). -/
def Obligations.SpecialRegisters : Prop :=
  (∀ (s : State) (d : BitVec 6) (n : BitVec 12),
    (s.accepts 22 [] false → srAssigned n.toNat = true → s.srWaits n.toNat = false →
      exec (.rsr d n) s = .next
        ((if n = 0x00A then s.send [(s.srRead 0x00A).toNat] else s).computed [.s d.toNat (s.srRead n.toNat)]))
    ∧ (srAssigned n.toNat = false → s.badWord 22 = none →
      exec (.rsr d n) s = .next (s.trap 0x01 (BitVec.ofNat 64 (0x1C00_0000 + d.toNat * 4096 + n.toNat))))
    ∧ s.srRead 0x000 = s.tick ∧ s.srRead 0x018 = BitVec.ofNat 64 s.w.depth ∧ s.srRead 0x019 = s.w.spill.zeroExtend 64
    ∧ s.srRead 0x01A = s.w.fstat.zeroExtend 64 ∧ s.srRead 0x01B = s.w.mstat.zeroExtend 64
    ∧ s.srRead 0x030 = s.w.tvec.zeroExtend 64 ∧ s.srRead 0x031 = s.w.tcause.zeroExtend 64
    ∧ s.srRead 0x032 = s.w.epc.zeroExtend 64 ∧ s.srRead 0x033 = s.w.tval ∧ s.srRead 0x035 = s.w.saveptr.zeroExtend 64
    ∧ (s.srRead 0x034).getLsbD 0 = s.w.inh ∧ (s.srRead 0x034).getLsbD 1 = s.w.pre
    ∧ (s.srRead 0x00A).toNat = (s.lc.record.n.toNat - s.lc.ic.toNat)
    ∧ s.srRead 0x001 = BitVec.ofNat 64 (16 * s.w.place.slot.toNat + s.w.idx.toNat) ∧ s.srRead 0x002 = s.w.place.core.zeroExtend 64
    ∧ s.srRead 0x003 = s.w.place.col.zeroExtend 64 ∧ s.srRead 0x004 = s.w.place.ld.zeroExtend 64
    ∧ s.srRead 0x005 = s.w.pkg.zeroExtend 64 ∧ s.srRead 0x006 = s.wg.stage.zeroExtend 64
    ∧ s.srRead 0x007 = s.w.key.gang.zeroExtend 64 ∧ s.srRead 0x008 = s.w.key.wgrp.zeroExtend 64
    ∧ s.srRead 0x009 = BitVec.ofNat 64 (s.lc.record.prio.toNat * 2 ^ 38 + s.w.key.queue.toNat * 2 ^ 32 + s.lc.seq.toNat)
    ∧ s.srRead 0x010 = BitVec.ofNat 64 (if s.wg.alen = 0 then 0 else s.wg.abase) ∧ s.srRead 0x011 = BitVec.ofNat 64 s.wg.alen
    ∧ s.srRead 0x012 = BitVec.ofNat 64 (if s.wg.wlen = 0 then 0 else s.wg.wbase) ∧ s.srRead 0x013 = BitVec.ofNat 64 s.wg.wlen
    ∧ (∀ h < 2, ∀ k < 8, (s.srRead (0x014 + h)).toNat / 256 ^ k % 256 = (s.w.tile (8 * h + k)).shape.toNat)
    ∧ s.srRead 0x016 = s.w.dirty.zeroExtend 64 ∧ s.srRead 0x01C = s.w.evmask.zeroExtend 64
    ∧ (let c := s.colOf s.w.place.ld.toNat s.w.place.col.toNat
       let x := s.clusterOf (clusterAt s.w.place)
       let asked := if (clusterAt s.w.place).cl = 0 then c.clk0 else c.clk1
       let top : Nat := if c.level = 3 then 0 else if c.level = 2 ∨ x.replayCap = true then 1 else 2
       s.srRead 0x020 = BitVec.ofNat 64 (s.w.thrPrev.toNat * 16 + s.w.thrChg.toNat * 8 + c.level.toNat)
       ∧ s.srRead 0x021 = BitVec.ofNat 64 ((if c.level = 0 then c.budget.toNat else if c.level = 3 then c.budget.toNat / 2
            else 3 * c.budget.toNat / 4) * 2 ^ 16 + min x.c.toNat 0xFFFF)
       ∧ s.srRead 0x022 = BitVec.ofNat 64 (x.rate.toNat + if top < asked.toNat then 4 else 0)))
  ∧ (∀ (s : State) (n : BitVec 12) (b : BitVec 6),
    s.accepts 22 [] false → srAssigned n.toNat = true → s.deniedTo (.wsr n b) = false →
    (n = 0x01A ∨ n = 0x01B → s.srWaits n.toNat = false) →
    let v := s.w.s b.toNat
    exec (.wsr n b) s = .next
      (if n = 0x019 ∧ 32 < s.w.depth then s.trap 0x02 0
       else ({ s with w := s.w.srWrite n.toNat v }).computed [])
    ∧ (s.w.srWrite 0x01A v).fstat = s.w.fstat &&& ~~~ (v.truncate 8) ∧ (s.w.srWrite 0x01B v).mstat = s.w.mstat &&& ~~~ (v.truncate 4)
    ∧ (s.w.srWrite 0x030 v).tvec = (v.truncate 48 >>> 2) <<< 2 ∧ (s.w.srWrite 0x032 v).epc = (v.truncate 48 >>> 2) <<< 2
    ∧ (s.w.srWrite 0x019 v).spill = (v.truncate 48 >>> 5) <<< 5 ∧ (s.w.srWrite 0x031 v).tcause = v.truncate 8
    ∧ (s.w.srWrite 0x033 v).tval = v ∧ (s.w.srWrite 0x034 v).abort = v.getLsbD 3
    ∧ (s.w.srWrite 0x01C v).evmask = v.truncate 2
    ∧ (s.w.srWrite 0x020 v = { s.w with thrChg := s.w.thrChg && ! v.getLsbD 3 })
    ∧ (∀ m, m ≤ 0x018 ∨ m = 0x021 ∨ m = 0x022 ∨ m = 0x035 → s.w.srWrite m v = s.w)
    ∧ ∀ g < 8, ∀ h < 8, (s.w.srWrite (0x040 + g) v).grp.get 0 h = if h = g then v &&& 0xF_FFFF_FFFF else s.w.grp.get 0 h)
  ∧ (∀ (s : State) (n : BitVec 12) (b : BitVec 6), srAssigned n.toNat = false → s.badWord 22 = none →
    exec (.wsr n b) s = .next (s.trap 0x01 (BitVec.ofNat 64 (0x1C04_0000 + n.toNat * 64 + b.toNat))))

/-- R407, R408: the software trap enters the handler at TVEC with the address after it in EPC; without a handler, or inside one,
its launch ends FAULTED. Trap entry closes the windows and changes no byte of memory and no other warp. R407, R55: a trap of a
unit saves the address of its first word, its cause and its value, and goes to the handler. R409: `tret` in a handler goes back
to EPC with the reconvergence state of the entry; with ABORT it ends the launch. -/
def Obligations.Traps : Prop :=
  (∀ (s : State) (n : BitVec 6), s.accepts 22 [] false →
    (s.w.inh = false → s.w.tvec ≠ 0 →
      exec (.trap n) s = .next { s with w := { s.w.commitAll with
        hints := [], badHint := none, latch := none, park := .none, left := s.w.left.filter fun x => ! x.inh
        cls := s.classAfter, issued := s.w.issued + 1, tcause := 0x0A, tval := n.zeroExtend 64
        epc := s.w.pc + 4, inh := true, pre := false, rst := false, abort := false, dh := s.w.depth, crpcSaved := s.w.crpc
        pc := s.w.tvec } })
    ∧ (s.w.inh = true ∨ s.w.tvec = 0 → s.w.life = .run → s.w.inProgress = false → s.groupRuns →
      ∃ t, exec (.trap n) s = .next t ∧ t.w.life = .stopping ∧ t.w.inh = s.w.inh ∧ t.w.epc = s.w.epc
        ∧ t.lc.ending = some (s.lc.ending.getD 0x09) ∧ ∀ x, t.byteAt x = s.byteAt x))
  ∧ (∀ (s : State) (c : BitVec 8) (v : DWord), s.w.inh = false → s.w.tvec ≠ 0 →
    let t := s.trap c v
    t.w.tcause = c ∧ t.w.tval = v ∧ t.w.epc = s.w.pc - BitVec.ofNat 48 (4 * s.w.hints.length) ∧ t.w.pc = s.w.tvec
    ∧ t.w.inh = true ∧ t.w.hints = [] ∧ t.w.windows = [] ∧ t.w.dh = s.w.depth ∧ t.w.crpcSaved = s.w.crpc
    ∧ (∀ r, t.w.s r = s.w.commitAll.s r) ∧ (∀ r, t.w.v r = s.w.commitAll.v r) ∧ t.w.stack = s.w.stack ∧ t.w.fstat = s.w.fstat
    ∧ t.mem = s.mem ∧ t.warps = s.warps ∧ t.wg = s.wg ∧ t.lc = s.lc)
  ∧ (∀ s : State, s.accepts 22 [] false → s.w.inh = true →
    (s.w.abort = false → (s.w.pre = false ∨ s.w.rst = true) → s.w.arw = none →
      s.w.dh ≤ s.w.depth → s.w.depth ≤ 32 → s.w.stack.length = s.w.depth →
      ∃ t, exec .tret s = .next t ∧ t.w.pc = s.w.epc ∧ t.w.inh = false ∧ t.w.pre = false ∧ t.w.rst = false ∧ t.w.abort = false
        ∧ t.w.depth = s.w.dh ∧ t.w.stack = s.w.stack.drop (s.w.depth - s.w.dh) ∧ t.w.crpc = s.w.crpcSaved
        ∧ t.w.dh = 0 ∧ t.w.windows = [] ∧ t.w.hints = [] ∧ (∀ r, t.w.s r = s.w.commitAll.s r) ∧ t.mem = s.mem)
    ∧ (s.w.abort = true → s.w.life = .run → s.w.inProgress = false → s.groupRuns →
      ∃ t, exec .tret s = .next t ∧ t.w.life = .stopping ∧ t.lc.ending = some (s.lc.ending.getD 0x09)))

/-- R196: `yield` inside a handler, or with no entry above Dh, does nothing but close. R195, R196: else `yield`, and a fair swap event
at the unit that is next, look through the entries from index Dh up for the lowest that waits: K set, and not a dead sibling, whose
nonzero mask has only exited lanes. With one, the dead siblings below it and the entry itself leave the stack, the current path is
pushed, to go on behind `yield` or at the unit, and the path of the entry goes on. With none, the dead siblings leave, and the path goes
on. Entries in memory are read before, and those that change their place or leave the chip are written in ascending order, once every
address that is read or written has been translated. R187, R85: a
path that arrives at its reconvergence PC goes on as the path of the top entry; with up to 32 entries, those whose lanes have exited
and those that stand at their own reconvergence PC are popped in turn. Where a path goes on after a swap is the model's reading of R195
and R196 (assumption 23). -/
def Obligations.PathSwaps : Prop :=
  (∀ s : State, s.accepts 22 [] false → s.w.inh = true ∨ s.w.depth ≤ s.w.dh → exec .yield s = .next (s.closed [] (s.w.pc + 4)))
  ∧ (∀ (s s0 : State) (ins : Instr) (pc : BitVec 48),
    (ins = .yield ∧ s.accepts 22 [] false ∧ s.w.inh = false ∧ s.w.dh < s.w.depth ∧ pc = s.w.pc + 4
        ∧ s0 = { s with w := s.w.commitAll })
      ∨ (ins = .fairSwap ∧ pc = s.w.pc ∧ s0 = { s with w := s.w.commitAll.dropHints }) →
    let d := s.w.depth
    let dead := fun e : Entry => e.k && decide (e.mask ≠ 0 ∧ e.mask &&& s.w.occ = 0)
    let waits := fun e : Entry => e.k && ! dead e
    let cur : Entry := ⟨pc, s.w.commitAll.em, s.w.crpc, s.w.commitAll.fm, true⟩
    let goes := fun (es : List Entry) (run : Option Entry) (all : List (Entry × Nat)) =>
      let low := es.zipIdx.take s.w.dh
      let high := es.zipIdx.drop s.w.dh
      (∃ pre e post, high = pre ++ e :: post ∧ waits e.1 = true ∧ (∀ x ∈ pre, waits x.1 = false) ∧ run = some e.1
        ∧ all = low ++ pre.filter (fun x => ! dead x.1) ++ post ++ [(cur, d)])
      ∨ ((∀ x ∈ high, waits x.1 = false) ∧ run = none ∧ all = low ++ high.filter fun x => ! dead x.1)
    let ends := fun (run : Option Entry) (all : List (Entry × Nat)) (mem : Cells Byte) =>
      ∃ t, exec ins s = .next t ∧ t.mem = mem ∧ t.w.stack = ((all.drop (all.length - 32)).map Prod.fst).reverse
        ∧ t.w.depth = all.length ∧ t.w.pathCount = 0 ∧ t.w.windows = [] ∧ t.w.hints = []
        ∧ match run with
          | some e => t.w.pc = e.pc ∧ t.w.em = (e.mask &&& s.w.occ) ∧ t.w.fm = e.fm ∧ t.w.crpc = e.rpc
          | none => t.w.pc = pc ∧ t.w.em = s.w.commitAll.em ∧ t.w.fm = s.w.commitAll.fm ∧ t.w.crpc = s.w.crpc
    (∀ run all, d ≤ 32 → s.w.stack.length = d → s.slotsFree 0 = true → goes s.w.stack.reverse run all → ends run all s.mem)
    ∧ ∀ s1 s2 s3 s4 sx rs ws xs run all, s0.spillCheck .read (List.range (d - 32)) = .ok (s1, rs) →
        s1.loadAll none 32 rs = .ok (sx, xs) → goes ((xs.map fun x => entryOf x.2) ++ s.w.stack.reverse) run all →
        let out := (((all.take (all.length - 32)).zipIdx).filter fun x => decide (x.1.2 ≠ x.2 ∨ d - 32 ≤ x.2)).map fun x => (x.2, x.1.1)
        s1.spillCheck .write (out.map Prod.fst) = .ok (s2, ws) → s2.loadAll none 32 rs = .ok (s3, xs) →
        s3.storeAll none [] (ws.filterMap fun w => (out.find? fun e => e.1 = w.1).map fun e => (w.1, w.2.1, w.2.2, e.2.bytes)) = .ok s4 →
        ends run all s4.mem)
  ∧ (∀ s : State,
    (s.w.arrived = false → exec .popAtArrival s = .next s)
    ∧ (∀ e rest s1 back, s.w.dh < s.w.depth → s.w.pc = s.w.crpc → s.w.stack = e :: rest → e.mask &&& s.w.occ ≠ 0 → e.pc ≠ e.rpc →
        ({ s with w := s.w.commitAll.dropHints }).read32
          (if 32 < s.w.depth then [s.w.spillAddr (s.w.depth - 33)] else []) = .ok (s1, back) →
        ∃ t, exec .popAtArrival s = .next t ∧ t.w.pc = e.pc ∧ t.w.em = (e.mask &&& s.w.occ) ∧ t.w.fm = e.fm ∧ t.w.crpc = e.rpc
          ∧ t.w.stack = rest ++ back.map entryOf ∧ t.w.depth = s.w.depth - 1 ∧ t.w.windows = [] ∧ t.w.hints = [] ∧ t.mem = s1.mem)
    ∧ ∀ pre e rest, s.w.depth ≤ 32 → s.w.stack.length = s.w.depth → s.w.pc = s.w.crpc → s.w.stack = pre ++ e :: rest →
        s.w.dh ≤ rest.length →
        let gone := fun x : Entry => decide (x.mask ≠ 0 ∧ x.mask &&& s.w.occ = 0)
        (∀ x ∈ pre, gone x = true ∨ x.pc = x.rpc) → gone e = false → e.pc ≠ e.rpc ∨ rest.length = s.w.dh →
        ∃ t, exec .popAtArrival s = .next t ∧ t.w.pc = e.pc ∧ t.w.em = (e.mask &&& s.w.occ) ∧ t.w.fm = e.fm ∧ t.w.crpc = e.rpc
          ∧ t.w.stack = rest ∧ t.w.depth = rest.length ∧ t.w.windows = [] ∧ t.w.hints = [] ∧ t.mem = s.mem)

/-- R199, R200: `stk.save` stores the header with the depth and CRPC, and behind it the entries from the bottom, those in memory as they
are read from there, at a multiple of 32; sd receives the bytes stored, and an address that is no multiple of 32 takes trap 0x04. R199,
R201: `stk.load` reads an image. In this order, it takes trap 0x04 at an address that is no multiple of 32, the illegal-operand trap for
a depth above 1 024 and for a malformed CRPC, trap 0x09 for 33 or more entries without a spill area, and the illegal-operand trap at the
first malformed PC or rpc; else the entries below the top 32 are written to the spill area, and the depth, CRPC and the stack are those
of the image; in a handler so are Dh and the recorded CRPC (R197). The entries are the 32-byte parts of the image that the model's entry
layout decodes. -/
def Obligations.StackImages : Prop :=
  (∀ (s s1 s2 : State) (l : Loc) (d a : BitVec 6) (back : List Nat), s.accepts 22 [] false →
    let va := s.w.s a.toNat
    (va.toNat % 32 ≠ 0 → exec (.stkSave d a) s = .next (s.trap 0x04 va))
    ∧ (s.w.depth = 0 → s.w.stack = [] → s.Reaches va .write 32 s1 l →
      exec (.stkSave d a) s = .next
        (((s1.poke l.pa (bytesOf 8 0 ++ bytesOf 8 s.w.crpc.toNat ++ bytesOf 16 0)).buffer l 32).done
          (s.w.ran 0 .none [.s d.toNat 32]) (s.w.pc + 4)))
    ∧ (va.toNat % 32 = 0 → s.mayIssue 1 → s.read32 ((List.range (s.w.depth - 32)).map s.w.spillAddr) = .ok (s1, back) →
      let es := back.map entryOf ++ s.w.stack.reverse
      let header := bytesOf 8 s.w.depth ++ bytesOf 8 s.w.crpc.toNat ++ bytesOf 16 0
      s1.write32 ((va, header) :: es.zipIdx.map fun x => (va + BitVec.ofNat 64 (32 * (x.2 + 1)), x.1.bytes)) = .ok s2 →
      exec (.stkSave d a) s =
        .next (s2.done (s2.w.ran 0 .none [.s d.toNat (BitVec.ofNat 64 (32 * (s.w.depth + 1)))]) (s2.w.pc + 4))))
  ∧ (∀ (s s1 s2 s3 : State) (a : BitVec 6) (h : Nat) (xs : List Nat), s.accepts 22 [] false →
    let va := s.w.s a.toNat
    (va.toNat % 32 ≠ 0 → exec (.stkLoad a) s = .next (s.trap 0x04 va))
    ∧ (va.toNat % 32 = 0 → s.mayIssue 1 → s.read32 [va] = .ok (s1, [h]) →
      let depth := h % 2048
      let crpc := BitVec.ofNat 48 (h / 2 ^ 64)
      let rpcOk := fun x : BitVec 48 => x = 1 ∨ x.toNat % 4 = 0
      (1024 < depth → exec (.stkLoad a) s = .next (s.trap 0x02 va))
      ∧ (depth ≤ 1024 → ¬ rpcOk crpc → exec (.stkLoad a) s = .next (s.trap 0x02 (va + 8)))
      ∧ (depth ≤ 1024 → rpcOk crpc → 32 < depth → s.w.spill = 0 →
        exec (.stkLoad a) s = .next (s.trap 0x09 (BitVec.ofNat 64 depth)))
      ∧ (depth ≤ 1024 → rpcOk crpc → depth ≤ 32 ∨ s.w.spill ≠ 0 →
        s1.read32 ((List.range depth).map fun i => va + BitVec.ofNat 64 (32 * (i + 1))) = .ok (s2, xs) →
        let es := xs.map entryOf
        (∀ i e, es[i]? = some e → (∀ x ∈ es.take i, x.pc.toNat % 4 = 0 ∧ rpcOk x.rpc) →
          (e.pc.toNat % 4 ≠ 0 → exec (.stkLoad a) s = .next (s.trap 0x02 (va + BitVec.ofNat 64 (32 * (i + 1) + 16))))
          ∧ (e.pc.toNat % 4 = 0 → ¬ rpcOk e.rpc →
            exec (.stkLoad a) s = .next (s.trap 0x02 (va + BitVec.ofNat 64 (32 * (i + 1) + 24)))))
        ∧ ((∀ x ∈ es, x.pc.toNat % 4 = 0 ∧ rpcOk x.rpc) →
          s2.write32 (((es.take (depth - 32)).zipIdx).map fun x => (s.w.spillAddr x.2, x.1.bytes)) = .ok s3 →
          exec (.stkLoad a) s = .next
            (({ s3 with w := { s3.w with
                depth := depth, stack := (es.drop (depth - 32)).reverse, crpc := crpc, pathCount := 0
                dh := if s.w.inh then depth else s.w.dh, crpcSaved := if s.w.inh then crpc else s.w.crpcSaved } }).computed [])))))

/-- R315, R288: a fence is one unit that begins its wait, commits the pending results of memory loads, and from core scope up those
of buffer loads, and drains the write buffers of its core; it changes no memory. A release or full fence waits while a strong write of
its warp stands at a port or awaits its acknowledgement, and at system scope while any write of the warp stands at a port; an acquire
waits for none. When nothing holds it, it completes, and the warp goes on. R381: one that waits for a port in training marks RETRAIN.
R382, R383: a fence at system scope that ordered a request which a port lost sets LINKDOWN, and reports cause 0x0F with the port as TVAL
when EVMASK enables it. That a fence is two events, its issue and its completion, is the model's form (assumption 30). -/
def Obligations.FencesBeginAndComplete : Prop :=
  ∀ (s : State) (sc : BitVec 3),
    (s.accepts 22 [] false → reportsFull s.w = false →
      let w := s.w.commitLoads (decide (sc ≠ 0))
      let begun := fun k : BitVec 2 =>
        let t := ({ s.drain s.w.place with w := { w with fence := some (k, sc) } }).done
          ({ w with fence := some (k, sc) } : Warp).tickWindows (s.w.pc + 4)
        (.next { t with w := { t.w with left := s.w.leftAfter } } : Host.Outcome State Fault Refusal)
      exec (.fenceAcq sc) s = begun 0 ∧ exec (.fenceRel sc) s = begun 1 ∧ exec (.fenceFull sc) s = begun 2)
    ∧ (s.w.fence = none → exec .fenceCompletion s = .next s)
    ∧ (∀ k, s.w.fence = some (k, sc) →
        (s.fenceHeld = true ↔ k ≠ 0 ∧ ((∃ p ∈ s.ports, ∃ h ∈ p.2.held, h.owner = s.owner ∧ (sc = 6 ∨ h.scope ≠ none))
          ∨ ∃ x ∈ s.waits, x.who = .warp s.owner)))
    ∧ (∀ k, s.w.fence = some (k, sc) → s.fenceHeld = false → sc ≠ 6 ∨ s.w.lostBefore k = none →
        exec .fenceCompletion s = .next { s with w := { s.w with fence := none } })
    ∧ (s.fenceHeld = true → exec .fenceCompletion s =
        .next (if ∃ p ∈ s.ports, p.2.state = .training ∧ ∃ h ∈ p.2.held, h.owner = s.owner
          then { s with w := { s.w with mstat := s.w.mstat ||| 4 } } else s))
    ∧ ∀ k p, s.w.fence = some (k, sc) → s.fenceHeld = false → sc = 6 → s.w.lostBefore k = some p →
        ∃ t, exec .fenceCompletion s = .next t ∧ t.w.fence = none ∧ t.w.mstat = s.w.mstat ||| 1 ∧ t.mem = s.mem ∧ t.w.pc = s.w.pc
          ∧ (s.w.evmask.getLsbD 1 = true → (∀ r ∈ s.w.reports, r.cause ≠ 0x0F) →
              ⟨0x0F, BitVec.ofNat 64 p, s.w.issued⟩ ∈ t.w.reports)
          ∧ (s.w.evmask.getLsbD 1 = false → t.w.reports = s.w.reports)

/-! Items, successors, retirement and waits. -/

/-- R74, R317: ItemTake, a tagged send, gives the next items in order, no more than are left, and moves the item counter past them.
R77: the start
take of a stage-0 warp fills lanes 0 upward with the next items; a warp that takes none retires. R79 to R81: `refill` gives the
empty lanes the next items, in ascending order, zeroes the `.ilive` registers there, adds the lanes to EM and then writes their
mask; it writes 0 and nothing else in a handler, with a stack, with no empty lane or with the queue drained. Which items a warp
takes against the other warps of its launch is the order of the model's events (assumption 17). -/
def Obligations.ItemsAreTaken : Prop :=
  (∀ (s : State) (n : BitVec 7), n.toNat ≤ 64 → s.lc.ic.toNat ≤ s.lc.record.n.toNat →
    exec (.itemTake n) s =
      .next { s.send [s.lc.ic.toNat] with
        lc := { s.lc with ic := s.lc.ic + BitVec.ofNat 48 (min n.toNat (s.lc.record.n.toNat - s.lc.ic.toNat)) } })
  ∧ (∀ s : State, s.lc.ic.toNat ≤ s.lc.record.n.toNat →
    let take := min 64 (s.lc.record.n.toNat - s.lc.ic.toNat)
    ∃ t, exec .startTake s = .next t ∧ t.lc.ic.toNat = s.lc.ic.toNat + take
      ∧ (take = 0 → t.w.life = .retiring)
      ∧ (take ≠ 0 → t.w.life = .run ∧ (∀ l < 64, t.w.occ.getLsbD l = decide (l < take)) ∧ t.w.em = t.w.occ
          ∧ ∀ l < take, t.w.item.get 0 l = s.lc.ic + BitVec.ofNat 48 l ∧ t.w.age.get 0 l = 1))
  ∧ (∀ (s : State) (d : BitVec 6), s.accepts 22 [] false →
    let empty := (List.range 64).filter fun l => ! s.w.occ.getLsbD l
    let take := min empty.length (s.lc.record.n.toNat - s.lc.ic.toNat)
    let got := empty.take take
    (s.w.inh = true ∨ s.w.depth ≠ 0 ∨ empty = [] → exec (.refill d) s = .next (s.computed [.s d.toNat 0]))
    ∧ (s.w.inh = false → s.w.depth = 0 → empty ≠ [] → (∀ r ∈ s.ilive, s.pendingLanes r = false) →
      s.lc.ic.toNat ≤ s.lc.record.n.toNat →
      (take = 0 → exec (.refill d) s = .next ((s.send [s.lc.ic.toNat]).computed [.s d.toNat 0]))
      ∧ (take ≠ 0 → ∃ t m, exec (.refill d) s = .next t ∧ (∀ l < 64, m.getLsbD l = got.contains l)
        ∧ t.lc.ic.toNat = s.lc.ic.toNat + take ∧ t.w.occ = s.w.occ ||| m
        ∧ (∀ k < take, t.w.item.get 0 (got.getD k 64) = s.lc.ic + BitVec.ofNat 48 k
            ∧ t.w.age.get 0 (got.getD k 64) = s.w.age.get 0 (got.getD k 64) + 1)
        ∧ (∀ l, got.contains l = false → t.w.item.get 0 l = s.w.item.get 0 l ∧ t.w.age.get 0 l = s.w.age.get 0 l)
        ∧ (d ≠ 0 → d ≠ 55 → t.w.s d.toNat = m) ∧ (d ≠ 56 → t.w.em = (s.w.em ||| m) &&& (s.w.occ ||| m))
        ∧ (∀ r, r ≠ d.toNat → r ≠ 56 → t.w.s r = s.w.commitAll.s r)
        ∧ (∀ r l, l < 64 → (t.w.v r).at l = if s.ilive.contains r ∧ m.getLsbD l = true then 0 else (s.w.commitAll.v r).at l)
        ∧ t.w.windows = [] ∧ t.w.pc = s.w.pc + 4 ∧ t.mem = s.mem)))

/-- R84 to R87, R91: `exit.i` ends the items of EM. In a handler it is an illegal operand. With lanes left and no path above Dh
it goes on with EM = 0; with none left the warp restarts at its stage entry with new items, or retires when there are none. The
order of the pops and the path left with EM = 0 are the model's reading (assumption 24). -/
def Obligations.ExitEndsItems : Prop :=
  ∀ s : State, s.accepts 22 [] false →
    (s.w.inh = true → exec .exitI s = .next (s.trap 0x02 0))
    ∧ (s.w.inh = false → s.w.occ &&& ~~~ s.w.em ≠ 0 → s.w.depth ≤ s.w.dh →
        ∃ t, exec .exitI s = .next t ∧ t.w.occ = s.w.occ &&& ~~~ s.w.em ∧ t.w.em = 0 ∧ t.w.pc = s.w.pc + 4 ∧ t.w.windows = []
          ∧ t.w.stack = s.w.stack ∧ t.lc = s.lc ∧ (∀ r, r ≠ 56 → t.w.s r = s.w.commitAll.s r) ∧ t.mem = s.mem)
    ∧ (s.w.inh = false → s.w.occ &&& ~~~ s.w.em = 0 → s.lc.ic.toNat < s.lc.record.n.toNat →
        (∀ r ∈ s.ilive, s.pendingLanes r = false) →
        let take := min 64 (s.lc.record.n.toNat - s.lc.ic.toNat)
        ∃ t, exec .exitI s = .next t ∧ (∀ l < 64, t.w.occ.getLsbD l = decide (l < take)) ∧ t.w.em = t.w.occ
          ∧ (∀ l < take, t.w.item.get 0 l = s.lc.ic + BitVec.ofNat 48 l) ∧ t.lc.ic.toNat = s.lc.ic.toNat + take
          ∧ t.w.pc = s.kernel.base + s.kernel.entries.getD s.wg.stage.toNat 0 ∧ t.w.depth = 0 ∧ t.w.stack = [] ∧ t.w.crpc = 1
          ∧ t.mem = s.mem)
    ∧ (s.w.inh = false → s.w.occ &&& ~~~ s.w.em = 0 → s.lc.ic = s.lc.record.n → s.w.reports = [] →
        ∃ t, exec .exitI s = .next t ∧ t.w.life = .retiring ∧ t.w.occ = 0 ∧ t.w.depth = 0 ∧ t.w.windows = [] ∧ t.mem = s.mem)
    ∧ ∀ e rest, s.w.inh = false → s.w.occ &&& ~~~ s.w.em ≠ 0 → s.w.dh < s.w.depth → s.w.depth ≤ 32 → s.w.stack = e :: rest →
        e.mask &&& s.w.occ &&& ~~~ s.w.em ≠ 0 → e.pc ≠ e.rpc →
        ∃ t, exec .exitI s = .next t ∧ t.w.occ = s.w.occ &&& ~~~ s.w.em ∧ t.w.em = (e.mask &&& t.w.occ) ∧ t.w.pc = e.pc
          ∧ t.w.crpc = e.rpc ∧ t.w.stack = rest ∧ t.w.depth = s.w.depth - 1 ∧ t.mem = s.mem

/-- R90, R91: `retire` abandons the warp's items and its paths; in a handler it leaves the handler first and drops its reports.
R88 steps 2 to 5, R92, R288: a warp whose counters are 0, whose operations are done and whose strong stores at system scope have
left their ports retires; one that is not stays. Its workgroup
keeps what it holds while another of its warps has not retired; the retirement of its last warp frees it, unless a successor follows:
no warp and no workgroup of its key is left, and the launches that this lets end then end. -/
def Obligations.Retirement : Prop :=
  (∀ s : State, s.accepts 22 [] false → (s.w.inh = true ∨ s.w.reports = []) →
    ∃ t, exec .retire s = .next t ∧ t.w.life = .retiring ∧ t.w.occ = 0 ∧ t.w.em = 0 ∧ t.w.depth = 0 ∧ t.w.stack = []
      ∧ t.w.crpc = 1 ∧ t.w.inh = false ∧ t.w.reports = [] ∧ t.w.windows = [] ∧ t.w.hints = []
      ∧ (∀ r, r ≠ 56 → t.w.s r = s.w.commitAll.s r) ∧ t.lc = s.lc ∧ t.mem = s.mem)
  ∧ (∀ s : State,
    (s.quiet s.w = false ∨ s.strongHeld = true ∨ (s.w.life ≠ .retiring ∧ s.w.life ≠ .stopping) →
        exec .warpRetirement s = .next s)
    ∧ (s.quiet s.w = true → s.strongHeld = false → (s.w.life = .retiring ∨ s.w.life = .stopping) →
        (∃ k < 16, k ≠ s.w.idx.toNat ∧ s.wg.live.getLsbD k = true) →
        ∃ t, exec .warpRetirement s = .next t ∧ t.w.life = .retired ∧ t.w.q0 = [] ∧ t.w.q1 = [] ∧ t.w.q2 = [] ∧ t.w.q3 = []
          ∧ t.wg.retired = s.wg.retired ||| s.myBit ∧ (∀ b < 16, (t.wg.barrier b).memb.getLsbD s.w.idx.toNat = false)
          ∧ t.wg.abuf = s.wg.abuf ∧ t.wg.wbuf = s.wg.wbuf ∧ t.mem = s.mem)
    ∧ (s.quiet s.w = true → s.strongHeld = false → (s.w.life = .retiring ∨ s.w.life = .stopping) →
        (∀ k < 16, k ≠ s.w.idx.toNat → s.wg.live.getLsbD k = false) →
        ∃ u, u.w.life = .retired ∧ u.w.key = s.w.key ∧ u.wg.retired = s.wg.retired ||| s.myBit ∧ u.mem = s.mem
          ∧ exec .warpRetirement s = .next (if s.wg.succ = none ∨ s.lc.ending ≠ none then (u.freeGroup s.w.key).complete else u))
    ∧ ∀ k : GroupKey,
        (∀ w ∈ (s.freeGroup k).allWarps, w.key ≠ k) ∧ (∀ g ∈ (s.freeGroup k).allGroups, g.key ≠ k)
        ∧ (∀ w ∈ s.allWarps, w.key ≠ k → w ∈ (s.freeGroup k).allWarps) ∧ (∀ g ∈ s.allGroups, g.key ≠ k → g ∈ (s.freeGroup k).allGroups)
        ∧ (s.freeGroup k).mem = s.mem)

/-- R93: `succ` records a stage that the kernel has, and `succ.clr` clears the record; any other stage is an illegal operand.
R94, R77: when every warp has retired, the recorded successor starts at its stage entry on the same slots, with the same buffers
and tiles and fresh barrier words; its lanes are all occupied by stage-local items of age 0. -/
def Obligations.Successors : Prop :=
  (∀ (s : State) (n : BitVec 3), s.accepts 22 [] false →
    exec (.succ n) s = .next
      (if s.kernel.stages.getLsbD n.toNat = true then ({ s with wg := { s.wg with succ := some n } }).computed []
       else s.trap 0x02 0)
    ∧ exec .succClr s = .next (({ s with wg := { s.wg with succ := none } }).computed []))
  ∧ (∀ (s : State) (n : BitVec 3),
    (s.wg.succ = none → exec .successorStart s = .next s)
    ∧ (s.wg.succ = some n → s.wg.allRetired = true → s.lc.ending = none → s.w.key = s.wg.key → s.w.life = .retired →
        ∃ t, exec .successorStart s = .next t ∧ t.wg.stage = n ∧ t.wg.succ = none ∧ t.wg.barriers = [] ∧ t.wg.retired = 0
          ∧ t.wg.abuf = s.wg.abuf ∧ t.wg.wbuf = s.wg.wbuf ∧ t.w.life = .run ∧ t.w.place = s.w.place ∧ t.w.tiles = s.w.tiles
          ∧ t.w.pc = s.kernel.base + s.kernel.entries.getD n.toNat 0 ∧ t.w.occ = BitVec.allOnes 64 ∧ t.w.em = BitVec.allOnes 64
          ∧ t.w.s 1 = s.lc.record.argp ∧ t.w.vregs = [] ∧ t.w.depth = 0 ∧ t.w.inh = false ∧ t.mem = s.mem
          ∧ ∀ l < 64, (t.w.item.get 0 l).toNat = 64 * s.w.idx.toNat + l ∧ t.w.age.get 0 l = 0))

/-- R300: `wait` and `waitr` park while the count exceeds the threshold, which is the one that they first read (R44: a unit that
parked reads what it read under the windows that its parking closed, assumption 58, the model's choice); then, unless sd is s0, they
give the counter's value and clear its errors. R301, R307: `acget` reads a counter, `acset` writes its error bits only, and `qdrop`
empties a queue and gives the number of its entries. R99: `nap` with t = S[sa][15:0] = 0 completes; otherwise it parks the warp behind
it until t cycles have passed, and its expiry makes the warp ready. The cycle in which a warp becomes ready is that of the model's
tick (assumption 17). -/
def Obligations.Waits : Prop :=
  (∀ (s : State) (d b : BitVec 6) (n : BitVec 4) (k : BitVec 6), s.accepts 22 [] false →
    let c := s.w.counter n.toNat
    let go := fun thr : BitVec 16 =>
      (.next
        (if thr.toNat < c.cnt.toNat then s.parkAt (.counter n thr)
         else if d = 0 then s.closed [] (s.w.pc + 4)
         else ({ s with w := s.w.setCounter n.toNat ⟨c.cnt, 0⟩ }).closed
           [.s d.toNat (BitVec.ofNat 64 (c.err.toNat * 65536 + c.cnt.toNat))] (s.w.pc + 4)) : Host.Outcome State Fault Refusal)
    exec (.wait d n k) s = go (BitVec.ofNat 16 k.toNat)
    ∧ exec (.waitr d n b) s = go (BitVec.ofNat 16 (s.w.s b.toNat).toNat)
    ∧ ∀ p, (s.parkAt p).w.park = p ∧ (s.parkAt p).w.windows = [] ∧ (s.parkAt p).w.hints = []
        ∧ (s.parkAt p).w.pc = s.w.pc - BitVec.ofNat 48 (4 * s.w.hints.length) ∧ (s.parkAt p).w.cls = s.classAfter
        ∧ (s.w.view = none → ∀ r, (s.parkAt p).w.s r = s.w.s r ∧ (s.parkAt p).w.v r = s.w.v r)
        ∧ (s.parkAt p).w.sregs = (if s.w.windows = [] then s.w.sregs else s.w.commitAll.sregs)
        ∧ (s.parkAt p).w.vregs = (if s.w.windows = [] then s.w.vregs else s.w.commitAll.vregs)
        ∧ (s.parkAt p).mem = s.mem)
  ∧ (∀ (s : State) (d b : BitVec 6) (n : BitVec 4) (q : BitVec 2), s.accepts 22 [] false →
    let c := s.w.counter n.toNat
    exec (.acget d n) s = .next (s.computed [.s d.toNat (BitVec.ofNat 64 (c.err.toNat * 65536 + c.cnt.toNat))])
    ∧ exec (.acset n b) s = .next
        (({ s with w := s.w.setCounter n.toNat ⟨c.cnt, BitVec.ofNat 3 ((s.w.s b.toNat).toNat / 65536)⟩ }).computed [])
    ∧ exec (.qdrop d q) s = .next
        (({ s with w := s.w.setQueue q.toNat [] }).computed [.s d.toNat (BitVec.ofNat 64 (s.w.queue q.toNat).length)]))
  ∧ (∀ (s : State) (a : BitVec 6) (u : Nat), s.accepts 22 [] false →
    let t := (s.w.s a.toNat).toNat % 65536
    exec (.nap a) s = .next
      (if t = 0 then s.computed []
       else
         let n := s.closed [] (s.w.pc + 4)
         { n with w := { n.w with park := .nap (s.tick.toNat + t + 1) } })
    ∧ (s.w.park = .nap u → s.w.life ≠ .empty →
        ∃ t, exec (.napExpiry s.w.place) s = .next t ∧ t.w = { s.w with park := .none } ∧ t.mem = s.mem))

/-- R220: a barrier word after a change: it completes its phase when every member has arrived. R222, R220: the barrier instructions on
word b of the running warp's workgroup; `bar.wait` waits on the token that it first read (R44, assumption 58, the model's choice); an
arrival, a release (R292), waits for the warp's strong stores; a change looks again at the warps that wait on the word. A warp that is
no member takes the illegal-operand trap where it arrives. -/
def Obligations.Barriers : Prop :=
  (∀ x : Barrier,
    x.settle =
      if x.memb = 0 then ⟨x.ph, 0, x.memb⟩
      else if (List.range 16).all (fun w => ! x.memb.getLsbD w || x.arr.getLsbD w) then ⟨x.ph + 1, 0, x.memb⟩
      else x)
  ∧ (∀ (s : State) (a : BitVec 6) (b : BitVec 4), s.accepts 22 [] false → s.w.park = .none →
    let x := s.wg.barrier b.toNat
    let me : BitVec 16 := 1 <<< s.w.idx.toNat
    let tok : DWord := x.ph.zeroExtend 64
    let upd := fun y : Barrier =>
      { s with wg := s.wg.setBarrier b.toNat y, warps := s.warps.map fun w : Warp => if w.key = s.w.key then w.wake b y.ph else w }
    let init : BitVec 16 := (s.w.s a.toNat).truncate 16 &&& s.wg.live
    let arrived := (⟨x.ph, x.arr ||| me, x.memb⟩ : Barrier).settle
    exec (.barInit a b) s = .next ((upd (⟨x.ph, x.arr &&& init, init⟩ : Barrier).settle).computed [])
    ∧ exec (.barJoin b) s = .next (({ s with wg := s.wg.setBarrier b.toNat ⟨x.ph, x.arr, x.memb ||| me⟩ }).computed [])
    ∧ exec (.barDrop b) s = .next ((upd (⟨x.ph, x.arr &&& ~~~me, x.memb &&& ~~~me⟩ : Barrier).settle).computed [])
    ∧ (x.memb &&& me = 0 → exec (.barArrive a b) s = .next (s.trap 0x02 0) ∧ exec (.barArw a b) s = .next (s.trap 0x02 0))
    ∧ (x.memb &&& me ≠ 0 → s.strongHeld = true → exec (.barArrive a b) s = .next s.retry ∧ exec (.barArw a b) s = .next s.retry)
    ∧ (x.memb &&& me ≠ 0 → s.strongHeld = false → exec (.barArrive a b) s = .next ((upd arrived).computed [.s a.toNat tok]))
    ∧ exec (.barWait a b) s = .next
        (let t : Word := (s.w.s a.toNat).truncate 32
         if x.ph = t then s.parkAt (.barrier b t) else s.closed [] (s.w.pc + 4))
    ∧ (x.memb &&& me ≠ 0 → s.strongHeld = false → arrived.ph ≠ x.ph →
        exec (.barArw a b) s = .next ((upd arrived).closed [.s a.toNat tok] (s.w.pc + 4)))
    ∧ (x.memb &&& me ≠ 0 → s.strongHeld = false → arrived.ph = x.ph →
        ∃ t, exec (.barArw a b) s = .next t ∧ t.w.park = .barrierArw b x.ph (decide (s.w.hints.length = 1)) ∧ t.wg = (upd arrived).wg
          ∧ t.w.pc = s.w.pc - BitVec.ofNat 48 (4 * s.w.hints.length) ∧ (a ≠ 0 → a ≠ 55 → a ≠ 56 → t.w.s a.toNat = tok)))

/-! The vector pipes. -/

/-- R138, R139: each VI form writes its value in every lane of EM, repetition by repetition. R137, R138, R139: each VIX form
takes its second operand from a scalar register or an immediate; `vmovs` has no other. R138, R143, R144: the forms of one source
that count or move bits, and the class mask. None of these sets a flag but the class mask, which sets NV for a signalling NaN (R141). -/
def Obligations.LaneResults : Prop :=
  (∀ (s : State) (d a b : BitVec 7), s.VectorReady [3] [(d.toNat, 1)] [a.toNat, b.toNat] →
    let t := s.w.rep.2
    ∀ x ∈ viForms d a b, exec x.1 s = .next (s.vectorDone 0 [a.toNat, b.toNat] (repeatUnit
      (laneResult d t fun i w l => x.2 (w.lane a i t l) (w.lane b i t l) ((w.v (d.toNat + i * t)).at l)) s.w.rep.1 0 s.w)))
  ∧ (∀ (s : State) (d a : BitVec 7) (x : BitVec 1) (b : BitVec 6),
    let t := s.w.rep.2
    let acc := if x = 1 then [0, 3] else [3]
    (s.VectorReady acc [(d.toNat, 1)] [a.toNat] →
      ∀ f ∈ vixForms d a x b, exec f.1 s = .next (s.vectorDone 0 [a.toNat] (repeatUnit
        (laneResult d t fun i w l => f.2 (w.lane a i t l) (s.w.immB x b) ((w.v (d.toNat + i * t)).at l)) s.w.rep.1 0 s.w)))
    ∧ (s.VectorReady acc [(d.toNat, 1)] [] →
      exec (.vmovs d x b) s = .next (s.vectorDone 0 [] (repeatUnit (laneResult d t fun _ _ _ => s.w.immB x b) s.w.rep.1 0 s.w))))
  ∧ (∀ (s : State) (d a : BitVec 7), s.VectorReady [3] [(d.toNat, 1)] [a.toNat] →
    let t := s.w.rep.2
    ∀ x ∈ laneForms1 d a, exec x.1 s = .next (s.vectorDone 0 [a.toNat] (repeatUnit
      (laneResult1 d t fun i w l => x.2 (w.lane a i t l)) s.w.rep.1 0 s.w)))

/-- R159, R160: what a code of each float format holds, a subnormal being zero under ftz in FP32, BF16 and FP16 (R141, R171); R161: what
a code of I8 or I4 holds. R165 to R171: `Round` of an exact magnitude x ≠ 0 with its sign takes the multiple of the spacing q that
Table 4 selects; above the largest finite value Table 5 gives the result, with OF and NX; a result below the smallest normal is flushed
under ftz, with UF and NX; else the code holds the result, inexact with NX, and with UF below the smallest normal. R168: infinities.
R169: a NaN x gives the canonical NaN of a float format, +0 in E2M1 and 0 in an integer format, whatever fm.sat is, with NV where it
is signalling or where the destination is E2M1 or an integer. R170: an integer destination clamps, whatever fm.sat is, with NV for what
is NaN, infinite or outside the range, else NX for what is not exact. R165, R167: the discarded field and the threshold of element i. -/
def Obligations.RoundingRules : Prop :=
  (∀ r ∈ floatRows, ∀ (c : Nat) (ftz : Bool), c < 2 ^ r.width →
    let s := decide (2 ^ (r.width - 1) ≤ c)
    let e := c / 2 ^ r.mant % 2 ^ (r.width - 1 - r.mant)
    let x := c % 2 ^ r.mant
    let ones := e = 2 ^ (r.width - 1 - r.mant) - 1
    let nan := (r.fmt = .e4m3 ∧ c % 128 = 0x7F) ∨ (r.infs = true ∧ ones ∧ x ≠ 0)
    (nan → r.fmt.decode ftz c = .nan (r.infs && decide (x < 2 ^ (r.mant - 1))))
    ∧ (r.infs = true → ones → x = 0 → r.fmt.decode ftz c = .inf s)
    ∧ (¬ nan → ¬ (r.infs = true ∧ ones) → ∃ m k, r.fmt.decode ftz c = .fin s m k false
        ∧ (m : ℚ) * 2 ^ k = if e = 0 then (if ftz = true ∧ r.flushed = true then 0 else (x : ℚ) * 2 ^ (r.emin - r.mant))
          else (2 ^ r.mant + (x : ℚ)) * 2 ^ ((e : Int) - r.bias - r.mant)))
  ∧ (∀ r ∈ floatRows, ∀ (mode thr : Nat) (sat ftz neg : Bool), mode < 6 →
    let go := r.fmt.round mode sat ftz thr
    let sign := if neg = true then 2 ^ (r.width - 1) else 0
    let endless := if sat = true ∨ r.fmt = .e2m1 then sign + r.top
      else if r.infs = true then sign + (2 ^ (r.width - 1 - r.mant) - 1) * 2 ^ r.mant else r.nan
    (∀ sig, go (.nan sig) = (r.nan, if sig = true ∨ r.fmt = .e2m1 then 0x01 else 0))
    ∧ go (.inf neg) = (endless, if sat = false ∧ r.infs = true then 0 else 0x14)
    ∧ (∀ k more, go (.fin neg 0 k more) = (sign, 0))
    ∧ ∀ (m : Nat) (k : Int) (more : Bool) (x y : ℚ), 0 < m →
      let q : ℚ := 2 ^ (max (Int.log 2 x) r.emin - r.mant)
      standsFor m k more q x → selects mode neg thr x q y →
      let out := go (.fin neg m k more)
      let low := y < 2 ^ r.emin
      let exact := y = x
      r.fmt.discarded (some (.fin neg m k more)) = BitVec.ofInt 32 ⌊2 ^ 32 * (x - ⌊x / q⌋ * q) / q⌋
      ∧ (r.big < y → out =
          (if sat = true ∨ mode = 1 ∨ (mode = 2 ∧ neg = true) ∨ (mode = 3 ∧ neg = false) then sign + r.top else endless, 0x14))
      ∧ (y ≤ r.big → low → ftz = true → r.flushed = true → out = (sign, 0x18))
      ∧ (y ≤ r.big → ¬ (low ∧ ftz = true ∧ r.flushed = true) →
          out.2 = (if exact then 0 else if low then 0x18 else 0x10)
          ∧ out.1 < 2 ^ r.width ∧ ∃ m' k', r.fmt.decode false out.1 = .fin neg m' k' false ∧ (m' : ℚ) * 2 ^ k' = y))
  ∧ (∀ (f : Fmt) (w mode thr : Nat) (sat ftz neg : Bool), (f = .i8 ∧ w = 8) ∨ (f = .i4 ∧ w = 4) → mode < 6 →
    let go := f.round mode sat ftz thr
    let code := fun v : Int => (v % 2 ^ w).toNat
    (∀ c : Nat, c < 2 ^ w → let v : Int := if c < 2 ^ (w - 1) then (c : Int) else (c : Int) - 2 ^ w
      f.decode ftz c = .fin (decide (v < 0)) v.natAbs 0 false)
    ∧ (∀ sig, go (.nan sig) = (0, 0x01))
    ∧ go (.inf neg) = (if neg = true then 2 ^ (w - 1) else 2 ^ (w - 1) - 1, 0x01)
    ∧ (∀ k more, go (.fin neg 0 k more) = (0, 0))
    ∧ ∀ (m : Nat) (k : Int) (more : Bool) (x y : ℚ), 0 < m → standsFor m k more 1 x → selects mode neg thr x 1 y →
      let v := if neg = true then -⌊y⌋ else ⌊y⌋
      f.discarded (some (.fin neg m k more)) = BitVec.ofInt 32 ⌊2 ^ 32 * (x - ⌊x⌋)⌋
      ∧ (v < -2 ^ (w - 1) → go (.fin neg m k more) = (2 ^ (w - 1), 0x01))
      ∧ (2 ^ (w - 1) ≤ v → go (.fin neg m k more) = (2 ^ (w - 1) - 1, 0x01))
      ∧ (-2 ^ (w - 1) ≤ v → v < 2 ^ (w - 1) → go (.fin neg m k more) = (code v, if y = x then 0 else 0x10)))
  ∧ (∀ (f : Fmt) (x : Option Machine.Num), (x = none ∨ (∃ s, x = some (.nan s)) ∨ (∃ n, x = some (.inf n)) ∨ ∃ n k b, x = some (.fin n 0 k b)) →
    f.discarded x = 0)
  ∧ ∀ (ds : List (BitVec 32)) (i : Nat),
    let p := ds.getD (8 * (i / 8) + (i % 8 + 7) % 8) 0
    let q := ds.getD (8 * (i / 8) + (i % 8 + 1) % 8) 0
    rsThreshold ds i = (p.rotateLeft 5 ^^^ q ^^^ BitVec.ofNat 32 (i * 0x9E37)).toNat % 2 ^ 16

/-- R141: the exact product and sum of float values, with the sign of an exact zero; ∞ × 0, ∞ - ∞ and a signalling NaN are invalid.
R144: the lesser and the greater of two values, or of a list (R204); the integral value nearest a. R145: the power of two that scales a
value. R204: the exact sum rounded once. R141: UF of the forms of the lane pipe, which judge tininess as if the exponent had no lower
bound (the model's reading, assumption 35). R164, R180, R181: the I4X decoder and encoder slot by slot; R179: the scale code of a
value. The sign of a product with an integer factor 0 is the model's choice (assumption 53). -/
def Obligations.ExactArithmetic : Prop :=
  (∀ (a b : Machine.Num),
    let sig := a.isSig || b.isSig
    (a.isNan = true ∨ b.isNan = true → a.mul b = (.nan false, sig))
    ∧ (∀ n, (a = .inf n ∧ b.isZero = true) ∨ (b = .inf n ∧ a.isZero = true) → a.mul b = (.nan false, true))
    ∧ (∀ n, a.isNan = false → b.isNan = false → (a = .inf n ∧ b.isZero = false) ∨ (b = .inf n ∧ a.isZero = false) →
        a.mul b = (.inf (a.neg? ^^ b.neg?), false))
    ∧ (∀ n k m p e f, a = .fin n m e false → b = .fin k p f false → ∃ z g, a.mul b = (.fin (n ^^ k) z g false, false)
        ∧ (Machine.Num.fin (n ^^ k) z g false).value = a.value * b.value))
  ∧ (∀ (rd : Bool) (xs : List Machine.Num),
    let sig := xs.any Machine.Num.isSig
    let plus := Machine.Num.inf false ∈ xs
    let minus := Machine.Num.inf true ∈ xs
    (plus → minus → Machine.Num.sum rd xs = (.nan false, true))
    ∧ (¬ (plus ∧ minus) → (∃ s, Machine.Num.nan s ∈ xs) → Machine.Num.sum rd xs = (.nan false, sig))
    ∧ ((∀ s, Machine.Num.nan s ∉ xs) → (plus → ¬ minus → Machine.Num.sum rd xs = (.inf false, false))
        ∧ (minus → ¬ plus → Machine.Num.sum rd xs = (.inf true, false)))
    ∧ ((∀ x ∈ xs, ∃ n m e, x = .fin n m e false) → ∃ n m e, Machine.Num.sum rd xs = (.fin n m e false, false)
        ∧ (Machine.Num.fin n m e false).value = (xs.map Machine.Num.value).sum
        ∧ (m = 0 → n = if (∃ x ∈ xs, x.neg? = true) ∧ ∃ x ∈ xs, x.neg? = false then rd else xs.any Machine.Num.neg?)))
  ∧ (∀ (big : Bool) (a b : Machine.Num),
    let best := Machine.Num.minMax big
    (a.isNan = true → b.isNan = true → best a b = (.nan false, a.isSig || b.isSig))
    ∧ (a.isNan = false → b.isNan = true → best a b = (a, b.isSig) ∧ best b a = (a, b.isSig))
    ∧ (a.isNan = false → b.isNan = false → a.below b →
        best a b = (if big = true then b else a, false) ∧ best b a = (if big = true then b else a, false))
    ∧ ∀ xs : List Machine.Num, xs ≠ [] →
      let go := fpBest big xs
      go.2 = (if xs.any Machine.Num.isSig = true then 0x01 else 0)
      ∧ ((∀ x ∈ xs, x.isNan = true) → go.1 = 0x7FC0_0000)
      ∧ ((∃ x ∈ xs, x.isNan = false) → ∃ x ∈ xs, x.isNan = false ∧ go.1 = word32 x
          ∧ ∀ y ∈ xs, y.isNan = false → ¬ (if big = true then x.below y else y.below x)))
  ∧ (∀ (mode : Nat) (neg : Bool) (m : Nat) (k : Int) (x y : ℚ), mode < 6 →
    (0 < m → x = m * 2 ^ k → m < 2 ^ 24 → -149 ≤ k → x < 2 ^ 128 → selects (if mode = 5 then 0 else mode) neg 0 x 1 y →
      let r := fpIntegral mode (.fin neg m k false)
      r.2 = (if y = x then 0 else 0x10)
      ∧ ∃ z e, Fmt.decode .f32 false r.1.toNat = .fin neg z e false ∧ (z : ℚ) * 2 ^ e = y)
    ∧ (∀ n, fpIntegral mode (.inf n) = (word32 (.inf n), 0))
    ∧ (∀ k', fpIntegral mode (.fin neg 0 k' false) = (word32 (.zero neg), 0))
    ∧ ∀ sig, fpIntegral mode (.nan sig) = (0x7FC0_0000, if sig = true then 0x01 else 0))
  ∧ (∀ a b : Machine.Num,
    (a.isNan = true ∨ b.isNan = true → fpScaled a b = (.nan false, a.isSig || b.isSig))
    ∧ (a.isNan = false → ∀ n, b = .inf n → fpScaled a b = (a.scale (if n = true then -300 else 300), false))
    ∧ (a.isNan = false → ∀ n m e, b = .fin n m e false →
        let k := if n = true then -⌊(m : ℚ) * 2 ^ e⌋ else ⌊(m : ℚ) * 2 ^ e⌋
        fpScaled a b = (a.scale (max (-300) (min k 300)), false))
    ∧ ∀ k, (a.scale k).value = a.value * 2 ^ k ∧ (a.scale k).isZero = a.isZero ∧ (a.scale k).neg? = a.neg?
        ∧ ∀ n, a = .inf n → a.scale k = a)
  ∧ (∀ (w : Warp) (xs : List Machine.Num),
    let t := w.total xs
    let mode := if fmMode w.fm = 5 then 0 else fmMode w.fm
    let r := Fmt.round .f32 mode false (fmFtz w.fm) 0 t.1
    fpTotal w xs = (BitVec.ofNat 32 r.1, r.2 ||| Fmt.ieeeUf .f32 mode (some t.1) ||| if t.2 = true then 0x01 else 0))
  ∧ (∀ r ∈ floatRows, ∀ (mode : Nat) (neg : Bool) (m : Nat) (k : Int) (x y : ℚ), r.flushed = true → mode < 6 →
    (mode = 5 → r.fmt.ieeeUf mode (some (.fin neg m k false)) = 0)
    ∧ (0 < m → mode < 5 → x = m * 2 ^ k → selects mode neg 0 x (2 ^ (Int.log 2 x - r.mant)) y →
      let q : ℚ := 2 ^ (max (Int.log 2 x) r.emin - r.mant)
      r.fmt.ieeeUf mode (some (.fin neg m k false)) = if y < 2 ^ r.emin ∧ x ≠ ⌊x / q⌋ * q then 0x08 else 0))
  ∧ (∀ (c a b : Nat) (r : List Nat), c < 16 →
    let v : Int := if c < 8 then (c : Int) else (c : Int) - 16
    i4xDecode [] = ([], false)
    ∧ (c ≠ 8 → ∃ z < 256, (v = 0 → z = 0) ∧ (Fmt.decode .e4m3 false z).value = v ∧ (Fmt.decode .e4m3 false z).isNan = false
        ∧ i4xDecode (c :: r) = (z :: (i4xDecode r).1, (i4xDecode r).2))
    ∧ i4xDecode (8 :: a :: b :: r) = ((16 * a + b) :: 0 :: 0 :: (i4xDecode r).1, (i4xDecode r).2)
    ∧ i4xDecode [8, a] = ([0, 0], true) ∧ i4xDecode [8] = ([0], true))
  ∧ (∀ (c a b : Nat) (r : List Nat), c < 256 → a < 256 → b < 256 →
    let x := Fmt.decode .e4m3 false c
    let small := fun v : Int => x.isNan = false ∧ x.value = v ∧ -7 ≤ v ∧ v ≤ 7
    let lost := (a ≠ 0 ∧ a ≠ 0x80) ∨ (b ≠ 0 ∧ b ≠ 0x80)
    let t := (Fmt.round .i4 0 false false 0 x).1
    i4xEncode [] = ([], false)
    ∧ (∀ v, small v → i4xEncode (c :: r) = ((v % 16).toNat :: (i4xEncode r).1, (i4xEncode r).2))
    ∧ ((∀ v, ¬ small v) →
        i4xEncode (c :: a :: b :: r) = (8 :: c / 16 :: c % 16 :: (i4xEncode r).1, (i4xEncode r).2 || decide lost)
        ∧ (r.length < 2 → i4xEncode (c :: r) = ((if t = 8 then 9 else t) :: (i4xEncode r).1, true))))
  ∧ (∀ (f : Fmt) (emax : Int),
    (f = .e4m3 ∧ emax = 8) ∨ (f = .e5m2 ∧ emax = 15) ∨ (f = .e2m1 ∧ emax = 2) ∨ (f = .i8 ∧ emax = 6) ∨ (f = .i4 ∧ emax = 2)
      ∨ (f = .i4x ∧ emax = 2) →
    (∀ s, scaleCode f (.nan s) = (0xFF, true)) ∧ (∀ n, scaleCode f (.inf n) = (0xFF, true))
    ∧ ∀ n m k, scaleCode f (.fin n m k false) =
      (if m = 0 then 0 else (max (-127) (min (Int.log 2 ((m : ℚ) * 2 ^ k) - emax) 127) + 127).toNat, false))

/-- R140 to R143, R145, R146: each FP32 form that rounds gives in every lane of EM the exact value rounded once, lane L being
element L; a reserved rounding code is an illegal operand. -/
def Obligations.FloatResults : Prop :=
  ∀ (s : State) (d a b : BitVec 7) (x : BitVec 1) (i6 : BitVec 6),
    let t := s.w.rep.2
    let bad := 6 ≤ s.w.fm.toNat / 4096 % 8
    (s.VectorReady [3] [(d.toNat, 1)] [a.toNat, b.toNat] → ∀ f ∈ vfForms d a b, exec f.1 s = .next
      (if bad then s.trap 0x02 0
       else s.vectorDone 0 [a.toNat, b.toNat] (repeatUnit (fpResult d t fun i w l =>
        f.2 w (w.f32 (w.lane a i t l)) (w.f32 (w.lane b i t l)) (w.f32 ((w.v (d.toNat + i * t)).at l))) s.w.rep.1 0 s.w)))
    ∧ (s.VectorReady (if x = 1 then [0, 3] else [3]) [(d.toNat, 1)] [a.toNat] → ∀ f ∈ vfxForms d a x i6, exec f.1 s = .next
      (if bad then s.trap 0x02 0
       else s.vectorDone 0 [a.toNat] (repeatUnit (fpResult d t fun i w l =>
        f.2 w (w.f32 (w.lane a i t l)) (w.f32 (s.w.immF x i6)) (w.f32 ((w.v (d.toNat + i * t)).at l))) s.w.rep.1 0 s.w)))

/-- R143, R144, R146: minimumNumber, maximumNumber and the sign copy, which read no rounding field; and the integral value,
which does: a reserved rounding code is an illegal operand (R140). -/
def Obligations.FloatSelections : Prop :=
  ∀ (s : State) (d a b : BitVec 7) (x : BitVec 1) (i6 : BitVec 6),
    let t := s.w.rep.2
    let best := fun (m : Bool) (B : Nat → Warp → Nat → Word) (i : Nat) (w : Warp) =>
      let r := fun l => bestCode .f32 w m (w.lane a i t l).toNat (B i w l).toNat
      (([.v (d.toNat + i * t) w.em (Vec.ofFn fun l => BitVec.ofNat 32 (r l).1)] : List RegWrite),
        flagsOver (laneList w.em) fun l => (r l).2)
    let sign := fun (B : Nat → Warp → Nat → Word) =>
      laneResult d t fun i w l => BitVec.ofNat 32 ((w.lane a i t l).toNat % 2 ^ 31 + (B i w l).toNat / 2 ^ 31 * 2 ^ 31)
    let vb := fun i (w : Warp) l => w.lane b i t l
    let xb := fun (_ : Nat) (_ : Warp) (_ : Nat) => s.w.immF x i6
    let go := fun srcs body => (.next (s.vectorDone 0 srcs (repeatUnit body s.w.rep.1 0 s.w)) : Host.Outcome State Fault Refusal)
    (s.VectorReady [3] [(d.toNat, 1)] [a.toNat, b.toNat] →
      exec (.vfmin d a b) s = go [a.toNat, b.toNat] (best false vb) ∧ exec (.vfmax d a b) s = go [a.toNat, b.toNat] (best true vb)
      ∧ exec (.vfcpys d a b) s = go [a.toNat, b.toNat] (sign vb))
    ∧ (s.VectorReady (if x = 1 then [0, 3] else [3]) [(d.toNat, 1)] [a.toNat] →
      exec (.vfminX d a x i6) s = go [a.toNat] (best false xb) ∧ exec (.vfmaxX d a x i6) s = go [a.toNat] (best true xb)
      ∧ exec (.vfcpysX d a x i6) s = go [a.toNat] (sign xb))
    ∧ (s.VectorReady [3] [(d.toNat, 1)] [a.toNat] → s.w.fm.toNat / 4096 % 8 < 6 →
      exec (.vfrnd d a) s = go [a.toNat] fun i w =>
        let r := fun l => fpIntegral (fmMode w.fm) (w.f32 (w.lane a i t l))
        ([.v (d.toNat + i * t) w.em (Vec.ofFn fun l => (r l).1)], flagsOver (laneList w.em) fun l => (r l).2))
    ∧ (s.VectorReady [3] [(d.toNat, 1)] [a.toNat] → 6 ≤ s.w.fm.toNat / 4096 % 8 → exec (.vfrnd d a) s = .next (s.trap 0x02 0))

/-- R147, R148, R142: the packed half forms; half h of lane L is element 2L + h, and the two-term dot product is an FP32 result
of lane L. -/
def Obligations.HalfResults : Prop :=
  ∀ (s : State) (d a b : BitVec 7), s.VectorReady [3] [(d.toNat, 1)] [a.toNat, b.toNat] →
    let t := s.w.rep.2
    let go := fun body => (.next (s.vectorDone 0 [a.toNat, b.toNat] (repeatUnit body s.w.rep.1 0 s.w)) : Host.Outcome State Fault Refusal)
    let best := fun (f : Fmt) (m : Bool) (i : Nat) (w : Warp) =>
      let r := fun h l => bestCode f w m ((w.lane a i t l).toNat / 2 ^ (16 * h) % 65536) ((w.lane b i t l).toNat / 2 ^ (16 * h) % 65536)
      (([.v (d.toNat + i * t) w.em (Vec.ofFn fun l => BitVec.ofNat 32 ((r 0 l).1 + 65536 * (r 1 l).1))] : List RegWrite),
        flagsOver (laneList w.em) fun l => (r 0 l).2 ||| (r 1 l).2)
    (s.w.fm.toNat / 4096 % 8 < 6 →
      (∀ x ∈ vhForms d a b, exec x.1 s = go (halfResult x.2.1 d t fun i w l h =>
        x.2.2 w (w.f16 x.2.1 (w.lane a i t l) h) (w.f16 x.2.1 (w.lane b i t l) h)
          (w.f16 x.2.1 ((w.v (d.toNat + i * t)).at l) h)))
      ∧ exec (.vhdot2Bf16 d a b) s = go (fpResult d t fun i w l =>
        let p := fun h => (w.f16 .bf16 (w.lane a i t l) h).mul (w.f16 .bf16 (w.lane b i t l) h)
        let x := w.total [w.f32 ((w.v (d.toNat + i * t)).at l), (p 0).1, (p 1).1]
        (x.1, (p 0).2 || (p 1).2 || x.2)))
    ∧ exec (.vhminF16 d a b) s = go (best .f16 false) ∧ exec (.vhmaxF16 d a b) s = go (best .f16 true)
    ∧ exec (.vhminBf16 d a b) s = go (best .bf16 false) ∧ exec (.vhmaxBf16 d a b) s = go (best .bf16 true)

/-- R149 to R151: a compare writes the mask of the lanes of EM that meet its condition, and 0 in every other bit; an FP32
compare sets NV for a signalling NaN, and for any NaN where it orders. R152: `vsel` replaces, in the lanes of EM that its guard
selects and where vb is not 0, the element of vd by that of va. -/
def Obligations.MasksAndSelection : Prop :=
  (∀ (s : State) (c : BitVec 4) (d : BitVec 6) (a b : BitVec 7) (t : BitVec 2),
    s.VectorReady [] [] [a.toNat, b.toNat] → (Instr.vcmp c d a b t).wellFormed = true →
    let x := fun l => (s.w.src a.toNat 0).at l
    let y := fun l => (s.w.src b.toNat 0).at l
    let p := fun l => s.w.f32 (x l)
    let q := fun l => s.w.f32 (y l)
    let cond := fun l => match t.toNat with
      | 0 => intCond c.toNat (x l).toInt (y l).toInt
      | 1 => intCond c.toNat (x l).toNat (y l).toNat
      | _ => numCond c.toNat (p l) (q l)
    let nv := fun l => decide (t = 2) && ((p l).isSig || (q l).isSig
      || (((p l).isNan || (q l).isNan) && decide (2 ≤ c.toNat ∧ c.toNat ≤ 5)))
    ∃ m : Mask, (∀ l < 64, m.getLsbD l = (s.w.em.getLsbD l && cond l))
      ∧ exec (.vcmp c d a b t) s = .next (s.vectorDone 0 [a.toNat, b.toNat]
          ([.s d.toNat m], if (List.range 64).any (fun l => s.w.em.getLsbD l && nv l) then flagNV else 0)))
  ∧ (∀ (s : State) (g : BitVec 4) (d a b : BitVec 7), s.VectorReady [] [(d.toNat, 1)] [a.toNat, b.toNat] →
    ∃ m : Mask,
      (∀ l < 64, m.getLsbD l = (s.w.em.getLsbD l && (s.w.guard g).getLsbD l && decide ((s.w.src b.toNat 0).at l ≠ 0)))
      ∧ exec (.vsel g d a b) s = .next (s.vectorDone 0 [a.toNat, b.toNat] ([.v d.toNat m (s.w.src a.toNat 0)], 0)))

/-- R153: the VL1 functions on every lane of EM, committed by la; the square root and the quotient are the exact values rounded once
by fm (R155), a reserved rounding code being an illegal operand (R140). R154, Table 10: the special inputs of each function, an
operand being its sign, its exponent field and its fraction; 0 ÷ 0 and ∞ ÷ ∞ are invalid, and a finite nonzero dividend over 0 sets DZ.
R155: every other result of an approximate function lies within the bound of Table 11 of the model's value of the function, and in
its range, or is that value rounded to nearest; which one is the model's free value (assumption 5). R156: these functions set no UF or
NX but by the flush of a subnormal result under fm.ftz. -/
def Obligations.SpecialFunctions : Prop :=
  (∀ (s : State) (l : BitVec 4) (d a : BitVec 7),
    let t := s.w.rep.2
    let go := fun srcs body => (.next (s.vectorDone l.toNat srcs (repeatUnit body s.w.rep.1 0 s.w)) : Host.Outcome State Fault Refusal)
    let lanesOf := fun fn => go [a.toNat] (specialResult fn d a t)
    (s.VectorReady [3] [(d.toNat, 1)] [a.toNat] →
      exec (.vrcp l d a) s = lanesOf 0 ∧ exec (.vrsq l d a) s = lanesOf 1 ∧ exec (.vex2 l d a) s = lanesOf 3
      ∧ exec (.vlg2 l d a) s = lanesOf 4 ∧ exec (.vsin l d a) s = lanesOf 5 ∧ exec (.vcos l d a) s = lanesOf 6
      ∧ exec (.vtanh l d a) s = lanesOf 7
      ∧ (s.w.fm.toNat / 4096 % 8 < 6 →
          exec (.vsqrt l d a) s = go [a.toNat] (fpResult d t fun i w k => sqrtNum (w.f32 (w.lane a i t k))))
      ∧ (6 ≤ s.w.fm.toNat / 4096 % 8 → exec (.vsqrt l d a) s = .next (s.trap 0x02 0)))
    ∧ (s.VectorReady [3] [(d.toNat, 1), (a.toNat, 2)] [] →
      (s.w.fm.toNat / 4096 % 8 < 6 →
        exec (.vdiv l d a) s = go [] fun i w =>
          let q := fun k => divNum (w.f32 ((w.v (a.toNat + i * t)).at k)) (w.f32 ((w.v (a.toNat + i * t + 1)).at k))
          let r := fpResult d t (fun _ _ k => ((q k).1, (q k).2.1)) i w
          (r.1, r.2 ||| if (List.range 64).any (fun k => w.em.getLsbD k && (q k).2.2) then flagDZ else 0))
      ∧ (6 ≤ s.w.fm.toNat / 4096 % 8 → exec (.vdiv l d a) s = .next (s.trap 0x02 0))))
  ∧ (∀ (z n : Bool) (e f : Nat) (k : Int),
    let word := fun (n : Bool) (e f : Nat) => BitVec.ofNat 32 (n.toNat * 2 ^ 31 + e * 2 ^ 23 + f)
    let code := fun (n : Bool) (m : Nat) (x : Int) => BitVec.ofNat 32 (Fmt.code .f32 (.fin n m x false))
    let F := fun fn (x : Word) => specialRaw fn (Fmt.decode .f32 z x.toNat) z
    let inf := fun n => word n 255 0
    let nan := word false 255 (2 ^ 22)
    let one := fun n => word n 127 0
    let x := word n e f
    (f < 2 ^ 23 → f ≠ 0 → e = 255 → ∀ fn, F fn x = (nan, if f < 2 ^ 22 then flagNV else 0))
    ∧ F 0 (word n 0 0) = (inf n, flagDZ) ∧ F 0 (inf n) = (word n 0 0, 0)
    ∧ (z = false → e = 0 → f ≠ 0 → f ≤ 2 ^ 21 → F 0 x = (inf n, flagOF))
    ∧ (1 ≤ e → e ≤ 253 → F 0 (word n e 0) = (word n (254 - e) 0, 0))
    ∧ F 0 (word n 254 0) = (word n 0 (2 ^ 22), 0) ∧ (z = false → F 0 (word n 0 (2 ^ 22)) = (word n 254 0, 0))
    ∧ F 1 (word n 0 0) = (inf n, flagDZ) ∧ F 1 (inf false) = (0, 0)
    ∧ (f < 2 ^ 23 → 1 ≤ e ∨ (z = false ∧ f ≠ 0) → e < 255 ∨ (e = 255 ∧ f = 0) → F 1 (word true e f) = (nan, flagNV))
    ∧ (e % 2 = 1 → e ≤ 253 → F 1 (word false e 0) = (word false ((381 - e) / 2) 0, 0))
    ∧ (z = false → e % 2 = 1 → e ≤ 21 → F 1 (word false 0 (2 ^ e)) = (word false ((403 - e) / 2) 0, 0))
    ∧ F 3 (inf true) = (0, 0) ∧ F 3 (inf false) = (inf false, 0) ∧ F 3 (word n 0 0) = (one false, 0)
    ∧ (f < 2 ^ 23 → 134 ≤ e → e < 255 → F 3 (word false e f) = (inf false, flagOF))
    ∧ (f < 2 ^ 23 → e < 255 → 0x43160000 < e * 2 ^ 23 + f → F 3 (word true e f) = (0, 0))
    ∧ (-149 ≤ k → k ≤ 127 → F 3 (code (decide (k < 0)) k.natAbs 0) = (code false 1 k, 0))
    ∧ F 4 (word n 0 0) = (inf true, flagDZ) ∧ F 4 (inf false) = (inf false, 0)
    ∧ (f < 2 ^ 23 → 1 ≤ e ∨ (z = false ∧ f ≠ 0) → e < 255 ∨ (e = 255 ∧ f = 0) → F 4 (word true e f) = (nan, flagNV))
    ∧ ((if z then -126 else -149) ≤ k → k ≤ 127 → F 4 (code false 1 k) = (code (decide (k < 0)) k.natAbs 0, 0))
    ∧ F 5 (word n 0 0) = (word n 0 0, 0) ∧ F 5 (inf n) = (nan, flagNV)
    ∧ F 6 (word n 0 0) = (one false, 0) ∧ F 6 (inf n) = (nan, flagNV)
    ∧ F 7 (word n 0 0) = (word n 0 0, 0)
    ∧ (f < 2 ^ 23 → 0x41100000 ≤ e * 2 ^ 23 + f → e * 2 ^ 23 + f ≤ 0x7F800000 → F 7 x = (one n, 0)))
  ∧ (∀ (n k sig : Bool) (m p : Nat) (e f : Int) (y : Machine.Num),
    sqrtNum (.nan sig) = (.nan false, sig) ∧ sqrtNum (.inf n) = (if n then .nan false else .inf false, n)
    ∧ sqrtNum (.fin n 0 e false) = (.fin n 0 e false, false) ∧ (m ≠ 0 → sqrtNum (.fin true m e false) = (.nan false, true))
    ∧ (m ≠ 0 → m < 2 ^ 24 → ∃ r g more, sqrtNum (.fin false m e false) = (.fin false r g more, false) ∧ 2 ^ 60 ≤ r ∧ 2 * g ≤ e
        ∧ r * r ≤ m * 2 ^ (e - 2 * g).toNat ∧ m * 2 ^ (e - 2 * g).toNat < (r + 1) * (r + 1)
        ∧ (more = true ↔ r * r ≠ m * 2 ^ (e - 2 * g).toNat))
    ∧ divNum (.nan sig) y = (.nan false, sig || y.isSig, false) ∧ divNum (.fin n m e false) (.nan sig) = (.nan false, sig, false)
    ∧ divNum (.inf n) (.nan sig) = (.nan false, sig, false) ∧ divNum (.inf n) (.inf k) = (.nan false, true, false)
    ∧ divNum (.inf n) (.fin k p f false) = (.inf (n ^^ k), false, false)
    ∧ divNum (.fin n m e false) (.inf k) = (.zero (n ^^ k), false, false)
    ∧ divNum (.fin n 0 e false) (.fin k 0 f false) = (.nan false, true, false)
    ∧ (m ≠ 0 → divNum (.fin n m e false) (.fin k 0 f false) = (.inf (n ^^ k), false, true))
    ∧ (p ≠ 0 → divNum (.fin n m e false) (.fin k p f false)
        = (.fin (n ^^ k) (m * 2 ^ 90 / p) (e - f - 90) (decide (m * 2 ^ 90 % p ≠ 0)), false, false)))
  ∧ (∀ (fn : Nat) (z n : Bool) (m : Nat) (e : Int) (x : Machine.Num) (fm : BitVec 19) (r : Word) (fl : BitVec 8),
    (specialRaw fn x z).2 &&& (flagUF ||| flagNX) = 0
    ∧ (m ≠ 0 → specialRaw fn (.fin n m e false) z = (specialApprox fn (word32 (.fin n m e false)) z n m e, 0) →
      let y := specialValue fn n m e
      let w := (specialRaw fn (.fin n m e false) z).1
      let v := Fmt.decode .f32 false w.toNat
      (nearTo y v (specialBound fn m e y) = true ∧ (5 ≤ fn → v.lt (.fin true 1 0 false) = false ∧ (Num.fin false 1 0 false).lt v = false)
          ∧ (fn = 3 → v.neg? = false))
        ∨ w = BitVec.ofNat 32 (Fmt.code .f32 y))
    ∧ flushResult fm (r, fl) =
        if fmFtz fm = true ∧ r.toNat / 2 ^ 23 % 256 = 0 ∧ r.toNat % 2 ^ 23 ≠ 0
        then (BitVec.ofNat 32 (r.toNat / 2 ^ 31 * 2 ^ 31), fl ||| flagUF ||| flagNX) else (r, fl))

/-- R202, R205: the value that each VL2 form without flags writes in the lanes of C = K & EM; `vballot` writes the pair of mask
halves. R204, R205: the FP32 sums are exact and rounded once, RS acting as RNE; the least and greatest values follow
minimumNumber and maximumNumber; a reserved rounding code is an illegal operand of the sums. -/
def Obligations.CrossLaneResults : Prop :=
  (∀ (s : State) (l : BitVec 4) (d a : BitVec 7) (m : BitVec 3),
    let c := s.w.em &&& (if m = 0 then s.w.em else s.w.s (56 + m.toNat))
    let C := membersOf c
    let x := fun j => (s.w.src a.toNat 0).at j
    let y := fun j => (s.w.v (a.toNat + 1)).at j
    (s.VectorReady [] [(d.toNat, 1)] [a.toNat] →
      ∀ f ∈ crossForms l d a m,
        exec f.1 s = .next (s.vectorDone l.toNat [a.toNat] ([.v d.toNat c (Vec.ofFn fun k => f.2 C x k)], 0)))
    ∧ (s.VectorReady [] [(d.toNat, 1), (a.toNat, 2)] [] →
      ∀ f ∈ pairForms l d a m,
        exec f.1 s = .next (s.vectorDone l.toNat [] ([.v d.toNat c (Vec.ofFn fun k => f.2 C (fun j => (s.w.v a.toNat).at j) y k)], 0)))
    ∧ (s.VectorReady [] [(d.toNat, 2)] [a.toNat] →
      let b := BitVec.ofNat 64 ((C.filter fun j => (x j).toNat ≠ 0).map fun j => 2 ^ j).sum
      exec (.vballot l d a m) s = .next (s.vectorDone l.toNat [a.toNat]
        ([.v d.toNat c (Vec.ofFn fun _ => b.extractLsb' 0 32), .v (d.toNat + 1) c (Vec.ofFn fun _ => b.extractLsb' 32 32)], 0))))
  ∧ (∀ (s : State) (l : BitVec 4) (d a : BitVec 7) (m : BitVec 3), s.VectorReady [] [(d.toNat, 1)] [a.toNat] →
    let c := s.w.em &&& (if m = 0 then s.w.em else s.w.s (56 + m.toNat))
    let C := membersOf c
    let x := fun j => (s.w.src a.toNat 0).at j
    let sum := fun js : List Nat => fpTotal s.w (js.map fun j => s.w.f32 (x j))
    let raw := fun j => Fmt.decode .f32 false (x j).toNat
    (∀ f ∈ sumForms l d a m, exec f.1 s = .next
      (if 6 ≤ s.w.fm.toNat / 4096 % 8 then s.trap 0x02 0
       else s.vectorDone l.toNat [a.toNat] ([.v d.toNat c (Vec.ofFn fun k => (sum (f.2 C k)).1)], flagsOver C fun k => (sum (f.2 C k)).2)))
    ∧ (C ≠ [] → exec (.vredMin l d a 1 m) s = .next (s.vectorDone l.toNat [a.toNat]
        ([.v d.toNat c (Vec.ofFn fun _ => (fpBest false (C.map raw)).1)], (fpBest false (C.map raw)).2)))
    ∧ (C ≠ [] → exec (.vredMax l d a 1 m) s = .next (s.vectorDone l.toNat [a.toNat]
        ([.v d.toNat c (Vec.ofFn fun _ => (fpBest true (C.map raw)).1)], (fpBest true (C.map raw)).2)))
    ∧ (C = [] → ∃ v v' : Vec, exec (.vredMin l d a 1 m) s = .next (s.vectorDone l.toNat [a.toNat] ([.v d.toNat 0 v], 0))
        ∧ exec (.vredMax l d a 1 m) s = .next (s.vectorDone l.toNat [a.toNat] ([.v d.toNat 0 v'], 0))))

/-- R206: `vtopk` merges the list of k entries at vd with the members of va and writes the k best, best first; places without an entry
hold -Inf and index all ones. A k outside 1 to 64 is an illegal operand. R206: the best-first list holds the entries that are no NaN,
each once; a larger value stands first, and among equal values, +0 and -0 too, a smaller index. Entries of equal value and index keep
their order, the old before the new; that order among two old or two new ones is the model's choice (assumption 55). -/
def Obligations.TopKMerges : Prop :=
  (∀ (s : State) (l : BitVec 4) (d a : BitVec 7) (m : BitVec 3),
    s.accepts 7 [4] false → s.regsOk [(d.toNat, 2), (a.toNat, 2)] [] = true →
    (∀ r ∈ s.unitRegs [(d.toNat, 2), (a.toNat, 2)] [], s.pendingLanes r = false) →
    let k := (s.w.hintMod.getD 0).toNat
    let c := s.w.em &&& (if m = 0 then s.w.em else s.w.s (56 + m.toNat))
    let entry := fun (r : BitVec 7) j => ((s.w.v r.toNat).at j, (s.w.v (r.toNat + 1)).at j)
    let best := bestFirst ((List.range k).map (entry d) ++ (membersOf c).map (entry a))
    let place := fun j => (best[j]?).getD (0xFF80_0000, 0xFFFF_FFFF)
    exec (.vtopk l d a m) s = .next
      (if k = 0 ∨ 64 < k then s.trap 0x02 0
       else s.done (s.w.ran l.toNat .none
        [.v d.toNat (BitVec.ofNat 64 (2 ^ k - 1)) (Vec.ofFn fun j => (place j).1),
         .v (d.toNat + 1) (BitVec.ofNat 64 (2 ^ k - 1)) (Vec.ofFn fun j => (place j).2)]) (s.w.pc + 4)))
  ∧ (∀ (xs : List (Word × Word)) (v i : Word),
    let num := fun x : Word => Fmt.decode .f32 false x.toNat
    let same := fun x : Word × Word => (num x.1).eq (num v) && decide (x.2 = i)
    (bestFirst xs).Perm (xs.filter fun x => ! (num x.1).isNan)
    ∧ (bestFirst xs).Pairwise (fun x y => (num y.1).lt (num x.1) = true
        ∨ ((num x.1).eq (num y.1) = true ∧ x.2.toNat ≤ y.2.toNat))
    ∧ ((num v).isNan = false → (bestFirst xs).filter same = xs.filter fun x => ! (num x.1).isNan && same x))

/-- R176, R177: `vcvt` rounds every element of a lane's run into the other format, element j of lane L being element E × L + j;
I4X and reserved rounding codes are illegal operands. With equal formats and an infinite source R177's closing sentence and its effect
differ under fm.sat; that `Round` decides is the model's reading (assumption 56). -/
def Obligations.Conversions : Prop :=
  ∀ (s : State) (c sr l : BitVec 4) (d a : BitVec 7) (x y : Fmt),
    Fmt.ofCode c.toNat = some x → Fmt.ofCode sr.toNat = some y →
    let mn := min y.width x.width
    let e := 32 / mn
    let ns := y.width / mn
    let nd := x.width / mn
    let t := s.w.rep.2
    s.VectorReady [3] ((d.toNat, nd) :: (sourcesOf a ns).1) (sourcesOf a ns).2 →
    exec (.vcvt c l d a sr) s = .next
      (if 6 ≤ s.w.fm.toNat / 4096 % 8 ∨ x = .i4x ∨ y = .i4x then s.trap 0x02 0
       else s.vectorDone l.toNat (sourcesOf a ns).2 (repeatUnit (fun i w =>
        let r := roundedElem x w.fm (fmSat w.fm) (64 * e) fun k =>
          if w.em.getLsbD (k / e) then
            some (y.decode (fmFtz w.fm) (elemOf y.width (w.runWord a ns i t (k / e)) (k % e)), false)
          else none
        (runResult d t nd i w fun k j => runOf x.width (fun q => (r (e * k + q)).1) j,
          flagsOver (List.range (64 * e)) fun k => (r k).2)) s.w.rep.1 0 s.w))

/-- R178, R179: `vqnt` divides FP32 values by the scale that byte b names and rounds them into the A format; `vscl` puts the
scale of a value into byte b; an A format that they do not take is an illegal operand. R180, R181: the I4X encoder and decoder
on the 32 elements of every lane, with their flags. -/
def Obligations.QuantizedBlocks : Prop :=
  (∀ (s : State) (l : BitVec 4) (d a : BitVec 7) (b : BitVec 2),
    let t := s.w.rep.2
    let fa := s.w.fm.toNat % 16
    let f := (Fmt.ofCode fa).getD .e4m3
    let e := 32 / f.width
    (3 ≤ fa → fa ≤ 7 → s.VectorReady [3] [(d.toNat, 1), (a.toNat, e + 1)] [] → s.w.fm.toNat / 4096 % 8 < 6 →
      exec (.vqnt l d a b) s = .next (s.vectorDone l.toNat [] (repeatUnit (fun i w =>
        let scale := fun k => byteNat ((w.v (a.toNat + i * t + e)).at k) b.toNat
        let r := roundedElem f w.fm (fmSat w.fm) (64 * e) fun k =>
          if w.em.getLsbD (k / e) then
            some (if scale (k / e) = 255 then (.nan false, true)
              else ((w.f32 ((w.v (a.toNat + i * t + k % e)).at (k / e))).scale (127 - (scale (k / e) : Int)), false))
          else none
        (runResult d t 1 i w fun k j => runOf f.width (fun q => (r (e * k + q)).1) j,
          flagsOver (List.range (64 * e)) fun k => (r k).2)) s.w.rep.1 0 s.w)))
    ∧ (3 ≤ fa → fa ≤ 8 → s.VectorReady [3] [(d.toNat, 1)] [a.toNat] →
      exec (.vscl l d a b) s = .next (s.vectorDone l.toNat [a.toNat] (repeatUnit (fun i w =>
        let r := fun k => scaleCode f (Fmt.decode .f32 false (w.lane a i t k).toNat)
        let old := fun k => ((w.v (d.toNat + i * t)).at k).toNat
        ([.v (d.toNat + i * t) w.em (Vec.ofFn fun k =>
            BitVec.ofNat 32 (old k - old k / 2 ^ (8 * b.toNat) % 256 * 2 ^ (8 * b.toNat) + (r k).1 * 2 ^ (8 * b.toNat)))],
          if (List.range 64).any (fun k => w.em.getLsbD k && (r k).2) then flagNV else 0)) s.w.rep.1 0 s.w)))
    ∧ (fa < 3 ∨ 7 < fa → s.VectorReady [3] [(d.toNat, 1), (a.toNat, 5)] [] → exec (.vqnt l d a b) s = .next (s.trap 0x02 0))
    ∧ (fa < 3 ∨ 8 < fa → s.VectorReady [3] [(d.toNat, 1)] [a.toNat] → exec (.vscl l d a b) s = .next (s.trap 0x02 0)))
  ∧ (∀ (s : State) (l : BitVec 4) (d a : BitVec 7),
    let t := s.w.rep.2
    let go := fun (ws wd ns nd : Nat) (f : List Nat → List Nat × Bool) (fl : BitVec 8) =>
      (.next (s.vectorDone l.toNat [] (repeatUnit (fun i w =>
        let r := fun k => f ((List.range 32).map (elemOf ws (w.runWord a ns i t k)))
        (runResult d t nd i w fun k j => runOf wd (fun q => (r k).1.getD q 0) j,
          if (List.range 64).any (fun k => w.em.getLsbD k && (r k).2) then fl else 0)) s.w.rep.1 0 s.w)) : Host.Outcome State Fault Refusal)
    (s.VectorReady [3] [(d.toNat, 4), (a.toNat, 8)] [] → exec (.vi4xe l d a) s = go 8 4 8 4 i4xEncode 0x40)
    ∧ (s.VectorReady [3] [(d.toNat, 8), (a.toNat, 4)] [] → exec (.vi4xd l d a) s = go 4 8 4 8 i4xDecode 0x20))

/-! Memory. -/

/-- R294, R325: the reads of a load find each lane's bytes little-endian and change neither memory nor the warp. R296, R325: the
writes of a store reach memory in order, so that of two lanes that write one byte the later stands. R5: n bytes that hold a value lie
little-endian from their address on, and a store of them changes no other byte. R214: bytes written to a buffer read back
little-endian, and no other byte and no memory changes. -/
def Obligations.AccessesReachMemory : Prop :=
  (∀ (ag : Agent) (n : Nat) (ls : List (Nat × DWord × Loc)) (s : State), s.allPlain ag ls →
    State.readAll ag n ls s = .ok (s, ls.map (fun x => (x.1, s.valueAt x.2.2.pa n)), ls.map fun x => x.2.2))
  ∧ (∀ (ag : Agent) (full gone : List Nat) (ws : List (DWord × Loc × List Byte)) (s : State),
    s.allPlain ag (ws.map fun w => (0, w.1, w.2.1)) →
    ∃ t, State.writeAll ag full gone ws s = t ∧ t.w = s.w
      ∧ t.mem = (ws.foldl (fun (u : State) w => u.poke w.2.1.pa w.2.2) s).mem)
  ∧ (∀ (s : State) (a n v : Nat),
    (∀ x, (s.poke a (bytesOf n v)).byteAt x =
      if a ≤ x ∧ x < a + n then BitVec.ofNat 8 (v / 256 ^ (x - a)) else s.byteAt x)
    ∧ (s.poke a (bytesOf n v)).valueAt a n = v % 256 ^ n ∧ s.peek a n = s.valueAt a n)
  ∧ (∀ (g : Group) (u : BitVec 1) (o n v : Nat),
    (∀ k i, (g.bufWrite u o (bytesOf n v)).buf k i =
      if k = u ∧ o ≤ i ∧ i < o + n then BitVec.ofNat 8 (v / 256 ^ (i - o)) else g.buf k i)
    ∧ (g.bufWrite u o (bytesOf n v)).bufRead u o n = v % 256 ^ n)

/-- R296: a vector load gives each acting lane of EM its bytes, extended by the width code, and commits them by la. The lanes
act unless a page fault of the unit left them complete (R268). R296, R388: a vector store writes the bytes that its run holds in
each acting lane of EM & G; a strong one of device scope or wider that writes one whole launch line also launches its record.
R294 step 1: in a weak or strong form, the lowest acting lane whose address is not a multiple of the width raises trap 0x04 with that
address. -/
def Obligations.VectorAccesses : Prop :=
  (∀ (s s1 s2 : State) (fs : List (Nat × DWord × Found1)) (xs : List (Nat × Nat)) (w z : BitVec 3) (l : BitVec 4) (d a : BitVec 7)
    (b : BitVec 5) (ins : Instr) (code : Nat) (scope : Option (BitVec 3)),
    (ins = .ld w l d a b ∧ code = w.toNat ∧ code < 7 ∧ scope = none) ∨ (ins = .ldB32St z l d a b ∧ code = 4 ∧ scope = some z)
      ∨ (ins = .ldB64St z l d a b ∧ code = 5 ∧ scope = some z) →
    let as := s.laneAddrs b a (s.actingLanes s.w.em)
    s.UnitReady [5] (a.toNat :: (List.range (codeRegs code)).map (d.toNat + ·)) [a.toNat] →
    s.destOk d.toNat (codeRegs code) = true → s.srcOk a.toNat = true → s.mayIssue (linesOf as) →
    s.memCheck as (codeBytes code) .read (decide (scope = some 6)) = .ok (s1, fs) → pagedOut fs = [] →
    s1.loadAll scope (codeBytes code) (located fs) = .ok (s2, xs) →
    let u : State := { s2 with w := s2.w.popped [a.toNat] 1 }
    exec ins s = .next (u.done (u.w.ran l.toNat .memory (runLoads d (codeRegs code) (codeValue code) xs)) (u.w.pc + 4)))
  ∧ (∀ (s s1 s2 : State) (fs : List (Nat × DWord × Found1)) (w z : BitVec 3) (g : BitVec 4) (v a : BitVec 7) (b : BitVec 5) (ins : Instr)
    (code : Nat) (scope : Option (BitVec 3)),
    (ins = .st w g v a b ∧ code = w.toNat ∧ code < 7 ∧ scope = none) ∨ (ins = .stB32St z g v a b ∧ code = 4 ∧ scope = some z) →
    let m := s.w.em &&& s.w.guard g
    let as := s.laneAddrs b a (s.actingLanes m)
    let before := s.laneAddrs b a (s.doneLanes m)
    s.UnitReady [5] (a.toNat :: (List.range (codeRegs code)).map (v.toNat + ·)) [a.toNat, v.toNat] →
    s.srcOk a.toNat = true →
    (if codeRegs code = 1 then s.srcOk v.toNat else s.destOk v.toNat (codeRegs code)) = true → s.mayIssue (linesOf as) →
    s.memCheck as (codeBytes code) .write false = .ok (s1, fs) → pagedOut fs = [] →
    let part := fun l i : Nat => ((if v.toNat < 120 then s.w.v (v.toNat + i / 4) else s.w.src v.toNat 0).at l).toNat / 256 ^ (i % 4)
    let bytes := fun l : Nat => (List.range (codeBytes code)).map fun i => BitVec.ofNat 8 (part l i)
    s1.storeAll scope (s1.doneRanges before (codeBytes code))
      ((located fs).map fun f => (f.1, f.2.1, f.2.2, bytes f.1)) = .ok s2 →
    let s3 := if ∃ c, scope = some c ∧ 4 ≤ c.toNat then s2.launchStore (s1.laneStores bytes before (located fs)) else s2
    let u : State := { s3 with w := s3.w.popped [a.toNat, v.toNat] 1 }
    exec ins s = .next (u.done (u.w.ran 0 .none []) (u.w.pc + 4)))
  ∧ (∀ (s : State) (w z : BitVec 3) (l g : BitVec 4) (d a : BitVec 7) (b : BitVec 5) (x : Nat × DWord) (ins : Instr) (code : Nat)
    (m : Mask) (srcs : List Nat),
    (m = s.w.em ∧ srcs = [a.toNat] ∧ ((ins = .ld w l d a b ∧ code = w.toNat ∧ code < 7) ∨ (ins = .ldB32St z l d a b ∧ code = 4)
        ∨ (ins = .ldB64St z l d a b ∧ code = 5)))
      ∨ (m = s.w.em &&& s.w.guard g ∧ srcs = [a.toNat, d.toNat]
        ∧ ((ins = .st w g d a b ∧ code = w.toNat ∧ code < 7) ∨ (ins = .stB32St z g d a b ∧ code = 4))) →
    s.UnitReady [5] (a.toNat :: (List.range (codeRegs code)).map (d.toNat + ·)) srcs → s.srcOk a.toNat = true →
    (if codeRegs code = 1 ∧ srcs.length = 2 then s.srcOk d.toNat else s.destOk d.toNat (codeRegs code)) = true →
    let as := s.laneAddrs b a (s.actingLanes m)
    s.mayIssue (linesOf as) → (as.find? fun y => y.2.toNat % codeBytes code ≠ 0) = some x →
    exec ins s = .next (s.trap 0x04 x.2))

/-- R299, R302, R305: a split-phase load or a gather charges its counter and places an operation with its addresses, a gather a
queue entry too; with no lane in EM neither charges anything. A full queue is trap 0x08. R303, R299: the reply for a lane writes
its part of the run at once, behind no window; the last reply takes the charge back with the error bits gathered. R305, R299: a
gather's completion gives its queue entry the element read for each lane and 0 elsewhere, and takes its charge back. R330, R377:
neither comes while its request waits for a link, a port or its slice. The cycle
at which an operation may complete is the model's (assumption 51). -/
def Obligations.SplitPhaseOperations : Prop :=
  (∀ (s s1 : State) (aims : List (Nat × Aim)) (c : BitVec 4) (w : BitVec 3) (q : BitVec 2) (d a : BitVec 7) (b : BitVec 5),
    let as := s.laneAddrs b a s.w.em
    let cnt := s.w.counter c.toNat
    let fin := fun u : State => (.next (u.done (u.w.ran 0 .none []) (u.w.pc + 4)) : Host.Outcome State Fault Refusal)
    s.srcOk a.toNat = true → s.mayIssue (linesOf as) → cnt.cnt ≠ BitVec.allOnes 16 →
    (as.all fun x => x.2.toNat % codeBytes w.toNat = 0) = true →
    State.locateIssue (codeBytes w.toNat) .read as s = (s1, none, [], aims) →
    (w.toNat < 7 → s.UnitReady [5] (a.toNat :: (List.range (codeRegs w.toNat)).map (d.toNat + ·)) [a.toNat] →
      s.destOk d.toNat (codeRegs w.toNat) = true →
      let u := if as = [] then s1 else s1.charged c (.ldp w d.toNat s.w.em aims s1.w.cp)
      exec (.ldp c w d a b) s = fin { u with w := u.w.popped [a.toNat] 1 })
    ∧ (w.toNat < 5 → s.UnitReady [5] [a.toNat] [a.toNat] →
      (8 ≤ (s.w.queue q.toNat).length → exec (.gath c q w a b) s = .next (s.trap 0x08 (BitVec.ofNat 64 (256 + q.toNat))))
      ∧ ((s.w.queue q.toNat).length < 8 →
        let p := s1.w.popped [a.toNat] 1
        let e : QEntry := ⟨s1.nextOp, if as = [] then some Vec.zero else none⟩
        let u : State := { s1 with w := p.setQueue q.toNat (p.queue q.toNat ++ [e]) }
        exec (.gath c q w a b) s = fin
          (if as = [] then { u with nextOp := u.nextOp + 1 } else u.charged c (.gath w q.toNat s.w.em aims s1.w.cp)))))
  ∧ (∀ (s s1 : State) (o : Op) (w : BitVec 3) (vd : Nat) (left : Mask) (aims : List (Nat × Aim)) (cp : Nat × Nat) (ln : BitVec 6)
    (aim : Aim) (x : Nat) (err : BitVec 3),
    s.findOp o.id = some o → o.kind = .ldp w vd left aims cp → o.place = s.w.place → s.w.life ≠ .empty → w.toNat < 7 →
    (left.getLsbD ln.toNat = false → exec (.ldpReply o.id ln) s = .next s)
    ∧ (left.getLsbD ln.toNat = true → (aims.find? fun a => a.1 = ln.toNat) = some (ln.toNat, aim) →
        let ag := s.opAgent o
        let ws := s.waiting ag false (aimLocs [(0, aim)])
        (ws ≠ [] → ∃ t, exec (.ldpReply o.id ln) s = .next t ∧ t.mem = s.mem ∧ t.w = s.w ∧ t.ops = s.ops)
        ∧ (ws = [] → s.asyncRead ag aims aim (codeBytes w.toNat) cp = (s1, x, err) → s1.w = s.w →
        ∃ t, exec (.ldpReply o.id ln) s = .next t ∧ t.mem = s1.mem
          ∧ (∀ k < codeRegs w.toNat, (t.w.v (vd + k)).at ln.toNat = codeValue w.toNat k x)
          ∧ (∀ r, t.w.s r = s.w.s r) ∧ t.w.pc = s.w.pc
          ∧ (left &&& ~~~ ((1 : Mask) <<< ln.toNat) ≠ 0 → t.w.counters = s.w.counters)
          ∧ (left &&& ~~~ ((1 : Mask) <<< ln.toNat) = 0 →
              (t.w.counter o.ac.toNat) = ⟨(s.w.counter o.ac.toNat).cnt - 1, (s.w.counter o.ac.toNat).err ||| o.err ||| err⟩
              ∧ ∀ p ∈ t.ops, p.id ≠ o.id))))
  ∧ (∀ (s s1 : State) (o : Op) (w : BitVec 3) (q : BitVec 2) (m : Mask) (aims : List (Nat × Aim)) (cp : Nat × Nat)
    (xs : List (Nat × Nat)) (err : BitVec 3),
    s.findOp o.id = some o → o.kind = .gath w q.toNat m aims cp → o.place = s.w.place → s.w.life ≠ .empty → w.toNat < 5 →
    let ag := s.opAgent o
    let ws := s.waiting ag false (aimLocs aims)
    (ws ≠ [] → ∃ t, exec (.gatherCompletion o.id) s = .next t ∧ t.mem = s.mem ∧ t.w = s.w ∧ t.ops = s.ops)
    ∧ (ws = [] → gatherReads ag w.toNat cp aims aims s = (s1, xs, err) → s1.w = s.w →
    ∃ t, exec (.gatherCompletion o.id) s = .next t ∧ t.mem = s1.mem
      ∧ t.w.queue q.toNat = (s.w.queue q.toNat).map (fun e =>
          if e.op = o.id then
            { e with value := some (Vec.ofFn fun l =>
              if (xs.map Prod.fst).contains l then codeValue w.toNat 0 (valueOf xs l) else 0) }
          else e)
      ∧ (t.w.counter o.ac.toNat) = ⟨(s.w.counter o.ac.toNat).cnt - 1, (s.w.counter o.ac.toNat).err ||| o.err ||| err⟩
      ∧ (∀ p ∈ t.ops, p.id ≠ o.id) ∧ ∀ r, t.w.s r = s.w.s r))

/-- R309: one lane of an atomic reads its location, writes the new value of Table 4 and gives the old one; an 8-byte one of
device scope or wider is also the command that a resume doubleword makes of it (R357). R308, R309: an atomic of each scope acts
on the acting lanes of EM & G at the addresses that its register pair gives, in ascending lane order, and gives the old values
by la. -/
def Obligations.Atomics : Prop :=
  (∀ (fn : Nat) (ag : Agent) (src : Nat → Nat × Nat) (k : Nat) (va : DWord) (l : Loc) (s : State), fn < 15 →
    s.allPlain ag [(k, va, l)] →
    let n := if fn = 1 ∨ fn = 10 ∨ fn = 12 then 8 else 4
    let old := s.valueAt l.pa n
    let new := atomicValue fn old (src k).1 (src k).2
    (src k).1 < 256 ^ n → (src k).2 < 256 ^ n →
    let s1 := s.poke l.pa (bytesOf n new)
    l.pa % n = 0 →
    atomAll fn ag src [(k, va, l)] s =
      .ok (if (∃ sc, ag.scope = some sc ∧ 4 ≤ sc.toNat) ∧ n = 8 then s1.strong8 l.pa new else s1, [(k, old)]))
  ∧ (∀ (s s1 s2 : State) (fs : List (Nat × DWord × Found1)) (xs : List (Nat × Nat)) (g l f : BitVec 4) (d a : BitVec 7) (op : Nat)
    (ins : Instr), f.toNat < 15 →
    (ins = .atomCo g l f d a ∧ op = 0x1A) ∨ (ins = .atomCl g l f d a ∧ op = 0x1B) ∨ (ins = .atomCm g l f d a ∧ op = 0x1C)
      ∨ (ins = .atomLd g l f d a ∧ op = 0x1D) ∨ (ins = .atomPk g l f d a ∧ op = 0x1E) ∨ (ins = .atomSy g l f d a ∧ op = 0x1F) →
    let fn := f.toNat
    let n := if fn = 1 ∨ fn = 10 ∨ fn = 12 then 8 else 4
    let run := if fn = 12 then 4 else if fn = 1 ∨ fn = 10 ∨ fn = 11 then 2 else 1
    let word := fun r k => ((s.w.v r).at k).toNat
    let val := fun r k => if n = 8 then word r k + 2 ^ 32 * word (r + 1) k else word r k
    let as := (membersOf (s.actingLanes (s.w.em &&& s.w.guard g))).map fun k =>
      (k, BitVec.ofNat 64 (word a.toNat k + 2 ^ 32 * word (a.toNat + 1) k))
    s.UnitReady [5] ((List.range 2).map (a.toNat + ·) ++ (List.range run).map (d.toNat + ·)) [] →
    s.destOk a.toNat 2 = true → s.destOk d.toNat run = true → s.mayIssue (linesOf as) →
    s.memCheckBy (pcieBad s.vxpkg.toNat fn) as n .rw (decide (op = 0x1F)) = .ok (s1, fs) → pagedOut fs = [] →
    atomSend fn (BitVec.ofNat 3 (op - 0x19)) (fun k => (val d.toNat k, val (d.toNat + n / 4) k)) (located fs) s1 = .ok (s2, xs) →
    exec ins s = .next (s2.done
      (s2.w.ran l.toNat .memory (runLoads d (n / 4) (fun k x => BitVec.ofNat 32 (x / 2 ^ (32 * k))) xs)) (s2.w.pc + 4)))

/-- R310, R311: `casm` of n + 1 entries. In this order: trap 0x04 at a block that is not aligned; status 1 << 60 for a header that
does not fit; trap 0x04 at the first entry address that is not aligned; trap 0x06 at the first entry address, then expected field
under RETOLD, that meets an access fault; the park of the first page fault; status 1 << 61 for an entry beyond the package, 1 << 62
for two entries of one address, 1 << 59 for an owner or home that is not reached. Else every entry is compared with its expected
value. Where all agree, the new values are stored, each also the command that a resume doubleword makes of it (R357), and the status
is 0; where some do not, the status marks them, and RETOLD stores the values seen in the expected fields. A success is a release: it
waits, the locks kept, while a strong store of the warp is not yet performed (R288, R313). In every case that does not trap, park or
wait, sd receives the status, a tagged send (R317). Entry addresses are physical multiples of 8 in lines that are served at once. That
the wait comes after the compare is the model's choice (assumption 73). -/
def Obligations.CompareAndSwapMany : Prop :=
  ∀ (s s1 s2 s3 s4 : State) (l : BitVec 4) (d a : BitVec 6) (n : BitVec 4) (h : Nat) (es : List (DWord × Nat × Nat))
    (xs fs : List (DWord × Except XFault Loc)),
    s.accepts 22 [] false → s.mayIssue 1 → ¬ (l ≠ 0 ∧ (d = 55 ∨ d = 56)) → s.w.casm = none →
    let b := s.w.s a.toNat
    let c := n.toNat + 1
    let fin := fun (t : State) (v : Nat) =>
      let u := (t.setCasm none).send [v]
      (.next (u.done (u.w.ran l.toNat .memory [.s d.toNat (BitVec.ofNat 64 v)]) (t.w.pc + 4)) : Host.Outcome State Fault Refusal)
    (b.toNat % 8 ≠ 0 → exec (.casm l d a n) s = .next (s.trap 0x04 b))
    ∧ (b.toNat % 8 = 0 → casmRead s b = .ok (s1, h) →
      (h % 256 ≠ c ∨ 512 ≤ h → exec (.casm l d a n) s = fin s1 (2 ^ 60))
      ∧ (h % 256 = c → h < 512 → casmEntries b c 0 s1 = .ok (s2, es) →
        (∀ pre e post, es = pre ++ e :: post → e.1.toNat % 8 ≠ 0 → (∀ x ∈ pre, x.1.toNat % 8 = 0) →
          exec (.casm l d a n) s = .next (s.trap 0x04 e.1))
        ∧ ((∀ x ∈ es, x.1.toNat % 8 = 0) → casmXlate .rw (es.map Prod.fst) s2 = (s3, xs) →
          (if 256 ≤ h then casmXlate .write ((List.range c).map fun i => b + BitVec.ofNat 64 (16 + 24 * i)) s3 else (s3, [])) = (s4, fs) →
          let barred := fun (own : Bool) (x : Except XFault Loc) =>
            match x with | .error .access => true | .error .peerFail => true | .error .peerDown => own | _ => false
          let tries := xs.map (fun x => (x, Access.rw, false)) ++ fs.map fun x => (x, Access.write, true)
          let bad := tries.find? fun x => barred x.2.2 x.1.2
          let page := tries.findSome? fun x => match x.1.2 with | .error (.page st g) => some (x.1.1, x.2.1, st, g) | _ => none
          let at_ := fun l : List (DWord × Except XFault Loc) => l.filterMap fun x => match x.2 with | .ok y => some y | _ => none
          let ls := at_ xs
          (∀ x, bad = some x → exec (.casm l d a n) s = .next (s4.trap 0x06 x.1.1))
          ∧ (∀ va acc st g, bad = none → page = some (va, acc, st, g) →
            exec (.casm l d a n) s = .next (s4.pageFault va acc st g 0))
          ∧ (bad = none → page = none →
            let inMem := ∀ y ∈ ls, ∃ i, paKind s4.vxpkg.toNat y.pa = .mem i
            let lost := ls.length ≠ c ∨ ∃ y ∈ ls, s4.unreachable s4.w.place.ld.toNat (y.pa / 2 ^ 38) = true
            (¬ inMem → exec (.casm l d a n) s = fin s4 (2 ^ 61))
            ∧ (inMem → ¬ (ls.map Loc.pa).Nodup → exec (.casm l d a n) s = fin s4 (2 ^ 62))
            ∧ (inMem → (ls.map Loc.pa).Nodup → lost → exec (.casm l d a n) s = fin s4 (2 ^ 59))
            ∧ (inMem → (ls.map Loc.pa).Nodup → ¬ lost → (∀ y ∈ ls ++ at_ fs, y.pa % 8 = 0) →
              let run := fun (ys : List (Loc × Nat)) (cmd : Bool) => ys.foldl (fun (t : State) y =>
                let u := t.poke y.1.pa (bytesOf 8 y.2)
                if cmd then u.strong8 y.1.pa y.2 else u) s4
              let old := ls.map fun y => s4.valueAt y.pa 8
              let news := ls.zip (es.map fun e => e.2.2)
              let seen := (at_ fs).zip old
              let miss := ((List.range c).map fun i => if old.getD i 0 = (es.map fun e => e.2.1).getD i 0 then 0 else 2 ^ i).sum
              (∀ i ≤ c, (run (news.take i) true).allPlain (s4.me (some 5)) (ls.map fun y => (0, 0, y))) →
              s4.allPlain (s4.me (some 5)) ((at_ fs).map fun y => (0, 0, y)) →
              (∀ i ≤ c, (run (seen.take i) false).allPlain (s4.me none) ((at_ fs).map fun y => (0, 0, y))) →
              (miss ≠ 0 → exec (.casm l d a n) s = fin (run seen false) miss)
              ∧ (miss = 0 → s4.strongHeld = false → exec (.casm l d a n) s = fin (run news true) 0)
              ∧ (miss = 0 → s4.strongHeld = true → ∃ t c, exec (.casm l d a n) s = .next t ∧ t.mem = s4.mem ∧ t.w.pc = s.w.unitPc
                  ∧ t.w.casm = some c ∧ ∀ y ∈ ls, y.pa / 64 ∈ c.locks))))))

/-- R314: `claim` of a range that is not a multiple of 4096 takes trap 0x04, one that covers a part of a larger page trap 0x02 with
the address of the lowest such page. A range with a page outside the arena gives status 1; one without room, 2; while a link or a port
in training holds what it waits for it sets RETRAIN (R316); otherwise its pages move to the caller's LD and it gives 0. R349: there is
room when the caller's stack holds a frame for each page and no old LD's stack would pass its capacity. A page that moves takes the
frame at the top of the caller's stack, which falls by one: its bytes are copied there, the arena entry names it, and the old frame
goes onto the stack of its LD. Bit 63 of the entry and the form of a pushed doubleword are the model's (assumption 9). -/
def Obligations.ClaimMovesPages : Prop :=
  (∀ (s s1 : State) (d a b : BitVec 6) (ps : List (Option Nat)), s.accepts 22 [] false → s.mayIssue 1 →
    let start := s.w.s a.toNat
    let len := (s.w.s b.toNat).toNat
    let ld := s.w.place.ld.toNat
    let far := (ps.filterMap id).eraseDups.filter fun i => s1.arenaFrame i / 2 ^ 38 ≠ ld
    let pages := (List.range (len / 4096)).map fun i => start.toNat + 4096 * i
    let cut := fun (va base : Nat) => ∃ f, s.claimLeaf va = some f ∧ base = va / f.size * f.size
      ∧ (base < start.toNat ∨ start.toNat + len < base + f.size)
    let fin := fun (t : State) (v : DWord) =>
      (.next ((t.send [v.toNat]).done ((t.send [v.toNat]).w.ran 0 .none [.s d.toNat v]) (t.w.pc + 4)) :
        Host.Outcome State Fault Refusal)
    (start.toNat % 4096 ≠ 0 ∨ len % 4096 ≠ 0 → exec (.claim d a b) s = .next (s.trap 0x04 start))
    ∧ (start.toNat % 4096 = 0 → len % 4096 = 0 →
      (∀ pre va post base, pages = pre ++ va :: post → cut va base → (∀ x ∈ pre, ∀ y, ¬ cut x y) →
        exec (.claim d a b) s = .next (s.trap 0x02 (BitVec.ofNat 64 base)))
      ∧ ((∀ x ∈ pages, ∀ y, ¬ cut x y) → claimPages pages s = .ok (s1, ps) →
        (none ∈ ps → exec (.claim d a b) s = fin s1 1)
        ∧ (none ∉ ps → s1.claimRoom ld far = false → exec (.claim d a b) s = fin s1 2)
        ∧ (none ∉ ps → s1.claimRoom ld far = true →
          (s1.heldTraining = true ∨ s1.moveWaits ld far = true → exec (.claim d a b) s = .next (s1.setMstat 4).retry)
          ∧ (s1.heldTraining = false → s1.moveWaits ld far = false →
            s.quiet s.w = true → s.strongHeld = false → s.ownHeld = [] → s1.moving far = false →
            let s2 := (far.foldl (fun s i => s.rehome ld i) (s1.drain s1.w.place)).dropArena far
            exec (.claim d a b) s = fin { s2 with w := s2.w.commitLoads true } 0)))))
  ∧ (∀ (s : State) (ld : Nat) (is : List Nat),
    let from_ := fun q => is.countP fun i => s.arenaFrame i / 2 ^ 38 = q
    s.claimRoom ld is = true ↔ is.length ≤ (s.ldOf ld).vxpooltop.toNat
      ∧ ∀ q < 4, from_ q ≠ 0 → (s.ldOf q).vxpooltop.toNat + from_ q ≤ (s.ldOf q).vxpoolcap.toNat)
  ∧ (∀ (s : State) (ld i : Nat), ld < 4 → s.hartLines = [] → s.flips = [] → s.phase = .daylight →
    (∀ q < 4, (s.ldOf q).baseReset = false) → (∀ n, s.bad n = false) → (∀ pa, s.online pa = true) → Memory.wf s.mem = true →
    let k := (s.ldOf ld).vxpooltop.toNat - 1
    let old := s.arenaFrame i
    let new := s.stackFrame ld k
    let home := old / 2 ^ 38
    let entry := s.arenaAddr i
    let top := s.stackAddr home (s.ldOf home).vxpooltop.toNat
    let apart := fun x y n : Nat => x + n ≤ y ∨ y + 4096 ≤ x
    0 < (s.ldOf ld).vxpooltop.toNat → home < 4 → home ≠ ld → (new + 4096 ≤ old ∨ old + 4096 ≤ new) →
    apart entry old 8 → apart entry new 8 → apart top old 8 → apart top new 8 → (entry + 8 ≤ top ∨ top + 8 ≤ entry) →
    let t := s.rehome ld i
    (t.ldOf ld).vxpooltop = (s.ldOf ld).vxpooltop - 1 ∧ (t.ldOf home).vxpooltop = (s.ldOf home).vxpooltop + 1
      ∧ t.valueAt entry 8 = 2 ^ 63 + new / 4096 ∧ t.valueAt top 8 = old / 4096
      ∧ ∀ x, (x < entry ∨ entry + 8 ≤ x) → (x < top ∨ top + 8 ≤ x) →
          t.byteAt x = if new ≤ x ∧ x < new + 4096 then s.byteAt (x - new + old) else s.byteAt x)

/-- R213, R214: a buffer load and store of 4, 8 or 16 bytes at each acting lane's offset; in every form a lane's offset must be a
multiple of the size (trap 0x04) and lie in the allotment (trap 0x0B). R215: the buffer atomics of 4 or 8 bytes act lane by lane in
ascending order and give the old values by la. What a W word held before the first write since an operation of the workgroup was posted
stays with the operation until its passes have read (R217, R238); where that is kept is the model's choice (assumption 33). -/
def Obligations.BufferAccesses : Prop :=
  (∀ (s : State) (l g : BitVec 4) (u : BitVec 1) (d a : BitVec 7) (w : BitVec 2), w.toNat < 3 →
    let n := 4 * 2 ^ w.toNat
    let r := 2 ^ w.toNat
    let off := fun m : Mask => (membersOf m).map fun k => (k, ((s.w.src a.toNat 0).at k).toNat)
    let fits := fun o : Nat => decide (o + n ≤ s.wg.len u)
    let lds := off s.w.em
    let sts := off (s.w.em &&& s.w.guard g)
    let regs := a.toNat :: (List.range r).map (d.toNat + ·)
    (s.UnitReady [] regs [a.toNat] → s.destOk d.toNat r = true → s.srcOk a.toNat = true →
      (∀ x, (lds.find? fun o => o.2 % n ≠ 0) = some x → exec (.bld l u d a w) s = .next (s.trap 0x04 (BitVec.ofNat 64 x.2)))
      ∧ ((lds.all fun o => o.2 % n = 0) = true →
        (∀ x, (lds.find? fun o => ! fits o.2) = some x → exec (.bld l u d a w) s = .next (s.trap 0x0B (BitVec.ofNat 64 x.2)))
        ∧ ((lds.all fun o => fits o.2) = true →
          let v : State := { s with w := s.w.popped [a.toNat] 1 }
          exec (.bld l u d a w) s = .next (v.done (v.w.ran l.toNat .buffer
            (runLoads d r (fun k x => BitVec.ofNat 32 (x / 2 ^ (32 * k))) (lds.map fun o => (o.1, s.wg.bufRead u o.2 n))))
            (s.w.pc + 4)))))
    ∧ (s.UnitReady [] regs [a.toNat, d.toNat] → s.srcOk a.toNat = true →
      (if r = 1 then s.srcOk d.toNat else s.destOk d.toNat r) = true →
      (∀ x, (sts.find? fun o => o.2 % n ≠ 0) = some x → exec (.bst g u d a w) s = .next (s.trap 0x04 (BitVec.ofNat 64 x.2)))
      ∧ ((sts.all fun o => o.2 % n = 0) = true → ∀ x, (sts.find? fun o => ! fits o.2) = some x →
        exec (.bst g u d a w) s = .next (s.trap 0x0B (BitVec.ofNat 64 x.2)))
      ∧ ((sts.all fun o => o.2 % n = 0 && fits o.2) = true →
      let byte := fun k i : Nat => BitVec.ofNat 8
        (((if d.toNat < 120 then s.w.v (d.toNat + i / 4) else s.w.src d.toNat 0).at k).toNat / 256 ^ (i % 4))
      let v : State := { s.keepOld u (sts.flatMap fun o => (List.range r).map fun k => o.2 / 4 + k) with
        w := s.w.popped [a.toNat, d.toNat] 1
        wg := sts.foldl (fun t o => t.bufWrite u o.2 ((List.range n).map (byte o.1))) s.wg }
      exec (.bst g u d a w) s = .next (v.done (v.w.ran 0 .none []) (s.w.pc + 4)))))
  ∧ (∀ (s : State) (l : BitVec 4) (u : BitVec 1) (d a : BitVec 7) (w : BitVec 1),
    let n := 4 * 2 ^ w.toNat
    let sx := fun x : Nat => if 2 ^ (8 * n - 1) ≤ x then (x : Int) - (2 ^ (8 * n) : Nat) else (x : Int)
    let word := fun r k => ((s.w.v r).at k).toNat
    let val := fun r k => if n = 8 then word r k + 2 ^ 32 * word (r + 1) k else word r k
    let os := (membersOf s.w.em).map fun k => (k, ((s.w.src a.toNat 0).at k).toNat)
    let forms : List (Instr × Nat × (Nat → Nat → Nat → Nat)) :=
      [(.batomAdd l u d a w, n / 4, fun old x _ => (old + x) % 2 ^ (8 * n)),
       (.batomMin l u d a w, n / 4, fun old x _ => if sx x < sx old then x else old),
       (.batomMax l u d a w, n / 4, fun old x _ => if sx old < sx x then x else old),
       (.batomExch l u d a w, n / 4, fun _ x _ => x),
       (.batomCas l u d a w, n / 2, fun old x y => if old = x then y else old)]
    s.srcOk a.toNat = true →
    ∀ f ∈ forms, s.UnitReady [] (a.toNat :: (List.range f.2.1).map (d.toNat + ·)) [a.toNat] → s.destOk d.toNat f.2.1 = true →
      (∀ x, (os.find? fun o => o.2 % n ≠ 0) = some x → exec f.1 s = .next (s.trap 0x04 (BitVec.ofNat 64 x.2)))
      ∧ ((os.all fun o => o.2 % n = 0) = true → ∀ x, (os.find? fun o => ! decide (o.2 + n ≤ s.wg.len u)) = some x →
        exec f.1 s = .next (s.trap 0x0B (BitVec.ofNat 64 x.2)))
      ∧ ((os.all fun o => o.2 % n = 0 && decide (o.2 + n ≤ s.wg.len u)) = true →
      let step := fun (t : Group × List (Nat × Nat)) (o : Nat × Nat) =>
        (t.1.bufWrite u o.2 (bytesOf n (f.2.2 (t.1.bufRead u o.2 n) (val d.toNat o.1) (val (d.toNat + n / 4) o.1))),
          t.2 ++ [(o.1, t.1.bufRead u o.2 n)])
      let r := os.foldl step (s.wg, [])
      let v : State := { s.keepOld u (os.flatMap fun o => (List.range (n / 4)).map fun k => o.2 / 4 + k) with
        w := s.w.popped [a.toNat] 1, wg := r.1 }
      exec f.1 s = .next (v.done
        (v.w.ran l.toNat .buffer (runLoads d (n / 4) (fun k x => BitVec.ofNat 32 (x / 2 ^ (32 * k))) r.2)) (s.w.pc + 4))))
  ∧ (∀ (s : State) (ks : List Nat) (j : Nat) (o : Op), s.ops[j]? = some o → Cells.wf none o.old = true →
    s.keepOld 0 ks = s ∧ (∀ u, ({ s.keepOld u ks with ops := s.ops } : State) = s ∧ (s.keepOld u ks).ops.length = s.ops.length)
      ∧ ∃ p, (s.keepOld 1 ks).ops[j]? = some p ∧ ({ p with old := o.old } : Op) = o
        ∧ ∀ k, p.old.get none k =
          if k ∈ ks ∧ o.old.get none k = none ∧ (∃ x ∈ s.allWarps, x.place = o.place ∧ x.key = s.w.key)
            ∧ (match o.kind with | .matrix _ _ _ _ _ _ left _ _ _ _ => decide (left ≠ 0) | _ => false) = true
          then some (BitVec.ofNat 32 (s.wg.bufRead 1 (4 * k) 4)) else o.old.get none k)

/-! Matrix engine, tiles and copies. -/

/-- R235 to R239: `mma`, `mmas` and `mdist` check their operands, take the A rows from registers or from the latch, and post one
operation charged to the tile's counter; with EM = 0 they post none. R240, R241: `mtopk` gives each lane of EM the k best of its
tile row with their columns and posts one operation; `mrel` empties the A latch. That `mtopk` ranks and writes when it issues, and the
cycle from which an operation may complete, are the model's choices (assumptions 33 and 51). -/
def Obligations.MatrixPosting : Prop :=
  (∀ (s : State) (r : BitVec 1) (c : BitVec 4) (a : BitVec 7) (b : BitVec 5), s.accepts 22 [7] false →
    ∀ f ∈ [(Instr.mma r c a b, (0 : BitVec 3)), (.mmas r c a b, 1), (.mdist r c a b, 2)],
    (passShape s.w.fm = none → exec f.1 s = .next (s.trap 0x02 0))
    ∧ ∀ p, passShape s.w.fm = some p →
      let n := 16 + p.scaleRegs
      let kv := (s.w.hintKv.map BitVec.toNat).getD p.k
      let held := s.w.latch.filter fun x => r = 1 ∧ x.va = a.toNat ∧ x.fmt.toNat = fmA s.w.fm ∧ x.block.toNat = fmBlock s.w.fm
      let rows := match held with
        | some x => x.rows
        | none => (List.range n).map fun k => s.w.v (a.toNat + k)
      let o := (s.w.s b.toNat).toNat
      let latch : Option Latch :=
        if r = 0 then none else some ⟨a.toNat, BitVec.ofNat 4 (fmA s.w.fm), BitVec.ofNat 2 (fmBlock s.w.fm), rows⟩
      let v : State := { s with w := { s.w with latch := latch } }
      let fin := fun t : State => (.next (t.done (t.w.ran 0 .none []) (t.w.pc + 4)) : Host.Outcome State Fault Refusal)
      (a.toNat % 8 ≠ 0 ∨ 120 < a.toNat + n ∨ s.vregs < a.toNat + n ∨ kv = 0 ∨ p.k < kv → exec f.1 s = .next (s.trap 0x02 0))
      ∧ (a.toNat % 8 = 0 → a.toNat + n ≤ 120 → a.toNat + n ≤ s.vregs → 1 ≤ kv → kv ≤ p.k →
        (held = none → ∀ k < n, s.pendingLanes (a.toNat + k) = false) →
        (s.w.em = 0 → exec f.1 s = fin v)
        ∧ (s.w.em ≠ 0 → s.tileMeets c p.c.width →
          (o % 256 ≠ 0 → exec f.1 s = .next (s.trap 0x04 (BitVec.ofNat 64 o)))
          ∧ (o % 256 = 0 → s.wg.wlen < o + p.bytes → exec f.1 s = .next (s.trap 0x0B (BitVec.ofNat 64 o)))
          ∧ (o % 256 = 0 → o + p.bytes ≤ s.wg.wlen → (s.w.counter c.toNat).cnt ≠ BitVec.allOnes 16 → s.tableLoad < 32 →
            exec f.1 s = fin (v.charged c (.matrix f.2 c o kv (consulted s.w.fm) s.w.em s.w.em rows s.classAfter 0 false))))))
  ∧ (∀ (s : State) (l c : BitVec 4) (d : BitVec 7),
    (s.accepts 22 [] false → exec .mrel s = .next (({ s with w := { s.w with latch := none } } : State).computed []))
    ∧ (s.accepts 4 [4] false →
      let k := (s.w.hintMod.getD 0).toNat
      let f := (Fmt.ofCode (fmC s.w.fm)).getD .f32
      let place := fun j i =>
        if s.w.em.getLsbD j then (tileBest f (s.w.tile c.toNat) j).getD i (0xFF80_0000, 0xFFFF_FFFF) else (0xFF80_0000, 0xFFFF_FFFF)
      (d.toNat % 8 ≠ 0 ∨ 104 < d.toNat ∨ s.vregs < d.toNat + 16 ∨ 2 < fmC s.w.fm ∨ k = 0 ∨ 8 < k →
        exec (.mtopk l c d) s = .next (s.trap 0x02 0))
      ∧ (d.toNat % 8 = 0 → d.toNat ≤ 104 → d.toNat + 16 ≤ s.vregs → fmC s.w.fm ≤ 2 → 1 ≤ k → k ≤ 8 →
        (∀ i < 16, s.pendingLanes (d.toNat + i) = false) →
        (s.w.em = 0 → exec (.mtopk l c d) s = .next (s.computed []))
        ∧ (s.w.em ≠ 0 → s.tileMeets c f.width → s.tableLoad < 32 → s.passes (some c) = false →
          let op : Op := ⟨s.nextOp, s.w.place, c, s.tick.toNat + s.opLatency, 0, s.w.issued,
            .matrix 3 c 0 0 0 s.w.em s.w.em [] s.classAfter 0 false, []⟩
          exec (.mtopk l c d) s = .next (({ s with ops := s.ops ++ [op], nextOp := s.nextOp + 1 } : State).done
            (s.w.ran l.toNat .none ((List.range k).flatMap fun i =>
              [.v (d.toNat + i) s.w.em (Vec.ofFn fun j => (place j i).1), .v (d.toNat + 8 + i) s.w.em (Vec.ofFn fun j => (place j i).2)]))
            (s.w.pc + 4))))))

/-- R242 to R245, R238: a posted operation joins the youngest entry of its warp and tile in its cluster's table if it fits there, and
takes a new one of 32 otherwise; the arbiter
grants the entry it selects when the allowance covers its cost; an operation whose rows are written ends with its flags and its
charge. R231 to R233: a pass gives every element of the rows of its lanes the exact sum of the products, the C input and the
tail, rounded once to the C format; every other element stays. R238, R450: each word of the panel that was overwritten since the
operation was posted is the old or the new one. The panel of an operation is read when it is granted (assumptions 33 and 34). -/
def Obligations.MatrixTable : Prop :=
  (∀ (s : State) (o : Op) (fn : BitVec 3) (tile : BitVec 4) (off kv : Nat) (fm : BitVec 19) (m left : Mask) (rows : List Vec)
    (cls : BitVec 3) (fl : BitVec 8) (inTable : Bool),
    let cl := clusterAt o.place
    let x := s.clusterOf cl
    let kind := fun b => OpKind.matrix fn tile off kv fm m left rows cls fl b
    let mine := x.entries.filter fun e => e.place = o.place ∧ e.tile = tile
    let joins := fun e : MxEntry => e.granted = false ∧ fn ≠ 3 ∧ e.fn = fn ∧ e.off = off ∧ e.kv = kv ∧ e.fm = fm
      ∧ ∀ j ∈ octets m, j ∉ e.octets
    let entered : State := { s with ops := s.ops.map fun y => if y.id = o.id then { y with kind := kind true } else y }
    (s.findOp o.id = some o → o.kind = kind false → s.olderPosted o = false →
      ((∀ e, mine.getLast? = some e → ¬ joins e) → x.entries.length < 32 → exec (.entryCreation o.id) s = .next (entered.setCluster cl
        { x with entries := x.entries ++ [⟨o.place, fn, tile, off, kv, fm, [(o.id, m, rows)], cls, s.tick.toNat, false, 0⟩] }))
      ∧ ((∀ e, mine.getLast? = some e → ¬ joins e) → 32 ≤ x.entries.length → exec (.entryCreation o.id) s = .next s)
      ∧ ∀ e, mine.getLast? = some e → joins e →
          exec (.entryCreation o.id) s = .next (entered.setCluster cl
            { x with entries := x.entries.map fun y => if y = e then { e with parts := e.parts ++ [(o.id, m, rows)] } else y }))
    ∧ (∀ c : Cluster, (s.selectEntry c = none → exec (.arbiterGrant c) s = .next s)
      ∧ ∀ e, s.selectEntry c = some e →
        let cost : Int := if e.fn = 3 then 8 else 64
        ((s.clusterOf c).c < cost → exec (.arbiterGrant c) s = .next s)
        ∧ (cost ≤ (s.clusterOf c).c → ∃ t, exec (.arbiterGrant c) s = .next t ∧ t.mem = s.mem
            ∧ (t.clusterOf c).c = (s.clusterOf c).c - cost
            ∧ (t.clusterOf c).entries = (s.clusterOf c).entries.map fun y =>
              if y = e then { y with granted := true, grantedAt := s.tick.toNat } else y))
    ∧ (s.findOp o.id = some o → o.kind = kind inTable → o.place = s.w.place → s.w.life ≠ .empty →
      (left ≠ 0 → exec (.passCompletion o.id) s = .next s)
      ∧ (left = 0 → ∃ t, exec (.passCompletion o.id) s = .next t ∧ t.mem = s.mem
          ∧ (fn ≠ 3 → s.released o 0 t ∧ t.w.fstat = s.w.fstat ||| fl ∧ t.w.dirty = s.w.dirty ||| (1 <<< tile.toNat))
          ∧ (fn = 3 → t.w = s.w ∧ ∀ p ∈ t.ops, p.id ≠ o.id))))
  ∧ (∀ (p : PassShape) (fm : BitVec 19) (fn kv o : Nat) (m : Mask) (regs : List Vec) (g : Group) (t : Tile) (l n : Nat),
    l < 64 → n < 64 →
    let a := aOperand p (fmFtz fm) kv regs l
    let b := bOperand p (fmFtz fm) kv g o n
    let terms := (a.1.zip b.1).map fun x => passTerm (decide (fn = 2)) x.1 x.2
    let input := if fn = 1 then [] else [p.c.decode (fmFtz fm) (t.get l n).toNat]
    let tail := if kv < p.k then [Machine.Num.zero false] else []
    let sum := Num.sum false (terms.map Prod.fst ++ input ++ tail)
    (runPass p fm fn kv o m regs g t).1.get l n =
      if m.getLsbD l = true ∧ n < 32 then BitVec.ofNat 32 ((p.c.round 0 (fmSat fm) (fmFtz fm) 0 sum.1).1 % 2 ^ 32 % 2 ^ t.bits)
      else t.get l n)
  ∧ (∀ (s : State) (old : Cells (Option Word)), Cells.wf none old = true →
    (readPanel old s).2.abuf = s.wg.abuf
      ∧ ∀ k, (readPanel old s).2.wword k = s.wg.wword k ∨ old.get none k = some ((readPanel old s).2.wword k))

/-- R249, R258 to R261: the tile instructions that move no memory: configure, clear, drop, and reads and writes of a row or
column by lanes. A tile of shape 0 takes trap 0x07, an index beyond it trap 0x02. -/
def Obligations.TileElements : Prop :=
  ∀ (s : State) (c l : BitVec 4) (v : BitVec 7) (r : BitVec 6), s.accepts 22 [] false → s.passes (some c) = false →
    let t := s.w.tile c.toNat
    let x := s.w.s r.toNat
    let b := x.toNat % 256
    let legal := 1 ≤ b / 16 ∧ b / 16 ≤ 8 ∧ 8 * (b / 16) * (8 * (b % 8 + 1)) * (if b / 8 % 2 = 1 then 16 else 32) / 8 ≤ 8192
    let src := fun k => (s.w.src v.toNat 0).at k
    let wrote := fun t : Tile => (.next (({ s with w := s.w.wroteTile c t } : State).computed []) : Host.Outcome State Fault Refusal)
    (s.kernel.tiles ≤ c.toNat → exec (.tcfg c r) s = .next (s.trap 0x02 (c.zeroExtend 64)))
    ∧ (c.toNat < s.kernel.tiles → ¬ legal → exec (.tcfg c r) s = .next (s.trap 0x02 (BitVec.ofNat 64 b)))
    ∧ (c.toNat < s.kernel.tiles → legal → exec (.tcfg c r) s = wrote ⟨BitVec.ofNat 8 b, []⟩)
    ∧ (t.shape = 0 → exec (.tzero c) s = .next (s.trap 0x07 (c.zeroExtend 64)))
    ∧ (t.shape ≠ 0 → exec (.tzero c) s = wrote ⟨t.shape, []⟩)
    ∧ exec (.tdrop c) s = .next (({ s with w := { s.w.setTile c.toNat Tile.zero with
        dirty := s.w.dirty &&& ~~~ ((1 : BitVec 16) <<< c.toNat) } } : State).computed [])
    ∧ (s.destOk v.toNat 1 = true → s.pendingLanes v.toNat = false →
      ∀ f ∈ [(Instr.trow c v r l, t.rows, t.cols, fun k => t.get x.toNat k), (.tcol c v r l, t.cols, t.rows, fun k => t.get k x.toNat)],
        (s.w.em = 0 → exec f.1 s = .next (s.computed []))
        ∧ (s.w.em ≠ 0 → t.shape = 0 → exec f.1 s = .next (s.trap 0x07 (c.zeroExtend 64)))
        ∧ (s.w.em ≠ 0 → t.shape ≠ 0 → f.2.1 ≤ x.toNat → exec f.1 s = .next (s.trap 0x02 x))
        ∧ (s.w.em ≠ 0 → t.shape ≠ 0 → x.toNat < f.2.1 → exec f.1 s = .next (s.done (s.w.ran l.toNat .none
            [.v v.toNat s.w.em (Vec.ofFn fun k => if k < f.2.2.1 then f.2.2.2 k else 0)]) (s.w.pc + 4))))
    ∧ (s.srcOk v.toNat = true → s.UnitReady [] [v.toNat] [v.toNat] →
      ∀ f ∈ [(Instr.tsetr c v r, t.rows, t.cols, fun k => (x.toNat, k)), (.tsetc c v r, t.cols, t.rows, fun k => (k, x.toNat))],
        (s.w.em = 0 → exec f.1 s = .next (s.computed []))
        ∧ (s.w.em ≠ 0 → t.shape = 0 → exec f.1 s = .next (s.trap 0x07 (c.zeroExtend 64)))
        ∧ (s.w.em ≠ 0 → t.shape ≠ 0 → f.2.1 ≤ x.toNat → exec f.1 s = .next (s.trap 0x02 x))
        ∧ (s.w.em ≠ 0 → t.shape ≠ 0 → x.toNat < f.2.1 →
          let ls := (membersOf s.w.em).filter (· < f.2.2.1)
          let u := s.w.popped [v.toNat] 1
          let e := fun k => ((f.2.2.2 k).1, (f.2.2.2 k).2, src k)
          let w := if ls = [] then u else u.wroteTile c (t.puts (ls.map e))
          exec f.1 s = .next (({ s with w := w } : State).done (w.ran 0 .none []) (w.pc + 4))))

/-- R262, R263, R251: the tile instructions that move rows or the whole image between a tile and memory; `tld` and `tst` act on
the row of each lane of EM below the tile's rows, and take trap 0x04 at the lowest such row whose address is not a multiple of 16. -/
def Obligations.TileMemory : Prop :=
  ∀ (s s1 s2 : State) (c : BitVec 4) (v : BitVec 7) (r : BitVec 6) (fs : List (Nat × DWord × Found1)) (xs : List (Nat × Nat)),
    s.passes (some c) = false → (s.w.tile c.toNat).shape ≠ 0 → pagedOut fs = [] →
    let t := s.w.tile c.toNat
    let a := s.w.s r.toNat
    let fin := fun u : State => (.next (u.done (u.w.ran 0 .none []) (u.w.pc + 4)) : Host.Outcome State Fault Refusal)
    let row := fun k => a + ((s.w.src v.toNat 0).at k).zeroExtend 64
    let partsOf := fun m : Mask => ((membersOf m).filter (· < t.rows)).flatMap fun k =>
      (List.range (t.rowBytes / 16)).map fun i => (k, row k + BitVec.ofNat 64 (16 * i))
    let rowParts := partsOf (s.actingLanes s.w.em)
    let pop := fun u : State => ({ u with w := u.w.popped [v.toNat] 1 } : State)
    (s.UnitReady [] [v.toNat] [v.toNat] → s.srcOk v.toNat = true → s.w.em ≠ 0 → s.mayIssue (linesOf rowParts) →
      (∀ k, (((membersOf (s.actingLanes s.w.em)).filter (· < t.rows)).find? fun j => (row j).toNat % 16 ≠ 0) = some k →
        exec (.tld c v r) s = .next (s.trap 0x04 (row k)) ∧ exec (.tst c v r) s = .next (s.trap 0x04 (row k)))
      ∧ (s.memCheck rowParts 16 .read false = .ok (s1, fs) →
        s1.loadAll none 16 ((located fs).map fun x => (x.1, row x.1, x.2.2)) = .ok (s2, xs) →
        let rows := (xs.map Prod.fst).eraseDups
        exec (.tld c v r) s = fin (pop (if rows = [] then s2 else
          { s2 with w := s2.w.wroteTile c (t.puts (rows.flatMap fun k => t.rowOf k (joinParts xs k))) })))
      ∧ (s.memCheck rowParts 16 .write false = .ok (s1, fs) →
        s1.storeAll none (s1.doneRanges (partsOf (s.doneLanes s.w.em)) 16) ((located fs).map fun f =>
          (f.1, row f.1, f.2.2, ((t.rowImage f.1).drop (f.2.1 - row f.1).toNat).take 16)) = .ok s2 →
        exec (.tst c v r) s = fin (pop s2)))
    ∧ (s.accepts 22 [] false →
      let n := t.rows * t.rowBytes / 64
      let lines := (List.range n).map fun i => (i, a + BitVec.ofNat 64 (64 * i))
      (a.toNat % 64 ≠ 0 → exec (.tsave c r) s = .next (s.trap 0x04 a) ∧ exec (.tload c r) s = .next (s.trap 0x04 a))
      ∧ (a.toNat % 64 = 0 → s.mayIssue n →
        (s.memCheck lines 64 .write false = .ok (s1, fs) →
          s1.storeAll none [] ((located fs).map fun f => (f.1, f.2.1, f.2.2, (t.image.drop (64 * f.1)).take 64)) = .ok s2 →
          exec (.tsave c r) s = fin (if s.w.inh = true then
            { s2 with w := { s2.w.setTile c.toNat t with dirty := s2.w.dirty &&& ~~~ ((1 : BitVec 16) <<< c.toNat) } } else s2))
        ∧ (s.memCheck lines 64 .read false = .ok (s1, fs) → s1.loadAll none 64 (located fs) = .ok (s2, xs) →
          let img := xs.flatMap fun x => bytesOf 64 x.2
          let t' := t.puts ((List.range t.rows).flatMap fun i => t.rowOf i ((img.drop (i * t.rowBytes)).take t.rowBytes))
          exec (.tload c r) s = fin { s2 with w := if s.w.inh = true then
            { s2.w.setTile c.toNat t' with dirty := s2.w.dirty &&& ~~~ ((1 : BitVec 16) <<< c.toNat) } else s2.w.wroteTile c t' })))

/-- R361 to R364, R369, R371: a copy instruction checks its operands and leaves one charged operation with the operands as read at
issue. R365, R369 to R371, R364: a copy ends with its transfer performed and the errors that it met in its counter; one into an
allotment that meets no failing page gives every byte of its range the byte read. An `mlr` with a failing member writes nothing; else
word j of its result is the sum of R369 over the members' BF16 elements j, P0 of members 0 and 1 and P1 of 2 and 3, each addition
rounded once to FP32. A transfer with a request that waits for a link, a port or a ticket is not done, and one whose writes a port
holds ends when the port has sent them. That a copy reads and writes in the step of its completion is the model's choice (assumption
34). -/
def Obligations.Copies : Prop :=
  (∀ (s : State) (n : BitVec 4) (d a b : BitVec 6), s.copyLoad < 48 → (s.w.counter n.toNat).cnt ≠ BitVec.allOnes 16 →
    let D := s.w.s d.toNat
    let A := s.w.s a.toNat
    let B := s.w.s b.toNat
    let mod := s.w.hintMod.getD 0
    let go := fun k : OpKind => (.next (((s.charged n k).send [0]).computed []) : Host.Outcome State Fault Refusal)
    let trap := fun (c : BitVec 8) v => (.next (s.trap c v) : Host.Outcome State Fault Refusal)
    (s.accepts 22 [] false → exec (.cpy n d a b) s = if B.toNat < 2 ^ 32 then go (.copy 0 D A B mod) else trap 0x02 0)
    ∧ (s.accepts 22 [4] false → exec (.cpy2d n d a b) s =
        if s.w.hintMod.isSome ∧ 1 ≤ B.toNat % 2 ^ 32 ∧ B.toNat % 2 ^ 32 ≤ 2 ^ 20 ∧ 1 ≤ B.toNat / 2 ^ 32 % 2 ^ 16 ∧ B.toNat < 2 ^ 48
        then go (.copy 1 D A B mod) else trap 0x02 0)
    ∧ (s.accepts 22 [] false → ∀ f ∈ [(Instr.cpyw n d a b, 4, s.wg.wlen, D, A), (.cpya n d a b, 5, s.wg.alen, D, A),
        (.cpyo n d a b, 6, s.wg.alen, A, D)],
        exec f.1 s =
          if B.toNat % 4 ≠ 0 ∨ f.2.2.1 < B.toNat then trap 0x02 0
          else if f.2.2.2.1.toNat % 4 ≠ 0 then trap 0x04 f.2.2.2.1
          else if f.2.2.2.2.toNat % 4 ≠ 0 then trap 0x04 f.2.2.2.2
          else if f.2.2.1 < f.2.2.2.1.toNat + B.toNat then trap 0x0B f.2.2.2.1
          else go (.copy f.2.1 D A B mod))
    ∧ (s.accepts 22 [] false → ∀ f ∈ [(Instr.mlr n d a b, false, 32, 2048), (.mst n d a b, true, 64, 65536)],
        let c := B.toNat % 2 ^ 32
        let g := s.w.grp.get 0 (B.toNat / 2 ^ 32 % 8)
        exec f.1 s =
          if c % f.2.2.1 ≠ 0 ∨ c < f.2.2.1 ∨ f.2.2.2 < c ∨ 2 ^ 35 ≤ B.toNat ∨ g.toNat / 2 ^ 32 % 16 = 0 then trap 0x02 0
          else if A.toNat % 64 ≠ 0 then trap 0x04 A
          else if D.toNat % 64 ≠ 0 then trap 0x04 D
          else go (.multi f.2.1 D A B g)))
  ∧ (∀ (s : State) (o : Op) (d a b g : DWord) (fn : Nat) (mod : BitVec 22),
    s.findOp o.id = some o → o.place = s.w.place → s.w.life ≠ .empty →
    let held := fun t : State => t.heldBy (fun x => x = .op o.id)
    (∀ x, (o.kind = .copy fn d a b mod ∧ runCopy o.id fn d a b mod s = x) ∨ (o.kind = .multi true d a b g ∧ runMst o.id d a b g s = x) →
      x.s.w = s.w →
      (x.wait = false → held x.s = [] →
        ∃ t, exec (.copyCompletion o.id) s = .next t ∧ t.mem = x.s.mem ∧ t.wg = x.s.wg ∧ s.released o x.err t)
      ∧ (x.wait = false → held x.s ≠ [] →
        ∃ t, exec (.copyCompletion o.id) s = .next t ∧ t.mem = x.s.mem ∧ t.wg = x.s.wg ∧ t.w.counters = s.w.counters
          ∧ ∃ p ∈ t.ops, p.id = o.id ∧ ∃ m, p.kind = .posted m)
      ∧ (x.wait = true → ∃ t, exec (.copyCompletion o.id) s = .next t ∧ t.mem = s.mem ∧ t.ops = s.ops ∧ t.w = s.w))
    ∧ (∀ m, o.kind = .posted m →
        (held s ≠ [] → exec (.copyCompletion o.id) s = .next s)
        ∧ (held s = [] → ∃ t, exec (.copyCompletion o.id) s = .next t ∧ t.mem = s.mem ∧ s.released o 0 t))
    ∧ (∀ x bs, fn = 4 ∨ fn = 5 → Xfer.readParts (linesFrom a b.toNat) { s := s, op := o.id } = (x, bs) → x.failed = false →
        ∀ y, runCopy o.id fn d a b mod s = y → bs.length = b.toNat ∧ y.s.mem = x.s.mem ∧ y.err = x.err ∧ y.wait = x.wait
          ∧ ∀ u i, y.s.wg.buf u i =
            if u.toNat = 5 - fn then (if d.toNat ≤ i ∧ i < d.toNat + b.toNat then bs.getD (i - d.toNat) 0 else x.s.wg.buf u i)
            else x.s.wg.buf u i)
    ∧ (o.kind = .multi false d a b g →
      let n := b.toNat % 2 ^ 32
      let m := Xfer.members g a (2 * n) (groupMembers g) { s := s, op := o.id }
      let p := Xfer.place ((parts 64 (4 * n) d).map fun p => (p, 64)) m.1
      let y := Xfer.writeParts none p.2 (mlrBytes n m.2) 0 p.1
      (m.1.err ≠ 0 ∨ p.1.failed = true → p.1.wait = false → p.1.s.w = s.w → held p.1.s = [] →
        ∃ t, exec (.mlrCompletion o.id) s = .next t ∧ t.mem = p.1.s.mem
          ∧ s.released o (m.1.err ||| if p.1.failed = true then 4 else 0) t)
      ∧ (m.1.err = 0 → p.1.failed = false → y.wait = false → y.s.w = s.w → held y.s = [] →
        ∃ t, exec (.mlrCompletion o.id) s = .next t ∧ t.mem = y.s.mem ∧ s.released o y.err t)))
  ∧ (∀ (n j : Nat) (xs : List (Nat × List Byte)), j < n →
    let v := fun m => (xs.find? fun x => x.1 = m).map fun x => Fmt.decode .bf16 false (ofBytes ((x.2.drop (2 * j)).take 2))
    let rounded := fun a b => (Fmt.round .f32 0 false false 0 (Num.sum false [a, b]).1).1
    let word := fun x => (Fmt.round .f32 0 false false 0 x).1
    let pair := fun a b => match v a, v b with
      | some x, some y => some (Fmt.decode .f32 false (rounded x y)) | some x, none => some x | none, y => y
    ((mlrBytes n xs).drop (4 * j)).take 4 = bytesOf 4 (match pair 0 1, pair 2 3 with
      | some p, some q => rounded p q | some p, none => word p | none, some q => word q | none, none => 0))

/-! Events of the device. -/

/-- R389, R391, R395: the distributor takes the oldest record that was handed on: a queue that is disabled or owned by another
stall refuses it with status 0x07 and no sequence number, a full one with 0x08, a malformed record with 0x04; otherwise it is
accepted at the tail with the queue's next sequence number. R392, R394: the kernel object of the launch at the head of a queue:
a header that breaks a rule ends the launch with 0x05, one that cannot be read with 0x06, one that can never fit with 0x03;
otherwise the launch runs the kernel that the header gives. -/
def Obligations.LaunchesAreRead : Prop :=
  (∀ (s : State) (ld : BitVec 2),
    let d := s.ldOf ld.toNat
    (d.handed = [] → exec (.launchRecord ld) s = .next s)
    ∧ ∀ h rest, d.handed = h :: rest →
      let r := recordOf h.words
      let q := s.queueOf ld.toNat r.queue.toNat
      let s0 := s.setLd ld.toNat { d with handed := rest }
      let s1 := s0.setQueueOf ld.toNat r.queue.toNat { q with nextSeq := q.nextSeq + 1 }
      let queued := s.allLaunches.countP fun l => l.ld = ld ∧ l.record.queue = r.queue
      let malformed := (h.words.getD 1 0).toNat / 2 ^ 48 ≠ 0 ∨ (h.words.getD 2 0).toNat / 2 ^ 41 ≠ 0
        ∨ (h.words.getD 0 0).toNat % 256 ≠ 0 ∨ (h.words.getD 7 0).toNat % 8 ≠ 0
      (q.en = false ∨ q.owner ≠ h.writer → exec (.launchRecord ld) s = .next (s0.refuse ld.toNat h 0xFFFF_FFFF 0x07))
      ∧ (q.en = true → q.owner = h.writer →
        (32 ≤ queued → exec (.launchRecord ld) s = .next (s1.refuse ld.toNat h q.nextSeq 0x08))
        ∧ (queued < 32 → malformed → exec (.launchRecord ld) s = .next (s1.refuse ld.toNat h q.nextSeq 0x04))
        ∧ (queued < 32 → ¬ malformed →
          let s2 := s1.setLd ld.toNat { s1.ldOf ld.toNat with accepted := d.accepted + 1 }
          let l := { Launch.none with
            ld := ld, record := r, seq := q.nextSeq, writer := h.writer, col := h.col, order := 4 * (d.accepted + 1) + ld.toNat }
          exec (.launchRecord ld) s = .next ({ s2 with launches := s2.launches ++ [l] } : State).complete)))
  ∧ (∀ (s s1 : State) (ld : BitVec 2) (q : BitVec 6) (l : Launch) (w : List Nat),
    (s.headOf ld.toNat q.toNat = none → exec (.kernelObjectRead ld q) s = .next s)
    ∧ (s.headOf ld.toNat q.toNat = some l → l.record.n ≠ 0 → l.kernel = none → l.ending = none →
      let read := State.readFors l.ld.toNat l.col.toNat l.writer.toNat 32 l.record.kobj s
      (read = (s1, .error true) → exec (.kernelObjectRead ld q) s = .next s1)
      ∧ (read = (s1, .error false) → exec (.kernelObjectRead ld q) s = .next (s1.endNow l 0x06))
      ∧ (read = (s1, .ok w) →
        let k := kernelOf l.record.kobj w
        let never := neverFits k (s.queueOf l.ld.toNat l.record.queue.toNat)
        (badObject w = true → exec (.kernelObjectRead ld q) s = .next (s1.endNow l 0x05))
        ∧ (badObject w = false → variants w ≠ 0 → variantFor w l.record.shape0.toNat = none →
            exec (.kernelObjectRead ld q) s = .next (s1.endNow l 0x02))
        ∧ (badObject w = false → variants w = 0 → never = true → exec (.kernelObjectRead ld q) s = .next (s1.endNow l 0x03))
        ∧ (badObject w = false → variants w = 0 → never = false →
            exec (.kernelObjectRead ld q) s = .next (s1.setLaunch { l with kernel := some k })))))

/-- R398 to R401, R410, R411: a new gang takes a place with one workgroup on each of its cores, each with the next free save
block and its buffers clear; with no work to place the distributor only looks at the item counters and at what it pre-empts. A restored
gang reads its
save blocks; a queue without a handler ends the launch with FAULTED, a failing read with SAVEFAULT. The free save block, the
cores and the work that the distributor chooses are the model's (assumptions 18, 49 and 77). -/
def Obligations.GangsArePlaced : Prop :=
  ∀ (s s1 : State) (ld : BitVec 2) (l : Launch) (k : Kernel) (col : Nat) (cores : List Nat) (gang : BitVec 32),
    let s0 := (s.observeDrain ld.toNat).preemptFor ld.toNat
    let r0 := s.preemptFor ld.toNat
    let q := s.queueOf ld.toNat l.record.queue.toNat
    (s0.work ld.toNat = [] → exec (.gangPlacement ld) s = .next s0)
    ∧ (s0.nextWork ld.toNat = some (.fresh l, col, cores) → l.kernel = some k →
      ∃ t gs, exec (.gangPlacement ld) s = .next t ∧ t.mem = s.mem ∧ t.w = s0.w ∧ t.groups = s.groups ++ gs ∧ gs.length = cores.length
        ∧ ∀ i (h : i < gs.length), gs[i].core = BitVec.ofNat 3 (cores.getD i 0) ∧ gs[i].col = BitVec.ofNat 6 col
          ∧ gs[i].key = ⟨l.ld, l.record.queue, BitVec.ofNat 32 l.gangs, BitVec.ofNat 3 i⟩ ∧ gs[i].seq = l.seq
          ∧ gs[i].block = (s0.freeBlocks l.ld.toNat l.record.queue.toNat).getD i 0 ∧ gs[i].warps = k.warps ∧ gs[i].stage = 0
          ∧ gs[i].saved = false ∧ gs[i].abuf = [] ∧ gs[i].wbuf = [] ∧ gs[i].barriers = [] ∧ gs[i].retired = 0
          ∧ gs[i].alen = k.abuf ∧ gs[i].wlen = k.wbuf)
    ∧ (r0.nextWork ld.toNat = some (.restore l gang, col, cores) → l.kernel = some k →
      let go := State.restoreGroups l k q col ((r0.gangGroups l gang).zip cores) r0
      (q.tvec = 0 → exec (.gangRestore ld) s = .next (r0.endNow l 0x09))
      ∧ (q.tvec ≠ 0 → go = (s1, .error true) → exec (.gangRestore ld) s = .next r0)
      ∧ (q.tvec ≠ 0 → go = (s1, .error false) → exec (.gangRestore ld) s = .next (s1.endNow l 0x0B))
      ∧ (q.tvec ≠ 0 → go = (s1, .ok ()) →
        ∃ t, exec (.gangRestore ld) s = .next t ∧ t.mem = s1.mem ∧ t.groups = s1.groups ∧ t.warps = s1.warps))

/-- R397, R404, R410: the early end of a queue's current launch, CANCEL and SUSPEND of a queue, and the expiry of its slice,
which pre-empts a launch that holds a place when another of its priority or a higher one waits. A pre-emption withdraws the fault
entries of its parked warps that are not yet posted (R358). Which launch a slice pre-empts
in favour of is the model's reading (assumption 49). -/
def Obligations.QueueControl : Prop :=
  ∀ (s : State) (ld : BitVec 2) (q : BitVec 6) (st : BitVec 8) (l : Launch),
    let x := s.queueOf ld.toNat q.toNat
    let marked := fun (l : Launch) (w : Warp) =>
      if ((s.groupsOf l).map Group.key).contains w.key ∧ (w.life = .run ∨ w.life = .start) then { w with preempt := true } else w
    (s.headOf ld.toNat q.toNat = none → exec (.earlyEnd ld q st) s = .next s ∧ exec (.timeSliceExpiry ld q) s = .next s)
    ∧ (s.headOf ld.toNat q.toNat = some l →
      exec (.earlyEnd ld q st) s = .next (s.endLaunch l.ld l.record.queue l.seq st).complete
      ∧ (s.resident l = false ∨ x.slice = 0 ∨ s.hasHandler l = false →
        exec (.timeSliceExpiry ld q) s = .next (s.setLaunch { l with timer := 0 }))
      ∧ ∀ m ∈ s.allLaunches, m.ld = ld → m.order ≠ l.order → l.record.prio.toNat ≤ m.record.prio.toNat → s.waitsUnfit m = true →
          s.resident l = true → x.slice ≠ 0 → s.hasHandler l = true → l.ending = none →
          ∃ t, exec (.timeSliceExpiry ld q) s = .next t ∧ t.warps = s.warps.map (marked l) ∧ t.mem = s.mem)
    ∧ ((∀ m ∈ s.allLaunches, m.ld ≠ ld ∨ m.record.queue ≠ q) → exec (.queueCancel ld q) s = .next s)
    ∧ ((∃ m ∈ s.allLaunches, m.ld = ld ∧ m.record.queue = q) →
      exec (.queueCancel ld q) s = .next
        (((s.allLaunches.filter fun m => m.ld = ld ∧ m.record.queue = q).foldl
          (fun s m => s.endLaunch m.ld m.record.queue m.seq 0x0A)
          ((s.setQueueOf ld.toNat q.toNat { x with cancel := true }).mapLaunches fun m =>
            if m.ld = ld ∧ m.record.queue = q then { m with cancelled := true } else m)).complete))
    ∧ ∃ t, exec (.queueSuspend ld q) s = .next t ∧ t.queueOf ld.toNat q.toNat = { x with suspend := true } ∧ t.mem = s.mem
        ∧ (s.headOf ld.toNat q.toNat = some l → s.hasHandler l = true → l.ending = none → t.warps = s.warps.map (marked l)
            ∧ ∀ f ∈ (t.ldOf l.ld.toNat).heldFaults, f ∈ (s.ldOf l.ld.toNat).heldFaults
              ∧ ∀ w ∈ s.allWarps, w.place = f.place → ((s.groupsOf l).map Group.key).contains w.key = true → w.inh = true)
        ∧ (s.headOf ld.toNat q.toNat = none → t.warps = s.warps)

/-- R198, R318, R412, R414, R415: the oldest report of a warp is a trap of its own; a warp of a pre-empted launch takes trap 0x0D
at its boundary, once its tagged sends are acknowledged and unless its cluster changes its rate (R429), or carries the request inside a
handler; a workgroup whose warps have all
vacated is written to its save block and leaves its core, a failing write ends its launch with SAVEFAULT, and one that waits for a
link leaves the save for later. A workgroup is saved in one step (assumption 37). -/
def Obligations.PreemptionAndSave : Prop :=
  ∀ (s s1 : State) (r : Report) (rest : List Report) (g : Group) (l : Launch),
    let entered := fun (w : Warp) (c : BitVec 8) (v : DWord) (e : BitVec 48) => { w.commitAll with
      hints := [], badHint := none, latch := none, park := .none, left := w.left.filter fun x => ! x.inh, tcause := c, tval := v, epc := e
      inh := true, pre := decide (c = 0x0D), rst := false, abort := false, dh := s.w.depth, crpcSaved := s.w.crpc, pc := s.w.tvec
      issued := s.w.issued + 1 }
    (s.w.inh = true ∨ s.w.reports = [] → exec .asyncReportTrap s = .next s)
    ∧ (s.w.inh = false → s.w.tvec ≠ 0 → s.w.reports = r :: rest →
      exec .asyncReportTrap s = .next { s with w := entered { s.w with reports := rest } r.cause r.tval s.w.unitPc })
    ∧ (s.w.life = .run → s.w.inh = false → s.w.tvec ≠ 0 → s.w.fence = none → s.w.casm = none → s.w.hints = [] → s.w.badHint = none →
      s.w.park = .none → s.w.arrived = false → s.strongHeld = false → (s.clusterOf (clusterAt s.w.place)).changing = false →
      exec (.preemption s.w.place) s = .next { s.withdraw s.w.place with
        w := entered { s.w with preempt := false, left := (s.w.left.find? s.w.ownsLeft).toList } 0x0D 0 s.w.pc })
    ∧ (s.w.life = .run → s.w.inh = true → exec (.preemption s.w.place) s = .next { s with w := { s.w with preempt := true } })
    ∧ (s.w.life = .retired → exec (.preemption s.w.place) s = .next s)
    ∧ ((s.allGroups.find? fun h => h.key = g.key) = some g →
      let put := State.putFors g.key.ld.toNat g.col.toNat (s.queueOf g.key.ld.toNat g.key.queue.toNat).owner.toNat
        (blockAddr (s.queueOf g.key.ld.toNat g.key.queue.toNat) g.block) (s.saveWords g) s
      (s.vacated g = false → exec (.workgroupSave g.key) s = .next s)
      ∧ (s.vacated g = true → s.launchOf g = some l → put = (s1, .error false) → exec (.workgroupSave g.key) s = .next (s1.endNow l 0x0B))
      ∧ (s.vacated g = true → s.launchOf g = some l → put = (s1, .error true) → exec (.workgroupSave g.key) s = .next s)
      ∧ (s.vacated g = true → s.launchOf g = some l → put = (s1, .ok ()) →
        ∃ t, exec (.workgroupSave g.key) s = .next t ∧ t.mem = s1.mem ∧ (∀ w ∈ t.warps, w.key ≠ g.key)
          ∧ ∀ h ∈ t.groups, h.key = g.key → h.saved = true ∧ h.abuf = [] ∧ h.wbuf = []))

/-- R325, R328: a hart's store performed at the home of a plain line changes the stored bytes, and one of 8 bytes can be a command; a
store of column scope reaches the home in the same step. R328, R329, R388: a hart that owns a line writes into its own caches, and
what it has written reaches the home when it is cleaned or flushed; a launch line that it cleans hands its record on. R324, R328,
R330, R334, R336: a read at the home, whose check corrects or poisons it, a hart's request for ownership, tickets, the eviction of
a directory entry, and the parity alerts of a channel, of which the fifth on one command marks it failed and raises REPLACE. A hart
whose access is not allowed takes an access fault (R19), and one that waits for an acknowledgement does nothing until it has come
(R338). The programs of the harts, and the translation and PMP that allow an access, are input (assumption 16). One order of all
accesses, with no old copy in any cache, and an event that waits coming again, are the model's choices (assumptions 14, 15, 75). -/
def Obligations.HomeEvents : Prop :=
  (∀ (s : State) (h : HartId) (pa : BitVec 56) (data : List Byte) (ld : Nat) (allow : Bool) (op : HartOp),
    let a := pa.toNat
    let line := a / 64
    let ag := Agent.hart h
    let others := fun t : State => t.hartLines.filter fun x => ! decide (x.line = line)
    (s.hartUp h = false →
      exec (.storeAtHome ⟨h, allow, pa⟩ data) s = .next s ∧ exec (.hartOwnershipRequest ⟨h, allow, pa⟩ op) s = .next s)
    ∧ (s.hartUp h = true → s.acked (.hart h) = false → exec (.storeAtHome ⟨h, allow, pa⟩ data) s = .next { s with again := true }
      ∧ exec (.hartOwnershipRequest ⟨h, allow, pa⟩ op) s = .next { s with again := true })
    ∧ (s.hartUp h = true → s.acked (.hart h) = true →
      exec (.hartOwnershipRequest ⟨h, false, pa⟩ op) s = .next (s.hartExc h .storeAccessFault)
      ∧ (data ≠ [] → a % 64 + data.length ≤ 64 →
        exec (.storeAtHome ⟨h, false, pa⟩ data) s = .next (s.hartExc h .storeAccessFault)))
    ∧ (∀ l c, s.PlainLine ⟨l.toNat, .device, some (.slice l c), some 3, 0⟩ (homeLoc ld a) ld → a % 64 + data.length ≤ 64 →
      exec (.columnScopeStore l c pa data) s = .next (s.poke a data))
    ∧ (s.hartUp h = true → s.acked (.hart h) = true → data ≠ [] → a % 64 + data.length ≤ 64 → s.PlainLine ag (s.hartLoc h a) ld →
      exec (.storeAtHome ⟨h, true, pa⟩ data) s = .next
        (if data.length = 8 ∧ a % 8 = 0 then (s.poke a data).strong8 a (ofBytes data) else s.poke a data))
    ∧ (s.hartUp h = true → s.acked (.hart h) = true → s.PlainLine ag (s.hartLoc h a) ld → (s.hartLines.countP fun x => x.hart = h) < 17408 →
      let owned := fun d : Cells Byte =>
        { s with hartLines := ⟨h, line, true, d⟩ :: s.hartLines, copies := s.copies.filter fun c => c.line ≠ line }
      exec (.hartOwnershipRequest ⟨h, true, pa⟩ .own) s = .next (owned [])
      ∧ ∀ v : Byte, (s.hartLines.countP fun x => x.hart = h ∧ x.dirty ≠ []) < 256 →
          exec (.hartOwnershipRequest ⟨h, true, pa⟩ (.store [v])) s = .next (owned [(a, v)]))
    ∧ (s.hartUp h = true → s.acked (.hart h) = true → s.linkWaits h.ld.toNat ld line = false →
      s.online a = true → (s.ldOf ld).baseReset = false → paKind s.vxpkg.toNat a = .mem ld →
      launchLine (64 * line) = none →
      (∀ v : Byte, s.hartLines = ⟨h, line, true, [(a, v)]⟩ :: others s → s.unreachable h.ld.toNat ld = false →
        (∃ t, exec (.hartOwnershipRequest ⟨h, true, pa⟩ .clean) s = .next t ∧ t.mem = (s.poke a [v]).mem
          ∧ t.hartLines = ⟨h, line, false, []⟩ :: others s)
        ∧ ∃ t, exec (.hartOwnershipRequest ⟨h, true, pa⟩ .flush) s = .next t ∧ exec (.hartOwnershipRequest ⟨h, true, pa⟩ .inval) s = .next t
          ∧ t.mem = (s.poke a [v]).mem ∧ t.hartLines = others s))
    ∧ ∀ n c, s.hartUp h = true → s.acked (.hart h) = true → s.PlainLine ag (s.hartLoc h (64 * line)) ld → launchLine (64 * line) = some (n, c) →
        (s.ldOf n).day = true → (s.ldOf n).homes.getLsbD c = true → (s.colOf n c).hartLost = false →
        let words := (List.range 8).map fun i => BitVec.ofNat 64 (s.valueAt (64 * line + 8 * i) 8)
        ∃ t, exec (.hartOwnershipRequest ⟨h, true, pa⟩ .flush) s = .next t ∧ (∀ x, t.byteAt x = s.byteAt x)
          ∧ (t.ldOf n).handed = (s.ldOf n).handed ++ [⟨words, (s.colOf h.ld.toNat h.col.toNat).vxstall, BitVec.ofNat 6 c⟩])
  ∧ (∀ (s : State) (pa : BitVec 56) (ld : BitVec 2) (h : HartId) (n : BitVec 6) (p : Place) (ch : BitVec 9) (again : Bool)
    (errs : List (BitVec 8 × BitVec 8)) (port : ReqPort) (tag : Nat),
    let a := pa.toNat
    let line := a / 64
    let d := s.ldOf ld.toNat
    let col := s.colOf ld.toNat n.toNat
    let slice := col.slice
    let u := s.addErrors a errs
    (s.PlainLine ⟨portLd n.toNat, .device, some (.link n), some 6, 0⟩ (homeLoc ld.toNat a) ld.toNat →
      exec (.readAtHome (.port n) pa []) s = .next s)
    ∧ (s.hartUp h = true → s.acked (.hart h) = true → s.PlainLine (Agent.hart h) (s.hartLoc h a) ld.toNat →
      (s.hartLines.countP fun x => x.hart = h) < 17408 →
      ∀ k : BitVec 7, 1 ≤ k.toNat → a % 64 + k.toNat ≤ 64 →
        exec (.readAtHome (.hart h k true) pa []) s = .next
          { s.setCol h.ld.toNat h.col.toNat { s.colOf h.ld.toNat h.col.toNat with got := bytesOf k.toNat (s.valueAt a k.toNat) } with
            hartLines := ⟨h, line, false, []⟩ :: s.hartLines })
    ∧ (p = s.w.place → s.w.life ≠ .empty → s.again = false → s.PlainLine (s.me none) (homeLoc ld.toNat a) ld.toNat → u.crcFails line = true →
      (u.badBytes line 0 ≤ 4 → u.badBytes line 1 ≤ 4 →
        ∃ t, exec (.readAtHome (.warp p) pa errs) s = .next t ∧ t.mem = s.mem ∧ (∀ f ∈ t.flips, f.1 / 256 ≠ line / 4)
          ∧ t.w = { s.w with mstat := s.w.mstat ||| 8 } ∧ (t.ldOf ld.toNat).memerr = addMemerr d.memerr 48)
      ∧ (4 < u.badBytes line 0 ∨ 4 < u.badBytes line 1 →
        ∃ t, exec (.readAtHome (.warp p) pa errs) s = .next t ∧ t.mem = s.mem ∧ line ∈ t.poison))
    ∧ (s.hartUp h = true → s.acked (.hart h) = true → s.homeOf a = some ld.toNat →
      s.reach (Agent.hart h) ld.toNat line = .ok () → s.bad line = false →
      (∀ f ∈ s.flips, f.1 / 64 ≠ line) → (∀ x ∈ s.hartLines, x.hart = h → x.line = line → x.owned = false) →
      ∃ t, exec (.hartOwnershipRequest ⟨h, true, pa⟩ .own) s = .next t ∧ (∃ x ∈ t.hartLines, x.hart = h ∧ x.line = line)
        ∧ (∀ x ∈ t.hartLines, x.line = line → x.hart = h ∧ x.owned = true) ∧ ∀ c ∈ t.copies, c.line ≠ line)
    ∧ (let put := fun y : Slice => s.setCol ld.toNat n.toNat { col with slice := y }
      let ticket := fun (act : TicketStep) => exec (.ticketedRequest ⟨ld, n⟩ ⟨port, tag, act⟩) s
      (d.baseReset = true → ∀ act, ticket act = .next s)
      ∧ (d.baseReset = false → col.hartLost = false → d.homes.getLsbD n.toNat = true →
        let req := ReqId.outside port tag
        let mine := ∃ t ∈ slice.tickets, t.req.port = port
        (mine → ticket .arrive = .next s)
        ∧ (¬ mine → slice.busy < 448 → ticket .arrive = .next (put { slice with busy := slice.busy + 1 }))
        ∧ (¬ mine → 448 ≤ slice.busy → ∃ t, ticket .arrive = .next t
            ∧ (t.colOf ld.toNat n.toNat).slice = { slice with
                nextTicket := slice.nextTicket + 1, tickets := slice.tickets ++ [⟨slice.nextTicket, req⟩] }
            ∧ (t.ldOf ld.toNat).memerr = addMemerr d.memerr 0)
        ∧ (slice.busy < 448 → (∃ k r, slice.tickets = ⟨k, req⟩ :: r) → ticket .again = .next
            (put { slice with busy := slice.busy + 1, tickets := slice.tickets.filter fun t => t.req ≠ req }))
        ∧ ((∀ t, slice.tickets.head? = some t → t.req ≠ req) ∨ 448 ≤ slice.busy → ticket .again = .next s)
        ∧ ticket .done = .next (put { slice with busy := slice.busy - 1 })))
    ∧ exec (.directoryEviction pa) s = .next { s with
        copies := s.copies.filter fun c => ! decide (c.line = line)
          || (decide (c.ld.toNat = line * 64 / 2 ^ 38) && decide (c.col.toNat = s.homeCol line)) }
    ∧ let x := d.channels.get (0, false) ch.toNat
      let k := if again then x.1 + 1 else 1
      (x.2 = true → exec (.parityAlert ld ch again) s = .next s)
      ∧ (x.2 = false → ∃ t, exec (.parityAlert ld ch again) s = .next t ∧ t.mem = s.mem
          ∧ (t.ldOf ld.toNat).channels.get (0, false) ch.toNat = (k, decide (5 ≤ k))
          ∧ (5 ≤ k → (t.ldOf ld.toNat).replace = true) ∧ (k < 5 → (t.ldOf ld.toNat).memerr = addMemerr d.memerr 16)))

/-- R354 to R356: a warp that meets a page fault parks at its unit when the stall's ring can be used, and its entry is held for the
ring; otherwise it takes trap 0x05 with the address. R355 to R358: an entry that the ring has room for is written with its number,
then PROD; a store to CONS makes room; a command that matches the waiting warp is marked in it, and a warp that obeys one is ready
after Retry and takes trap 0x05 after Abort, while a pre-emption that is pending comes first and leaves the command unmatched; a
command that matches no waiting warp counts in DROPS. An entry takes its number when it is posted (assumption 26), and a resume
command finds its warp by stall and number (assumption 52). -/
def Obligations.PageFaults : Prop :=
  (∀ (s : State) (va : DWord) (acc : Access) (st : BitVec 2) (g : Nat) (m : Mask),
    let t := s.pageFault va acc st g m
    let ld := s.w.place.ld.toNat
    s.hartLines = [] → s.flips = [] →
    (s.stallRec ld (s.stallOf s.w) = none → s.w.inh = false → s.w.tvec ≠ 0 →
      t.w.pc = s.w.tvec ∧ t.w.tcause = 0x05 ∧ t.w.tval = va ∧ t.mem = s.mem)
    ∧ ∀ r, s.stallRec ld (s.stallOf s.w) = some r → s.online (r.2.2.1 / 4096 % 2 ^ 44 * 4096) = true →
        s.bad (r.2.2.1 / 4096 % 2 ^ 44 * 64) = false →
        t.w.park = .fault ⟨none, acc, st, va, BitVec.ofNat 59 g, m, none⟩ ∧ t.w.pc = s.w.unitPc ∧ t.w.windows = []
          ∧ (t.ldOf ld).heldFaults = (s.ldOf ld).heldFaults ++ [⟨s.w.place, s.stallOf s.w⟩] ∧ t.mem = s.mem)
  ∧ (∀ (s : State) (ld : BitVec 2) (st : BitVec 10) (b log : Nat) (i : FaultInfo) (v : DWord) (fnum : BitVec 16) (p : Place),
    s.hartLines = [] → s.flips = [] → s.ring ld.toNat st.toNat = some (b, log) →
    (∀ x, b ≤ x → x < b + 64 + 32 * 2 ^ log → s.bad (x / 64) = false ∧ s.online x = true) →
    let d := s.ldOf ld.toNat
    (s.postable ld.toNat = none → exec (.faultPost ld) s = .next s)
    ∧ (d.heldFaults = [⟨s.w.place, st.toNat⟩] → s.ringRoom ld.toNat st.toNat = true → s.w.life ≠ .empty → s.w.park = .fault i →
      let n := s.valueAt b 8
      let a := b + 64 + 32 * (n % 2 ^ log)
      ∃ t, exec (.faultPost ld) s = .next t ∧ t.valueAt b 8 = (n + 1) % 2 ^ 64 ∧ t.valueAt a 8 = faultWord d.fnum i st.toNat s.w.place
        ∧ t.valueAt (a + 8) 8 = i.va.toNat ∧ t.valueAt (a + 16) 8 = i.gpa.toNat ∧ t.valueAt (a + 24) 8 = i.lanes.toNat
        ∧ t.w = { s.w with park := .fault { i with fnum := some d.fnum } } ∧ (t.ldOf ld.toNat).fnum = d.fnum + 1
        ∧ (t.ldOf ld.toNat).heldFaults = [])
    ∧ (d.heldFaults = [] → exec (.consStore ld st v) s = .next (s.poke (b + 8) (bytesOf 8 v.toNat)))
    ∧ (p.ld = ld → p = s.w.place → s.w.life ≠ .empty → s.stallOf s.w = st.toNat → s.w.park = .fault i → i.fnum = some fnum →
      i.cmd = none → (s.w.preempt = false ∨ s.w.inh = true) →
      (∃ t, exec (.resumeRetry ld st fnum p) s = .next t ∧ t.w = { s.w with park := .fault { i with cmd := some false } }
        ∧ t.mem = (s.poke (b + 16) (bytesOf 8 (commandWord 0 fnum p))).mem)
      ∧ ∃ t, exec (.resumeAbort ld st fnum p) s = .next t ∧ t.w = { s.w with park := .fault { i with cmd := some true } }
        ∧ t.mem = (s.poke (b + 16) (bytesOf 8 (commandWord 1 fnum p))).mem)
    ∧ (∀ abort, s.w.park = .fault i → i.cmd = some abort →
      (s.w.preempt = false ∨ s.w.inh = true →
        (abort = false → s.obey = { s with w := { s.w with park := .none } })
        ∧ (abort = true → s.w.inh = false → s.w.tvec ≠ 0 → s.obey.w.park = .none ∧ s.obey.w.tcause = 0x05 ∧ s.obey.w.tval = i.va
            ∧ s.obey.w.epc = s.w.unitPc ∧ s.obey.w.pc = s.w.tvec ∧ s.obey.mem = s.mem))
      ∧ (s.w.preempt = true → s.w.inh = false → s.w.place.ld = ld → s.stallOf s.w = st.toNat →
          s.obey.w = { s.w with park := .fault { i with cmd := none } }
            ∧ s.obey.valueAt (b + 24) 8 = (s.valueAt (b + 24) 8 + 1) % 2 ^ 64))
    ∧ (p.ld = ld → (∀ w ∈ s.allWarps, w.place ≠ p) →
      (∀ m : List Byte, m.length = 8 → (s.poke (b + 16) m).ring ld.toNat st.toNat = some (b, log)) →
      ∃ t u, exec (.resumeRetry ld st fnum p) s = .next t ∧ exec (.resumeAbort ld st fnum p) s = .next u
        ∧ t.valueAt (b + 24) 8 = (s.valueAt (b + 24) 8 + 1) % 2 ^ 64 ∧ u.valueAt (b + 24) 8 = (s.valueAt (b + 24) 8 + 1) % 2 ^ 64
        ∧ t.w = s.w ∧ u.w = s.w))

/-- R342, R346, R350, R351, R353: a walk leaves its A and D bits and caches nothing; each kind of invalidation by a hart drops the
cached translations that it names, and of the words that columns keep those of its stall, and the hart waits for the split-phase loads
in flight and the writes held at ports that used a dropped one; a hart writes `vxpooltop`, or takes the exception of its mode; a peer
request. R344: with both stages bare, a virtual address of the LD's own memory is its physical address, and translating it changes
nothing but the words kept. That a walk by this event caches nothing, and what other walks leave in the caches, are the model's
choices (assumptions 27 and 28). -/
def Obligations.Translation : Prop :=
  (∀ (s : State) (ld : BitVec 2) (st : BitVec 10) (va : BitVec 64) (acc : Access) (page : BitVec 47) (h : HartId) (mode : HartMode)
    (r : Nat × Nat × Nat × Nat),
    let may := s.hartUp h = true ∧ s.acked (.hart h) = true
    let denied := match mode with | .m | .hs => none | .vs | .vu => some HartCause.virtualInstruction | .u => some .illegalInstruction
    let dropped := fun (ins : Instr) (kind : Nat) (stall : BitVec 10) (page : BitVec 47) (f : TlbEntry → Bool) =>
      (s.hartUp h = false → exec ins s = .next s)
      ∧ (s.hartUp h = true → s.acked (.hart h) = false → exec ins s = .next { s with again := true })
      ∧ (∀ c, may → denied = some c → exec ins s = .next (s.hartExc h c))
      ∧ (may → denied = none → ld = h.ld →
      ∃ t, exec ins s = .next t ∧ t.tlb = (s.tlb.filter fun e => ! (decide (e.ld = ld) && f e)) ∧ t.mem = s.mem ∧ t.w = s.w
        ∧ (t.ldOf ld.toNat).vxinval = BitVec.ofNat 64 (kind * 2 ^ 62 + stall.toNat * 2 ^ 52 + page.toNat)
        ∧ (∀ e ∈ t.walkWords, e ∈ s.walkWords
            ∧ (e.ld = ld → kind ≠ 3 ∧ (e.stall = stall.toNat → kind ≠ 0 ∧ s.ownWord e = true)))
        ∧ (∀ o ∈ s.ops, ∀ w vd left aims cp c l, o.kind = .ldp w vd left aims cp → (c, Aim.at_ l) ∈ aims →
            left.getLsbD c = true → l.ld = ld.toNat → (∃ e ∈ s.tlb, e.ld = ld ∧ f e = true ∧ e.frame = l.pa / 4096) →
            ∃ x ∈ t.waits, x.who = .hart h ∧ o.id ∈ x.ids)
        ∧ ∀ p ∈ s.ports, ∀ w ∈ p.2.held, w.loc.ld = ld.toNat → (∃ e ∈ s.tlb, e.ld = ld ∧ f e = true ∧ e.frame = w.loc.pa / 4096) →
            ∃ x ∈ t.waits, x.who = .hart h ∧ w.id ∈ x.ids)
    let s1 := s.readRec ld.toNat st.toNat
    (inPeer va.toNat = true → exec (.pageWalk ld st va acc) s = .next s)
    ∧ (inPeer va.toNat = false → s1.stallRec ld.toNat st.toNat = none → exec (.pageWalk ld st va acc) s = .next s1)
    ∧ (inPeer va.toNat = false → s1.stallRec ld.toNat st.toNat = some r →
      exec (.pageWalk ld st va acc) s = .next
        { (s1.walkBoth ⟨ld.toNat, 0, 8, st.toNat⟩ r va.toNat acc).1 with tlb := s.tlb, walkWords := s.walkWords })
    ∧ dropped (.vxinvalStall ⟨h, mode⟩ st) 0 st 0 (fun e => decide (e.stall = st.toNat))
    ∧ dropped (.vxinvalPage ⟨h, mode⟩ st page) 1 st page (fun e => decide (e.stall = st.toNat ∧ e.page % 2 ^ 45 = page.toNat % 2 ^ 45))
    ∧ dropped (.vxinvalGpage ⟨h, mode⟩ st page) 2 st page (fun e => decide (e.stall = st.toNat) && e.gpages.contains page.toNat)
    ∧ dropped (.vxinvalAll ⟨h, mode⟩) 3 0 0 (fun _ => true)
    ∧ (s.hartUp h = false → exec (.vxpooltopWrite h mode va) s = .next s)
    ∧ (may → exec (.vxpooltopWrite h mode va) s = .next (match denied with
        | none => s.setLd h.ld.toNat { s.ldOf h.ld.toNat with vxpooltop := va.truncate 32 }
        | some c => s.hartExc h c))
    ∧ exec (.peerRequest ld st va acc) s = .next
        (if inPeer va.toNat = true then (s.translate ⟨ld.toNat, 0, 8, st.toNat⟩ va acc).1 else s))
  ∧ (∀ (s : State) (va : DWord) (acc : Access) (r : Nat × Nat × Nat × Nat),
    let ld := s.w.place.ld.toNat
    s.stallRec ld (s.stallOf s.w) = some r → r.1 / 2 ^ 60 % 16 = 0 → r.2.1 / 2 ^ 60 % 16 = 0 → s.tlb = [] →
    s.walkWords = [] → s.hartLines = [] → s.flips = [] → va.toNat / 2 ^ 38 = ld →
    ∃ t, s.xlate va acc = (t, .ok ⟨va.toNat, false, ld, s.stallOf s.w⟩) ∧ { t with walkWords := s.walkWords } = s)

/-- R378, R380: a request of a port that is up reads, writes or updates a plain line; a read or an atomic answers at the port. A port
that is not up takes none. R379, R381, R382, R385: how a port moves between its states, what it sends when its training ends, and what
becomes of the writes that it holds. R375, R376: a module replays a flit that fails, and retrains at the seventeenth replay within a
millisecond, or when an earlier replay is still outstanding; its lane test replaces the failing lanes of each direction while it has
redundant ones, makes the direction fall to x32, or takes the module out of service. The port taken among several that are up, and the
redundant lanes that a direction at x32 counts, are the model's choices (assumptions 32 and 74). -/
def Obligations.PortsAndEdges : Prop :=
  (∀ (s : State) (port : BitVec 6) (pa : BitVec 56) (req : PortReq) (n ld : Nat) (data : List Byte) (x y : BitVec 64),
    let a := pa.toNat
    ((s.portOf port.toNat).state ≠ .up → exec (.inboundPortRequest port pa req) s = .next s)
    ∧ ((s.portOf port.toNat).state = .up → s.PlainLine (Agent.inbound port) (homeLoc ld a) ld →
      (a % 64 + n ≤ 64 → exec (.inboundPortRequest port pa (.read n)) s = .next
        { s with outbox := s.outbox ++ [(port.toNat, pa, bytesOf n (s.valueAt a n))] })
      ∧ (a % 64 + data.length ≤ 64 → data ≠ [] → data.length ≠ 8 → data.length < 64 →
        exec (.inboundPortRequest port pa (.write data)) s = .next (s.poke a data))
      ∧ (a % 4 = 0 → exec (.inboundPortRequest port pa (.atomic 0 x y)) s = .next
          { s.poke a (bytesOf 4 ((s.valueAt a 4 + x.toNat % 2 ^ 32) % 2 ^ 32)) with
            outbox := s.outbox ++ [(port.toNat, pa, bytesOf 4 (s.valueAt a 4))] })))
  ∧ (∀ (s : State) (port : BitVec 6),
    let n := port.toNat
    let p := s.portOf n
    let bit := if n = 32 then 18 else if n = 33 then 19 else n
    let train := fun s : State => s.setPort n { s.portOf n with state := .training, since := s.tick.toNat }
    exec (.enterTraining port) s = .next (if p.state = .up then train s else s)
    ∧ (p.state = .up → (s.sendHeld n).outbox = s.outbox ++ p.held.map (fun h => (n, BitVec.ofNat 56 h.loc.pa, h.data))
        ∧ ((s.sendHeld n).portOf n).held = [] ∧ (s.sendHeld n).mem = s.mem)
    ∧ (p.state ≠ .up → s.sendHeld n = s)
    ∧ (p.state = .training → ∃ t u, exec (.trainingComplete port) s = .next t ∧ exec (.trainingTimeout port) s = .next u
        ∧ t.portOf n = { p with state := .up } ∧ t.outbox = s.outbox
        ∧ t.mem = s.mem ∧ t.pkgFixed = (s.pkgFixed || decide (n < 18))
        ∧ u.portOf n = { p with state := .down, held := [] } ∧ u.outbox = s.outbox ∧ u.mem = s.mem
        ∧ (p.held = [] → u.vxualdrop = s.vxualdrop ∧ u.w = s.w))
    ∧ (p.state ≠ .training → exec (.trainingComplete port) s = .next s ∧ exec (.trainingTimeout port) s = .next s)
    ∧ exec (.portEnable port) s = .next
        (if s.vxualen.getLsbD bit = true then s
         else
           let t : State := { s with vxualen := s.vxualen ||| ((1 : BitVec 20) <<< bit) }
           if p.state = .down ∨ p.state = .disabled then train t else t)
    ∧ (s.vxualen.getLsbD bit = false → exec (.portDisable port) s = .next s)
    ∧ (s.vxualen.getLsbD bit = true → ∃ t, exec (.portDisable port) s = .next t ∧ t.portOf n = { p with state := .disabled, held := [] }
        ∧ t.vxualen = s.vxualen &&& ~~~((1 : BitVec 20) <<< bit) ∧ t.mem = s.mem))
  ∧ (∀ (s : State) (e : Edge) (m : BitVec 7) (dir : Bool) (out back : BitVec 7) (halfOk : Bool), m.toNat < 96 →
    let k := 96 * edgeNo e + m.toNat
    let x := s.moduleOf k
    let recent := (x.replays.filter fun t => s.tick.toNat < t + 1000 * Config.cyclesPerUs) ++ [s.tick.toNat]
    let still := x.replaying = true ∧ Config.pick s.fresh = true
    let now := fun (d : Direction) (n : Nat) =>
      if d.half = true then d else if d.spares + n ≤ 4 then { d with spares := d.spares + n } else { half := true, spares := 4 }
    let y := { x with retraining := false, there := now x.there out.toNat, back := now x.back back.toNat }
    let narrow := y.there.half = true ∨ y.back.half = true
    (x.out = true ∨ x.retraining = true → exec (.flitCrcMismatch e m dir) s = .next s)
    ∧ (x.out = false → x.retraining = false →
      (¬ still → recent.length ≤ 16 → ∃ t, exec (.flitCrcMismatch e m dir) s = .next t ∧ t.mem = s.mem ∧ t.retrains = s.retrains
          ∧ t.moduleOf k = { x with replaying := true, replays := recent })
      ∧ (still ∨ 16 < recent.length → ∃ t, exec (.flitCrcMismatch e m dir) s = .next t
          ∧ t.moduleOf k = { x with retraining := true, replaying := false, replays := [] } ∧ t.mem = s.mem
          ∧ (t.retrains.get 0 (edgeNo e)).toNat = min 65535 ((s.retrains.get 0 (edgeNo e)).toNat + 1)))
    ∧ (x.retraining = false ∨ x.out = true → exec (.laneTest e m out back halfOk) s = .next s)
    ∧ (x.retraining = true → x.out = false →
      ∃ t, exec (.laneTest e m out back halfOk) s = .next t ∧ t.mem = s.mem
        ∧ t.moduleOf k = (if narrow ∧ halfOk = false then { y with out := true } else y)
        ∧ ((t.moduleOf k).there.half ≠ x.there.half ∨ (t.moduleOf k).back.half ≠ x.back.half ∨ (t.moduleOf k).out = true →
            (t.ldOf (edgeEnds e).1).replace = true ∧ (t.ldOf (edgeEnds e).2).replace = true)))

/-- R421, R100: a powered cluster without entries charges the units that issued in the cycle before and refills its allowance up to
its cap; the warps that it selects are candidates of its own, and none while it changes its rate (R429); a cluster that is not powered
does nothing. R425 to R429: an evaluation moves a column's level by at most one step by its temperature and power; a warp that runs
on the column finds the old level in THROTTLE; a sensor at 115 °C trips the module. A cluster that quiesces takes the effective rate.
R430 to R434: `vxgov` writes, gating after 50 µs of idleness, the end of a wake, and the replays that cap a cluster's rate. A hart
whose write awaits an acknowledgement comes again (assumption 75). The effective rate with CLK = 11 is the model's reading
(assumption 40). -/
def Obligations.PowerEvents : Prop :=
  (∀ (s : State) (c : Cluster),
    let x := s.clusterOf c
    let col := s.colOf c.ld.toNat c.col.toNat
    let refill := if col.level = 0 then col.budget.toNat else if col.level = 3 then col.budget.toNat / 2 else 3 * col.budget.toNat / 4
    (x.gate ≠ .on → exec (.allowanceCycle c) s = .next s)
    ∧ (x.gate = .on → ∃ t, exec (.allowanceCycle c) s = .next t ∧ t.mem = s.mem
      ∧ (x.entries = [] → x.begun = false → (t.clusterOf c).c = min (col.cap.toNat : Int) (x.c - x.spent + refill)
        ∧ (t.clusterOf c).spent = 0
        ∧ ∀ p ∈ t.issueQ, clusterAt p = c → x.changing = false
            ∧ ∃ w ∈ s.allWarps, w.place = p ∧ w.life = .run ∧ w.park = .none ∧ w.fence = none ∧ w.blocked = false)))
  ∧ (∀ (s : State) (ld : BitVec 2) (n : BitVec 6) (temp power : Nat) (c : Cluster),
    let x := s.colOf ld.toNat n.toNat
    let lv := x.level.toNat
    let up := (lv = 0 ∧ (88 ≤ temp ∨ 3600 < power)) ∨ (lv = 1 ∧ 96 ≤ temp) ∨ (lv = 2 ∧ 104 ≤ temp)
    let down := (lv = 1 ∧ temp < 85 ∧ power ≤ 3600) ∨ (lv = 2 ∧ temp < 93) ∨ (lv = 3 ∧ temp < 101)
    let new := if up then lv + 1 else if down ∧ x.floor.toNat < lv then lv - 1 else if lv < x.floor.toNat then lv + 1 else lv
    exec (.quiescePoint c) s = .next (if (s.clusterOf c).changing = true then
      s.setCluster c { s.clusterOf c with rate := s.effective c, changing := false } else s)
    ∧ (115 ≤ temp → exec (.governorEvaluation ld n temp power) s = exec .thermalTrip s)
    ∧ (temp < 115 → ∃ t, exec (.governorEvaluation ld n temp power) s = .next t ∧ t.mem = s.mem
      ∧ (t.colOf ld.toNat n.toNat).level.toNat = new ∧ (t.colOf ld.toNat n.toNat).temp = temp ∧ t.power = power
      ∧ (new = lv → t.w = s.w ∧ t.warps = s.warps ∧ t.clusters = s.clusters)
      ∧ (s.w.life = .start → t.w = s.w)
      ∧ (new ≠ lv → s.w.life = .run → s.w.place.ld = ld → s.w.place.col = n → t.w.thrPrev = x.level ∧ t.w.thrChg = true
        ∧ t.w.pc = s.w.pc)))
  ∧ (∀ (s : State) (h : HartId) (mode : HartMode) (v : BitVec 64) (c : Cluster),
    let x := s.clusterOf c
    let recent := (x.replays.filter fun t => s.tick.toNat < t + 1000 * Config.cyclesPerUs) ++ [s.tick.toNat]
    let ready := s.hartUp h = true ∧ s.acked (.hart h) = true
    (s.hartUp h = false → exec (.vxgovWrite h mode v) s = .next s)
    ∧ (s.hartUp h = true → s.acked (.hart h) = false → exec (.vxgovWrite h mode v) s = .next { s with again := true })
    ∧ (mode = .vs ∨ mode = .vu → ready → exec (.vxgovWrite h mode v) s = .next (s.hartExc h .virtualInstruction))
    ∧ (mode = .u → ready → exec (.vxgovWrite h mode v) s = .next (s.hartExc h .illegalInstruction))
    ∧ (mode = .m ∨ mode = .hs → ready →
      let old := s.colOf h.ld.toNat h.col.toNat
      ∃ t, exec (.vxgovWrite h mode v) s = .next t ∧ t.mem = s.mem ∧ t.colOf h.ld.toNat h.col.toNat = { old with
        cap := v.extractLsb' 48 16, budget := BitVec.ofNat 16 (max 64 (v.extractLsb' 32 16).toNat), floor := v.extractLsb' 28 2
        clk0 := if v.extractLsb' 0 2 = 3 then old.clk0 else v.extractLsb' 0 2
        clk1 := if v.extractLsb' 2 2 = 3 then old.clk1 else v.extractLsb' 2 2 })
    ∧ (x.gate = .on → s.clusterIdle c = true → x.idle + 50 * Config.cyclesPerUs ≤ s.tick.toNat →
      ∃ t, exec (.clusterGating c) s = .next t ∧ t.clusterOf c = { x with gate := .gated, c := 0, spent := 0 } ∧ t.mem = s.mem
        ∧ ∀ y ∈ t.copies, y.ld = c.ld → y.col = c.col → y.holder ≠ 0 → (y.holder - 1) % 8 / 4 ≠ c.cl.toNat)
    ∧ (x.gate ≠ .on ∨ s.clusterIdle c = false ∨ s.tick.toNat < x.idle + 50 * Config.cyclesPerUs → exec (.clusterGating c) s = .next s)
    ∧ (x.gate ≠ .waking → exec (.wakeEnd c) s = .next s)
    ∧ (x.gate = .waking → (s.ldOf c.ld.toNat).wakes = [] →
      exec (.wakeEnd c) s = .next (s.setCluster c { x with gate := .on, c := 0, spent := 0, begun := false, idle := s.tick.toNat }))
    ∧ (x.rate ≠ 2 ∨ x.gate ≠ .on → exec (.timingErrorReplay c) s = .next s)
    ∧ (x.rate = 2 → x.gate = .on → ∃ t, exec (.timingErrorReplay c) s = .next t ∧ t.mem = s.mem ∧ t.w = s.w
        ∧ (t.clusterOf c).replays = recent ∧ (t.clusterOf c).replayCap = (x.replayCap || decide (256 < recent.length))))

/-- R437, R438: the end of a stall disables its queues before anything else; a write to vxerr removes the oldest report. R440 to
R442: a compute die, a base die, the cores of a column or its base-die part that fail take their warps with them and raise
REPLACE; what remains of the launches then ends. A part that failed before fails no more. What remains of the launches of a part
that fails is the model's reading of R440 to R442 (assumption 43). -/
def Obligations.StallEndsAndFailures : Prop :=
  (∀ (s : State) (ld : BitVec 2) (st : BitVec 10) (poison : Bool),
    exec (.vxerrPop ld) s = .next (s.setLd ld.toNat { s.ldOf ld.toNat with errors := (s.ldOf ld.toNat).errors.drop 1 })
    ∧ (st = 0 → exec (.stallEnd ld st poison) s = .next s.complete)
    ∧ (st ≠ 0 → (∀ e ∈ (s.ldOf ld.toNat).endings, e.1 ≠ st) →
      ∃ t : State, exec (.stallEnd ld st poison) s = .next t.complete ∧ t.mem = s.mem
        ∧ (t.ldOf ld.toNat).endings = (s.ldOf ld.toNat).endings ++ [(st, poison)]
        ∧ ∀ q < 64, (s.queueOf ld.toNat q).owner = st → (t.queueOf ld.toNat q).en = false))
  ∧ (∀ (s : State) (ld : BitVec 2) (die : BitVec 1) (n : BitVec 6),
    let d := s.ldOf ld.toNat
    (d.dieReset.getLsbD die.toNat = true → exec (.computeDieFailure ld die) s = .next s)
    ∧ (d.dieReset.getLsbD die.toNat = false → ∃ t : State, exec (.computeDieFailure ld die) s = .next t.complete ∧ t.mem = s.mem
        ∧ (t.ldOf ld.toNat).replace = true ∧ (t.ldOf ld.toNat).dieReset.getLsbD die.toNat = true
        ∧ (∀ w ∈ t.warps, ¬ (w.place.ld = ld ∧ w.place.col.toNat / 24 = die.toNat))
        ∧ (∀ c < 48, c / 24 = die.toNat → (t.ldOf ld.toNat).cols.getLsbD c = false))
    ∧ (d.baseReset = true → exec (.baseDieFailure ld) s = .next s)
    ∧ (d.baseReset = false → ∃ t : State, exec (.baseDieFailure ld) s = .next t.complete ∧ t.mem = s.mem
        ∧ (t.ldOf ld.toNat).replace = true ∧ (t.ldOf ld.toNat).baseReset = true ∧ ∀ w ∈ t.warps, w.place.ld ≠ ld)
    ∧ (d.cols.getLsbD n.toNat = false → ∃ t : State, exec (.coresLost ld n) s = .next t.complete ∧ t.mem = s.mem
        ∧ (t.ldOf ld.toNat).cols = d.cols ∧ (t.ldOf ld.toNat).errors = d.errors)
    ∧ (n.toNat < 48 → d.cols.getLsbD n.toNat = true → ∃ t : State, exec (.coresLost ld n) s = .next t.complete ∧ t.mem = s.mem
        ∧ (t.ldOf ld.toNat).replace = true ∧ (t.colOf ld.toNat n.toNat).coresLost = true
          ∧ (t.ldOf ld.toNat).cols = d.cols &&& ~~~((1 : BitVec 48) <<< n.toNat)
        ∧ ∀ w ∈ t.warps, ¬ (w.place.ld = ld ∧ w.place.col = n))
    ∧ ((s.colOf ld.toNat n.toNat).hartLost = true ∨ d.homes.getLsbD n.toNat = false → exec (.baseDiePartLost ld n) s = .next s)
    ∧ ((s.colOf ld.toNat n.toNat).hartLost = false → d.homes.getLsbD n.toNat = true → ∃ t : State,
      exec (.baseDiePartLost ld n) s = .next t.complete
        ∧ (t.colOf ld.toNat n.toNat).hartLost = true ∧ (t.ldOf ld.toNat).cols.getLsbD n.toNat = false
        ∧ ∀ h ∈ t.hartLines, ¬ (h.hart.ld = ld ∧ h.hart.col = n)))

/-- R428, R444, R445, R447, R128: a start whose steps 1 to 5 end has TICK 0, one hart and region 0 of LD0 alone; each later step ends
when its time has come, or stops the start and reports its number; step 8 sets DAY in every LD and keeps memory. A thermal trip loses
memory; an attestation answers when PCIe port 0 is up; a tick advances TICK by one. R337, R338, R342, R436: what writes to RGNCTL
and to the custom CSRs leave; a region that comes online after its mode changed reads 0 throughout. A hart in VS or VU mode takes
the virtual-instruction exception and one in U mode the illegal-instruction exception. The model's own: when the steps end and what
a start knows (assumption 31), that DAY is clear in a start that stops (assumption 46), what an attestation carries (assumption 45),
and that a hart whose write awaits an acknowledgement comes again (assumption 75). -/
def Obligations.StartAndControlRegisters : Prop :=
  (∀ (s : State) (inp : StartInput) (nonce : BitVec 256),
    let begun := fun n => ∃ t, exec (.firstLight inp) s = .next t ∧ t.phase = n ∧ t.mem = [] ∧ t.tick = 0
      ∧ (∀ ld < 4, (t.ldOf ld).day = false ∧ (t.ldOf ld).cols = 0)
      ∧ (n = .starting 5 → t.mgmt = s.mgmt ∧ (∀ a, t.online a = decide (a < 2 ^ 30))
          ∧ ∀ h : HartId, t.hartUp h = decide (h.ld = 0 ∧ h.col = 0))
      ∧ ∀ k, n = .stopped k → t.mgmt = s.mgmt ++ [.stopStep k] ∧ ∀ h : HartId, t.hartUp h = false
    (∀ n ≤ 5, firstStop inp = some n → begun (.stopped n))
    ∧ ((∀ n, firstStop inp = some n → 5 < n) → begun (.starting 5))
    ∧ (∀ k, 5 ≤ k → k < 8 → s.phase = .starting k → s.start = some inp →
      let due := if k = 5 then inp.ends.1 else if k = 6 then inp.ends.2.1 else inp.ends.2.2
      let t := s.advance
      (s.tick.toNat < due → t = s)
      ∧ (due ≤ s.tick.toNat → firstStop inp = some (k + 1) →
          t = { s with phase := .stopped (k + 1), mgmt := s.mgmt ++ [.stopStep (k + 1)] })
      ∧ (due ≤ s.tick.toNat → firstStop inp ≠ some (k + 1) → t.mem = s.mem ∧ t.tick = s.tick
        ∧ t.phase = (if k = 7 then .daylight else .starting (k + 1))
        ∧ (k = 6 → ∀ n ∈ allPorts, (t.portOf n).state = .training)
        ∧ (k = 7 → ∀ ld < 4, (t.ldOf ld).day = true ∧ (t.ldOf ld).homes = (s.ldOf ld).cols)))
    ∧ (∃ t, exec .thermalTrip s = .next t ∧ t.phase = .tripped ∧ t.mem = [] ∧ t.warps = [] ∧ t.mgmt = s.mgmt ++ [.thermTrip])
    ∧ (s.phase = .daylight → (s.portOf 32).state = .up → ∃ t m a b, exec (.attestationRequest nonce) s = .next t
      ∧ t.mgmt = s.mgmt ++ [.attestation nonce m a b] ∧ t.mem = s.mem ∧ t.w = s.w)
    ∧ (s.phase ≠ .daylight ∨ (s.portOf 32).state ≠ .up → exec (.attestationRequest nonce) s = .next s)
    ∧ ∃ t, exec .tick s = .next t ∧ t.tick = s.tick + 1 ∧ t.mem = s.mem ∧ t.w.pc = s.w.pc
      ∧ (s.w.life = .run → s.w.park = .none → s.w.inh = false → s.w.dh < s.w.depth → t.w.pathCount = s.w.pathCount + 1))
  ∧ (∀ (s : State) (ld : BitVec 2) (k : BitVec 8) (v : BitVec 64) (h : HartId) (mode : HartMode) (csr : BitVec 12),
    let n := ld.toNat
    let base := n * 2 ^ 38 + k.toNat * 2 ^ 30
    let go := exec (.csrWrite h mode csr v) s
    let d := s.ldOf h.ld.toNat
    (240 ≤ k.toNat ∨ 2 ≤ v.toNat % 4 → exec (.rgnctlWrite ld k v) s = .next s)
    ∧ (k.toNat < 240 → v.toNat % 4 < 2 → (s.ldOf n).pairRetired (k.toNat % 32) = false →
      ∃ t, exec (.rgnctlWrite ld k v) s = .next t ∧ (t.rgn n k.toNat).getLsbD 2 = v.getLsbD 2
        ∧ ((s.rgn n k.toNat).getLsbD 2 = false → v.getLsbD 2 = true → (s.ldOf n).modeChanged.get false k.toNat = true →
            ∀ a, t.byteAt a = if base ≤ a ∧ a < base + 2 ^ 30 then 0 else s.byteAt a)
        ∧ ((s.rgn n k.toNat).getLsbD 2 = true → t.mem = s.mem))
    ∧ (s.hartUp h = false → go = .next s)
    ∧ (mode = .vs ∨ mode = .vu → s.csrRead h mode csr.toNat = .error .virtualInstruction ∨ csr = 0xF14)
    ∧ (mode = .u → s.csrRead h mode csr.toNat = .error .illegalInstruction)
    ∧ (s.hartUp h = true → s.acked (.hart h) = false → go = .next { s with again := true })
    ∧ (mode = .vs ∨ mode = .vu → s.hartUp h = true → s.acked (.hart h) = true → go = .next (s.hartExc h .virtualInstruction))
    ∧ (mode = .u → s.hartUp h = true → s.acked (.hart h) = true → go = .next (s.hartExc h .illegalInstruction))
    ∧ (mode = .m ∨ mode = .hs → s.hartUp h = true → s.acked (.hart h) = true →
      (csr = 0x5C0 → go = .next (s.setLd h.ld.toNat { d with stalltab := (v.truncate 56 >>> 16) <<< 16 }))
      ∧ (csr = 0x5C2 → go = .next { s with vxarena := (v.truncate 56 >>> 12) <<< 12 })
      ∧ (csr = 0x5C3 → go = .next { s with vxarenan := v.truncate 32 })
      ∧ (csr = 0x5C4 → go = .next (s.setLd h.ld.toNat { d with vxpool := (v.truncate 56 >>> 3) <<< 3 }))
      ∧ (csr = 0x5C5 → go = .next (s.setLd h.ld.toNat { d with vxpooltop := v.truncate 32 }))
      ∧ (csr = 0x5C6 → go = .next (s.setLd h.ld.toNat { d with vxpoolcap := v.truncate 32 }))
      ∧ (csr = 0x5CC → go = .next { s with vxualdrop := v })
      ∧ (csr = 0x5CD → go = .next (s.setLd h.ld.toNat { d with edgedrop := v }))
      ∧ (csr = 0x5D0 → go = .next (s.setCol h.ld.toNat h.col.toNat { s.colOf h.ld.toNat h.col.toNat with vxqsel := v.truncate 6 }))
      ∧ (csr = 0x5E2 → go = .next (s.setLd h.ld.toNat { d with errors := d.errors.drop 1 }))
      ∧ (csr = 0x5E3 → go = .next (s.setCol h.ld.toNat h.col.toNat { s.colOf h.ld.toNat h.col.toNat with vxstall := v.truncate 10 }))
      ∧ (csr = 0x5E5 → go = .next (if s.pkgFixed = true then s else { s with vxpkg := v.truncate 16 }))
      ∧ (csr = 0x5C7 ∨ csr = 0x5CA ∨ csr = 0x5E0 ∨ csr = 0x5E1 → go = .next s)))

/-! Words, steps and frames. -/

/-- R33 to R37: every well-formed instruction word decodes from its encoding, with every operand. -/
def Obligations.EncodedWordsDecode : Prop :=
  ∀ (i : Instr) (w : Word), i.wellFormed = true → encode i = some w → decode w = .ok i ∧ wordOf
    (w.extractLsb' 0 8) (w.extractLsb' 8 8) (w.extractLsb' 16 8) (w.extractLsb' 24 8) = w

/-- R34, R60: words of several majors, written out field by field from the formats, decode to their instructions. R37, R59:
words of a reserved or unassigned major, an unlisted fn, a reserved field and a reserved field value decode to none. -/
def Obligations.DecodedWords : Prop :=
  decode 0b000000_0101000_010_1100011000100011 = .ok (.hintCp 2 0xC623)
  ∧ decode 0b000001_00000001_000010_100000_100001 = .ok (.sub 2 32 33)
  ∧ decode 0b000010_0000_010001_010110_0000011011 = .ok (.addi 17 22 27)
  ∧ decode 0b000011_0000_1000_011101_100010_100111 = .ok (.sldB64 8 29 34 39)
  ∧ decode 0b000100_0110_10_00000000000000101011 = .ok (.brNone 6 43)
  ∧ decode 0b000111_00000000_110100_000000111001 = .ok (.rsr 52 57)
  ∧ decode 0b001000_00101_0111011_1000000_1000101 = .ok (.vmad 59 64 69)
  ∧ decode 0b001101_0010_100011_1101000_1101101_10 = .ok (.vcmp 2 35 104 109 2)
  ∧ decode 0b010000_1101_1010_1111111_0000100_0_001 = .ok (.vcompact 10 127 4 1)
  ∧ decode 0b010010_001_0110_0001011_0010000_10101 = .ok (.ld 1 6 11 16 21)
  ∧ decode 0b011111_1100_0001_0110_1101011_1110000 = .ok (.atomSy 12 1 6 107 112)
  ∧ decode 0b100000_0110_1010_0_1_1110100_1111001_0_0 = .ok (.batomCas 10 1 116 121 0)
  ∧ decode 0b100010_00000_1_0000_0010_1111011_00000 = .ok (.mma 1 2 123 0)
  ∧ decode 0b100100_0000_1111_000100_001001_001110 = .ok (.cpy 15 4 9 14)
  ∧ decode 0b111111_00000000000000000000000000 = .error .reservedMajor
  ∧ decode 0b100101_00000000000000000000000000 = .error .unassignedMajor
  ∧ decode 0b000001_00100101_000001_000001_000001 = .error .reservedFn
  ∧ decode 0b000101_0110_01_00000000000000101011 = .error .reservedField
  ∧ decode 0b010100_111_0100_0011001_0011110_00011 = .error .reservedValue

/-- R57, R100, R421: when the word at the PC of the selected warp decodes to an instruction, the step runs it. A hint word
leaves the warp selected; the end of a unit does not, and charges the cluster for a unit that issued; then, or when a claim failed
(R242), the core issues nothing more in its cycle. A step that has an event
due runs that event, which comes again in the next cycle if it waits. No step faults or refuses while the coming events, which are the
model's own input, are events; and every instruction answers a next state. How the step selects a warp, and its fields sel, agenda and
again, are the model's own (assumptions 12, 17 and 75); the cost of a unit is assumption 20. -/
def Obligations.StepRunsDecoded : Prop :=
  (∀ (s s1 : State) (l : Loc) (h : Nat) (i : Instr),
    (s.sel = true → s.w.arrived = false → s.xlate (s.w.pc.zeroExtend 64) .exec = (s1, .ok l) →
      s1.Serves (s1.me none) l h → s1.Intact l.pa →
      let x := wordOf (s1.byteAt l.pa) (s1.byteAt (l.pa + 1)) (s1.byteAt (l.pa + 2)) (s1.byteAt (l.pa + 3))
      decode x = .ok i →
      ∃ t, exec i s1 = .next t
        ∧ (unitGoesOn s1 t = true → step s = .next t)
        ∧ (unitGoesOn s1 t = false →
          ∃ u, step s = .next u ∧ u.sel = false ∧ u.mem = t.mem
            ∧ (t.w.life ≠ .empty → t.w.place = s1.w.place →
                u.w = if notIssued s1 t = true ∧ s1.failedClaim x = true then t.w else { t.w with waitCount := 0, withheld := 0 })
            ∧ (notIssued s1 t = true → u.clusters = t.clusters)
            ∧ (notIssued s1 t = false ∨ s1.failedClaim x = true → ∀ p ∈ u.issueQ, sameCore s1.w.place p = false)
            ∧ (notIssued s1 t = false → (u.clusterOf (clusterAt s1.w.place)).c = (t.clusterOf (clusterAt s1.w.place)).c
                ∧ (u.clusterOf (clusterAt s1.w.place)).spent = (t.clusterOf (clusterAt s1.w.place)).spent + wordCost s1.w.rep.1 x)))
    ∧ ∀ rest, s.sel = false → s.agenda = (0, i) :: rest → i.isWord = false → s.phase = .daylight →
        ∃ t, exec i { s with agenda := rest, again := false } = .next t
          ∧ step s = .next (if t.again = true then { t with again := false, agenda := requeue i t.agenda } else t))
  ∧ ((∀ (i : Instr) (s : State), ∃ t, exec i s = .next t)
  ∧ ∀ s : State, (∀ x ∈ s.agenda, x.2.isWord = false) → s.safe)

/-- Every step keeps memory in its canonical form, which is the model's own representation of R319's memory (assumptions 12 and 13):
addresses rise, and no entry holds the 0 that an unlisted address reads as. -/
def Obligations.MemoryStaysCanonical : Prop :=
  ∀ s t : State, Memory.wf s.mem = true → step s = .next t → Memory.wf t.mem = true

/-- R395, R430, R436, R444: what reset leaves. Table 1 of R77: the registers and the control state of a warp that starts. That
reset is daylight (assumption 1), that unwritten memory reads as 0 (assumption 13) and that TICK is 0 there (assumption 31) are the
model's choices. -/
def Obligations.ResetValues : Prop :=
  (Memory.wf State.reset.mem = true ∧ (∀ a, State.reset.byteAt a = 0) ∧ State.reset.tick = 0 ∧ State.reset.phase = .daylight
  ∧ State.reset.allWarps = [] ∧ State.reset.allLaunches = []
  ∧ ∀ h : HartId, h.col.toNat < 48 →
      State.reset.csrRead h .m 0xF14 = .ok (some (BitVec.ofNat 64 (64 * h.ld.toNat + h.col.toNat)))
      ∧ State.reset.csrRead h .hs 0x5C0 = .ok (some 0) ∧ State.reset.csrRead h .hs 0x5C2 = .ok (some 0)
        ∧ State.reset.csrRead h .hs 0x5CC = .ok (some 0)
      ∧ State.reset.csrRead h .hs 0x5D0 = .ok (some 0) ∧ State.reset.csrRead h .hs 0x5D1 = .ok (some 0)
        ∧ State.reset.csrRead h .hs 0x5D2 = .ok (some 0)
      ∧ State.reset.csrRead h .hs 0x5D8 = .ok (some 0x4000_0080_0000_0005) ∧ State.reset.csrRead h .hs 0x5E1 = .ok (some 0xFFFF_FFFF_FFFF)
      ∧ State.reset.csrRead h .hs 0x5E2 = .ok (some 0) ∧ State.reset.csrRead h .hs 0x5CB = .ok (some 0xFFFFF))
  ∧ (∀ (s : State) (p : Place) (i : Nat) (g : Group) (tvec ptr : BitVec 48),
    let w := s.startWarp p i g tvec ptr
    let r := s.lc.record
    (∀ n, w.s n = if n = 1 then r.argp else if n = 2 then r.shape0 else if n = 3 then r.shape1 else if n = 4 then r.shape2 else 0)
    ∧ (∀ n l, (w.v n).at l = 0) ∧ w.pc = s.kernel.base + s.kernel.entries.getD g.stage.toNat 0 ∧ w.crpc = 1 ∧ w.depth = 0
    ∧ w.cls = r.prio ∧ w.tvec = tvec ∧ w.saveptr = ptr ∧ w.inh = false ∧ w.fstat = 0 ∧ w.mstat = 0 ∧ w.evmask = 0
    ∧ (∀ n, w.counter n = ⟨0, 0⟩ ∧ w.tile n = ⟨0, []⟩ ∧ w.queue n = []) ∧ w.windows = [] ∧ w.hints = [])

/-- A unit that computes a scalar register (the SR forms, the SI forms that are no shifts) and `br` leave memory, the other
warps, the workgroup and the launch, every vector register beyond the windows that end with it, every scalar register but its
own, and every flag, counter, queue, tile and trap register. A unit that computes vector registers with la 0 leaves memory,
every scalar register and every vector register and lane that it does not write; of the status registers only FSTAT gains bits.
R118: a scalar store changes, of all memory after its translation, only the bytes that it stores, and no register. -/
def Obligations.Frames : Prop :=
  (∀ (s : State) (d a b : BitVec 6) (i : BitVec 10) (o : BitVec 20) (ins : Instr),
    (s.accepts 22 [] false ∧ (ins ∈ (srForms d a b).map Prod.fst ∨ ins ∈ (srForms1 d a).map Prod.fst ∨ ins = .br o))
      ∨ (s.accepts 22 [0, 1] false ∧ ins ∈ (siForms d a i).map Prod.fst) →
    ∃ t, exec ins s = .next t ∧ t.mem = s.mem ∧ t.warps = s.warps ∧ t.wg = s.wg ∧ t.lc = s.lc ∧ t.ops = s.ops ∧ t.lds = s.lds
      ∧ (∀ r, ins = .br o ∨ r ≠ d.toNat → t.w.s r = (if ins = .br o then s.w.commitAll else s.w.tickWindows).s r)
      ∧ (∀ r, t.w.v r = (if ins = .br o then s.w.commitAll else s.w.tickWindows).v r)
      ∧ t.w.occ = s.w.occ ∧ t.w.item = s.w.item ∧ t.w.age = s.w.age ∧ t.w.stack = s.w.stack ∧ t.w.depth = s.w.depth
      ∧ t.w.crpc = s.w.crpc ∧ t.w.fstat = s.w.fstat ∧ t.w.mstat = s.w.mstat ∧ t.w.counters = s.w.counters ∧ t.w.tiles = s.w.tiles
      ∧ (∀ q, t.w.queue q = s.w.queue q) ∧ t.w.grp = s.w.grp ∧ t.w.tvec = s.w.tvec ∧ t.w.tcause = s.w.tcause ∧ t.w.epc = s.w.epc
      ∧ t.w.tval = s.w.tval ∧ t.w.inh = s.w.inh ∧ t.w.reports = s.w.reports)
  ∧ (∀ (s : State) (d a b : BitVec 7) (ins : Instr), s.VectorReady [3] [(d.toNat, 1)] [a.toNat, b.toNat] →
    ins ∈ (viForms d a b).map Prod.fst ∨ (ins ∈ (vfForms d a b).map Prod.fst ∧ s.w.fm.toNat / 4096 % 8 < 6) →
    ∃ t, exec ins s = .next t ∧ t.mem = s.mem ∧ t.warps = s.warps ∧ t.wg = s.wg ∧ t.lc = s.lc ∧ t.ops = s.ops ∧ t.lds = s.lds
      ∧ (∀ r, t.w.s r = s.w.tickWindows.s r)
      ∧ (∀ r l, l < 64 → (∀ k < s.w.rep.1, r ≠ d.toNat + k * s.w.rep.2) ∨ s.w.em.getLsbD l = false →
          (t.w.v r).at l = (s.w.tickWindows.v r).at l)
      ∧ t.w.occ = s.w.occ ∧ t.w.item = s.w.item ∧ t.w.stack = s.w.stack ∧ t.w.depth = s.w.depth ∧ t.w.mstat = s.w.mstat
      ∧ t.w.counters = s.w.counters ∧ t.w.tiles = s.w.tiles ∧ t.w.tvec = s.w.tvec ∧ t.w.epc = s.w.epc ∧ t.w.inh = s.w.inh
      ∧ t.w.fstat ||| s.w.fstat = t.w.fstat)
  ∧ (∀ (s s1 : State) (l : Loc) (d a i : BitVec 6) (n : Nat) (ins : Instr),
    (ins = .sstB64 d a i ∧ n = 8) ∨ (ins = .sstB32 d a i ∧ n = 4) →
    s.accepts 22 [0, 5] false →
    s.Reaches (s.w.s a.toNat + s.w.imm 6 i.toNat * BitVec.ofNat 64 n) .write n s1 l →
    ∃ t, exec ins s = .next t ∧ (∀ x, x < l.pa ∨ l.pa + n ≤ x → t.byteAt x = s1.byteAt x)
      ∧ t.valueAt l.pa n = (s.w.s d.toNat).toNat % 256 ^ n ∧ (∀ r, t.w.s r = s.w.tickWindows.s r) ∧ (∀ r, t.w.v r = s.w.tickWindows.v r))

/-- Frames of the memory, buffer and tile instructions, on lines that serve the warp at once; s1 is the state that the translations
leave. A vector load changes no byte of memory and only the lanes of EM of its run. A vector store and a `tst` or `tsave` change only
the bytes at the addresses that they compute, and no register. An atomic changes only the bytes at its lanes' addresses and the lanes
of its run, and at the RESUME doubleword of a ring, where an 8-byte one of device scope or wider is a command (R357), the DROPS behind
it. A buffer load, store or atomic changes no memory, and of the buffers only the bytes at its lanes' offsets. `tld`, `tload`,
`tsetr`, `tsetc`, `tzero`, `tcfg` and `tdrop` change no memory, no register and no tile but their own. None changes a status, trap,
stack, item or counter register. -/
def Obligations.MemoryFrames : Prop :=
  (∀ (s s1 : State) (fs : List (Nat × DWord × Found1)) (w z : BitVec 3) (l : BitVec 4) (d a : BitVec 7) (b : BitVec 5) (ins : Instr)
    (code : Nat) (scope : Option (BitVec 3)),
    (ins = .ld w l d a b ∧ code = w.toNat ∧ code < 7 ∧ scope = none) ∨ (ins = .ldB32St z l d a b ∧ code = 4 ∧ scope = some z)
      ∨ (ins = .ldB64St z l d a b ∧ code = 5 ∧ scope = some z) →
    let as := s.laneAddrs b a (s.actingLanes s.w.em)
    s.UnitReady [5] (a.toNat :: (List.range (codeRegs code)).map (d.toNat + ·)) [a.toNat] →
    s.destOk d.toNat (codeRegs code) = true → s.srcOk a.toNat = true → s.mayIssue (linesOf as) →
    s.memCheck as (codeBytes code) .read (decide (scope = some 6)) = .ok (s1, fs) → pagedOut fs = [] →
    s1.allPlain (s1.me scope) (located fs) →
    ∃ t, exec ins s = .next t ∧ s1.keepsMem t 0 [] ∧ s.w.Keeps t.w ∧ s.w.KeepsRegs t.w d.toNat (codeRegs code) s.w.em
      ∧ t.w.tiles = s.w.tiles ∧ t.w.dirty = s.w.dirty ∧ t.wg = s.wg ∧ t.lc = s.lc ∧ t.warps = s.warps)
  ∧ (∀ (s s1 : State) (fs : List (Nat × DWord × Found1)) (w z : BitVec 3) (g : BitVec 4) (v a : BitVec 7) (b : BitVec 5) (ins : Instr)
    (code : Nat) (scope : Option (BitVec 3)),
    (ins = .st w g v a b ∧ code = w.toNat ∧ code < 7 ∧ scope = none) ∨ (ins = .stB32St z g v a b ∧ code = 4 ∧ scope = some z) →
    let as := s.laneAddrs b a (s.actingLanes (s.w.em &&& s.w.guard g))
    s.UnitReady [5] (a.toNat :: (List.range (codeRegs code)).map (v.toNat + ·)) [a.toNat, v.toNat] →
    s.srcOk a.toNat = true → (if codeRegs code = 1 then s.srcOk v.toNat else s.destOk v.toNat (codeRegs code)) = true →
    s.mayIssue (linesOf as) → s.memCheck as (codeBytes code) .write false = .ok (s1, fs) → pagedOut fs = [] →
    s1.allPlain (s1.me scope) (located fs) → (∀ c, scope = some c → s1.NoneAhead c) →
    ∃ t, exec ins s = .next t ∧ s1.keepsMem t (codeBytes code) (located fs) ∧ s.w.Keeps t.w ∧ s.w.KeepsRegs t.w 0 0 0
      ∧ t.w.tiles = s.w.tiles ∧ t.w.dirty = s.w.dirty ∧ t.wg = s.wg)
  ∧ (∀ (s s1 : State) (fs : List (Nat × DWord × Found1)) (g l f : BitVec 4) (d a : BitVec 7) (op : Nat) (ins : Instr), f.toNat < 15 →
    (ins = .atomCo g l f d a ∧ op = 0x1A) ∨ (ins = .atomCl g l f d a ∧ op = 0x1B) ∨ (ins = .atomCm g l f d a ∧ op = 0x1C)
      ∨ (ins = .atomLd g l f d a ∧ op = 0x1D) ∨ (ins = .atomPk g l f d a ∧ op = 0x1E) ∨ (ins = .atomSy g l f d a ∧ op = 0x1F) →
    let fn := f.toNat
    let n := if fn = 1 ∨ fn = 10 ∨ fn = 12 then 8 else 4
    let run := if fn = 12 then 4 else if fn = 1 ∨ fn = 10 ∨ fn = 11 then 2 else 1
    let m := s.w.em &&& s.w.guard g
    let as := (membersOf (s.actingLanes m)).map fun k =>
      (k, BitVec.ofNat 64 (((s.w.v a.toNat).at k).toNat + 2 ^ 32 * ((s.w.v (a.toNat + 1)).at k).toNat))
    s.UnitReady [5] ((List.range 2).map (a.toNat + ·) ++ (List.range run).map (d.toNat + ·)) [] →
    s.destOk a.toNat 2 = true → s.destOk d.toNat run = true → s.mayIssue (linesOf as) →
    s.memCheckBy (pcieBad s.vxpkg.toNat fn) as n .rw (decide (op = 0x1F)) = .ok (s1, fs) → pagedOut fs = [] →
    s1.allPlain (s1.me (some (BitVec.ofNat 3 (op - 0x19)))) (located fs) → (∀ x ∈ located fs, x.2.2.pa % n = 0) →
    let command := fun x : Nat × DWord × Loc => n = 8 ∧ 0x1D ≤ op ∧ x.2.2.pa % 4096 = 16
    ∃ t, exec ins s = .next t ∧ s.w.Keeps t.w ∧ s.w.KeepsRegs t.w d.toNat (n / 4) m
      ∧ (∀ x, (∀ y ∈ located fs, (x < y.2.2.pa ∨ y.2.2.pa + n ≤ x) ∧ (command y → x < y.2.2.pa + 8 ∨ y.2.2.pa + 16 ≤ x)) →
          t.byteAt x = s1.byteAt x)
      ∧ t.w.tiles = s.w.tiles ∧ t.w.dirty = s.w.dirty)
  ∧ (∀ (s : State) (l g : BitVec 4) (u : BitVec 1) (d a : BitVec 7) (w : BitVec 2) (x : BitVec 1) (n run out : Nat) (m : Mask)
    (srcs : List Nat) (ins : Instr),
    (ins = .bld l u d a w ∧ w.toNat < 3 ∧ n = 4 * 2 ^ w.toNat ∧ run = n / 4 ∧ out = n / 4 ∧ m = s.w.em ∧ srcs = [a.toNat])
      ∨ (ins = .bst g u d a w ∧ w.toNat < 3 ∧ n = 4 * 2 ^ w.toNat ∧ run = n / 4 ∧ out = 0 ∧ m = s.w.em &&& s.w.guard g
          ∧ srcs = [a.toNat, d.toNat])
      ∨ (ins ∈ [Instr.batomAdd l u d a x, .batomMin l u d a x, .batomMax l u d a x, .batomExch l u d a x] ∧ n = 4 * 2 ^ x.toNat
          ∧ run = n / 4 ∧ out = n / 4 ∧ m = s.w.em ∧ srcs = [a.toNat])
      ∨ (ins = .batomCas l u d a x ∧ n = 4 * 2 ^ x.toNat ∧ run = n / 2 ∧ out = n / 4 ∧ m = s.w.em ∧ srcs = [a.toNat]) →
    let os := (membersOf m).map fun k => ((s.w.src a.toNat 0).at k).toNat
    s.UnitReady [] (a.toNat :: (List.range run).map (d.toNat + ·)) srcs → s.srcOk a.toNat = true →
    (if run = 1 ∧ srcs.length = 2 then s.srcOk d.toNat else s.destOk d.toNat run) = true →
    (os.all fun o => o % n = 0 && decide (o + n ≤ s.wg.len u)) = true →
    ∃ t, exec ins s = .next t ∧ t.mem = s.mem ∧ s.w.Keeps t.w ∧ s.w.KeepsRegs t.w d.toNat out m
      ∧ t.w.tiles = s.w.tiles ∧ t.w.dirty = s.w.dirty ∧ t.lc = s.lc ∧ t.warps = s.warps
      ∧ (∀ k i, (∃ w, ins = .bld l u d a w) ∨ k ≠ u ∨ (∀ o ∈ os, i < o ∨ o + n ≤ i) → t.wg.buf k i = s.wg.buf k i))
  ∧ (∀ (s : State) (c : BitVec 4) (v : BitVec 7) (r : BitVec 6) (ins : Instr), s.passes (some c) = false →
    let t := s.w.tile c.toNat
    let x := (s.w.s r.toNat).toNat
    let b := x % 256
    let set := s.UnitReady [] [v.toNat] [v.toNat] ∧ s.srcOk v.toNat = true ∧ t.shape ≠ 0
    (ins = .tsetr c v r ∧ set ∧ x < t.rows) ∨ (ins = .tsetc c v r ∧ set ∧ x < t.cols)
      ∨ (s.accepts 22 [] false ∧ (ins = .tdrop c ∨ (ins = .tzero c ∧ t.shape ≠ 0)
          ∨ (ins = .tcfg c r ∧ c.toNat < s.kernel.tiles ∧ 1 ≤ b / 16 ∧ b / 16 ≤ 8
              ∧ 8 * (b / 16) * (8 * (b % 8 + 1)) * (if b / 8 % 2 = 1 then 16 else 32) / 8 ≤ 8192))) →
    ∃ u, exec ins s = .next u ∧ u.mem = s.mem ∧ s.w.Keeps u.w ∧ s.w.KeepsRegs u.w 0 0 0 ∧ u.wg = s.wg ∧ u.warps = s.warps
      ∧ ∀ k, k ≠ c.toNat → u.w.tile k = s.w.tile k ∧ u.w.dirty.getLsbD k = s.w.dirty.getLsbD k)
  ∧ (∀ (s s1 : State) (c : BitVec 4) (v : BitVec 7) (r : BitVec 6) (fs : List (Nat × DWord × Found1)) (ins : Instr) (n : Nat)
    (as : List (Nat × DWord)) (acc : Access),
    s.passes (some c) = false → (s.w.tile c.toNat).shape ≠ 0 → pagedOut fs = [] →
    let t := s.w.tile c.toNat
    let a := s.w.s r.toNat
    let rows := ((membersOf (s.actingLanes s.w.em)).filter (· < t.rows)).flatMap fun k =>
      (List.range (t.rowBytes / 16)).map fun i => (k, a + ((s.w.src v.toNat 0).at k).zeroExtend 64 + BitVec.ofNat 64 (16 * i))
    let lines := (List.range (t.rows * t.rowBytes / 64)).map fun i => (i, a + BitVec.ofNat 64 (64 * i))
    let byRows := s.UnitReady [] [v.toNat] [v.toNat] ∧ s.srcOk v.toNat = true ∧ s.w.em ≠ 0 ∧ n = 16 ∧ as = rows
    let whole := s.accepts 22 [] false ∧ a.toNat % 64 = 0 ∧ n = 64 ∧ as = lines
    (acc = .read ∧ ((ins = .tld c v r ∧ byRows) ∨ (ins = .tload c r ∧ whole)))
      ∨ (acc = .write ∧ ((ins = .tst c v r ∧ byRows) ∨ (ins = .tsave c r ∧ whole))) →
    s.mayIssue (linesOf as) → s.memCheck as n acc false = .ok (s1, fs) → s1.allPlain (s1.me none) (located fs) →
    ∃ u, exec ins s = .next u ∧ s.w.Keeps u.w ∧ s.w.KeepsRegs u.w 0 0 0 ∧ u.wg = s.wg
      ∧ s1.keepsMem u n (if acc = .read then [] else located fs)
      ∧ ∀ k, k ≠ c.toNat ∨ acc = .write → u.w.tile k = s.w.tile k)

/-- R153, R206: the VL1 functions and `vtopk` go on at the next word, memory and the scalar registers as the closing windows leave them.
R311: a `casm` of one entry or of two, in memory that serves the warp at once, stores the new values and gives status 0 where every
expected value stands, else the status that marks those that do not; up to sixteen entries are in `CompareAndSwapMany`. A success waits
for no strong store of the warp (assumption 73). R195, R196: `yield` and the fair swap, with the entries on chip or with one in memory,
give the warp to the waiting path at the bottom; R187: the pop at arrival gives it to the top entry's path, and an entry in memory, if
there is one, comes back on chip. R200, R201: `stk.save` and `stk.load` of an empty stack. Every condition is on
the state and the operands alone. Where a path goes on after a swap is the model's reading (assumption 23). -/
def Obligations.UnitsComplete : Prop :=
  (∀ (s : State) (l : BitVec 4) (d a : BitVec 7) (m : BitVec 3),
    let runs := fun i : Instr =>
      ∃ t, exec i s = .next t ∧ t.w.pc = s.w.pc + 4 ∧ t.w.issued = s.w.issued + 1 ∧ t.w.hints = [] ∧ t.mem = s.mem
        ∧ ∀ r, t.w.s r = s.w.tickWindows.s r
    (s.VectorReady [3] [(d.toNat, 1)] [a.toNat] →
      runs (.vrcp l d a) ∧ runs (.vrsq l d a) ∧ runs (.vex2 l d a) ∧ runs (.vlg2 l d a) ∧ runs (.vsin l d a) ∧ runs (.vcos l d a)
      ∧ runs (.vtanh l d a) ∧ (s.w.fm.toNat / 4096 % 8 < 6 → runs (.vsqrt l d a)))
    ∧ (s.VectorReady [3] [(d.toNat, 1), (a.toNat, 2)] [] → s.w.fm.toNat / 4096 % 8 < 6 → runs (.vdiv l d a))
    ∧ (s.accepts 7 [4] false → s.regsOk [(d.toNat, 2), (a.toNat, 2)] [] = true →
        (∀ r ∈ s.unitRegs [(d.toNat, 2), (a.toNat, 2)] [], s.pendingLanes r = false) →
        (∃ k, s.w.hintMod = some k ∧ 1 ≤ k.toNat ∧ k.toNat ≤ 64) → runs (.vtopk l d a m)))
  ∧ (∀ (s s1 s2 s3 s4 s5 : State) (l : BitVec 4) (d a : BitVec 6) (A E W : Nat) (loc : Loc),
    s.accepts 22 [] false → s.mayIssue 1 → ¬ (l ≠ 0 ∧ (d = 55 ∨ d = 56)) → s.w.casm = none →
    let b := s.w.s a.toNat
    let gives := fun (t : State) (v : Nat) =>
      let u := (t.setCasm none).send [v]
      u.done (u.w.ran l.toNat .memory [.s d.toNat (BitVec.ofNat 64 v)]) (t.w.pc + 4)
    b.toNat % 8 = 0 → casmRead s b = .ok (s1, 1) → casmRead s1 (b + 8) = .ok (s2, A) → casmRead s2 (b + 16) = .ok (s3, E) →
    casmRead s3 (b + 24) = .ok (s4, W) → A % 8 = 0 → s4.xlate (BitVec.ofNat 64 A) .rw = (s5, .ok loc) →
    s5.locOk loc.pa 8 false = true → s5.inPackage loc = true → s5.allPlain (s5.me (some 5)) [(0, 0, loc)] → loc.pa % 8 = 0 →
    s5.strongHeld = false →
    exec (.casm l d a 0) s = .next
      (if s5.valueAt loc.pa 8 = E then gives ((s5.poke loc.pa (bytesOf 8 W)).strong8 loc.pa W) 0 else gives s5 1))
  ∧ (∀ (s s1 s2 s3 s4 : State) (l : BitVec 4) (d a : BitVec 6) (x y : DWord × Nat × Nat) (p q : Loc),
    s.accepts 22 [] false → s.mayIssue 1 → ¬ (l ≠ 0 ∧ (d = 55 ∨ d = 56)) → s.w.casm = none →
    let b := s.w.s a.toNat
    let gives := fun (t : State) (v : Nat) =>
      let u := (t.setCasm none).send [v]
      u.done (u.w.ran l.toNat .memory [.s d.toNat (BitVec.ofNat 64 v)]) (t.w.pc + 4)
    b.toNat % 8 = 0 → casmRead s b = .ok (s1, 2) → casmEntries b 2 0 s1 = .ok (s2, [x, y]) → x.1.toNat % 8 = 0 → y.1.toNat % 8 = 0 →
    s2.xlate x.1 .rw = (s3, .ok p) → s3.xlate y.1 .rw = (s4, .ok q) → s3.locOk p.pa 8 false = true → s4.locOk q.pa 8 false = true →
    s4.inPackage p = true → s4.inPackage q = true → p.pa % 8 = 0 → q.pa % 8 = 0 → p.pa ≠ q.pa →
    let fst := (s4.poke p.pa (bytesOf 8 x.2.2)).strong8 p.pa x.2.2
    let snd := (fst.poke q.pa (bytesOf 8 y.2.2)).strong8 q.pa y.2.2
    (∀ t, t = s4 ∨ t = fst ∨ t = snd → t.allPlain (s4.me (some 5)) [(0, 0, p), (0, 0, q)]) → s4.strongHeld = false →
    let miss := (if s4.valueAt p.pa 8 = x.2.1 then 0 else 1) + if s4.valueAt q.pa 8 = y.2.1 then 0 else 2
    exec (.casm l d a 1) s = .next (if miss = 0 then gives snd 0 else gives s4 miss))
  ∧ (∀ s : State,
    let goesOn := fun (t : State) (e : Entry) =>
      t.w.pc = e.pc ∧ t.w.em = (e.mask &&& s.w.occ) ∧ t.w.fm = e.fm ∧ t.w.crpc = e.rpc ∧ t.w.windows = [] ∧ t.w.hints = []
        ∧ t.mem = s.mem
    let waiting := fun pc => (⟨pc, s.w.commitAll.em, s.w.crpc, s.w.commitAll.fm, true⟩ : Entry)
    (s.accepts 22 [] false → s.w.inh = true ∨ s.w.depth ≤ s.w.dh → exec .yield s = .next (s.closed [] (s.w.pc + 4)))
    ∧ (∀ e rest, s.w.dh = 0 → 0 < s.w.depth → s.w.depth ≤ 32 → s.w.stack.length = s.w.depth →
        s.w.stack = rest ++ [e] → e.k = true → e.mask &&& s.w.occ ≠ 0 →
        (s.accepts 22 [] false → s.w.inh = false →
          ∃ t, exec .yield s = .next t ∧ goesOn t e ∧ t.w.stack = waiting (s.w.pc + 4) :: rest ∧ t.w.depth = s.w.depth)
        ∧ ∃ t, exec .fairSwap s = .next t ∧ goesOn t e ∧ t.w.stack = waiting s.w.pc :: rest ∧ t.w.depth = s.w.depth)
    ∧ (∀ (s0 s1 s2 : State) (l : Loc) (e : Entry) (rest : List Entry) (ins : Instr) (pc : BitVec 48),
        (ins = .yield ∧ s.accepts 22 [] false ∧ s.w.inh = false ∧ pc = s.w.pc + 4 ∧ s0 = { s with w := s.w.commitAll })
          ∨ (ins = .fairSwap ∧ pc = s.w.pc ∧ s0 = { s with w := s.w.commitAll.dropHints }) →
        s.w.dh = 0 → s.w.depth = 33 → s.w.stack = rest ++ [e] → rest.length = 31 →
        s0.Reaches (s.w.spillAddr 0) .read 32 s1 l → s1.Reaches (s.w.spillAddr 0) .write 32 s2 l →
        let low := entryOf (s2.valueAt l.pa 32)
        s1.valueAt l.pa 32 = s2.valueAt l.pa 32 → low.k = true → low.mask &&& s.w.occ ≠ 0 →
        ∃ t, exec ins s = .next t ∧ t.w.pc = low.pc ∧ t.w.em = (low.mask &&& s.w.occ) ∧ t.w.fm = low.fm ∧ t.w.crpc = low.rpc
          ∧ t.w.windows = [] ∧ t.w.hints = [] ∧ t.w.stack = waiting pc :: rest ∧ t.w.depth = 33
          ∧ t.valueAt l.pa 32 = ofBytes e.bytes ∧ ∀ x, x < l.pa ∨ l.pa + 32 ≤ x → t.byteAt x = s2.byteAt x)
    ∧ (∀ (s1 : State) (l : Loc) (e : Entry) (rest : List Entry), 32 < s.w.depth → s.w.dh < s.w.depth → s.w.pc = s.w.crpc →
        s.w.stack = e :: rest → e.mask &&& s.w.occ ≠ 0 → e.pc ≠ e.rpc →
        ({ s with w := s.w.commitAll.dropHints }).Reaches (s.w.spillAddr (s.w.depth - 33)) .read 32 s1 l →
        ∃ t, exec .popAtArrival s = .next t ∧ t.w.pc = e.pc ∧ t.w.em = (e.mask &&& s.w.occ) ∧ t.w.fm = e.fm ∧ t.w.crpc = e.rpc
          ∧ t.w.windows = [] ∧ t.w.hints = [] ∧ t.w.stack = rest ++ [entryOf (s1.valueAt l.pa 32)]
          ∧ t.w.depth = s.w.depth - 1 ∧ ∀ x, t.byteAt x = s1.byteAt x)
    ∧ (s.w.stack = [] → s.w.depth = 0 →
        ∃ t, exec .fairSwap s = .next t ∧ t.w.pc = s.w.pc ∧ t.w.depth = 0 ∧ (∀ r, t.w.s r = s.w.commitAll.s r) ∧ t.mem = s.mem)
    ∧ ∀ e rest, s.w.dh < s.w.depth → s.w.depth ≤ 32 → s.w.pc = s.w.crpc → s.w.stack = e :: rest → e.mask &&& s.w.occ ≠ 0 →
        e.pc ≠ e.rpc →
        ∃ t, exec .popAtArrival s = .next t ∧ goesOn t e ∧ t.w.stack = rest ∧ t.w.depth = s.w.depth - 1)
  ∧ (∀ (s s1 : State) (l : Loc) (d a : BitVec 6), s.accepts 22 [] false →
    (s.w.depth = 0 → s.w.stack = [] → s.Reaches (s.w.s a.toNat) .write 32 s1 l →
      exec (.stkSave d a) s = .next
        (((s1.poke l.pa (bytesOf 8 0 ++ bytesOf 8 s.w.crpc.toNat ++ bytesOf 16 0)).buffer l 32).done
          (s.w.ran 0 .none [.s d.toNat 32]) (s.w.pc + 4)))
    ∧ (s.Reaches (s.w.s a.toNat) .read 32 s1 l → s1.valueAt l.pa 2 % 2048 = 0 →
      let crpc := BitVec.ofNat 48 (s1.valueAt (l.pa + 8) 6)
      crpc = 1 ∨ crpc.toNat % 4 = 0 →
      ∃ t, exec (.stkLoad a) s = .next t ∧ t.w.depth = 0 ∧ t.w.stack = [] ∧ t.w.crpc = crpc ∧ t.w.pc = s.w.pc + 4
        ∧ (∀ r, t.w.s r = s.w.tickWindows.s r) ∧ ∀ x, t.byteAt x = s1.byteAt x))
end

