-- ==== Sys2Proof/Laws/Cells.lean ====
section
/-! SUPPORT. Sparse maps: what a read finds after a write, and that every operation keeps the canonical form. -/

namespace Sys2Proof.Machine.Cells
variable {α : Type}

@[simp] theorem get_nil (d : α) (k : Nat) : get d [] k = d := rfl

theorem get_cons (d : α) (j : Nat) (v : α) (c : Cells α) (k : Nat) :
    get d ((j, v) :: c) k = if j = k then v else get d c k := rfl

theorem get_erase (d : α) (c : Cells α) (k j : Nat) : get d (erase c k) j = if j = k then d else get d c j := by
  induction c with
  | nil => simp [erase]
  | cons e r ih =>
    obtain ⟨i, v⟩ := e
    by_cases h : i = k
    · simp only [erase, h, if_true, ih, get_cons]
      by_cases hj : j = k
      · simp [hj]
      · simp [hj, Ne.symm hj]
    · simp only [erase, h, if_false, get_cons, ih]
      by_cases hij : i = j
      · subst hij; simp [h]
      · simp [hij]

theorem get_insert (d : α) (c : Cells α) (k j : Nat) (v : α) (hk : ∀ e ∈ c, e.1 ≠ k) :
    get d (insert c k v) j = if j = k then v else get d c j := by
  induction c with
  | nil => simp [insert, get_cons, eq_comm]
  | cons e r ih =>
    obtain ⟨i, x⟩ := e
    have hi : i ≠ k := hk (i, x) (by simp)
    have hr : ∀ e ∈ r, e.1 ≠ k := fun e he => hk e (List.mem_cons_of_mem _ he)
    by_cases hlt : k < i
    · simp [insert, hlt, get_cons, eq_comm]
    · simp only [insert, hlt, if_false, get_cons, ih hr]
      by_cases hij : i = j
      · subst hij; simp [hi]
      · simp [hij]

theorem not_mem_erase (c : Cells α) (k : Nat) : ∀ e ∈ erase c k, e.1 ≠ k := by
  induction c with
  | nil => simp [erase]
  | cons e r ih =>
    obtain ⟨i, x⟩ := e
    by_cases h : i = k
    · simpa [erase, h] using ih
    · simp only [erase, h, if_false, List.mem_cons]
      rintro e (rfl | he)
      · exact h
      · exact ih e he

/-- A read after a write of one key. -/
theorem get_set [DecidableEq α] (d : α) (c : Cells α) (k j : Nat) (v : α) :
    get d (set d c k v) j = if j = k then v else get d c j := by
  unfold set
  by_cases hv : v = d
  · simp only [hv, if_true, get_erase]
  · simp only [hv, if_false, get_insert d _ k j v (not_mem_erase c k), get_erase]
    by_cases hj : j = k <;> simp [hj]

@[simp] theorem get_set_self [DecidableEq α] (d : α) (c : Cells α) (k : Nat) (v : α) : get d (set d c k v) k = v := by
  simp [get_set]

theorem get_set_ne [DecidableEq α] (d : α) (c : Cells α) {k j : Nat} (v : α) (h : j ≠ k) :
    get d (set d c k v) j = get d c j := by simp [get_set, h]

theorem get_filter (d : α) (p : Nat → Bool) (c : Cells α) (k : Nat) :
    get d (c.filter fun e => p e.1) k = if p k then get d c k else d := by
  induction c with
  | nil => simp
  | cons e r ih =>
    obtain ⟨i, v⟩ := e
    by_cases hp : p i
    · simp only [List.filter_cons, hp, if_true, get_cons, ih]
      by_cases h : i = k
      · subst h; simp [hp]
      · simp [h]
    · simp only [List.filter_cons, hp, get_cons]
      by_cases h : i = k
      · subst h; simp [hp, ih]
      · simp [h, ih]

/-! The canonical form. -/

theorem above_of_mem {k : Nat} {c : Cells α} : above k c = true ↔ ∀ e ∈ c, k < e.1 := by
  simp [above, List.all_eq_true]

theorem wf_cons [DecidableEq α] (d : α) (k : Nat) (v : α) (c : Cells α) :
    wf d ((k, v) :: c) = true ↔ (∀ e ∈ c, k < e.1) ∧ v ≠ d ∧ wf d c = true := by
  simp [wf, above_of_mem, and_assoc]

theorem wf_filter [DecidableEq α] (d : α) (p : Nat × α → Bool) (c : Cells α) (h : wf d c = true) : wf d (c.filter p) = true := by
  induction c with
  | nil => simp [wf]
  | cons e r ih =>
    obtain ⟨k, v⟩ := e
    obtain ⟨ha, hv, hr⟩ := (wf_cons d k v r).1 h
    by_cases hp : p (k, v)
    · simp only [List.filter_cons, hp, if_true]
      exact (wf_cons d k v _).2 ⟨fun e he => ha e (List.mem_filter.1 he).1, hv, ih hr⟩
    · simpa [List.filter_cons, hp] using ih hr

theorem mem_erase {c : Cells α} {k : Nat} {e : Nat × α} (h : e ∈ erase c k) : e ∈ c := by
  induction c with
  | nil => exact h
  | cons f r ih =>
    obtain ⟨j, v⟩ := f
    by_cases hj : j = k
    · exact List.mem_cons_of_mem _ (ih (by simpa [erase, hj] using h))
    · simp only [erase, hj, if_false, List.mem_cons] at h
      rcases h with rfl | h
      · simp
      · exact List.mem_cons_of_mem _ (ih h)

theorem wf_erase [DecidableEq α] (d : α) (c : Cells α) (k : Nat) (h : wf d c = true) : wf d (erase c k) = true := by
  induction c with
  | nil => exact h
  | cons e r ih =>
    obtain ⟨j, v⟩ := e
    obtain ⟨ha, hv, hr⟩ := (wf_cons d j v r).1 h
    by_cases hj : j = k
    · simpa [erase, hj] using ih hr
    · simp only [erase, hj, if_false]
      exact (wf_cons d j v _).2 ⟨fun e he => ha e (mem_erase he), hv, ih hr⟩

theorem mem_insert {c : Cells α} {k : Nat} {v : α} {e : Nat × α} (h : e ∈ insert c k v) : e = (k, v) ∨ e ∈ c := by
  induction c with
  | nil => simpa [insert] using h
  | cons f r ih =>
    obtain ⟨j, x⟩ := f
    by_cases hj : k < j
    · simpa [insert, hj] using h
    · simp only [insert, hj, if_false, List.mem_cons] at h ⊢
      rcases h with rfl | h
      · simp
      · rcases ih h with h | h <;> simp [h]

theorem wf_insert [DecidableEq α] (d : α) (c : Cells α) (k : Nat) (v : α) (hv : v ≠ d) (hk : ∀ e ∈ c, e.1 ≠ k)
    (h : wf d c = true) : wf d (insert c k v) = true := by
  induction c with
  | nil => simp [insert, wf, above, hv]
  | cons e r ih =>
    obtain ⟨j, x⟩ := e
    obtain ⟨ha, hx, hr⟩ := (wf_cons d j x r).1 h
    have hjk : j ≠ k := hk (j, x) (by simp)
    by_cases hj : k < j
    · simp only [insert, hj, if_true]
      refine (wf_cons d k v _).2 ⟨?_, hv, h⟩
      intro e he
      rcases List.mem_cons.1 he with rfl | he
      · exact hj
      · exact Nat.lt_trans hj (ha e he)
    · simp only [insert, hj, if_false]
      refine (wf_cons d j x _).2 ⟨?_, hx, ih (fun e he => hk e (List.mem_cons_of_mem _ he)) hr⟩
      intro e he
      rcases mem_insert he with rfl | he
      · show j < k
        omega
      · exact ha e he

/-- A write keeps the canonical form. -/
theorem wf_set [DecidableEq α] (d : α) (c : Cells α) (k : Nat) (v : α) (h : wf d c = true) : wf d (set d c k v) = true := by
  unfold set
  by_cases hv : v = d
  · simpa [hv] using wf_erase d c k h
  · simpa [hv] using wf_insert d _ k v hv (not_mem_erase c k) (wf_erase d c k h)

end Sys2Proof.Machine.Cells
end

