-- ==== Sys2Proof/Laws/State.lean ====
section
/-! SUPPORT. What each named update of a state or a warp leaves: one lemma for each field and update, and what a read finds
after a write. -/

namespace Sys2Proof.Machine

/-! Updates of the state. -/

@[simp] theorem State.setLd_w (s : State) (n : Nat) (x : LdState) : (s.setLd n x).w = s.w := rfl
@[simp] theorem State.setLd_wg (s : State) (n : Nat) (x : LdState) : (s.setLd n x).wg = s.wg := rfl
@[simp] theorem State.setLd_lc (s : State) (n : Nat) (x : LdState) : (s.setLd n x).lc = s.lc := rfl
@[simp] theorem State.setLd_warps (s : State) (n : Nat) (x : LdState) : (s.setLd n x).warps = s.warps := rfl
@[simp] theorem State.setLd_groups (s : State) (n : Nat) (x : LdState) : (s.setLd n x).groups = s.groups := rfl
@[simp] theorem State.setLd_launches (s : State) (n : Nat) (x : LdState) : (s.setLd n x).launches = s.launches := rfl
@[simp] theorem State.setLd_columns (s : State) (n : Nat) (x : LdState) : (s.setLd n x).columns = s.columns := rfl
@[simp] theorem State.setLd_clusters (s : State) (n : Nat) (x : LdState) : (s.setLd n x).clusters = s.clusters := rfl
@[simp] theorem State.setLd_ports (s : State) (n : Nat) (x : LdState) : (s.setLd n x).ports = s.ports := rfl
@[simp] theorem State.setLd_modules (s : State) (n : Nat) (x : LdState) : (s.setLd n x).modules = s.modules := rfl
@[simp] theorem State.setLd_retrains (s : State) (n : Nat) (x : LdState) : (s.setLd n x).retrains = s.retrains := rfl
@[simp] theorem State.setLd_mem (s : State) (n : Nat) (x : LdState) : (s.setLd n x).mem = s.mem := rfl
@[simp] theorem State.setLd_poison (s : State) (n : Nat) (x : LdState) : (s.setLd n x).poison = s.poison := rfl
@[simp] theorem State.setLd_healed (s : State) (n : Nat) (x : LdState) : (s.setLd n x).healed = s.healed := rfl
@[simp] theorem State.setLd_copies (s : State) (n : Nat) (x : LdState) : (s.setLd n x).copies = s.copies := rfl
@[simp] theorem State.setLd_hartLines (s : State) (n : Nat) (x : LdState) : (s.setLd n x).hartLines = s.hartLines := rfl
@[simp] theorem State.setLd_flips (s : State) (n : Nat) (x : LdState) : (s.setLd n x).flips = s.flips := rfl
@[simp] theorem State.setLd_tlb (s : State) (n : Nat) (x : LdState) : (s.setLd n x).tlb = s.tlb := rfl
@[simp] theorem State.setLd_walkWords (s : State) (n : Nat) (x : LdState) : (s.setLd n x).walkWords = s.walkWords := rfl
@[simp] theorem State.setLd_ops (s : State) (n : Nat) (x : LdState) : (s.setLd n x).ops = s.ops := rfl
@[simp] theorem State.setLd_nextOp (s : State) (n : Nat) (x : LdState) : (s.setLd n x).nextOp = s.nextOp := rfl
@[simp] theorem State.setLd_accepted (s : State) (n : Nat) (x : LdState) : (s.setLd n x).accepted = s.accepted := rfl
@[simp] theorem State.setLd_waits (s : State) (n : Nat) (x : LdState) : (s.setLd n x).waits = s.waits := rfl
@[simp] theorem State.setLd_vxarena (s : State) (n : Nat) (x : LdState) : (s.setLd n x).vxarena = s.vxarena := rfl
@[simp] theorem State.setLd_vxarenan (s : State) (n : Nat) (x : LdState) : (s.setLd n x).vxarenan = s.vxarenan := rfl
@[simp] theorem State.setLd_vxpkg (s : State) (n : Nat) (x : LdState) : (s.setLd n x).vxpkg = s.vxpkg := rfl
@[simp] theorem State.setLd_pkgFixed (s : State) (n : Nat) (x : LdState) : (s.setLd n x).pkgFixed = s.pkgFixed := rfl
@[simp] theorem State.setLd_vxualen (s : State) (n : Nat) (x : LdState) : (s.setLd n x).vxualen = s.vxualen := rfl
@[simp] theorem State.setLd_vxualdrop (s : State) (n : Nat) (x : LdState) : (s.setLd n x).vxualdrop = s.vxualdrop := rfl
@[simp] theorem State.setLd_tick (s : State) (n : Nat) (x : LdState) : (s.setLd n x).tick = s.tick := rfl
@[simp] theorem State.setLd_power (s : State) (n : Nat) (x : LdState) : (s.setLd n x).power = s.power := rfl
@[simp] theorem State.setLd_phase (s : State) (n : Nat) (x : LdState) : (s.setLd n x).phase = s.phase := rfl
@[simp] theorem State.setLd_start (s : State) (n : Nat) (x : LdState) : (s.setLd n x).start = s.start := rfl
@[simp] theorem State.setLd_images (s : State) (n : Nat) (x : LdState) : (s.setLd n x).images = s.images := rfl
@[simp] theorem State.setLd_dayCaps (s : State) (n : Nat) (x : LdState) : (s.setLd n x).dayCaps = s.dayCaps := rfl
@[simp] theorem State.setLd_mgmt (s : State) (n : Nat) (x : LdState) : (s.setLd n x).mgmt = s.mgmt := rfl
@[simp] theorem State.setLd_outbox (s : State) (n : Nat) (x : LdState) : (s.setLd n x).outbox = s.outbox := rfl
@[simp] theorem State.setLd_sel (s : State) (n : Nat) (x : LdState) : (s.setLd n x).sel = s.sel := rfl
@[simp] theorem State.setLd_cycle (s : State) (n : Nat) (x : LdState) : (s.setLd n x).cycle = s.cycle := rfl
@[simp] theorem State.setLd_issueQ (s : State) (n : Nat) (x : LdState) : (s.setLd n x).issueQ = s.issueQ := rfl
@[simp] theorem State.setLd_agenda (s : State) (n : Nat) (x : LdState) : (s.setLd n x).agenda = s.agenda := rfl
@[simp] theorem State.setLd_again (s : State) (n : Nat) (x : LdState) : (s.setLd n x).again = s.again := rfl
@[simp] theorem State.setLd_fresh (s : State) (n : Nat) (x : LdState) : (s.setLd n x).fresh = s.fresh := rfl
@[simp] theorem State.setLd_opLatency (s : State) (n : Nat) (x : LdState) : (s.setLd n x).opLatency = s.opLatency := rfl

@[simp] theorem State.setCol_w (s : State) (n k : Nat) (x : Column) : (s.setCol n k x).w = s.w := rfl
@[simp] theorem State.setCol_wg (s : State) (n k : Nat) (x : Column) : (s.setCol n k x).wg = s.wg := rfl
@[simp] theorem State.setCol_lc (s : State) (n k : Nat) (x : Column) : (s.setCol n k x).lc = s.lc := rfl
@[simp] theorem State.setCol_warps (s : State) (n k : Nat) (x : Column) : (s.setCol n k x).warps = s.warps := rfl
@[simp] theorem State.setCol_groups (s : State) (n k : Nat) (x : Column) : (s.setCol n k x).groups = s.groups := rfl
@[simp] theorem State.setCol_launches (s : State) (n k : Nat) (x : Column) : (s.setCol n k x).launches = s.launches := rfl
@[simp] theorem State.setCol_lds (s : State) (n k : Nat) (x : Column) : (s.setCol n k x).lds = s.lds := rfl
@[simp] theorem State.setCol_clusters (s : State) (n k : Nat) (x : Column) : (s.setCol n k x).clusters = s.clusters := rfl
@[simp] theorem State.setCol_ports (s : State) (n k : Nat) (x : Column) : (s.setCol n k x).ports = s.ports := rfl
@[simp] theorem State.setCol_modules (s : State) (n k : Nat) (x : Column) : (s.setCol n k x).modules = s.modules := rfl
@[simp] theorem State.setCol_retrains (s : State) (n k : Nat) (x : Column) : (s.setCol n k x).retrains = s.retrains := rfl
@[simp] theorem State.setCol_mem (s : State) (n k : Nat) (x : Column) : (s.setCol n k x).mem = s.mem := rfl
@[simp] theorem State.setCol_poison (s : State) (n k : Nat) (x : Column) : (s.setCol n k x).poison = s.poison := rfl
@[simp] theorem State.setCol_healed (s : State) (n k : Nat) (x : Column) : (s.setCol n k x).healed = s.healed := rfl
@[simp] theorem State.setCol_copies (s : State) (n k : Nat) (x : Column) : (s.setCol n k x).copies = s.copies := rfl
@[simp] theorem State.setCol_hartLines (s : State) (n k : Nat) (x : Column) : (s.setCol n k x).hartLines = s.hartLines := rfl
@[simp] theorem State.setCol_flips (s : State) (n k : Nat) (x : Column) : (s.setCol n k x).flips = s.flips := rfl
@[simp] theorem State.setCol_tlb (s : State) (n k : Nat) (x : Column) : (s.setCol n k x).tlb = s.tlb := rfl
@[simp] theorem State.setCol_walkWords (s : State) (n k : Nat) (x : Column) : (s.setCol n k x).walkWords = s.walkWords := rfl
@[simp] theorem State.setCol_ops (s : State) (n k : Nat) (x : Column) : (s.setCol n k x).ops = s.ops := rfl
@[simp] theorem State.setCol_nextOp (s : State) (n k : Nat) (x : Column) : (s.setCol n k x).nextOp = s.nextOp := rfl
@[simp] theorem State.setCol_accepted (s : State) (n k : Nat) (x : Column) : (s.setCol n k x).accepted = s.accepted := rfl
@[simp] theorem State.setCol_waits (s : State) (n k : Nat) (x : Column) : (s.setCol n k x).waits = s.waits := rfl
@[simp] theorem State.setCol_vxarena (s : State) (n k : Nat) (x : Column) : (s.setCol n k x).vxarena = s.vxarena := rfl
@[simp] theorem State.setCol_vxarenan (s : State) (n k : Nat) (x : Column) : (s.setCol n k x).vxarenan = s.vxarenan := rfl
@[simp] theorem State.setCol_vxpkg (s : State) (n k : Nat) (x : Column) : (s.setCol n k x).vxpkg = s.vxpkg := rfl
@[simp] theorem State.setCol_pkgFixed (s : State) (n k : Nat) (x : Column) : (s.setCol n k x).pkgFixed = s.pkgFixed := rfl
@[simp] theorem State.setCol_vxualen (s : State) (n k : Nat) (x : Column) : (s.setCol n k x).vxualen = s.vxualen := rfl
@[simp] theorem State.setCol_vxualdrop (s : State) (n k : Nat) (x : Column) : (s.setCol n k x).vxualdrop = s.vxualdrop := rfl
@[simp] theorem State.setCol_tick (s : State) (n k : Nat) (x : Column) : (s.setCol n k x).tick = s.tick := rfl
@[simp] theorem State.setCol_power (s : State) (n k : Nat) (x : Column) : (s.setCol n k x).power = s.power := rfl
@[simp] theorem State.setCol_phase (s : State) (n k : Nat) (x : Column) : (s.setCol n k x).phase = s.phase := rfl
@[simp] theorem State.setCol_start (s : State) (n k : Nat) (x : Column) : (s.setCol n k x).start = s.start := rfl
@[simp] theorem State.setCol_images (s : State) (n k : Nat) (x : Column) : (s.setCol n k x).images = s.images := rfl
@[simp] theorem State.setCol_dayCaps (s : State) (n k : Nat) (x : Column) : (s.setCol n k x).dayCaps = s.dayCaps := rfl
@[simp] theorem State.setCol_mgmt (s : State) (n k : Nat) (x : Column) : (s.setCol n k x).mgmt = s.mgmt := rfl
@[simp] theorem State.setCol_outbox (s : State) (n k : Nat) (x : Column) : (s.setCol n k x).outbox = s.outbox := rfl
@[simp] theorem State.setCol_sel (s : State) (n k : Nat) (x : Column) : (s.setCol n k x).sel = s.sel := rfl
@[simp] theorem State.setCol_cycle (s : State) (n k : Nat) (x : Column) : (s.setCol n k x).cycle = s.cycle := rfl
@[simp] theorem State.setCol_issueQ (s : State) (n k : Nat) (x : Column) : (s.setCol n k x).issueQ = s.issueQ := rfl
@[simp] theorem State.setCol_agenda (s : State) (n k : Nat) (x : Column) : (s.setCol n k x).agenda = s.agenda := rfl
@[simp] theorem State.setCol_again (s : State) (n k : Nat) (x : Column) : (s.setCol n k x).again = s.again := rfl
@[simp] theorem State.setCol_fresh (s : State) (n k : Nat) (x : Column) : (s.setCol n k x).fresh = s.fresh := rfl
@[simp] theorem State.setCol_opLatency (s : State) (n k : Nat) (x : Column) : (s.setCol n k x).opLatency = s.opLatency := rfl

@[simp] theorem State.setCluster_w (s : State) (c : Cluster) (x : ClusterState) : (s.setCluster c x).w = s.w := rfl
@[simp] theorem State.setCluster_wg (s : State) (c : Cluster) (x : ClusterState) : (s.setCluster c x).wg = s.wg := rfl
@[simp] theorem State.setCluster_lc (s : State) (c : Cluster) (x : ClusterState) : (s.setCluster c x).lc = s.lc := rfl
@[simp] theorem State.setCluster_warps (s : State) (c : Cluster) (x : ClusterState) : (s.setCluster c x).warps = s.warps := rfl
@[simp] theorem State.setCluster_groups (s : State) (c : Cluster) (x : ClusterState) : (s.setCluster c x).groups = s.groups := rfl
@[simp] theorem State.setCluster_launches (s : State) (c : Cluster) (x : ClusterState) : (s.setCluster c x).launches = s.launches := rfl
@[simp] theorem State.setCluster_lds (s : State) (c : Cluster) (x : ClusterState) : (s.setCluster c x).lds = s.lds := rfl
@[simp] theorem State.setCluster_columns (s : State) (c : Cluster) (x : ClusterState) : (s.setCluster c x).columns = s.columns := rfl
@[simp] theorem State.setCluster_ports (s : State) (c : Cluster) (x : ClusterState) : (s.setCluster c x).ports = s.ports := rfl
@[simp] theorem State.setCluster_modules (s : State) (c : Cluster) (x : ClusterState) : (s.setCluster c x).modules = s.modules := rfl
@[simp] theorem State.setCluster_retrains (s : State) (c : Cluster) (x : ClusterState) : (s.setCluster c x).retrains = s.retrains := rfl
@[simp] theorem State.setCluster_mem (s : State) (c : Cluster) (x : ClusterState) : (s.setCluster c x).mem = s.mem := rfl
@[simp] theorem State.setCluster_poison (s : State) (c : Cluster) (x : ClusterState) : (s.setCluster c x).poison = s.poison := rfl
@[simp] theorem State.setCluster_healed (s : State) (c : Cluster) (x : ClusterState) : (s.setCluster c x).healed = s.healed := rfl
@[simp] theorem State.setCluster_copies (s : State) (c : Cluster) (x : ClusterState) : (s.setCluster c x).copies = s.copies := rfl
@[simp] theorem State.setCluster_hartLines (s : State) (c : Cluster) (x : ClusterState) : (s.setCluster c x).hartLines = s.hartLines := rfl
@[simp] theorem State.setCluster_flips (s : State) (c : Cluster) (x : ClusterState) : (s.setCluster c x).flips = s.flips := rfl
@[simp] theorem State.setCluster_tlb (s : State) (c : Cluster) (x : ClusterState) : (s.setCluster c x).tlb = s.tlb := rfl
@[simp] theorem State.setCluster_walkWords (s : State) (c : Cluster) (x : ClusterState) : (s.setCluster c x).walkWords = s.walkWords := rfl
@[simp] theorem State.setCluster_ops (s : State) (c : Cluster) (x : ClusterState) : (s.setCluster c x).ops = s.ops := rfl
@[simp] theorem State.setCluster_nextOp (s : State) (c : Cluster) (x : ClusterState) : (s.setCluster c x).nextOp = s.nextOp := rfl
@[simp] theorem State.setCluster_accepted (s : State) (c : Cluster) (x : ClusterState) : (s.setCluster c x).accepted = s.accepted := rfl
@[simp] theorem State.setCluster_waits (s : State) (c : Cluster) (x : ClusterState) : (s.setCluster c x).waits = s.waits := rfl
@[simp] theorem State.setCluster_vxarena (s : State) (c : Cluster) (x : ClusterState) : (s.setCluster c x).vxarena = s.vxarena := rfl
@[simp] theorem State.setCluster_vxarenan (s : State) (c : Cluster) (x : ClusterState) : (s.setCluster c x).vxarenan = s.vxarenan := rfl
@[simp] theorem State.setCluster_vxpkg (s : State) (c : Cluster) (x : ClusterState) : (s.setCluster c x).vxpkg = s.vxpkg := rfl
@[simp] theorem State.setCluster_pkgFixed (s : State) (c : Cluster) (x : ClusterState) : (s.setCluster c x).pkgFixed = s.pkgFixed := rfl
@[simp] theorem State.setCluster_vxualen (s : State) (c : Cluster) (x : ClusterState) : (s.setCluster c x).vxualen = s.vxualen := rfl
@[simp] theorem State.setCluster_vxualdrop (s : State) (c : Cluster) (x : ClusterState) : (s.setCluster c x).vxualdrop = s.vxualdrop := rfl
@[simp] theorem State.setCluster_tick (s : State) (c : Cluster) (x : ClusterState) : (s.setCluster c x).tick = s.tick := rfl
@[simp] theorem State.setCluster_power (s : State) (c : Cluster) (x : ClusterState) : (s.setCluster c x).power = s.power := rfl
@[simp] theorem State.setCluster_phase (s : State) (c : Cluster) (x : ClusterState) : (s.setCluster c x).phase = s.phase := rfl
@[simp] theorem State.setCluster_start (s : State) (c : Cluster) (x : ClusterState) : (s.setCluster c x).start = s.start := rfl
@[simp] theorem State.setCluster_images (s : State) (c : Cluster) (x : ClusterState) : (s.setCluster c x).images = s.images := rfl
@[simp] theorem State.setCluster_dayCaps (s : State) (c : Cluster) (x : ClusterState) : (s.setCluster c x).dayCaps = s.dayCaps := rfl
@[simp] theorem State.setCluster_mgmt (s : State) (c : Cluster) (x : ClusterState) : (s.setCluster c x).mgmt = s.mgmt := rfl
@[simp] theorem State.setCluster_outbox (s : State) (c : Cluster) (x : ClusterState) : (s.setCluster c x).outbox = s.outbox := rfl
@[simp] theorem State.setCluster_sel (s : State) (c : Cluster) (x : ClusterState) : (s.setCluster c x).sel = s.sel := rfl
@[simp] theorem State.setCluster_cycle (s : State) (c : Cluster) (x : ClusterState) : (s.setCluster c x).cycle = s.cycle := rfl
@[simp] theorem State.setCluster_issueQ (s : State) (c : Cluster) (x : ClusterState) : (s.setCluster c x).issueQ = s.issueQ := rfl
@[simp] theorem State.setCluster_agenda (s : State) (c : Cluster) (x : ClusterState) : (s.setCluster c x).agenda = s.agenda := rfl
@[simp] theorem State.setCluster_again (s : State) (c : Cluster) (x : ClusterState) : (s.setCluster c x).again = s.again := rfl
@[simp] theorem State.setCluster_fresh (s : State) (c : Cluster) (x : ClusterState) : (s.setCluster c x).fresh = s.fresh := rfl
@[simp] theorem State.setCluster_opLatency (s : State) (c : Cluster) (x : ClusterState) : (s.setCluster c x).opLatency = s.opLatency := rfl

@[simp] theorem State.setPort_w (s : State) (n : Nat) (x : Port) : (s.setPort n x).w = s.w := rfl
@[simp] theorem State.setPort_wg (s : State) (n : Nat) (x : Port) : (s.setPort n x).wg = s.wg := rfl
@[simp] theorem State.setPort_lc (s : State) (n : Nat) (x : Port) : (s.setPort n x).lc = s.lc := rfl
@[simp] theorem State.setPort_warps (s : State) (n : Nat) (x : Port) : (s.setPort n x).warps = s.warps := rfl
@[simp] theorem State.setPort_groups (s : State) (n : Nat) (x : Port) : (s.setPort n x).groups = s.groups := rfl
@[simp] theorem State.setPort_launches (s : State) (n : Nat) (x : Port) : (s.setPort n x).launches = s.launches := rfl
@[simp] theorem State.setPort_lds (s : State) (n : Nat) (x : Port) : (s.setPort n x).lds = s.lds := rfl
@[simp] theorem State.setPort_columns (s : State) (n : Nat) (x : Port) : (s.setPort n x).columns = s.columns := rfl
@[simp] theorem State.setPort_clusters (s : State) (n : Nat) (x : Port) : (s.setPort n x).clusters = s.clusters := rfl
@[simp] theorem State.setPort_modules (s : State) (n : Nat) (x : Port) : (s.setPort n x).modules = s.modules := rfl
@[simp] theorem State.setPort_retrains (s : State) (n : Nat) (x : Port) : (s.setPort n x).retrains = s.retrains := rfl
@[simp] theorem State.setPort_mem (s : State) (n : Nat) (x : Port) : (s.setPort n x).mem = s.mem := rfl
@[simp] theorem State.setPort_poison (s : State) (n : Nat) (x : Port) : (s.setPort n x).poison = s.poison := rfl
@[simp] theorem State.setPort_healed (s : State) (n : Nat) (x : Port) : (s.setPort n x).healed = s.healed := rfl
@[simp] theorem State.setPort_copies (s : State) (n : Nat) (x : Port) : (s.setPort n x).copies = s.copies := rfl
@[simp] theorem State.setPort_hartLines (s : State) (n : Nat) (x : Port) : (s.setPort n x).hartLines = s.hartLines := rfl
@[simp] theorem State.setPort_flips (s : State) (n : Nat) (x : Port) : (s.setPort n x).flips = s.flips := rfl
@[simp] theorem State.setPort_tlb (s : State) (n : Nat) (x : Port) : (s.setPort n x).tlb = s.tlb := rfl
@[simp] theorem State.setPort_walkWords (s : State) (n : Nat) (x : Port) : (s.setPort n x).walkWords = s.walkWords := rfl
@[simp] theorem State.setPort_ops (s : State) (n : Nat) (x : Port) : (s.setPort n x).ops = s.ops := rfl
@[simp] theorem State.setPort_nextOp (s : State) (n : Nat) (x : Port) : (s.setPort n x).nextOp = s.nextOp := rfl
@[simp] theorem State.setPort_accepted (s : State) (n : Nat) (x : Port) : (s.setPort n x).accepted = s.accepted := rfl
@[simp] theorem State.setPort_waits (s : State) (n : Nat) (x : Port) : (s.setPort n x).waits = s.waits := rfl
@[simp] theorem State.setPort_vxarena (s : State) (n : Nat) (x : Port) : (s.setPort n x).vxarena = s.vxarena := rfl
@[simp] theorem State.setPort_vxarenan (s : State) (n : Nat) (x : Port) : (s.setPort n x).vxarenan = s.vxarenan := rfl
@[simp] theorem State.setPort_vxpkg (s : State) (n : Nat) (x : Port) : (s.setPort n x).vxpkg = s.vxpkg := rfl
@[simp] theorem State.setPort_pkgFixed (s : State) (n : Nat) (x : Port) : (s.setPort n x).pkgFixed = s.pkgFixed := rfl
@[simp] theorem State.setPort_vxualen (s : State) (n : Nat) (x : Port) : (s.setPort n x).vxualen = s.vxualen := rfl
@[simp] theorem State.setPort_vxualdrop (s : State) (n : Nat) (x : Port) : (s.setPort n x).vxualdrop = s.vxualdrop := rfl
@[simp] theorem State.setPort_tick (s : State) (n : Nat) (x : Port) : (s.setPort n x).tick = s.tick := rfl
@[simp] theorem State.setPort_power (s : State) (n : Nat) (x : Port) : (s.setPort n x).power = s.power := rfl
@[simp] theorem State.setPort_phase (s : State) (n : Nat) (x : Port) : (s.setPort n x).phase = s.phase := rfl
@[simp] theorem State.setPort_start (s : State) (n : Nat) (x : Port) : (s.setPort n x).start = s.start := rfl
@[simp] theorem State.setPort_images (s : State) (n : Nat) (x : Port) : (s.setPort n x).images = s.images := rfl
@[simp] theorem State.setPort_dayCaps (s : State) (n : Nat) (x : Port) : (s.setPort n x).dayCaps = s.dayCaps := rfl
@[simp] theorem State.setPort_mgmt (s : State) (n : Nat) (x : Port) : (s.setPort n x).mgmt = s.mgmt := rfl
@[simp] theorem State.setPort_outbox (s : State) (n : Nat) (x : Port) : (s.setPort n x).outbox = s.outbox := rfl
@[simp] theorem State.setPort_sel (s : State) (n : Nat) (x : Port) : (s.setPort n x).sel = s.sel := rfl
@[simp] theorem State.setPort_cycle (s : State) (n : Nat) (x : Port) : (s.setPort n x).cycle = s.cycle := rfl
@[simp] theorem State.setPort_issueQ (s : State) (n : Nat) (x : Port) : (s.setPort n x).issueQ = s.issueQ := rfl
@[simp] theorem State.setPort_agenda (s : State) (n : Nat) (x : Port) : (s.setPort n x).agenda = s.agenda := rfl
@[simp] theorem State.setPort_again (s : State) (n : Nat) (x : Port) : (s.setPort n x).again = s.again := rfl
@[simp] theorem State.setPort_fresh (s : State) (n : Nat) (x : Port) : (s.setPort n x).fresh = s.fresh := rfl
@[simp] theorem State.setPort_opLatency (s : State) (n : Nat) (x : Port) : (s.setPort n x).opLatency = s.opLatency := rfl

@[simp] theorem State.setQueueOf_w (s : State) (n q : Nat) (x : Queue) : (s.setQueueOf n q x).w = s.w := rfl
@[simp] theorem State.setQueueOf_wg (s : State) (n q : Nat) (x : Queue) : (s.setQueueOf n q x).wg = s.wg := rfl
@[simp] theorem State.setQueueOf_lc (s : State) (n q : Nat) (x : Queue) : (s.setQueueOf n q x).lc = s.lc := rfl
@[simp] theorem State.setQueueOf_warps (s : State) (n q : Nat) (x : Queue) : (s.setQueueOf n q x).warps = s.warps := rfl
@[simp] theorem State.setQueueOf_groups (s : State) (n q : Nat) (x : Queue) : (s.setQueueOf n q x).groups = s.groups := rfl
@[simp] theorem State.setQueueOf_launches (s : State) (n q : Nat) (x : Queue) : (s.setQueueOf n q x).launches = s.launches := rfl
@[simp] theorem State.setQueueOf_columns (s : State) (n q : Nat) (x : Queue) : (s.setQueueOf n q x).columns = s.columns := rfl
@[simp] theorem State.setQueueOf_clusters (s : State) (n q : Nat) (x : Queue) : (s.setQueueOf n q x).clusters = s.clusters := rfl
@[simp] theorem State.setQueueOf_ports (s : State) (n q : Nat) (x : Queue) : (s.setQueueOf n q x).ports = s.ports := rfl
@[simp] theorem State.setQueueOf_modules (s : State) (n q : Nat) (x : Queue) : (s.setQueueOf n q x).modules = s.modules := rfl
@[simp] theorem State.setQueueOf_retrains (s : State) (n q : Nat) (x : Queue) : (s.setQueueOf n q x).retrains = s.retrains := rfl
@[simp] theorem State.setQueueOf_mem (s : State) (n q : Nat) (x : Queue) : (s.setQueueOf n q x).mem = s.mem := rfl
@[simp] theorem State.setQueueOf_poison (s : State) (n q : Nat) (x : Queue) : (s.setQueueOf n q x).poison = s.poison := rfl
@[simp] theorem State.setQueueOf_healed (s : State) (n q : Nat) (x : Queue) : (s.setQueueOf n q x).healed = s.healed := rfl
@[simp] theorem State.setQueueOf_copies (s : State) (n q : Nat) (x : Queue) : (s.setQueueOf n q x).copies = s.copies := rfl
@[simp] theorem State.setQueueOf_hartLines (s : State) (n q : Nat) (x : Queue) : (s.setQueueOf n q x).hartLines = s.hartLines := rfl
@[simp] theorem State.setQueueOf_flips (s : State) (n q : Nat) (x : Queue) : (s.setQueueOf n q x).flips = s.flips := rfl
@[simp] theorem State.setQueueOf_tlb (s : State) (n q : Nat) (x : Queue) : (s.setQueueOf n q x).tlb = s.tlb := rfl
@[simp] theorem State.setQueueOf_walkWords (s : State) (n q : Nat) (x : Queue) : (s.setQueueOf n q x).walkWords = s.walkWords := rfl
@[simp] theorem State.setQueueOf_ops (s : State) (n q : Nat) (x : Queue) : (s.setQueueOf n q x).ops = s.ops := rfl
@[simp] theorem State.setQueueOf_nextOp (s : State) (n q : Nat) (x : Queue) : (s.setQueueOf n q x).nextOp = s.nextOp := rfl
@[simp] theorem State.setQueueOf_accepted (s : State) (n q : Nat) (x : Queue) : (s.setQueueOf n q x).accepted = s.accepted := rfl
@[simp] theorem State.setQueueOf_waits (s : State) (n q : Nat) (x : Queue) : (s.setQueueOf n q x).waits = s.waits := rfl
@[simp] theorem State.setQueueOf_vxarena (s : State) (n q : Nat) (x : Queue) : (s.setQueueOf n q x).vxarena = s.vxarena := rfl
@[simp] theorem State.setQueueOf_vxarenan (s : State) (n q : Nat) (x : Queue) : (s.setQueueOf n q x).vxarenan = s.vxarenan := rfl
@[simp] theorem State.setQueueOf_vxpkg (s : State) (n q : Nat) (x : Queue) : (s.setQueueOf n q x).vxpkg = s.vxpkg := rfl
@[simp] theorem State.setQueueOf_pkgFixed (s : State) (n q : Nat) (x : Queue) : (s.setQueueOf n q x).pkgFixed = s.pkgFixed := rfl
@[simp] theorem State.setQueueOf_vxualen (s : State) (n q : Nat) (x : Queue) : (s.setQueueOf n q x).vxualen = s.vxualen := rfl
@[simp] theorem State.setQueueOf_vxualdrop (s : State) (n q : Nat) (x : Queue) : (s.setQueueOf n q x).vxualdrop = s.vxualdrop := rfl
@[simp] theorem State.setQueueOf_tick (s : State) (n q : Nat) (x : Queue) : (s.setQueueOf n q x).tick = s.tick := rfl
@[simp] theorem State.setQueueOf_power (s : State) (n q : Nat) (x : Queue) : (s.setQueueOf n q x).power = s.power := rfl
@[simp] theorem State.setQueueOf_phase (s : State) (n q : Nat) (x : Queue) : (s.setQueueOf n q x).phase = s.phase := rfl
@[simp] theorem State.setQueueOf_start (s : State) (n q : Nat) (x : Queue) : (s.setQueueOf n q x).start = s.start := rfl
@[simp] theorem State.setQueueOf_images (s : State) (n q : Nat) (x : Queue) : (s.setQueueOf n q x).images = s.images := rfl
@[simp] theorem State.setQueueOf_dayCaps (s : State) (n q : Nat) (x : Queue) : (s.setQueueOf n q x).dayCaps = s.dayCaps := rfl
@[simp] theorem State.setQueueOf_mgmt (s : State) (n q : Nat) (x : Queue) : (s.setQueueOf n q x).mgmt = s.mgmt := rfl
@[simp] theorem State.setQueueOf_outbox (s : State) (n q : Nat) (x : Queue) : (s.setQueueOf n q x).outbox = s.outbox := rfl
@[simp] theorem State.setQueueOf_sel (s : State) (n q : Nat) (x : Queue) : (s.setQueueOf n q x).sel = s.sel := rfl
@[simp] theorem State.setQueueOf_cycle (s : State) (n q : Nat) (x : Queue) : (s.setQueueOf n q x).cycle = s.cycle := rfl
@[simp] theorem State.setQueueOf_issueQ (s : State) (n q : Nat) (x : Queue) : (s.setQueueOf n q x).issueQ = s.issueQ := rfl
@[simp] theorem State.setQueueOf_agenda (s : State) (n q : Nat) (x : Queue) : (s.setQueueOf n q x).agenda = s.agenda := rfl
@[simp] theorem State.setQueueOf_again (s : State) (n q : Nat) (x : Queue) : (s.setQueueOf n q x).again = s.again := rfl
@[simp] theorem State.setQueueOf_fresh (s : State) (n q : Nat) (x : Queue) : (s.setQueueOf n q x).fresh = s.fresh := rfl
@[simp] theorem State.setQueueOf_opLatency (s : State) (n q : Nat) (x : Queue) : (s.setQueueOf n q x).opLatency = s.opLatency := rfl

@[simp] theorem State.poke_w (s : State) (a : Nat) (bs : List Byte) : (s.poke a bs).w = s.w := rfl
@[simp] theorem State.poke_wg (s : State) (a : Nat) (bs : List Byte) : (s.poke a bs).wg = s.wg := rfl
@[simp] theorem State.poke_lc (s : State) (a : Nat) (bs : List Byte) : (s.poke a bs).lc = s.lc := rfl
@[simp] theorem State.poke_warps (s : State) (a : Nat) (bs : List Byte) : (s.poke a bs).warps = s.warps := rfl
@[simp] theorem State.poke_groups (s : State) (a : Nat) (bs : List Byte) : (s.poke a bs).groups = s.groups := rfl
@[simp] theorem State.poke_launches (s : State) (a : Nat) (bs : List Byte) : (s.poke a bs).launches = s.launches := rfl
@[simp] theorem State.poke_lds (s : State) (a : Nat) (bs : List Byte) : (s.poke a bs).lds = s.lds := rfl
@[simp] theorem State.poke_columns (s : State) (a : Nat) (bs : List Byte) : (s.poke a bs).columns = s.columns := rfl
@[simp] theorem State.poke_clusters (s : State) (a : Nat) (bs : List Byte) : (s.poke a bs).clusters = s.clusters := rfl
@[simp] theorem State.poke_ports (s : State) (a : Nat) (bs : List Byte) : (s.poke a bs).ports = s.ports := rfl
@[simp] theorem State.poke_modules (s : State) (a : Nat) (bs : List Byte) : (s.poke a bs).modules = s.modules := rfl
@[simp] theorem State.poke_retrains (s : State) (a : Nat) (bs : List Byte) : (s.poke a bs).retrains = s.retrains := rfl
@[simp] theorem State.poke_poison (s : State) (a : Nat) (bs : List Byte) : (s.poke a bs).poison = s.poison := rfl
@[simp] theorem State.poke_healed (s : State) (a : Nat) (bs : List Byte) : (s.poke a bs).healed = s.healed := rfl
@[simp] theorem State.poke_copies (s : State) (a : Nat) (bs : List Byte) : (s.poke a bs).copies = s.copies := rfl
@[simp] theorem State.poke_hartLines (s : State) (a : Nat) (bs : List Byte) : (s.poke a bs).hartLines = s.hartLines := rfl
@[simp] theorem State.poke_flips (s : State) (a : Nat) (bs : List Byte) : (s.poke a bs).flips = s.flips := rfl
@[simp] theorem State.poke_tlb (s : State) (a : Nat) (bs : List Byte) : (s.poke a bs).tlb = s.tlb := rfl
@[simp] theorem State.poke_walkWords (s : State) (a : Nat) (bs : List Byte) : (s.poke a bs).walkWords = s.walkWords := rfl
@[simp] theorem State.poke_ops (s : State) (a : Nat) (bs : List Byte) : (s.poke a bs).ops = s.ops := rfl
@[simp] theorem State.poke_nextOp (s : State) (a : Nat) (bs : List Byte) : (s.poke a bs).nextOp = s.nextOp := rfl
@[simp] theorem State.poke_accepted (s : State) (a : Nat) (bs : List Byte) : (s.poke a bs).accepted = s.accepted := rfl
@[simp] theorem State.poke_waits (s : State) (a : Nat) (bs : List Byte) : (s.poke a bs).waits = s.waits := rfl
@[simp] theorem State.poke_vxarena (s : State) (a : Nat) (bs : List Byte) : (s.poke a bs).vxarena = s.vxarena := rfl
@[simp] theorem State.poke_vxarenan (s : State) (a : Nat) (bs : List Byte) : (s.poke a bs).vxarenan = s.vxarenan := rfl
@[simp] theorem State.poke_vxpkg (s : State) (a : Nat) (bs : List Byte) : (s.poke a bs).vxpkg = s.vxpkg := rfl
@[simp] theorem State.poke_pkgFixed (s : State) (a : Nat) (bs : List Byte) : (s.poke a bs).pkgFixed = s.pkgFixed := rfl
@[simp] theorem State.poke_vxualen (s : State) (a : Nat) (bs : List Byte) : (s.poke a bs).vxualen = s.vxualen := rfl
@[simp] theorem State.poke_vxualdrop (s : State) (a : Nat) (bs : List Byte) : (s.poke a bs).vxualdrop = s.vxualdrop := rfl
@[simp] theorem State.poke_tick (s : State) (a : Nat) (bs : List Byte) : (s.poke a bs).tick = s.tick := rfl
@[simp] theorem State.poke_power (s : State) (a : Nat) (bs : List Byte) : (s.poke a bs).power = s.power := rfl
@[simp] theorem State.poke_phase (s : State) (a : Nat) (bs : List Byte) : (s.poke a bs).phase = s.phase := rfl
@[simp] theorem State.poke_start (s : State) (a : Nat) (bs : List Byte) : (s.poke a bs).start = s.start := rfl
@[simp] theorem State.poke_images (s : State) (a : Nat) (bs : List Byte) : (s.poke a bs).images = s.images := rfl
@[simp] theorem State.poke_dayCaps (s : State) (a : Nat) (bs : List Byte) : (s.poke a bs).dayCaps = s.dayCaps := rfl
@[simp] theorem State.poke_mgmt (s : State) (a : Nat) (bs : List Byte) : (s.poke a bs).mgmt = s.mgmt := rfl
@[simp] theorem State.poke_outbox (s : State) (a : Nat) (bs : List Byte) : (s.poke a bs).outbox = s.outbox := rfl
@[simp] theorem State.poke_sel (s : State) (a : Nat) (bs : List Byte) : (s.poke a bs).sel = s.sel := rfl
@[simp] theorem State.poke_cycle (s : State) (a : Nat) (bs : List Byte) : (s.poke a bs).cycle = s.cycle := rfl
@[simp] theorem State.poke_issueQ (s : State) (a : Nat) (bs : List Byte) : (s.poke a bs).issueQ = s.issueQ := rfl
@[simp] theorem State.poke_agenda (s : State) (a : Nat) (bs : List Byte) : (s.poke a bs).agenda = s.agenda := rfl
@[simp] theorem State.poke_again (s : State) (a : Nat) (bs : List Byte) : (s.poke a bs).again = s.again := rfl
@[simp] theorem State.poke_fresh (s : State) (a : Nat) (bs : List Byte) : (s.poke a bs).fresh = s.fresh := rfl
@[simp] theorem State.poke_opLatency (s : State) (a : Nat) (bs : List Byte) : (s.poke a bs).opLatency = s.opLatency := rfl

@[simp] theorem State.ldOf_setLd (s : State) (n : Nat) (x : LdState) : (s.setLd n x).ldOf n = x := Cells.get_set_self _ _ _ _
theorem State.ldOf_setLd_ne (s : State) {n m : Nat} (x : LdState) (h : m ≠ n) : (s.setLd n x).ldOf m = s.ldOf m :=
  Cells.get_set_ne _ _ _ h
@[simp] theorem State.clusterOf_setCluster (s : State) (c : Cluster) (x : ClusterState) : (s.setCluster c x).clusterOf c = x :=
  Cells.get_set_self _ _ _ _
@[simp] theorem State.portOf_setPort (s : State) (n : Nat) (x : Port) : (s.setPort n x).portOf n = x := Cells.get_set_self _ _ _ _
theorem State.portOf_setPort_ne (s : State) {n m : Nat} (x : Port) (h : m ≠ n) : (s.setPort n x).portOf m = s.portOf m :=
  Cells.get_set_ne _ _ _ h
@[simp] theorem State.colOf_setCol (s : State) (n k : Nat) (x : Column) : (s.setCol n k x).colOf n k = x :=
  Cells.get_set_self _ _ _ _
@[simp] theorem State.queueOf_setQueueOf (s : State) (n q : Nat) (x : Queue) : (s.setQueueOf n q x).queueOf n q = x := by
  simp [State.queueOf, State.setQueueOf]
@[simp] theorem State.colOf_setLd (s : State) (n : Nat) (x : LdState) (a b : Nat) : (s.setLd n x).colOf a b = s.colOf a b := rfl
@[simp] theorem State.clusterOf_setLd (s : State) (n : Nat) (x : LdState) (c : Cluster) :
    (s.setLd n x).clusterOf c = s.clusterOf c := rfl
@[simp] theorem State.portOf_setLd (s : State) (n : Nat) (x : LdState) (k : Nat) : (s.setLd n x).portOf k = s.portOf k := rfl
@[simp] theorem State.ldOf_setCol (s : State) (n k : Nat) (x : Column) (a : Nat) : (s.setCol n k x).ldOf a = s.ldOf a := rfl
@[simp] theorem State.ldOf_setCluster (s : State) (c : Cluster) (x : ClusterState) (a : Nat) :
    (s.setCluster c x).ldOf a = s.ldOf a := rfl
@[simp] theorem State.colOf_setCluster (s : State) (c : Cluster) (x : ClusterState) (a b : Nat) :
    (s.setCluster c x).colOf a b = s.colOf a b := rfl
@[simp] theorem State.ldOf_setPort (s : State) (n : Nat) (x : Port) (a : Nat) : (s.setPort n x).ldOf a = s.ldOf a := rfl
@[simp] theorem State.ldOf_poke (s : State) (a : Nat) (bs : List Byte) (n : Nat) : (s.poke a bs).ldOf n = s.ldOf n := rfl

/-! Updates of a warp. -/

@[simp] theorem Warp.dropHints_place (w : Warp) : w.dropHints.place = w.place := rfl
@[simp] theorem Warp.dropHints_life (w : Warp) : w.dropHints.life = w.life := rfl
@[simp] theorem Warp.dropHints_idx (w : Warp) : w.dropHints.idx = w.idx := rfl
@[simp] theorem Warp.dropHints_key (w : Warp) : w.dropHints.key = w.key := rfl
@[simp] theorem Warp.dropHints_sregs (w : Warp) : w.dropHints.sregs = w.sregs := rfl
@[simp] theorem Warp.dropHints_vregs (w : Warp) : w.dropHints.vregs = w.vregs := rfl
@[simp] theorem Warp.dropHints_occ (w : Warp) : w.dropHints.occ = w.occ := rfl
@[simp] theorem Warp.dropHints_item (w : Warp) : w.dropHints.item = w.item := rfl
@[simp] theorem Warp.dropHints_age (w : Warp) : w.dropHints.age = w.age := rfl
@[simp] theorem Warp.dropHints_pc (w : Warp) : w.dropHints.pc = w.pc := rfl
@[simp] theorem Warp.dropHints_crpc (w : Warp) : w.dropHints.crpc = w.crpc := rfl
@[simp] theorem Warp.dropHints_depth (w : Warp) : w.dropHints.depth = w.depth := rfl
@[simp] theorem Warp.dropHints_stack (w : Warp) : w.dropHints.stack = w.stack := rfl
@[simp] theorem Warp.dropHints_spill (w : Warp) : w.dropHints.spill = w.spill := rfl
@[simp] theorem Warp.dropHints_windows (w : Warp) : w.dropHints.windows = w.windows := rfl
@[simp] theorem Warp.dropHints_counters (w : Warp) : w.dropHints.counters = w.counters := rfl
@[simp] theorem Warp.dropHints_q0 (w : Warp) : w.dropHints.q0 = w.q0 := rfl
@[simp] theorem Warp.dropHints_q1 (w : Warp) : w.dropHints.q1 = w.q1 := rfl
@[simp] theorem Warp.dropHints_q2 (w : Warp) : w.dropHints.q2 = w.q2 := rfl
@[simp] theorem Warp.dropHints_q3 (w : Warp) : w.dropHints.q3 = w.q3 := rfl
@[simp] theorem Warp.dropHints_tiles (w : Warp) : w.dropHints.tiles = w.tiles := rfl
@[simp] theorem Warp.dropHints_dirty (w : Warp) : w.dropHints.dirty = w.dirty := rfl
@[simp] theorem Warp.dropHints_latch (w : Warp) : w.dropHints.latch = w.latch := rfl
@[simp] theorem Warp.dropHints_fstat (w : Warp) : w.dropHints.fstat = w.fstat := rfl
@[simp] theorem Warp.dropHints_mstat (w : Warp) : w.dropHints.mstat = w.mstat := rfl
@[simp] theorem Warp.dropHints_evmask (w : Warp) : w.dropHints.evmask = w.evmask := rfl
@[simp] theorem Warp.dropHints_grp (w : Warp) : w.dropHints.grp = w.grp := rfl
@[simp] theorem Warp.dropHints_tvec (w : Warp) : w.dropHints.tvec = w.tvec := rfl
@[simp] theorem Warp.dropHints_tcause (w : Warp) : w.dropHints.tcause = w.tcause := rfl
@[simp] theorem Warp.dropHints_epc (w : Warp) : w.dropHints.epc = w.epc := rfl
@[simp] theorem Warp.dropHints_tval (w : Warp) : w.dropHints.tval = w.tval := rfl
@[simp] theorem Warp.dropHints_inh (w : Warp) : w.dropHints.inh = w.inh := rfl
@[simp] theorem Warp.dropHints_pre (w : Warp) : w.dropHints.pre = w.pre := rfl
@[simp] theorem Warp.dropHints_rst (w : Warp) : w.dropHints.rst = w.rst := rfl
@[simp] theorem Warp.dropHints_abort (w : Warp) : w.dropHints.abort = w.abort := rfl
@[simp] theorem Warp.dropHints_saveptr (w : Warp) : w.dropHints.saveptr = w.saveptr := rfl
@[simp] theorem Warp.dropHints_dh (w : Warp) : w.dropHints.dh = w.dh := rfl
@[simp] theorem Warp.dropHints_crpcSaved (w : Warp) : w.dropHints.crpcSaved = w.crpcSaved := rfl
@[simp] theorem Warp.dropHints_reports (w : Warp) : w.dropHints.reports = w.reports := rfl
@[simp] theorem Warp.dropHints_arw (w : Warp) : w.dropHints.arw = w.arw := rfl
@[simp] theorem Warp.dropHints_park (w : Warp) : w.dropHints.park = w.park := rfl
@[simp] theorem Warp.dropHints_left (w : Warp) : w.dropHints.left = w.left := rfl
@[simp] theorem Warp.dropHints_view (w : Warp) : w.dropHints.view = w.view := rfl
@[simp] theorem Warp.dropHints_fence (w : Warp) : w.dropHints.fence = w.fence := rfl
@[simp] theorem Warp.dropHints_casm (w : Warp) : w.dropHints.casm = w.casm := rfl
@[simp] theorem Warp.dropHints_lostPort (w : Warp) : w.dropHints.lostPort = w.lostPort := rfl
@[simp] theorem Warp.dropHints_lostLoad (w : Warp) : w.dropHints.lostLoad = w.lostLoad := rfl
@[simp] theorem Warp.dropHints_preempt (w : Warp) : w.dropHints.preempt = w.preempt := rfl
@[simp] theorem Warp.dropHints_cls (w : Warp) : w.dropHints.cls = w.cls := rfl
@[simp] theorem Warp.dropHints_thrPrev (w : Warp) : w.dropHints.thrPrev = w.thrPrev := rfl
@[simp] theorem Warp.dropHints_thrChg (w : Warp) : w.dropHints.thrChg = w.thrChg := rfl
@[simp] theorem Warp.dropHints_pathCount (w : Warp) : w.dropHints.pathCount = w.pathCount := rfl
@[simp] theorem Warp.dropHints_waitCount (w : Warp) : w.dropHints.waitCount = w.waitCount := rfl
@[simp] theorem Warp.dropHints_withheld (w : Warp) : w.dropHints.withheld = w.withheld := rfl
@[simp] theorem Warp.dropHints_started (w : Warp) : w.dropHints.started = w.started := rfl
@[simp] theorem Warp.dropHints_issued (w : Warp) : w.dropHints.issued = w.issued := rfl
@[simp] theorem Warp.dropHints_tag (w : Warp) : w.dropHints.tag = w.tag := rfl
@[simp] theorem Warp.dropHints_sent (w : Warp) : w.dropHints.sent = w.sent := rfl
@[simp] theorem Warp.dropHints_pkg (w : Warp) : w.dropHints.pkg = w.pkg := rfl
@[simp] theorem Warp.dropHints_blocked (w : Warp) : w.dropHints.blocked = w.blocked := rfl
@[simp] theorem Warp.dropHints_hints (w : Warp) : w.dropHints.hints = [] := rfl
@[simp] theorem Warp.dropHints_badHint (w : Warp) : w.dropHints.badHint = none := rfl

@[simp] theorem Warp.setCounter_place (w : Warp) (n : Nat) (c : Counter) : (w.setCounter n c).place = w.place := rfl
@[simp] theorem Warp.setCounter_life (w : Warp) (n : Nat) (c : Counter) : (w.setCounter n c).life = w.life := rfl
@[simp] theorem Warp.setCounter_idx (w : Warp) (n : Nat) (c : Counter) : (w.setCounter n c).idx = w.idx := rfl
@[simp] theorem Warp.setCounter_key (w : Warp) (n : Nat) (c : Counter) : (w.setCounter n c).key = w.key := rfl
@[simp] theorem Warp.setCounter_sregs (w : Warp) (n : Nat) (c : Counter) : (w.setCounter n c).sregs = w.sregs := rfl
@[simp] theorem Warp.setCounter_vregs (w : Warp) (n : Nat) (c : Counter) : (w.setCounter n c).vregs = w.vregs := rfl
@[simp] theorem Warp.setCounter_occ (w : Warp) (n : Nat) (c : Counter) : (w.setCounter n c).occ = w.occ := rfl
@[simp] theorem Warp.setCounter_item (w : Warp) (n : Nat) (c : Counter) : (w.setCounter n c).item = w.item := rfl
@[simp] theorem Warp.setCounter_age (w : Warp) (n : Nat) (c : Counter) : (w.setCounter n c).age = w.age := rfl
@[simp] theorem Warp.setCounter_pc (w : Warp) (n : Nat) (c : Counter) : (w.setCounter n c).pc = w.pc := rfl
@[simp] theorem Warp.setCounter_crpc (w : Warp) (n : Nat) (c : Counter) : (w.setCounter n c).crpc = w.crpc := rfl
@[simp] theorem Warp.setCounter_depth (w : Warp) (n : Nat) (c : Counter) : (w.setCounter n c).depth = w.depth := rfl
@[simp] theorem Warp.setCounter_stack (w : Warp) (n : Nat) (c : Counter) : (w.setCounter n c).stack = w.stack := rfl
@[simp] theorem Warp.setCounter_spill (w : Warp) (n : Nat) (c : Counter) : (w.setCounter n c).spill = w.spill := rfl
@[simp] theorem Warp.setCounter_hints (w : Warp) (n : Nat) (c : Counter) : (w.setCounter n c).hints = w.hints := rfl
@[simp] theorem Warp.setCounter_badHint (w : Warp) (n : Nat) (c : Counter) : (w.setCounter n c).badHint = w.badHint := rfl
@[simp] theorem Warp.setCounter_windows (w : Warp) (n : Nat) (c : Counter) : (w.setCounter n c).windows = w.windows := rfl
@[simp] theorem Warp.setCounter_q0 (w : Warp) (n : Nat) (c : Counter) : (w.setCounter n c).q0 = w.q0 := rfl
@[simp] theorem Warp.setCounter_q1 (w : Warp) (n : Nat) (c : Counter) : (w.setCounter n c).q1 = w.q1 := rfl
@[simp] theorem Warp.setCounter_q2 (w : Warp) (n : Nat) (c : Counter) : (w.setCounter n c).q2 = w.q2 := rfl
@[simp] theorem Warp.setCounter_q3 (w : Warp) (n : Nat) (c : Counter) : (w.setCounter n c).q3 = w.q3 := rfl
@[simp] theorem Warp.setCounter_tiles (w : Warp) (n : Nat) (c : Counter) : (w.setCounter n c).tiles = w.tiles := rfl
@[simp] theorem Warp.setCounter_dirty (w : Warp) (n : Nat) (c : Counter) : (w.setCounter n c).dirty = w.dirty := rfl
@[simp] theorem Warp.setCounter_latch (w : Warp) (n : Nat) (c : Counter) : (w.setCounter n c).latch = w.latch := rfl
@[simp] theorem Warp.setCounter_fstat (w : Warp) (n : Nat) (c : Counter) : (w.setCounter n c).fstat = w.fstat := rfl
@[simp] theorem Warp.setCounter_mstat (w : Warp) (n : Nat) (c : Counter) : (w.setCounter n c).mstat = w.mstat := rfl
@[simp] theorem Warp.setCounter_evmask (w : Warp) (n : Nat) (c : Counter) : (w.setCounter n c).evmask = w.evmask := rfl
@[simp] theorem Warp.setCounter_grp (w : Warp) (n : Nat) (c : Counter) : (w.setCounter n c).grp = w.grp := rfl
@[simp] theorem Warp.setCounter_tvec (w : Warp) (n : Nat) (c : Counter) : (w.setCounter n c).tvec = w.tvec := rfl
@[simp] theorem Warp.setCounter_tcause (w : Warp) (n : Nat) (c : Counter) : (w.setCounter n c).tcause = w.tcause := rfl
@[simp] theorem Warp.setCounter_epc (w : Warp) (n : Nat) (c : Counter) : (w.setCounter n c).epc = w.epc := rfl
@[simp] theorem Warp.setCounter_tval (w : Warp) (n : Nat) (c : Counter) : (w.setCounter n c).tval = w.tval := rfl
@[simp] theorem Warp.setCounter_inh (w : Warp) (n : Nat) (c : Counter) : (w.setCounter n c).inh = w.inh := rfl
@[simp] theorem Warp.setCounter_pre (w : Warp) (n : Nat) (c : Counter) : (w.setCounter n c).pre = w.pre := rfl
@[simp] theorem Warp.setCounter_rst (w : Warp) (n : Nat) (c : Counter) : (w.setCounter n c).rst = w.rst := rfl
@[simp] theorem Warp.setCounter_abort (w : Warp) (n : Nat) (c : Counter) : (w.setCounter n c).abort = w.abort := rfl
@[simp] theorem Warp.setCounter_saveptr (w : Warp) (n : Nat) (c : Counter) : (w.setCounter n c).saveptr = w.saveptr := rfl
@[simp] theorem Warp.setCounter_dh (w : Warp) (n : Nat) (c : Counter) : (w.setCounter n c).dh = w.dh := rfl
@[simp] theorem Warp.setCounter_crpcSaved (w : Warp) (n : Nat) (c : Counter) : (w.setCounter n c).crpcSaved = w.crpcSaved := rfl
@[simp] theorem Warp.setCounter_reports (w : Warp) (n : Nat) (c : Counter) : (w.setCounter n c).reports = w.reports := rfl
@[simp] theorem Warp.setCounter_arw (w : Warp) (n : Nat) (c : Counter) : (w.setCounter n c).arw = w.arw := rfl
@[simp] theorem Warp.setCounter_park (w : Warp) (n : Nat) (c : Counter) : (w.setCounter n c).park = w.park := rfl
@[simp] theorem Warp.setCounter_left (w : Warp) (n : Nat) (c : Counter) : (w.setCounter n c).left = w.left := rfl
@[simp] theorem Warp.setCounter_view (w : Warp) (n : Nat) (c : Counter) : (w.setCounter n c).view = w.view := rfl
@[simp] theorem Warp.setCounter_fence (w : Warp) (n : Nat) (c : Counter) : (w.setCounter n c).fence = w.fence := rfl
@[simp] theorem Warp.setCounter_casm (w : Warp) (n : Nat) (c : Counter) : (w.setCounter n c).casm = w.casm := rfl
@[simp] theorem Warp.setCounter_lostPort (w : Warp) (n : Nat) (c : Counter) : (w.setCounter n c).lostPort = w.lostPort := rfl
@[simp] theorem Warp.setCounter_lostLoad (w : Warp) (n : Nat) (c : Counter) : (w.setCounter n c).lostLoad = w.lostLoad := rfl
@[simp] theorem Warp.setCounter_preempt (w : Warp) (n : Nat) (c : Counter) : (w.setCounter n c).preempt = w.preempt := rfl
@[simp] theorem Warp.setCounter_cls (w : Warp) (n : Nat) (c : Counter) : (w.setCounter n c).cls = w.cls := rfl
@[simp] theorem Warp.setCounter_thrPrev (w : Warp) (n : Nat) (c : Counter) : (w.setCounter n c).thrPrev = w.thrPrev := rfl
@[simp] theorem Warp.setCounter_thrChg (w : Warp) (n : Nat) (c : Counter) : (w.setCounter n c).thrChg = w.thrChg := rfl
@[simp] theorem Warp.setCounter_pathCount (w : Warp) (n : Nat) (c : Counter) : (w.setCounter n c).pathCount = w.pathCount := rfl
@[simp] theorem Warp.setCounter_waitCount (w : Warp) (n : Nat) (c : Counter) : (w.setCounter n c).waitCount = w.waitCount := rfl
@[simp] theorem Warp.setCounter_withheld (w : Warp) (n : Nat) (c : Counter) : (w.setCounter n c).withheld = w.withheld := rfl
@[simp] theorem Warp.setCounter_started (w : Warp) (n : Nat) (c : Counter) : (w.setCounter n c).started = w.started := rfl
@[simp] theorem Warp.setCounter_issued (w : Warp) (n : Nat) (c : Counter) : (w.setCounter n c).issued = w.issued := rfl
@[simp] theorem Warp.setCounter_tag (w : Warp) (n : Nat) (c : Counter) : (w.setCounter n c).tag = w.tag := rfl
@[simp] theorem Warp.setCounter_sent (w : Warp) (n : Nat) (c : Counter) : (w.setCounter n c).sent = w.sent := rfl
@[simp] theorem Warp.setCounter_pkg (w : Warp) (n : Nat) (c : Counter) : (w.setCounter n c).pkg = w.pkg := rfl
@[simp] theorem Warp.setCounter_blocked (w : Warp) (n : Nat) (c : Counter) : (w.setCounter n c).blocked = w.blocked := rfl

@[simp] theorem Warp.setTile_place (w : Warp) (n : Nat) (x : Tile) : (w.setTile n x).place = w.place := rfl
@[simp] theorem Warp.setTile_life (w : Warp) (n : Nat) (x : Tile) : (w.setTile n x).life = w.life := rfl
@[simp] theorem Warp.setTile_idx (w : Warp) (n : Nat) (x : Tile) : (w.setTile n x).idx = w.idx := rfl
@[simp] theorem Warp.setTile_key (w : Warp) (n : Nat) (x : Tile) : (w.setTile n x).key = w.key := rfl
@[simp] theorem Warp.setTile_sregs (w : Warp) (n : Nat) (x : Tile) : (w.setTile n x).sregs = w.sregs := rfl
@[simp] theorem Warp.setTile_vregs (w : Warp) (n : Nat) (x : Tile) : (w.setTile n x).vregs = w.vregs := rfl
@[simp] theorem Warp.setTile_occ (w : Warp) (n : Nat) (x : Tile) : (w.setTile n x).occ = w.occ := rfl
@[simp] theorem Warp.setTile_item (w : Warp) (n : Nat) (x : Tile) : (w.setTile n x).item = w.item := rfl
@[simp] theorem Warp.setTile_age (w : Warp) (n : Nat) (x : Tile) : (w.setTile n x).age = w.age := rfl
@[simp] theorem Warp.setTile_pc (w : Warp) (n : Nat) (x : Tile) : (w.setTile n x).pc = w.pc := rfl
@[simp] theorem Warp.setTile_crpc (w : Warp) (n : Nat) (x : Tile) : (w.setTile n x).crpc = w.crpc := rfl
@[simp] theorem Warp.setTile_depth (w : Warp) (n : Nat) (x : Tile) : (w.setTile n x).depth = w.depth := rfl
@[simp] theorem Warp.setTile_stack (w : Warp) (n : Nat) (x : Tile) : (w.setTile n x).stack = w.stack := rfl
@[simp] theorem Warp.setTile_spill (w : Warp) (n : Nat) (x : Tile) : (w.setTile n x).spill = w.spill := rfl
@[simp] theorem Warp.setTile_hints (w : Warp) (n : Nat) (x : Tile) : (w.setTile n x).hints = w.hints := rfl
@[simp] theorem Warp.setTile_badHint (w : Warp) (n : Nat) (x : Tile) : (w.setTile n x).badHint = w.badHint := rfl
@[simp] theorem Warp.setTile_windows (w : Warp) (n : Nat) (x : Tile) : (w.setTile n x).windows = w.windows := rfl
@[simp] theorem Warp.setTile_counters (w : Warp) (n : Nat) (x : Tile) : (w.setTile n x).counters = w.counters := rfl
@[simp] theorem Warp.setTile_q0 (w : Warp) (n : Nat) (x : Tile) : (w.setTile n x).q0 = w.q0 := rfl
@[simp] theorem Warp.setTile_q1 (w : Warp) (n : Nat) (x : Tile) : (w.setTile n x).q1 = w.q1 := rfl
@[simp] theorem Warp.setTile_q2 (w : Warp) (n : Nat) (x : Tile) : (w.setTile n x).q2 = w.q2 := rfl
@[simp] theorem Warp.setTile_q3 (w : Warp) (n : Nat) (x : Tile) : (w.setTile n x).q3 = w.q3 := rfl
@[simp] theorem Warp.setTile_dirty (w : Warp) (n : Nat) (x : Tile) : (w.setTile n x).dirty = w.dirty := rfl
@[simp] theorem Warp.setTile_latch (w : Warp) (n : Nat) (x : Tile) : (w.setTile n x).latch = w.latch := rfl
@[simp] theorem Warp.setTile_fstat (w : Warp) (n : Nat) (x : Tile) : (w.setTile n x).fstat = w.fstat := rfl
@[simp] theorem Warp.setTile_mstat (w : Warp) (n : Nat) (x : Tile) : (w.setTile n x).mstat = w.mstat := rfl
@[simp] theorem Warp.setTile_evmask (w : Warp) (n : Nat) (x : Tile) : (w.setTile n x).evmask = w.evmask := rfl
@[simp] theorem Warp.setTile_grp (w : Warp) (n : Nat) (x : Tile) : (w.setTile n x).grp = w.grp := rfl
@[simp] theorem Warp.setTile_tvec (w : Warp) (n : Nat) (x : Tile) : (w.setTile n x).tvec = w.tvec := rfl
@[simp] theorem Warp.setTile_tcause (w : Warp) (n : Nat) (x : Tile) : (w.setTile n x).tcause = w.tcause := rfl
@[simp] theorem Warp.setTile_epc (w : Warp) (n : Nat) (x : Tile) : (w.setTile n x).epc = w.epc := rfl
@[simp] theorem Warp.setTile_tval (w : Warp) (n : Nat) (x : Tile) : (w.setTile n x).tval = w.tval := rfl
@[simp] theorem Warp.setTile_inh (w : Warp) (n : Nat) (x : Tile) : (w.setTile n x).inh = w.inh := rfl
@[simp] theorem Warp.setTile_pre (w : Warp) (n : Nat) (x : Tile) : (w.setTile n x).pre = w.pre := rfl
@[simp] theorem Warp.setTile_rst (w : Warp) (n : Nat) (x : Tile) : (w.setTile n x).rst = w.rst := rfl
@[simp] theorem Warp.setTile_abort (w : Warp) (n : Nat) (x : Tile) : (w.setTile n x).abort = w.abort := rfl
@[simp] theorem Warp.setTile_saveptr (w : Warp) (n : Nat) (x : Tile) : (w.setTile n x).saveptr = w.saveptr := rfl
@[simp] theorem Warp.setTile_dh (w : Warp) (n : Nat) (x : Tile) : (w.setTile n x).dh = w.dh := rfl
@[simp] theorem Warp.setTile_crpcSaved (w : Warp) (n : Nat) (x : Tile) : (w.setTile n x).crpcSaved = w.crpcSaved := rfl
@[simp] theorem Warp.setTile_reports (w : Warp) (n : Nat) (x : Tile) : (w.setTile n x).reports = w.reports := rfl
@[simp] theorem Warp.setTile_arw (w : Warp) (n : Nat) (x : Tile) : (w.setTile n x).arw = w.arw := rfl
@[simp] theorem Warp.setTile_park (w : Warp) (n : Nat) (x : Tile) : (w.setTile n x).park = w.park := rfl
@[simp] theorem Warp.setTile_left (w : Warp) (n : Nat) (x : Tile) : (w.setTile n x).left = w.left := rfl
@[simp] theorem Warp.setTile_view (w : Warp) (n : Nat) (x : Tile) : (w.setTile n x).view = w.view := rfl
@[simp] theorem Warp.setTile_fence (w : Warp) (n : Nat) (x : Tile) : (w.setTile n x).fence = w.fence := rfl
@[simp] theorem Warp.setTile_casm (w : Warp) (n : Nat) (x : Tile) : (w.setTile n x).casm = w.casm := rfl
@[simp] theorem Warp.setTile_lostPort (w : Warp) (n : Nat) (x : Tile) : (w.setTile n x).lostPort = w.lostPort := rfl
@[simp] theorem Warp.setTile_lostLoad (w : Warp) (n : Nat) (x : Tile) : (w.setTile n x).lostLoad = w.lostLoad := rfl
@[simp] theorem Warp.setTile_preempt (w : Warp) (n : Nat) (x : Tile) : (w.setTile n x).preempt = w.preempt := rfl
@[simp] theorem Warp.setTile_cls (w : Warp) (n : Nat) (x : Tile) : (w.setTile n x).cls = w.cls := rfl
@[simp] theorem Warp.setTile_thrPrev (w : Warp) (n : Nat) (x : Tile) : (w.setTile n x).thrPrev = w.thrPrev := rfl
@[simp] theorem Warp.setTile_thrChg (w : Warp) (n : Nat) (x : Tile) : (w.setTile n x).thrChg = w.thrChg := rfl
@[simp] theorem Warp.setTile_pathCount (w : Warp) (n : Nat) (x : Tile) : (w.setTile n x).pathCount = w.pathCount := rfl
@[simp] theorem Warp.setTile_waitCount (w : Warp) (n : Nat) (x : Tile) : (w.setTile n x).waitCount = w.waitCount := rfl
@[simp] theorem Warp.setTile_withheld (w : Warp) (n : Nat) (x : Tile) : (w.setTile n x).withheld = w.withheld := rfl
@[simp] theorem Warp.setTile_started (w : Warp) (n : Nat) (x : Tile) : (w.setTile n x).started = w.started := rfl
@[simp] theorem Warp.setTile_issued (w : Warp) (n : Nat) (x : Tile) : (w.setTile n x).issued = w.issued := rfl
@[simp] theorem Warp.setTile_tag (w : Warp) (n : Nat) (x : Tile) : (w.setTile n x).tag = w.tag := rfl
@[simp] theorem Warp.setTile_sent (w : Warp) (n : Nat) (x : Tile) : (w.setTile n x).sent = w.sent := rfl
@[simp] theorem Warp.setTile_pkg (w : Warp) (n : Nat) (x : Tile) : (w.setTile n x).pkg = w.pkg := rfl
@[simp] theorem Warp.setTile_blocked (w : Warp) (n : Nat) (x : Tile) : (w.setTile n x).blocked = w.blocked := rfl

@[simp] theorem Warp.setV_place (w : Warp) (r : Nat) (m : Mask) (x : Vec) : (w.setV r m x).place = w.place := rfl
@[simp] theorem Warp.setV_life (w : Warp) (r : Nat) (m : Mask) (x : Vec) : (w.setV r m x).life = w.life := rfl
@[simp] theorem Warp.setV_idx (w : Warp) (r : Nat) (m : Mask) (x : Vec) : (w.setV r m x).idx = w.idx := rfl
@[simp] theorem Warp.setV_key (w : Warp) (r : Nat) (m : Mask) (x : Vec) : (w.setV r m x).key = w.key := rfl
@[simp] theorem Warp.setV_sregs (w : Warp) (r : Nat) (m : Mask) (x : Vec) : (w.setV r m x).sregs = w.sregs := rfl
@[simp] theorem Warp.setV_occ (w : Warp) (r : Nat) (m : Mask) (x : Vec) : (w.setV r m x).occ = w.occ := rfl
@[simp] theorem Warp.setV_item (w : Warp) (r : Nat) (m : Mask) (x : Vec) : (w.setV r m x).item = w.item := rfl
@[simp] theorem Warp.setV_age (w : Warp) (r : Nat) (m : Mask) (x : Vec) : (w.setV r m x).age = w.age := rfl
@[simp] theorem Warp.setV_pc (w : Warp) (r : Nat) (m : Mask) (x : Vec) : (w.setV r m x).pc = w.pc := rfl
@[simp] theorem Warp.setV_crpc (w : Warp) (r : Nat) (m : Mask) (x : Vec) : (w.setV r m x).crpc = w.crpc := rfl
@[simp] theorem Warp.setV_depth (w : Warp) (r : Nat) (m : Mask) (x : Vec) : (w.setV r m x).depth = w.depth := rfl
@[simp] theorem Warp.setV_stack (w : Warp) (r : Nat) (m : Mask) (x : Vec) : (w.setV r m x).stack = w.stack := rfl
@[simp] theorem Warp.setV_spill (w : Warp) (r : Nat) (m : Mask) (x : Vec) : (w.setV r m x).spill = w.spill := rfl
@[simp] theorem Warp.setV_hints (w : Warp) (r : Nat) (m : Mask) (x : Vec) : (w.setV r m x).hints = w.hints := rfl
@[simp] theorem Warp.setV_badHint (w : Warp) (r : Nat) (m : Mask) (x : Vec) : (w.setV r m x).badHint = w.badHint := rfl
@[simp] theorem Warp.setV_windows (w : Warp) (r : Nat) (m : Mask) (x : Vec) : (w.setV r m x).windows = w.windows := rfl
@[simp] theorem Warp.setV_counters (w : Warp) (r : Nat) (m : Mask) (x : Vec) : (w.setV r m x).counters = w.counters := rfl
@[simp] theorem Warp.setV_q0 (w : Warp) (r : Nat) (m : Mask) (x : Vec) : (w.setV r m x).q0 = w.q0 := rfl
@[simp] theorem Warp.setV_q1 (w : Warp) (r : Nat) (m : Mask) (x : Vec) : (w.setV r m x).q1 = w.q1 := rfl
@[simp] theorem Warp.setV_q2 (w : Warp) (r : Nat) (m : Mask) (x : Vec) : (w.setV r m x).q2 = w.q2 := rfl
@[simp] theorem Warp.setV_q3 (w : Warp) (r : Nat) (m : Mask) (x : Vec) : (w.setV r m x).q3 = w.q3 := rfl
@[simp] theorem Warp.setV_tiles (w : Warp) (r : Nat) (m : Mask) (x : Vec) : (w.setV r m x).tiles = w.tiles := rfl
@[simp] theorem Warp.setV_dirty (w : Warp) (r : Nat) (m : Mask) (x : Vec) : (w.setV r m x).dirty = w.dirty := rfl
@[simp] theorem Warp.setV_latch (w : Warp) (r : Nat) (m : Mask) (x : Vec) : (w.setV r m x).latch = w.latch := rfl
@[simp] theorem Warp.setV_fstat (w : Warp) (r : Nat) (m : Mask) (x : Vec) : (w.setV r m x).fstat = w.fstat := rfl
@[simp] theorem Warp.setV_mstat (w : Warp) (r : Nat) (m : Mask) (x : Vec) : (w.setV r m x).mstat = w.mstat := rfl
@[simp] theorem Warp.setV_evmask (w : Warp) (r : Nat) (m : Mask) (x : Vec) : (w.setV r m x).evmask = w.evmask := rfl
@[simp] theorem Warp.setV_grp (w : Warp) (r : Nat) (m : Mask) (x : Vec) : (w.setV r m x).grp = w.grp := rfl
@[simp] theorem Warp.setV_tvec (w : Warp) (r : Nat) (m : Mask) (x : Vec) : (w.setV r m x).tvec = w.tvec := rfl
@[simp] theorem Warp.setV_tcause (w : Warp) (r : Nat) (m : Mask) (x : Vec) : (w.setV r m x).tcause = w.tcause := rfl
@[simp] theorem Warp.setV_epc (w : Warp) (r : Nat) (m : Mask) (x : Vec) : (w.setV r m x).epc = w.epc := rfl
@[simp] theorem Warp.setV_tval (w : Warp) (r : Nat) (m : Mask) (x : Vec) : (w.setV r m x).tval = w.tval := rfl
@[simp] theorem Warp.setV_inh (w : Warp) (r : Nat) (m : Mask) (x : Vec) : (w.setV r m x).inh = w.inh := rfl
@[simp] theorem Warp.setV_pre (w : Warp) (r : Nat) (m : Mask) (x : Vec) : (w.setV r m x).pre = w.pre := rfl
@[simp] theorem Warp.setV_rst (w : Warp) (r : Nat) (m : Mask) (x : Vec) : (w.setV r m x).rst = w.rst := rfl
@[simp] theorem Warp.setV_abort (w : Warp) (r : Nat) (m : Mask) (x : Vec) : (w.setV r m x).abort = w.abort := rfl
@[simp] theorem Warp.setV_saveptr (w : Warp) (r : Nat) (m : Mask) (x : Vec) : (w.setV r m x).saveptr = w.saveptr := rfl
@[simp] theorem Warp.setV_dh (w : Warp) (r : Nat) (m : Mask) (x : Vec) : (w.setV r m x).dh = w.dh := rfl
@[simp] theorem Warp.setV_crpcSaved (w : Warp) (r : Nat) (m : Mask) (x : Vec) : (w.setV r m x).crpcSaved = w.crpcSaved := rfl
@[simp] theorem Warp.setV_reports (w : Warp) (r : Nat) (m : Mask) (x : Vec) : (w.setV r m x).reports = w.reports := rfl
@[simp] theorem Warp.setV_arw (w : Warp) (r : Nat) (m : Mask) (x : Vec) : (w.setV r m x).arw = w.arw := rfl
@[simp] theorem Warp.setV_park (w : Warp) (r : Nat) (m : Mask) (x : Vec) : (w.setV r m x).park = w.park := rfl
@[simp] theorem Warp.setV_left (w : Warp) (r : Nat) (m : Mask) (x : Vec) : (w.setV r m x).left = w.left := rfl
@[simp] theorem Warp.setV_fence (w : Warp) (r : Nat) (m : Mask) (x : Vec) : (w.setV r m x).fence = w.fence := rfl
@[simp] theorem Warp.setV_casm (w : Warp) (r : Nat) (m : Mask) (x : Vec) : (w.setV r m x).casm = w.casm := rfl
@[simp] theorem Warp.setV_lostPort (w : Warp) (r : Nat) (m : Mask) (x : Vec) : (w.setV r m x).lostPort = w.lostPort := rfl
@[simp] theorem Warp.setV_lostLoad (w : Warp) (r : Nat) (m : Mask) (x : Vec) : (w.setV r m x).lostLoad = w.lostLoad := rfl
@[simp] theorem Warp.setV_preempt (w : Warp) (r : Nat) (m : Mask) (x : Vec) : (w.setV r m x).preempt = w.preempt := rfl
@[simp] theorem Warp.setV_cls (w : Warp) (r : Nat) (m : Mask) (x : Vec) : (w.setV r m x).cls = w.cls := rfl
@[simp] theorem Warp.setV_thrPrev (w : Warp) (r : Nat) (m : Mask) (x : Vec) : (w.setV r m x).thrPrev = w.thrPrev := rfl
@[simp] theorem Warp.setV_thrChg (w : Warp) (r : Nat) (m : Mask) (x : Vec) : (w.setV r m x).thrChg = w.thrChg := rfl
@[simp] theorem Warp.setV_pathCount (w : Warp) (r : Nat) (m : Mask) (x : Vec) : (w.setV r m x).pathCount = w.pathCount := rfl
@[simp] theorem Warp.setV_waitCount (w : Warp) (r : Nat) (m : Mask) (x : Vec) : (w.setV r m x).waitCount = w.waitCount := rfl
@[simp] theorem Warp.setV_withheld (w : Warp) (r : Nat) (m : Mask) (x : Vec) : (w.setV r m x).withheld = w.withheld := rfl
@[simp] theorem Warp.setV_started (w : Warp) (r : Nat) (m : Mask) (x : Vec) : (w.setV r m x).started = w.started := rfl
@[simp] theorem Warp.setV_issued (w : Warp) (r : Nat) (m : Mask) (x : Vec) : (w.setV r m x).issued = w.issued := rfl
@[simp] theorem Warp.setV_tag (w : Warp) (r : Nat) (m : Mask) (x : Vec) : (w.setV r m x).tag = w.tag := rfl
@[simp] theorem Warp.setV_sent (w : Warp) (r : Nat) (m : Mask) (x : Vec) : (w.setV r m x).sent = w.sent := rfl
@[simp] theorem Warp.setV_pkg (w : Warp) (r : Nat) (m : Mask) (x : Vec) : (w.setV r m x).pkg = w.pkg := rfl
@[simp] theorem Warp.setV_blocked (w : Warp) (r : Nat) (m : Mask) (x : Vec) : (w.setV r m x).blocked = w.blocked := rfl

@[simp] theorem Warp.setS_place (w : Warp) (r : Nat) (v : DWord) : (w.setS r v).place = w.place := by unfold Warp.setS; split <;> rfl
@[simp] theorem Warp.setS_life (w : Warp) (r : Nat) (v : DWord) : (w.setS r v).life = w.life := by unfold Warp.setS; split <;> rfl
@[simp] theorem Warp.setS_idx (w : Warp) (r : Nat) (v : DWord) : (w.setS r v).idx = w.idx := by unfold Warp.setS; split <;> rfl
@[simp] theorem Warp.setS_key (w : Warp) (r : Nat) (v : DWord) : (w.setS r v).key = w.key := by unfold Warp.setS; split <;> rfl
@[simp] theorem Warp.setS_vregs (w : Warp) (r : Nat) (v : DWord) : (w.setS r v).vregs = w.vregs := by unfold Warp.setS; split <;> rfl
@[simp] theorem Warp.setS_occ (w : Warp) (r : Nat) (v : DWord) : (w.setS r v).occ = w.occ := by unfold Warp.setS; split <;> rfl
@[simp] theorem Warp.setS_item (w : Warp) (r : Nat) (v : DWord) : (w.setS r v).item = w.item := by unfold Warp.setS; split <;> rfl
@[simp] theorem Warp.setS_age (w : Warp) (r : Nat) (v : DWord) : (w.setS r v).age = w.age := by unfold Warp.setS; split <;> rfl
@[simp] theorem Warp.setS_pc (w : Warp) (r : Nat) (v : DWord) : (w.setS r v).pc = w.pc := by unfold Warp.setS; split <;> rfl
@[simp] theorem Warp.setS_crpc (w : Warp) (r : Nat) (v : DWord) : (w.setS r v).crpc = w.crpc := by unfold Warp.setS; split <;> rfl
@[simp] theorem Warp.setS_depth (w : Warp) (r : Nat) (v : DWord) : (w.setS r v).depth = w.depth := by unfold Warp.setS; split <;> rfl
@[simp] theorem Warp.setS_stack (w : Warp) (r : Nat) (v : DWord) : (w.setS r v).stack = w.stack := by unfold Warp.setS; split <;> rfl
@[simp] theorem Warp.setS_spill (w : Warp) (r : Nat) (v : DWord) : (w.setS r v).spill = w.spill := by unfold Warp.setS; split <;> rfl
@[simp] theorem Warp.setS_hints (w : Warp) (r : Nat) (v : DWord) : (w.setS r v).hints = w.hints := by unfold Warp.setS; split <;> rfl
@[simp] theorem Warp.setS_badHint (w : Warp) (r : Nat) (v : DWord) : (w.setS r v).badHint = w.badHint := by unfold Warp.setS; split <;> rfl
@[simp] theorem Warp.setS_windows (w : Warp) (r : Nat) (v : DWord) : (w.setS r v).windows = w.windows := by unfold Warp.setS; split <;> rfl
@[simp] theorem Warp.setS_counters (w : Warp) (r : Nat) (v : DWord) : (w.setS r v).counters = w.counters :=
  by unfold Warp.setS; split <;> rfl
@[simp] theorem Warp.setS_q0 (w : Warp) (r : Nat) (v : DWord) : (w.setS r v).q0 = w.q0 := by unfold Warp.setS; split <;> rfl
@[simp] theorem Warp.setS_q1 (w : Warp) (r : Nat) (v : DWord) : (w.setS r v).q1 = w.q1 := by unfold Warp.setS; split <;> rfl
@[simp] theorem Warp.setS_q2 (w : Warp) (r : Nat) (v : DWord) : (w.setS r v).q2 = w.q2 := by unfold Warp.setS; split <;> rfl
@[simp] theorem Warp.setS_q3 (w : Warp) (r : Nat) (v : DWord) : (w.setS r v).q3 = w.q3 := by unfold Warp.setS; split <;> rfl
@[simp] theorem Warp.setS_tiles (w : Warp) (r : Nat) (v : DWord) : (w.setS r v).tiles = w.tiles := by unfold Warp.setS; split <;> rfl
@[simp] theorem Warp.setS_dirty (w : Warp) (r : Nat) (v : DWord) : (w.setS r v).dirty = w.dirty := by unfold Warp.setS; split <;> rfl
@[simp] theorem Warp.setS_latch (w : Warp) (r : Nat) (v : DWord) : (w.setS r v).latch = w.latch := by unfold Warp.setS; split <;> rfl
@[simp] theorem Warp.setS_fstat (w : Warp) (r : Nat) (v : DWord) : (w.setS r v).fstat = w.fstat := by unfold Warp.setS; split <;> rfl
@[simp] theorem Warp.setS_mstat (w : Warp) (r : Nat) (v : DWord) : (w.setS r v).mstat = w.mstat := by unfold Warp.setS; split <;> rfl
@[simp] theorem Warp.setS_evmask (w : Warp) (r : Nat) (v : DWord) : (w.setS r v).evmask = w.evmask := by unfold Warp.setS; split <;> rfl
@[simp] theorem Warp.setS_grp (w : Warp) (r : Nat) (v : DWord) : (w.setS r v).grp = w.grp := by unfold Warp.setS; split <;> rfl
@[simp] theorem Warp.setS_tvec (w : Warp) (r : Nat) (v : DWord) : (w.setS r v).tvec = w.tvec := by unfold Warp.setS; split <;> rfl
@[simp] theorem Warp.setS_tcause (w : Warp) (r : Nat) (v : DWord) : (w.setS r v).tcause = w.tcause := by unfold Warp.setS; split <;> rfl
@[simp] theorem Warp.setS_epc (w : Warp) (r : Nat) (v : DWord) : (w.setS r v).epc = w.epc := by unfold Warp.setS; split <;> rfl
@[simp] theorem Warp.setS_tval (w : Warp) (r : Nat) (v : DWord) : (w.setS r v).tval = w.tval := by unfold Warp.setS; split <;> rfl
@[simp] theorem Warp.setS_inh (w : Warp) (r : Nat) (v : DWord) : (w.setS r v).inh = w.inh := by unfold Warp.setS; split <;> rfl
@[simp] theorem Warp.setS_pre (w : Warp) (r : Nat) (v : DWord) : (w.setS r v).pre = w.pre := by unfold Warp.setS; split <;> rfl
@[simp] theorem Warp.setS_rst (w : Warp) (r : Nat) (v : DWord) : (w.setS r v).rst = w.rst := by unfold Warp.setS; split <;> rfl
@[simp] theorem Warp.setS_abort (w : Warp) (r : Nat) (v : DWord) : (w.setS r v).abort = w.abort := by unfold Warp.setS; split <;> rfl
@[simp] theorem Warp.setS_saveptr (w : Warp) (r : Nat) (v : DWord) : (w.setS r v).saveptr = w.saveptr := by unfold Warp.setS; split <;> rfl
@[simp] theorem Warp.setS_dh (w : Warp) (r : Nat) (v : DWord) : (w.setS r v).dh = w.dh := by unfold Warp.setS; split <;> rfl
@[simp] theorem Warp.setS_crpcSaved (w : Warp) (r : Nat) (v : DWord) : (w.setS r v).crpcSaved = w.crpcSaved :=
  by unfold Warp.setS; split <;> rfl
@[simp] theorem Warp.setS_reports (w : Warp) (r : Nat) (v : DWord) : (w.setS r v).reports = w.reports := by unfold Warp.setS; split <;> rfl
@[simp] theorem Warp.setS_arw (w : Warp) (r : Nat) (v : DWord) : (w.setS r v).arw = w.arw := by unfold Warp.setS; split <;> rfl
@[simp] theorem Warp.setS_park (w : Warp) (r : Nat) (v : DWord) : (w.setS r v).park = w.park := by unfold Warp.setS; split <;> rfl
@[simp] theorem Warp.setS_left (w : Warp) (r : Nat) (v : DWord) : (w.setS r v).left = w.left := by unfold Warp.setS; split <;> rfl
@[simp] theorem Warp.setS_fence (w : Warp) (r : Nat) (v : DWord) : (w.setS r v).fence = w.fence := by unfold Warp.setS; split <;> rfl
@[simp] theorem Warp.setS_casm (w : Warp) (r : Nat) (v : DWord) : (w.setS r v).casm = w.casm := by unfold Warp.setS; split <;> rfl
@[simp] theorem Warp.setS_lostPort (w : Warp) (r : Nat) (v : DWord) : (w.setS r v).lostPort = w.lostPort :=
  by unfold Warp.setS; split <;> rfl
@[simp] theorem Warp.setS_lostLoad (w : Warp) (r : Nat) (v : DWord) : (w.setS r v).lostLoad = w.lostLoad :=
  by unfold Warp.setS; split <;> rfl
@[simp] theorem Warp.setS_preempt (w : Warp) (r : Nat) (v : DWord) : (w.setS r v).preempt = w.preempt := by unfold Warp.setS; split <;> rfl
@[simp] theorem Warp.setS_cls (w : Warp) (r : Nat) (v : DWord) : (w.setS r v).cls = w.cls := by unfold Warp.setS; split <;> rfl
@[simp] theorem Warp.setS_thrPrev (w : Warp) (r : Nat) (v : DWord) : (w.setS r v).thrPrev = w.thrPrev := by unfold Warp.setS; split <;> rfl
@[simp] theorem Warp.setS_thrChg (w : Warp) (r : Nat) (v : DWord) : (w.setS r v).thrChg = w.thrChg := by unfold Warp.setS; split <;> rfl
@[simp] theorem Warp.setS_pathCount (w : Warp) (r : Nat) (v : DWord) : (w.setS r v).pathCount = w.pathCount :=
  by unfold Warp.setS; split <;> rfl
@[simp] theorem Warp.setS_waitCount (w : Warp) (r : Nat) (v : DWord) : (w.setS r v).waitCount = w.waitCount :=
  by unfold Warp.setS; split <;> rfl
@[simp] theorem Warp.setS_withheld (w : Warp) (r : Nat) (v : DWord) : (w.setS r v).withheld = w.withheld :=
  by unfold Warp.setS; split <;> rfl
@[simp] theorem Warp.setS_started (w : Warp) (r : Nat) (v : DWord) : (w.setS r v).started = w.started := by unfold Warp.setS; split <;> rfl
@[simp] theorem Warp.setS_issued (w : Warp) (r : Nat) (v : DWord) : (w.setS r v).issued = w.issued := by unfold Warp.setS; split <;> rfl
@[simp] theorem Warp.setS_tag (w : Warp) (r : Nat) (v : DWord) : (w.setS r v).tag = w.tag := by unfold Warp.setS; split <;> rfl
@[simp] theorem Warp.setS_sent (w : Warp) (r : Nat) (v : DWord) : (w.setS r v).sent = w.sent := by unfold Warp.setS; split <;> rfl
@[simp] theorem Warp.setS_pkg (w : Warp) (r : Nat) (v : DWord) : (w.setS r v).pkg = w.pkg := by unfold Warp.setS; split <;> rfl
@[simp] theorem Warp.setS_blocked (w : Warp) (r : Nat) (v : DWord) : (w.setS r v).blocked = w.blocked := by unfold Warp.setS; split <;> rfl

/-- A part of a warp that no register result changes. -/
theorem Warp.apply_of {β : Type} (f : Warp → β) (h : ∀ w x, f (Warp.apply1 w x) = f w) (w : Warp) (xs : List RegWrite) :
    f (w.apply xs) = f w := by
  induction xs generalizing w with
  | nil => rfl
  | cons x r ih => simpa [Warp.apply] using (ih (w.apply1 x)).trans (h w x)

@[simp] theorem Warp.apply1_place (w : Warp) (x : RegWrite) : (w.apply1 x).place = w.place := by cases x <;> simp [Warp.apply1]
@[simp] theorem Warp.apply1_life (w : Warp) (x : RegWrite) : (w.apply1 x).life = w.life := by cases x <;> simp [Warp.apply1]
@[simp] theorem Warp.apply1_idx (w : Warp) (x : RegWrite) : (w.apply1 x).idx = w.idx := by cases x <;> simp [Warp.apply1]
@[simp] theorem Warp.apply1_key (w : Warp) (x : RegWrite) : (w.apply1 x).key = w.key := by cases x <;> simp [Warp.apply1]
@[simp] theorem Warp.apply1_occ (w : Warp) (x : RegWrite) : (w.apply1 x).occ = w.occ := by cases x <;> simp [Warp.apply1]
@[simp] theorem Warp.apply1_item (w : Warp) (x : RegWrite) : (w.apply1 x).item = w.item := by cases x <;> simp [Warp.apply1]
@[simp] theorem Warp.apply1_age (w : Warp) (x : RegWrite) : (w.apply1 x).age = w.age := by cases x <;> simp [Warp.apply1]
@[simp] theorem Warp.apply1_pc (w : Warp) (x : RegWrite) : (w.apply1 x).pc = w.pc := by cases x <;> simp [Warp.apply1]
@[simp] theorem Warp.apply1_crpc (w : Warp) (x : RegWrite) : (w.apply1 x).crpc = w.crpc := by cases x <;> simp [Warp.apply1]
@[simp] theorem Warp.apply1_depth (w : Warp) (x : RegWrite) : (w.apply1 x).depth = w.depth := by cases x <;> simp [Warp.apply1]
@[simp] theorem Warp.apply1_stack (w : Warp) (x : RegWrite) : (w.apply1 x).stack = w.stack := by cases x <;> simp [Warp.apply1]
@[simp] theorem Warp.apply1_spill (w : Warp) (x : RegWrite) : (w.apply1 x).spill = w.spill := by cases x <;> simp [Warp.apply1]
@[simp] theorem Warp.apply1_hints (w : Warp) (x : RegWrite) : (w.apply1 x).hints = w.hints := by cases x <;> simp [Warp.apply1]
@[simp] theorem Warp.apply1_badHint (w : Warp) (x : RegWrite) : (w.apply1 x).badHint = w.badHint := by cases x <;> simp [Warp.apply1]
@[simp] theorem Warp.apply1_windows (w : Warp) (x : RegWrite) : (w.apply1 x).windows = w.windows := by cases x <;> simp [Warp.apply1]
@[simp] theorem Warp.apply1_counters (w : Warp) (x : RegWrite) : (w.apply1 x).counters = w.counters := by cases x <;> simp [Warp.apply1]
@[simp] theorem Warp.apply1_q0 (w : Warp) (x : RegWrite) : (w.apply1 x).q0 = w.q0 := by cases x <;> simp [Warp.apply1]
@[simp] theorem Warp.apply1_q1 (w : Warp) (x : RegWrite) : (w.apply1 x).q1 = w.q1 := by cases x <;> simp [Warp.apply1]
@[simp] theorem Warp.apply1_q2 (w : Warp) (x : RegWrite) : (w.apply1 x).q2 = w.q2 := by cases x <;> simp [Warp.apply1]
@[simp] theorem Warp.apply1_q3 (w : Warp) (x : RegWrite) : (w.apply1 x).q3 = w.q3 := by cases x <;> simp [Warp.apply1]
@[simp] theorem Warp.apply1_tiles (w : Warp) (x : RegWrite) : (w.apply1 x).tiles = w.tiles := by cases x <;> simp [Warp.apply1]
@[simp] theorem Warp.apply1_dirty (w : Warp) (x : RegWrite) : (w.apply1 x).dirty = w.dirty := by cases x <;> simp [Warp.apply1]
@[simp] theorem Warp.apply1_latch (w : Warp) (x : RegWrite) : (w.apply1 x).latch = w.latch := by cases x <;> simp [Warp.apply1]
@[simp] theorem Warp.apply1_fstat (w : Warp) (x : RegWrite) : (w.apply1 x).fstat = w.fstat := by cases x <;> simp [Warp.apply1]
@[simp] theorem Warp.apply1_mstat (w : Warp) (x : RegWrite) : (w.apply1 x).mstat = w.mstat := by cases x <;> simp [Warp.apply1]
@[simp] theorem Warp.apply1_evmask (w : Warp) (x : RegWrite) : (w.apply1 x).evmask = w.evmask := by cases x <;> simp [Warp.apply1]
@[simp] theorem Warp.apply1_grp (w : Warp) (x : RegWrite) : (w.apply1 x).grp = w.grp := by cases x <;> simp [Warp.apply1]
@[simp] theorem Warp.apply1_tvec (w : Warp) (x : RegWrite) : (w.apply1 x).tvec = w.tvec := by cases x <;> simp [Warp.apply1]
@[simp] theorem Warp.apply1_tcause (w : Warp) (x : RegWrite) : (w.apply1 x).tcause = w.tcause := by cases x <;> simp [Warp.apply1]
@[simp] theorem Warp.apply1_epc (w : Warp) (x : RegWrite) : (w.apply1 x).epc = w.epc := by cases x <;> simp [Warp.apply1]
@[simp] theorem Warp.apply1_tval (w : Warp) (x : RegWrite) : (w.apply1 x).tval = w.tval := by cases x <;> simp [Warp.apply1]
@[simp] theorem Warp.apply1_inh (w : Warp) (x : RegWrite) : (w.apply1 x).inh = w.inh := by cases x <;> simp [Warp.apply1]
@[simp] theorem Warp.apply1_pre (w : Warp) (x : RegWrite) : (w.apply1 x).pre = w.pre := by cases x <;> simp [Warp.apply1]
@[simp] theorem Warp.apply1_rst (w : Warp) (x : RegWrite) : (w.apply1 x).rst = w.rst := by cases x <;> simp [Warp.apply1]
@[simp] theorem Warp.apply1_abort (w : Warp) (x : RegWrite) : (w.apply1 x).abort = w.abort := by cases x <;> simp [Warp.apply1]
@[simp] theorem Warp.apply1_saveptr (w : Warp) (x : RegWrite) : (w.apply1 x).saveptr = w.saveptr := by cases x <;> simp [Warp.apply1]
@[simp] theorem Warp.apply1_dh (w : Warp) (x : RegWrite) : (w.apply1 x).dh = w.dh := by cases x <;> simp [Warp.apply1]
@[simp] theorem Warp.apply1_crpcSaved (w : Warp) (x : RegWrite) : (w.apply1 x).crpcSaved = w.crpcSaved := by cases x <;> simp [Warp.apply1]
@[simp] theorem Warp.apply1_reports (w : Warp) (x : RegWrite) : (w.apply1 x).reports = w.reports := by cases x <;> simp [Warp.apply1]
@[simp] theorem Warp.apply1_arw (w : Warp) (x : RegWrite) : (w.apply1 x).arw = w.arw := by cases x <;> simp [Warp.apply1]
@[simp] theorem Warp.apply1_park (w : Warp) (x : RegWrite) : (w.apply1 x).park = w.park := by cases x <;> simp [Warp.apply1]
@[simp] theorem Warp.apply1_left (w : Warp) (x : RegWrite) : (w.apply1 x).left = w.left := by cases x <;> simp [Warp.apply1]
@[simp] theorem Warp.apply1_fence (w : Warp) (x : RegWrite) : (w.apply1 x).fence = w.fence := by cases x <;> simp [Warp.apply1]
@[simp] theorem Warp.apply1_casm (w : Warp) (x : RegWrite) : (w.apply1 x).casm = w.casm := by cases x <;> simp [Warp.apply1]
@[simp] theorem Warp.apply1_lostPort (w : Warp) (x : RegWrite) : (w.apply1 x).lostPort = w.lostPort := by cases x <;> simp [Warp.apply1]
@[simp] theorem Warp.apply1_lostLoad (w : Warp) (x : RegWrite) : (w.apply1 x).lostLoad = w.lostLoad := by cases x <;> simp [Warp.apply1]
@[simp] theorem Warp.apply1_preempt (w : Warp) (x : RegWrite) : (w.apply1 x).preempt = w.preempt := by cases x <;> simp [Warp.apply1]
@[simp] theorem Warp.apply1_cls (w : Warp) (x : RegWrite) : (w.apply1 x).cls = w.cls := by cases x <;> simp [Warp.apply1]
@[simp] theorem Warp.apply1_thrPrev (w : Warp) (x : RegWrite) : (w.apply1 x).thrPrev = w.thrPrev := by cases x <;> simp [Warp.apply1]
@[simp] theorem Warp.apply1_thrChg (w : Warp) (x : RegWrite) : (w.apply1 x).thrChg = w.thrChg := by cases x <;> simp [Warp.apply1]
@[simp] theorem Warp.apply1_pathCount (w : Warp) (x : RegWrite) : (w.apply1 x).pathCount = w.pathCount := by cases x <;> simp [Warp.apply1]
@[simp] theorem Warp.apply1_waitCount (w : Warp) (x : RegWrite) : (w.apply1 x).waitCount = w.waitCount := by cases x <;> simp [Warp.apply1]
@[simp] theorem Warp.apply1_withheld (w : Warp) (x : RegWrite) : (w.apply1 x).withheld = w.withheld := by cases x <;> simp [Warp.apply1]
@[simp] theorem Warp.apply1_started (w : Warp) (x : RegWrite) : (w.apply1 x).started = w.started := by cases x <;> simp [Warp.apply1]
@[simp] theorem Warp.apply1_issued (w : Warp) (x : RegWrite) : (w.apply1 x).issued = w.issued := by cases x <;> simp [Warp.apply1]
@[simp] theorem Warp.apply1_tag (w : Warp) (x : RegWrite) : (w.apply1 x).tag = w.tag := by cases x <;> simp [Warp.apply1]
@[simp] theorem Warp.apply1_sent (w : Warp) (x : RegWrite) : (w.apply1 x).sent = w.sent := by cases x <;> simp [Warp.apply1]
@[simp] theorem Warp.apply1_pkg (w : Warp) (x : RegWrite) : (w.apply1 x).pkg = w.pkg := by cases x <;> simp [Warp.apply1]
@[simp] theorem Warp.apply1_blocked (w : Warp) (x : RegWrite) : (w.apply1 x).blocked = w.blocked := by cases x <;> simp [Warp.apply1]
@[simp] theorem Warp.apply_place (w : Warp) (xs : List RegWrite) : (w.apply xs).place = w.place :=
  Warp.apply_of Warp.place (fun _ _ => Warp.apply1_place _ _) w xs
@[simp] theorem Warp.apply_life (w : Warp) (xs : List RegWrite) : (w.apply xs).life = w.life :=
  Warp.apply_of Warp.life (fun _ _ => Warp.apply1_life _ _) w xs
@[simp] theorem Warp.apply_idx (w : Warp) (xs : List RegWrite) : (w.apply xs).idx = w.idx :=
  Warp.apply_of Warp.idx (fun _ _ => Warp.apply1_idx _ _) w xs
@[simp] theorem Warp.apply_key (w : Warp) (xs : List RegWrite) : (w.apply xs).key = w.key :=
  Warp.apply_of Warp.key (fun _ _ => Warp.apply1_key _ _) w xs
@[simp] theorem Warp.apply_occ (w : Warp) (xs : List RegWrite) : (w.apply xs).occ = w.occ :=
  Warp.apply_of Warp.occ (fun _ _ => Warp.apply1_occ _ _) w xs
@[simp] theorem Warp.apply_item (w : Warp) (xs : List RegWrite) : (w.apply xs).item = w.item :=
  Warp.apply_of Warp.item (fun _ _ => Warp.apply1_item _ _) w xs
@[simp] theorem Warp.apply_age (w : Warp) (xs : List RegWrite) : (w.apply xs).age = w.age :=
  Warp.apply_of Warp.age (fun _ _ => Warp.apply1_age _ _) w xs
@[simp] theorem Warp.apply_pc (w : Warp) (xs : List RegWrite) : (w.apply xs).pc = w.pc :=
  Warp.apply_of Warp.pc (fun _ _ => Warp.apply1_pc _ _) w xs
@[simp] theorem Warp.apply_crpc (w : Warp) (xs : List RegWrite) : (w.apply xs).crpc = w.crpc :=
  Warp.apply_of Warp.crpc (fun _ _ => Warp.apply1_crpc _ _) w xs
@[simp] theorem Warp.apply_depth (w : Warp) (xs : List RegWrite) : (w.apply xs).depth = w.depth :=
  Warp.apply_of Warp.depth (fun _ _ => Warp.apply1_depth _ _) w xs
@[simp] theorem Warp.apply_stack (w : Warp) (xs : List RegWrite) : (w.apply xs).stack = w.stack :=
  Warp.apply_of Warp.stack (fun _ _ => Warp.apply1_stack _ _) w xs
@[simp] theorem Warp.apply_spill (w : Warp) (xs : List RegWrite) : (w.apply xs).spill = w.spill :=
  Warp.apply_of Warp.spill (fun _ _ => Warp.apply1_spill _ _) w xs
@[simp] theorem Warp.apply_hints (w : Warp) (xs : List RegWrite) : (w.apply xs).hints = w.hints :=
  Warp.apply_of Warp.hints (fun _ _ => Warp.apply1_hints _ _) w xs
@[simp] theorem Warp.apply_badHint (w : Warp) (xs : List RegWrite) : (w.apply xs).badHint = w.badHint :=
  Warp.apply_of Warp.badHint (fun _ _ => Warp.apply1_badHint _ _) w xs
@[simp] theorem Warp.apply_windows (w : Warp) (xs : List RegWrite) : (w.apply xs).windows = w.windows :=
  Warp.apply_of Warp.windows (fun _ _ => Warp.apply1_windows _ _) w xs
@[simp] theorem Warp.apply_counters (w : Warp) (xs : List RegWrite) : (w.apply xs).counters = w.counters :=
  Warp.apply_of Warp.counters (fun _ _ => Warp.apply1_counters _ _) w xs
@[simp] theorem Warp.apply_q0 (w : Warp) (xs : List RegWrite) : (w.apply xs).q0 = w.q0 :=
  Warp.apply_of Warp.q0 (fun _ _ => Warp.apply1_q0 _ _) w xs
@[simp] theorem Warp.apply_q1 (w : Warp) (xs : List RegWrite) : (w.apply xs).q1 = w.q1 :=
  Warp.apply_of Warp.q1 (fun _ _ => Warp.apply1_q1 _ _) w xs
@[simp] theorem Warp.apply_q2 (w : Warp) (xs : List RegWrite) : (w.apply xs).q2 = w.q2 :=
  Warp.apply_of Warp.q2 (fun _ _ => Warp.apply1_q2 _ _) w xs
@[simp] theorem Warp.apply_q3 (w : Warp) (xs : List RegWrite) : (w.apply xs).q3 = w.q3 :=
  Warp.apply_of Warp.q3 (fun _ _ => Warp.apply1_q3 _ _) w xs
@[simp] theorem Warp.apply_tiles (w : Warp) (xs : List RegWrite) : (w.apply xs).tiles = w.tiles :=
  Warp.apply_of Warp.tiles (fun _ _ => Warp.apply1_tiles _ _) w xs
@[simp] theorem Warp.apply_dirty (w : Warp) (xs : List RegWrite) : (w.apply xs).dirty = w.dirty :=
  Warp.apply_of Warp.dirty (fun _ _ => Warp.apply1_dirty _ _) w xs
@[simp] theorem Warp.apply_latch (w : Warp) (xs : List RegWrite) : (w.apply xs).latch = w.latch :=
  Warp.apply_of Warp.latch (fun _ _ => Warp.apply1_latch _ _) w xs
@[simp] theorem Warp.apply_fstat (w : Warp) (xs : List RegWrite) : (w.apply xs).fstat = w.fstat :=
  Warp.apply_of Warp.fstat (fun _ _ => Warp.apply1_fstat _ _) w xs
@[simp] theorem Warp.apply_mstat (w : Warp) (xs : List RegWrite) : (w.apply xs).mstat = w.mstat :=
  Warp.apply_of Warp.mstat (fun _ _ => Warp.apply1_mstat _ _) w xs
@[simp] theorem Warp.apply_evmask (w : Warp) (xs : List RegWrite) : (w.apply xs).evmask = w.evmask :=
  Warp.apply_of Warp.evmask (fun _ _ => Warp.apply1_evmask _ _) w xs
@[simp] theorem Warp.apply_grp (w : Warp) (xs : List RegWrite) : (w.apply xs).grp = w.grp :=
  Warp.apply_of Warp.grp (fun _ _ => Warp.apply1_grp _ _) w xs
@[simp] theorem Warp.apply_tvec (w : Warp) (xs : List RegWrite) : (w.apply xs).tvec = w.tvec :=
  Warp.apply_of Warp.tvec (fun _ _ => Warp.apply1_tvec _ _) w xs
@[simp] theorem Warp.apply_tcause (w : Warp) (xs : List RegWrite) : (w.apply xs).tcause = w.tcause :=
  Warp.apply_of Warp.tcause (fun _ _ => Warp.apply1_tcause _ _) w xs
@[simp] theorem Warp.apply_epc (w : Warp) (xs : List RegWrite) : (w.apply xs).epc = w.epc :=
  Warp.apply_of Warp.epc (fun _ _ => Warp.apply1_epc _ _) w xs
@[simp] theorem Warp.apply_tval (w : Warp) (xs : List RegWrite) : (w.apply xs).tval = w.tval :=
  Warp.apply_of Warp.tval (fun _ _ => Warp.apply1_tval _ _) w xs
@[simp] theorem Warp.apply_inh (w : Warp) (xs : List RegWrite) : (w.apply xs).inh = w.inh :=
  Warp.apply_of Warp.inh (fun _ _ => Warp.apply1_inh _ _) w xs
@[simp] theorem Warp.apply_pre (w : Warp) (xs : List RegWrite) : (w.apply xs).pre = w.pre :=
  Warp.apply_of Warp.pre (fun _ _ => Warp.apply1_pre _ _) w xs
@[simp] theorem Warp.apply_rst (w : Warp) (xs : List RegWrite) : (w.apply xs).rst = w.rst :=
  Warp.apply_of Warp.rst (fun _ _ => Warp.apply1_rst _ _) w xs
@[simp] theorem Warp.apply_abort (w : Warp) (xs : List RegWrite) : (w.apply xs).abort = w.abort :=
  Warp.apply_of Warp.abort (fun _ _ => Warp.apply1_abort _ _) w xs
@[simp] theorem Warp.apply_saveptr (w : Warp) (xs : List RegWrite) : (w.apply xs).saveptr = w.saveptr :=
  Warp.apply_of Warp.saveptr (fun _ _ => Warp.apply1_saveptr _ _) w xs
@[simp] theorem Warp.apply_dh (w : Warp) (xs : List RegWrite) : (w.apply xs).dh = w.dh :=
  Warp.apply_of Warp.dh (fun _ _ => Warp.apply1_dh _ _) w xs
@[simp] theorem Warp.apply_crpcSaved (w : Warp) (xs : List RegWrite) : (w.apply xs).crpcSaved = w.crpcSaved :=
  Warp.apply_of Warp.crpcSaved (fun _ _ => Warp.apply1_crpcSaved _ _) w xs
@[simp] theorem Warp.apply_reports (w : Warp) (xs : List RegWrite) : (w.apply xs).reports = w.reports :=
  Warp.apply_of Warp.reports (fun _ _ => Warp.apply1_reports _ _) w xs
@[simp] theorem Warp.apply_arw (w : Warp) (xs : List RegWrite) : (w.apply xs).arw = w.arw :=
  Warp.apply_of Warp.arw (fun _ _ => Warp.apply1_arw _ _) w xs
@[simp] theorem Warp.apply_park (w : Warp) (xs : List RegWrite) : (w.apply xs).park = w.park :=
  Warp.apply_of Warp.park (fun _ _ => Warp.apply1_park _ _) w xs
@[simp] theorem Warp.apply_left (w : Warp) (xs : List RegWrite) : (w.apply xs).left = w.left :=
  Warp.apply_of Warp.left (fun _ _ => Warp.apply1_left _ _) w xs
@[simp] theorem Warp.apply_fence (w : Warp) (xs : List RegWrite) : (w.apply xs).fence = w.fence :=
  Warp.apply_of Warp.fence (fun _ _ => Warp.apply1_fence _ _) w xs
@[simp] theorem Warp.apply_casm (w : Warp) (xs : List RegWrite) : (w.apply xs).casm = w.casm :=
  Warp.apply_of Warp.casm (fun _ _ => Warp.apply1_casm _ _) w xs
@[simp] theorem Warp.apply_lostPort (w : Warp) (xs : List RegWrite) : (w.apply xs).lostPort = w.lostPort :=
  Warp.apply_of Warp.lostPort (fun _ _ => Warp.apply1_lostPort _ _) w xs
@[simp] theorem Warp.apply_lostLoad (w : Warp) (xs : List RegWrite) : (w.apply xs).lostLoad = w.lostLoad :=
  Warp.apply_of Warp.lostLoad (fun _ _ => Warp.apply1_lostLoad _ _) w xs
@[simp] theorem Warp.apply_preempt (w : Warp) (xs : List RegWrite) : (w.apply xs).preempt = w.preempt :=
  Warp.apply_of Warp.preempt (fun _ _ => Warp.apply1_preempt _ _) w xs
@[simp] theorem Warp.apply_cls (w : Warp) (xs : List RegWrite) : (w.apply xs).cls = w.cls :=
  Warp.apply_of Warp.cls (fun _ _ => Warp.apply1_cls _ _) w xs
@[simp] theorem Warp.apply_thrPrev (w : Warp) (xs : List RegWrite) : (w.apply xs).thrPrev = w.thrPrev :=
  Warp.apply_of Warp.thrPrev (fun _ _ => Warp.apply1_thrPrev _ _) w xs
@[simp] theorem Warp.apply_thrChg (w : Warp) (xs : List RegWrite) : (w.apply xs).thrChg = w.thrChg :=
  Warp.apply_of Warp.thrChg (fun _ _ => Warp.apply1_thrChg _ _) w xs
@[simp] theorem Warp.apply_pathCount (w : Warp) (xs : List RegWrite) : (w.apply xs).pathCount = w.pathCount :=
  Warp.apply_of Warp.pathCount (fun _ _ => Warp.apply1_pathCount _ _) w xs
@[simp] theorem Warp.apply_waitCount (w : Warp) (xs : List RegWrite) : (w.apply xs).waitCount = w.waitCount :=
  Warp.apply_of Warp.waitCount (fun _ _ => Warp.apply1_waitCount _ _) w xs
@[simp] theorem Warp.apply_withheld (w : Warp) (xs : List RegWrite) : (w.apply xs).withheld = w.withheld :=
  Warp.apply_of Warp.withheld (fun _ _ => Warp.apply1_withheld _ _) w xs
@[simp] theorem Warp.apply_started (w : Warp) (xs : List RegWrite) : (w.apply xs).started = w.started :=
  Warp.apply_of Warp.started (fun _ _ => Warp.apply1_started _ _) w xs
@[simp] theorem Warp.apply_issued (w : Warp) (xs : List RegWrite) : (w.apply xs).issued = w.issued :=
  Warp.apply_of Warp.issued (fun _ _ => Warp.apply1_issued _ _) w xs
@[simp] theorem Warp.apply_tag (w : Warp) (xs : List RegWrite) : (w.apply xs).tag = w.tag :=
  Warp.apply_of Warp.tag (fun _ _ => Warp.apply1_tag _ _) w xs
@[simp] theorem Warp.apply_sent (w : Warp) (xs : List RegWrite) : (w.apply xs).sent = w.sent :=
  Warp.apply_of Warp.sent (fun _ _ => Warp.apply1_sent _ _) w xs
@[simp] theorem Warp.apply_pkg (w : Warp) (xs : List RegWrite) : (w.apply xs).pkg = w.pkg :=
  Warp.apply_of Warp.pkg (fun _ _ => Warp.apply1_pkg _ _) w xs
@[simp] theorem Warp.apply_blocked (w : Warp) (xs : List RegWrite) : (w.apply xs).blocked = w.blocked :=
  Warp.apply_of Warp.blocked (fun _ _ => Warp.apply1_blocked _ _) w xs
@[simp] theorem Warp.commitAll_place (w : Warp) : (w.commitAll).place = w.place := by simp [Warp.commitAll]
@[simp] theorem Warp.commitAll_life (w : Warp) : (w.commitAll).life = w.life := by simp [Warp.commitAll]
@[simp] theorem Warp.commitAll_idx (w : Warp) : (w.commitAll).idx = w.idx := by simp [Warp.commitAll]
@[simp] theorem Warp.commitAll_key (w : Warp) : (w.commitAll).key = w.key := by simp [Warp.commitAll]
@[simp] theorem Warp.commitAll_occ (w : Warp) : (w.commitAll).occ = w.occ := by simp [Warp.commitAll]
@[simp] theorem Warp.commitAll_item (w : Warp) : (w.commitAll).item = w.item := by simp [Warp.commitAll]
@[simp] theorem Warp.commitAll_age (w : Warp) : (w.commitAll).age = w.age := by simp [Warp.commitAll]
@[simp] theorem Warp.commitAll_pc (w : Warp) : (w.commitAll).pc = w.pc := by simp [Warp.commitAll]
@[simp] theorem Warp.commitAll_crpc (w : Warp) : (w.commitAll).crpc = w.crpc := by simp [Warp.commitAll]
@[simp] theorem Warp.commitAll_depth (w : Warp) : (w.commitAll).depth = w.depth := by simp [Warp.commitAll]
@[simp] theorem Warp.commitAll_stack (w : Warp) : (w.commitAll).stack = w.stack := by simp [Warp.commitAll]
@[simp] theorem Warp.commitAll_spill (w : Warp) : (w.commitAll).spill = w.spill := by simp [Warp.commitAll]
@[simp] theorem Warp.commitAll_hints (w : Warp) : (w.commitAll).hints = w.hints := by simp [Warp.commitAll]
@[simp] theorem Warp.commitAll_badHint (w : Warp) : (w.commitAll).badHint = w.badHint := by simp [Warp.commitAll]
@[simp] theorem Warp.commitAll_counters (w : Warp) : (w.commitAll).counters = w.counters := by simp [Warp.commitAll]
@[simp] theorem Warp.commitAll_q0 (w : Warp) : (w.commitAll).q0 = w.q0 := by simp [Warp.commitAll]
@[simp] theorem Warp.commitAll_q1 (w : Warp) : (w.commitAll).q1 = w.q1 := by simp [Warp.commitAll]
@[simp] theorem Warp.commitAll_q2 (w : Warp) : (w.commitAll).q2 = w.q2 := by simp [Warp.commitAll]
@[simp] theorem Warp.commitAll_q3 (w : Warp) : (w.commitAll).q3 = w.q3 := by simp [Warp.commitAll]
@[simp] theorem Warp.commitAll_tiles (w : Warp) : (w.commitAll).tiles = w.tiles := by simp [Warp.commitAll]
@[simp] theorem Warp.commitAll_dirty (w : Warp) : (w.commitAll).dirty = w.dirty := by simp [Warp.commitAll]
@[simp] theorem Warp.commitAll_latch (w : Warp) : (w.commitAll).latch = w.latch := by simp [Warp.commitAll]
@[simp] theorem Warp.commitAll_fstat (w : Warp) : (w.commitAll).fstat = w.fstat := by simp [Warp.commitAll]
@[simp] theorem Warp.commitAll_mstat (w : Warp) : (w.commitAll).mstat = w.mstat := by simp [Warp.commitAll]
@[simp] theorem Warp.commitAll_evmask (w : Warp) : (w.commitAll).evmask = w.evmask := by simp [Warp.commitAll]
@[simp] theorem Warp.commitAll_grp (w : Warp) : (w.commitAll).grp = w.grp := by simp [Warp.commitAll]
@[simp] theorem Warp.commitAll_tvec (w : Warp) : (w.commitAll).tvec = w.tvec := by simp [Warp.commitAll]
@[simp] theorem Warp.commitAll_tcause (w : Warp) : (w.commitAll).tcause = w.tcause := by simp [Warp.commitAll]
@[simp] theorem Warp.commitAll_epc (w : Warp) : (w.commitAll).epc = w.epc := by simp [Warp.commitAll]
@[simp] theorem Warp.commitAll_tval (w : Warp) : (w.commitAll).tval = w.tval := by simp [Warp.commitAll]
@[simp] theorem Warp.commitAll_inh (w : Warp) : (w.commitAll).inh = w.inh := by simp [Warp.commitAll]
@[simp] theorem Warp.commitAll_pre (w : Warp) : (w.commitAll).pre = w.pre := by simp [Warp.commitAll]
@[simp] theorem Warp.commitAll_rst (w : Warp) : (w.commitAll).rst = w.rst := by simp [Warp.commitAll]
@[simp] theorem Warp.commitAll_abort (w : Warp) : (w.commitAll).abort = w.abort := by simp [Warp.commitAll]
@[simp] theorem Warp.commitAll_saveptr (w : Warp) : (w.commitAll).saveptr = w.saveptr := by simp [Warp.commitAll]
@[simp] theorem Warp.commitAll_dh (w : Warp) : (w.commitAll).dh = w.dh := by simp [Warp.commitAll]
@[simp] theorem Warp.commitAll_crpcSaved (w : Warp) : (w.commitAll).crpcSaved = w.crpcSaved := by simp [Warp.commitAll]
@[simp] theorem Warp.commitAll_reports (w : Warp) : (w.commitAll).reports = w.reports := by simp [Warp.commitAll]
@[simp] theorem Warp.commitAll_arw (w : Warp) : (w.commitAll).arw = w.arw := by simp [Warp.commitAll]
@[simp] theorem Warp.commitAll_park (w : Warp) : (w.commitAll).park = w.park := by simp [Warp.commitAll]
@[simp] theorem Warp.commitAll_left (w : Warp) : (w.commitAll).left = w.left := by simp [Warp.commitAll]
@[simp] theorem Warp.commitAll_fence (w : Warp) : (w.commitAll).fence = w.fence := by simp [Warp.commitAll]
@[simp] theorem Warp.commitAll_casm (w : Warp) : (w.commitAll).casm = w.casm := by simp [Warp.commitAll]
@[simp] theorem Warp.commitAll_lostPort (w : Warp) : (w.commitAll).lostPort = w.lostPort := by simp [Warp.commitAll]
@[simp] theorem Warp.commitAll_lostLoad (w : Warp) : (w.commitAll).lostLoad = w.lostLoad := by simp [Warp.commitAll]
@[simp] theorem Warp.commitAll_preempt (w : Warp) : (w.commitAll).preempt = w.preempt := by simp [Warp.commitAll]
@[simp] theorem Warp.commitAll_cls (w : Warp) : (w.commitAll).cls = w.cls := by simp [Warp.commitAll]
@[simp] theorem Warp.commitAll_thrPrev (w : Warp) : (w.commitAll).thrPrev = w.thrPrev := by simp [Warp.commitAll]
@[simp] theorem Warp.commitAll_thrChg (w : Warp) : (w.commitAll).thrChg = w.thrChg := by simp [Warp.commitAll]
@[simp] theorem Warp.commitAll_pathCount (w : Warp) : (w.commitAll).pathCount = w.pathCount := by simp [Warp.commitAll]
@[simp] theorem Warp.commitAll_waitCount (w : Warp) : (w.commitAll).waitCount = w.waitCount := by simp [Warp.commitAll]
@[simp] theorem Warp.commitAll_withheld (w : Warp) : (w.commitAll).withheld = w.withheld := by simp [Warp.commitAll]
@[simp] theorem Warp.commitAll_started (w : Warp) : (w.commitAll).started = w.started := by simp [Warp.commitAll]
@[simp] theorem Warp.commitAll_issued (w : Warp) : (w.commitAll).issued = w.issued := by simp [Warp.commitAll]
@[simp] theorem Warp.commitAll_tag (w : Warp) : (w.commitAll).tag = w.tag := by simp [Warp.commitAll]
@[simp] theorem Warp.commitAll_sent (w : Warp) : (w.commitAll).sent = w.sent := by simp [Warp.commitAll]
@[simp] theorem Warp.commitAll_pkg (w : Warp) : (w.commitAll).pkg = w.pkg := by simp [Warp.commitAll]
@[simp] theorem Warp.commitAll_blocked (w : Warp) : (w.commitAll).blocked = w.blocked := by simp [Warp.commitAll]
@[simp] theorem Warp.tickWindows_place (w : Warp) : (w.tickWindows).place = w.place := by simp [Warp.tickWindows]
@[simp] theorem Warp.tickWindows_life (w : Warp) : (w.tickWindows).life = w.life := by simp [Warp.tickWindows]
@[simp] theorem Warp.tickWindows_idx (w : Warp) : (w.tickWindows).idx = w.idx := by simp [Warp.tickWindows]
@[simp] theorem Warp.tickWindows_key (w : Warp) : (w.tickWindows).key = w.key := by simp [Warp.tickWindows]
@[simp] theorem Warp.tickWindows_occ (w : Warp) : (w.tickWindows).occ = w.occ := by simp [Warp.tickWindows]
@[simp] theorem Warp.tickWindows_item (w : Warp) : (w.tickWindows).item = w.item := by simp [Warp.tickWindows]
@[simp] theorem Warp.tickWindows_age (w : Warp) : (w.tickWindows).age = w.age := by simp [Warp.tickWindows]
@[simp] theorem Warp.tickWindows_pc (w : Warp) : (w.tickWindows).pc = w.pc := by simp [Warp.tickWindows]
@[simp] theorem Warp.tickWindows_crpc (w : Warp) : (w.tickWindows).crpc = w.crpc := by simp [Warp.tickWindows]
@[simp] theorem Warp.tickWindows_depth (w : Warp) : (w.tickWindows).depth = w.depth := by simp [Warp.tickWindows]
@[simp] theorem Warp.tickWindows_stack (w : Warp) : (w.tickWindows).stack = w.stack := by simp [Warp.tickWindows]
@[simp] theorem Warp.tickWindows_spill (w : Warp) : (w.tickWindows).spill = w.spill := by simp [Warp.tickWindows]
@[simp] theorem Warp.tickWindows_hints (w : Warp) : (w.tickWindows).hints = w.hints := by simp [Warp.tickWindows]
@[simp] theorem Warp.tickWindows_badHint (w : Warp) : (w.tickWindows).badHint = w.badHint := by simp [Warp.tickWindows]
@[simp] theorem Warp.tickWindows_counters (w : Warp) : (w.tickWindows).counters = w.counters := by simp [Warp.tickWindows]
@[simp] theorem Warp.tickWindows_q0 (w : Warp) : (w.tickWindows).q0 = w.q0 := by simp [Warp.tickWindows]
@[simp] theorem Warp.tickWindows_q1 (w : Warp) : (w.tickWindows).q1 = w.q1 := by simp [Warp.tickWindows]
@[simp] theorem Warp.tickWindows_q2 (w : Warp) : (w.tickWindows).q2 = w.q2 := by simp [Warp.tickWindows]
@[simp] theorem Warp.tickWindows_q3 (w : Warp) : (w.tickWindows).q3 = w.q3 := by simp [Warp.tickWindows]
@[simp] theorem Warp.tickWindows_tiles (w : Warp) : (w.tickWindows).tiles = w.tiles := by simp [Warp.tickWindows]
@[simp] theorem Warp.tickWindows_dirty (w : Warp) : (w.tickWindows).dirty = w.dirty := by simp [Warp.tickWindows]
@[simp] theorem Warp.tickWindows_latch (w : Warp) : (w.tickWindows).latch = w.latch := by simp [Warp.tickWindows]
@[simp] theorem Warp.tickWindows_fstat (w : Warp) : (w.tickWindows).fstat = w.fstat := by simp [Warp.tickWindows]
@[simp] theorem Warp.tickWindows_mstat (w : Warp) : (w.tickWindows).mstat = w.mstat := by simp [Warp.tickWindows]
@[simp] theorem Warp.tickWindows_evmask (w : Warp) : (w.tickWindows).evmask = w.evmask := by simp [Warp.tickWindows]
@[simp] theorem Warp.tickWindows_grp (w : Warp) : (w.tickWindows).grp = w.grp := by simp [Warp.tickWindows]
@[simp] theorem Warp.tickWindows_tvec (w : Warp) : (w.tickWindows).tvec = w.tvec := by simp [Warp.tickWindows]
@[simp] theorem Warp.tickWindows_tcause (w : Warp) : (w.tickWindows).tcause = w.tcause := by simp [Warp.tickWindows]
@[simp] theorem Warp.tickWindows_epc (w : Warp) : (w.tickWindows).epc = w.epc := by simp [Warp.tickWindows]
@[simp] theorem Warp.tickWindows_tval (w : Warp) : (w.tickWindows).tval = w.tval := by simp [Warp.tickWindows]
@[simp] theorem Warp.tickWindows_inh (w : Warp) : (w.tickWindows).inh = w.inh := by simp [Warp.tickWindows]
@[simp] theorem Warp.tickWindows_pre (w : Warp) : (w.tickWindows).pre = w.pre := by simp [Warp.tickWindows]
@[simp] theorem Warp.tickWindows_rst (w : Warp) : (w.tickWindows).rst = w.rst := by simp [Warp.tickWindows]
@[simp] theorem Warp.tickWindows_abort (w : Warp) : (w.tickWindows).abort = w.abort := by simp [Warp.tickWindows]
@[simp] theorem Warp.tickWindows_saveptr (w : Warp) : (w.tickWindows).saveptr = w.saveptr := by simp [Warp.tickWindows]
@[simp] theorem Warp.tickWindows_dh (w : Warp) : (w.tickWindows).dh = w.dh := by simp [Warp.tickWindows]
@[simp] theorem Warp.tickWindows_crpcSaved (w : Warp) : (w.tickWindows).crpcSaved = w.crpcSaved := by simp [Warp.tickWindows]
@[simp] theorem Warp.tickWindows_reports (w : Warp) : (w.tickWindows).reports = w.reports := by simp [Warp.tickWindows]
@[simp] theorem Warp.tickWindows_arw (w : Warp) : (w.tickWindows).arw = w.arw := by simp [Warp.tickWindows]
@[simp] theorem Warp.tickWindows_park (w : Warp) : (w.tickWindows).park = w.park := by simp [Warp.tickWindows]
@[simp] theorem Warp.tickWindows_left (w : Warp) : (w.tickWindows).left = w.left := by simp [Warp.tickWindows]
@[simp] theorem Warp.tickWindows_fence (w : Warp) : (w.tickWindows).fence = w.fence := by simp [Warp.tickWindows]
@[simp] theorem Warp.tickWindows_casm (w : Warp) : (w.tickWindows).casm = w.casm := by simp [Warp.tickWindows]
@[simp] theorem Warp.tickWindows_lostPort (w : Warp) : (w.tickWindows).lostPort = w.lostPort := by simp [Warp.tickWindows]
@[simp] theorem Warp.tickWindows_lostLoad (w : Warp) : (w.tickWindows).lostLoad = w.lostLoad := by simp [Warp.tickWindows]
@[simp] theorem Warp.tickWindows_preempt (w : Warp) : (w.tickWindows).preempt = w.preempt := by simp [Warp.tickWindows]
@[simp] theorem Warp.tickWindows_cls (w : Warp) : (w.tickWindows).cls = w.cls := by simp [Warp.tickWindows]
@[simp] theorem Warp.tickWindows_thrPrev (w : Warp) : (w.tickWindows).thrPrev = w.thrPrev := by simp [Warp.tickWindows]
@[simp] theorem Warp.tickWindows_thrChg (w : Warp) : (w.tickWindows).thrChg = w.thrChg := by simp [Warp.tickWindows]
@[simp] theorem Warp.tickWindows_pathCount (w : Warp) : (w.tickWindows).pathCount = w.pathCount := by simp [Warp.tickWindows]
@[simp] theorem Warp.tickWindows_waitCount (w : Warp) : (w.tickWindows).waitCount = w.waitCount := by simp [Warp.tickWindows]
@[simp] theorem Warp.tickWindows_withheld (w : Warp) : (w.tickWindows).withheld = w.withheld := by simp [Warp.tickWindows]
@[simp] theorem Warp.tickWindows_started (w : Warp) : (w.tickWindows).started = w.started := by simp [Warp.tickWindows]
@[simp] theorem Warp.tickWindows_issued (w : Warp) : (w.tickWindows).issued = w.issued := by simp [Warp.tickWindows]
@[simp] theorem Warp.tickWindows_tag (w : Warp) : (w.tickWindows).tag = w.tag := by simp [Warp.tickWindows]
@[simp] theorem Warp.tickWindows_sent (w : Warp) : (w.tickWindows).sent = w.sent := by simp [Warp.tickWindows]
@[simp] theorem Warp.tickWindows_pkg (w : Warp) : (w.tickWindows).pkg = w.pkg := by simp [Warp.tickWindows]
@[simp] theorem Warp.tickWindows_blocked (w : Warp) : (w.tickWindows).blocked = w.blocked := by simp [Warp.tickWindows]
@[simp] theorem Warp.commitLoads_place (w : Warp) (b : Bool) : (w.commitLoads b).place = w.place := by simp [Warp.commitLoads]
@[simp] theorem Warp.commitLoads_life (w : Warp) (b : Bool) : (w.commitLoads b).life = w.life := by simp [Warp.commitLoads]
@[simp] theorem Warp.commitLoads_idx (w : Warp) (b : Bool) : (w.commitLoads b).idx = w.idx := by simp [Warp.commitLoads]
@[simp] theorem Warp.commitLoads_key (w : Warp) (b : Bool) : (w.commitLoads b).key = w.key := by simp [Warp.commitLoads]
@[simp] theorem Warp.commitLoads_occ (w : Warp) (b : Bool) : (w.commitLoads b).occ = w.occ := by simp [Warp.commitLoads]
@[simp] theorem Warp.commitLoads_item (w : Warp) (b : Bool) : (w.commitLoads b).item = w.item := by simp [Warp.commitLoads]
@[simp] theorem Warp.commitLoads_age (w : Warp) (b : Bool) : (w.commitLoads b).age = w.age := by simp [Warp.commitLoads]
@[simp] theorem Warp.commitLoads_pc (w : Warp) (b : Bool) : (w.commitLoads b).pc = w.pc := by simp [Warp.commitLoads]
@[simp] theorem Warp.commitLoads_crpc (w : Warp) (b : Bool) : (w.commitLoads b).crpc = w.crpc := by simp [Warp.commitLoads]
@[simp] theorem Warp.commitLoads_depth (w : Warp) (b : Bool) : (w.commitLoads b).depth = w.depth := by simp [Warp.commitLoads]
@[simp] theorem Warp.commitLoads_stack (w : Warp) (b : Bool) : (w.commitLoads b).stack = w.stack := by simp [Warp.commitLoads]
@[simp] theorem Warp.commitLoads_spill (w : Warp) (b : Bool) : (w.commitLoads b).spill = w.spill := by simp [Warp.commitLoads]
@[simp] theorem Warp.commitLoads_hints (w : Warp) (b : Bool) : (w.commitLoads b).hints = w.hints := by simp [Warp.commitLoads]
@[simp] theorem Warp.commitLoads_badHint (w : Warp) (b : Bool) : (w.commitLoads b).badHint = w.badHint := by simp [Warp.commitLoads]
@[simp] theorem Warp.commitLoads_counters (w : Warp) (b : Bool) : (w.commitLoads b).counters = w.counters := by simp [Warp.commitLoads]
@[simp] theorem Warp.commitLoads_q0 (w : Warp) (b : Bool) : (w.commitLoads b).q0 = w.q0 := by simp [Warp.commitLoads]
@[simp] theorem Warp.commitLoads_q1 (w : Warp) (b : Bool) : (w.commitLoads b).q1 = w.q1 := by simp [Warp.commitLoads]
@[simp] theorem Warp.commitLoads_q2 (w : Warp) (b : Bool) : (w.commitLoads b).q2 = w.q2 := by simp [Warp.commitLoads]
@[simp] theorem Warp.commitLoads_q3 (w : Warp) (b : Bool) : (w.commitLoads b).q3 = w.q3 := by simp [Warp.commitLoads]
@[simp] theorem Warp.commitLoads_tiles (w : Warp) (b : Bool) : (w.commitLoads b).tiles = w.tiles := by simp [Warp.commitLoads]
@[simp] theorem Warp.commitLoads_dirty (w : Warp) (b : Bool) : (w.commitLoads b).dirty = w.dirty := by simp [Warp.commitLoads]
@[simp] theorem Warp.commitLoads_latch (w : Warp) (b : Bool) : (w.commitLoads b).latch = w.latch := by simp [Warp.commitLoads]
@[simp] theorem Warp.commitLoads_fstat (w : Warp) (b : Bool) : (w.commitLoads b).fstat = w.fstat := by simp [Warp.commitLoads]
@[simp] theorem Warp.commitLoads_mstat (w : Warp) (b : Bool) : (w.commitLoads b).mstat = w.mstat := by simp [Warp.commitLoads]
@[simp] theorem Warp.commitLoads_evmask (w : Warp) (b : Bool) : (w.commitLoads b).evmask = w.evmask := by simp [Warp.commitLoads]
@[simp] theorem Warp.commitLoads_grp (w : Warp) (b : Bool) : (w.commitLoads b).grp = w.grp := by simp [Warp.commitLoads]
@[simp] theorem Warp.commitLoads_tvec (w : Warp) (b : Bool) : (w.commitLoads b).tvec = w.tvec := by simp [Warp.commitLoads]
@[simp] theorem Warp.commitLoads_tcause (w : Warp) (b : Bool) : (w.commitLoads b).tcause = w.tcause := by simp [Warp.commitLoads]
@[simp] theorem Warp.commitLoads_epc (w : Warp) (b : Bool) : (w.commitLoads b).epc = w.epc := by simp [Warp.commitLoads]
@[simp] theorem Warp.commitLoads_tval (w : Warp) (b : Bool) : (w.commitLoads b).tval = w.tval := by simp [Warp.commitLoads]
@[simp] theorem Warp.commitLoads_inh (w : Warp) (b : Bool) : (w.commitLoads b).inh = w.inh := by simp [Warp.commitLoads]
@[simp] theorem Warp.commitLoads_pre (w : Warp) (b : Bool) : (w.commitLoads b).pre = w.pre := by simp [Warp.commitLoads]
@[simp] theorem Warp.commitLoads_rst (w : Warp) (b : Bool) : (w.commitLoads b).rst = w.rst := by simp [Warp.commitLoads]
@[simp] theorem Warp.commitLoads_abort (w : Warp) (b : Bool) : (w.commitLoads b).abort = w.abort := by simp [Warp.commitLoads]
@[simp] theorem Warp.commitLoads_saveptr (w : Warp) (b : Bool) : (w.commitLoads b).saveptr = w.saveptr := by simp [Warp.commitLoads]
@[simp] theorem Warp.commitLoads_dh (w : Warp) (b : Bool) : (w.commitLoads b).dh = w.dh := by simp [Warp.commitLoads]
@[simp] theorem Warp.commitLoads_crpcSaved (w : Warp) (b : Bool) : (w.commitLoads b).crpcSaved = w.crpcSaved := by simp [Warp.commitLoads]
@[simp] theorem Warp.commitLoads_reports (w : Warp) (b : Bool) : (w.commitLoads b).reports = w.reports := by simp [Warp.commitLoads]
@[simp] theorem Warp.commitLoads_arw (w : Warp) (b : Bool) : (w.commitLoads b).arw = w.arw := by simp [Warp.commitLoads]
@[simp] theorem Warp.commitLoads_park (w : Warp) (b : Bool) : (w.commitLoads b).park = w.park := by simp [Warp.commitLoads]
@[simp] theorem Warp.commitLoads_left (w : Warp) (b : Bool) : (w.commitLoads b).left = w.left := by simp [Warp.commitLoads]
@[simp] theorem Warp.commitLoads_fence (w : Warp) (b : Bool) : (w.commitLoads b).fence = w.fence := by simp [Warp.commitLoads]
@[simp] theorem Warp.commitLoads_casm (w : Warp) (b : Bool) : (w.commitLoads b).casm = w.casm := by simp [Warp.commitLoads]
@[simp] theorem Warp.commitLoads_lostPort (w : Warp) (b : Bool) : (w.commitLoads b).lostPort = w.lostPort := by simp [Warp.commitLoads]
@[simp] theorem Warp.commitLoads_lostLoad (w : Warp) (b : Bool) : (w.commitLoads b).lostLoad = w.lostLoad := by simp [Warp.commitLoads]
@[simp] theorem Warp.commitLoads_preempt (w : Warp) (b : Bool) : (w.commitLoads b).preempt = w.preempt := by simp [Warp.commitLoads]
@[simp] theorem Warp.commitLoads_cls (w : Warp) (b : Bool) : (w.commitLoads b).cls = w.cls := by simp [Warp.commitLoads]
@[simp] theorem Warp.commitLoads_thrPrev (w : Warp) (b : Bool) : (w.commitLoads b).thrPrev = w.thrPrev := by simp [Warp.commitLoads]
@[simp] theorem Warp.commitLoads_thrChg (w : Warp) (b : Bool) : (w.commitLoads b).thrChg = w.thrChg := by simp [Warp.commitLoads]
@[simp] theorem Warp.commitLoads_pathCount (w : Warp) (b : Bool) : (w.commitLoads b).pathCount = w.pathCount := by simp [Warp.commitLoads]
@[simp] theorem Warp.commitLoads_waitCount (w : Warp) (b : Bool) : (w.commitLoads b).waitCount = w.waitCount := by simp [Warp.commitLoads]
@[simp] theorem Warp.commitLoads_withheld (w : Warp) (b : Bool) : (w.commitLoads b).withheld = w.withheld := by simp [Warp.commitLoads]
@[simp] theorem Warp.commitLoads_started (w : Warp) (b : Bool) : (w.commitLoads b).started = w.started := by simp [Warp.commitLoads]
@[simp] theorem Warp.commitLoads_issued (w : Warp) (b : Bool) : (w.commitLoads b).issued = w.issued := by simp [Warp.commitLoads]
@[simp] theorem Warp.commitLoads_tag (w : Warp) (b : Bool) : (w.commitLoads b).tag = w.tag := by simp [Warp.commitLoads]
@[simp] theorem Warp.commitLoads_sent (w : Warp) (b : Bool) : (w.commitLoads b).sent = w.sent := by simp [Warp.commitLoads]
@[simp] theorem Warp.commitLoads_pkg (w : Warp) (b : Bool) : (w.commitLoads b).pkg = w.pkg := by simp [Warp.commitLoads]
@[simp] theorem Warp.commitLoads_blocked (w : Warp) (b : Bool) : (w.commitLoads b).blocked = w.blocked := by simp [Warp.commitLoads]
@[simp] theorem Warp.setLeft_place (w : Warp) (m : Mask) : (w.setLeft m).place = w.place := rfl
@[simp] theorem Warp.setLeft_life (w : Warp) (m : Mask) : (w.setLeft m).life = w.life := rfl
@[simp] theorem Warp.setLeft_idx (w : Warp) (m : Mask) : (w.setLeft m).idx = w.idx := rfl
@[simp] theorem Warp.setLeft_key (w : Warp) (m : Mask) : (w.setLeft m).key = w.key := rfl
@[simp] theorem Warp.setLeft_sregs (w : Warp) (m : Mask) : (w.setLeft m).sregs = w.sregs := rfl
@[simp] theorem Warp.setLeft_vregs (w : Warp) (m : Mask) : (w.setLeft m).vregs = w.vregs := rfl
@[simp] theorem Warp.setLeft_occ (w : Warp) (m : Mask) : (w.setLeft m).occ = w.occ := rfl
@[simp] theorem Warp.setLeft_item (w : Warp) (m : Mask) : (w.setLeft m).item = w.item := rfl
@[simp] theorem Warp.setLeft_age (w : Warp) (m : Mask) : (w.setLeft m).age = w.age := rfl
@[simp] theorem Warp.setLeft_pc (w : Warp) (m : Mask) : (w.setLeft m).pc = w.pc := rfl
@[simp] theorem Warp.setLeft_crpc (w : Warp) (m : Mask) : (w.setLeft m).crpc = w.crpc := rfl
@[simp] theorem Warp.setLeft_depth (w : Warp) (m : Mask) : (w.setLeft m).depth = w.depth := rfl
@[simp] theorem Warp.setLeft_stack (w : Warp) (m : Mask) : (w.setLeft m).stack = w.stack := rfl
@[simp] theorem Warp.setLeft_spill (w : Warp) (m : Mask) : (w.setLeft m).spill = w.spill := rfl
@[simp] theorem Warp.setLeft_hints (w : Warp) (m : Mask) : (w.setLeft m).hints = w.hints := rfl
@[simp] theorem Warp.setLeft_badHint (w : Warp) (m : Mask) : (w.setLeft m).badHint = w.badHint := rfl
@[simp] theorem Warp.setLeft_windows (w : Warp) (m : Mask) : (w.setLeft m).windows = w.windows := rfl
@[simp] theorem Warp.setLeft_counters (w : Warp) (m : Mask) : (w.setLeft m).counters = w.counters := rfl
@[simp] theorem Warp.setLeft_q0 (w : Warp) (m : Mask) : (w.setLeft m).q0 = w.q0 := rfl
@[simp] theorem Warp.setLeft_q1 (w : Warp) (m : Mask) : (w.setLeft m).q1 = w.q1 := rfl
@[simp] theorem Warp.setLeft_q2 (w : Warp) (m : Mask) : (w.setLeft m).q2 = w.q2 := rfl
@[simp] theorem Warp.setLeft_q3 (w : Warp) (m : Mask) : (w.setLeft m).q3 = w.q3 := rfl
@[simp] theorem Warp.setLeft_tiles (w : Warp) (m : Mask) : (w.setLeft m).tiles = w.tiles := rfl
@[simp] theorem Warp.setLeft_dirty (w : Warp) (m : Mask) : (w.setLeft m).dirty = w.dirty := rfl
@[simp] theorem Warp.setLeft_latch (w : Warp) (m : Mask) : (w.setLeft m).latch = w.latch := rfl
@[simp] theorem Warp.setLeft_fstat (w : Warp) (m : Mask) : (w.setLeft m).fstat = w.fstat := rfl
@[simp] theorem Warp.setLeft_mstat (w : Warp) (m : Mask) : (w.setLeft m).mstat = w.mstat := rfl
@[simp] theorem Warp.setLeft_evmask (w : Warp) (m : Mask) : (w.setLeft m).evmask = w.evmask := rfl
@[simp] theorem Warp.setLeft_grp (w : Warp) (m : Mask) : (w.setLeft m).grp = w.grp := rfl
@[simp] theorem Warp.setLeft_tvec (w : Warp) (m : Mask) : (w.setLeft m).tvec = w.tvec := rfl
@[simp] theorem Warp.setLeft_tcause (w : Warp) (m : Mask) : (w.setLeft m).tcause = w.tcause := rfl
@[simp] theorem Warp.setLeft_epc (w : Warp) (m : Mask) : (w.setLeft m).epc = w.epc := rfl
@[simp] theorem Warp.setLeft_tval (w : Warp) (m : Mask) : (w.setLeft m).tval = w.tval := rfl
@[simp] theorem Warp.setLeft_inh (w : Warp) (m : Mask) : (w.setLeft m).inh = w.inh := rfl
@[simp] theorem Warp.setLeft_pre (w : Warp) (m : Mask) : (w.setLeft m).pre = w.pre := rfl
@[simp] theorem Warp.setLeft_rst (w : Warp) (m : Mask) : (w.setLeft m).rst = w.rst := rfl
@[simp] theorem Warp.setLeft_abort (w : Warp) (m : Mask) : (w.setLeft m).abort = w.abort := rfl
@[simp] theorem Warp.setLeft_saveptr (w : Warp) (m : Mask) : (w.setLeft m).saveptr = w.saveptr := rfl
@[simp] theorem Warp.setLeft_dh (w : Warp) (m : Mask) : (w.setLeft m).dh = w.dh := rfl
@[simp] theorem Warp.setLeft_crpcSaved (w : Warp) (m : Mask) : (w.setLeft m).crpcSaved = w.crpcSaved := rfl
@[simp] theorem Warp.setLeft_reports (w : Warp) (m : Mask) : (w.setLeft m).reports = w.reports := rfl
@[simp] theorem Warp.setLeft_arw (w : Warp) (m : Mask) : (w.setLeft m).arw = w.arw := rfl
@[simp] theorem Warp.setLeft_park (w : Warp) (m : Mask) : (w.setLeft m).park = w.park := rfl
@[simp] theorem Warp.setLeft_view (w : Warp) (m : Mask) : (w.setLeft m).view = w.view := rfl
@[simp] theorem Warp.setLeft_fence (w : Warp) (m : Mask) : (w.setLeft m).fence = w.fence := rfl
@[simp] theorem Warp.setLeft_casm (w : Warp) (m : Mask) : (w.setLeft m).casm = w.casm := rfl
@[simp] theorem Warp.setLeft_lostPort (w : Warp) (m : Mask) : (w.setLeft m).lostPort = w.lostPort := rfl
@[simp] theorem Warp.setLeft_lostLoad (w : Warp) (m : Mask) : (w.setLeft m).lostLoad = w.lostLoad := rfl
@[simp] theorem Warp.setLeft_preempt (w : Warp) (m : Mask) : (w.setLeft m).preempt = w.preempt := rfl
@[simp] theorem Warp.setLeft_cls (w : Warp) (m : Mask) : (w.setLeft m).cls = w.cls := rfl
@[simp] theorem Warp.setLeft_thrPrev (w : Warp) (m : Mask) : (w.setLeft m).thrPrev = w.thrPrev := rfl
@[simp] theorem Warp.setLeft_thrChg (w : Warp) (m : Mask) : (w.setLeft m).thrChg = w.thrChg := rfl
@[simp] theorem Warp.setLeft_pathCount (w : Warp) (m : Mask) : (w.setLeft m).pathCount = w.pathCount := rfl
@[simp] theorem Warp.setLeft_waitCount (w : Warp) (m : Mask) : (w.setLeft m).waitCount = w.waitCount := rfl
@[simp] theorem Warp.setLeft_withheld (w : Warp) (m : Mask) : (w.setLeft m).withheld = w.withheld := rfl
@[simp] theorem Warp.setLeft_started (w : Warp) (m : Mask) : (w.setLeft m).started = w.started := rfl
@[simp] theorem Warp.setLeft_issued (w : Warp) (m : Mask) : (w.setLeft m).issued = w.issued := rfl
@[simp] theorem Warp.setLeft_tag (w : Warp) (m : Mask) : (w.setLeft m).tag = w.tag := rfl
@[simp] theorem Warp.setLeft_sent (w : Warp) (m : Mask) : (w.setLeft m).sent = w.sent := rfl
@[simp] theorem Warp.setLeft_pkg (w : Warp) (m : Mask) : (w.setLeft m).pkg = w.pkg := rfl
@[simp] theorem Warp.setLeft_blocked (w : Warp) (m : Mask) : (w.setLeft m).blocked = w.blocked := rfl
@[simp] theorem Warp.results_place (w : Warp) (la : Nat) (ld : LoadKind) (xs : List RegWrite) : (w.results la ld xs).place = w.place := by unfold Warp.results; split <;> simp
@[simp] theorem Warp.results_life (w : Warp) (la : Nat) (ld : LoadKind) (xs : List RegWrite) : (w.results la ld xs).life = w.life := by unfold Warp.results; split <;> simp
@[simp] theorem Warp.results_idx (w : Warp) (la : Nat) (ld : LoadKind) (xs : List RegWrite) : (w.results la ld xs).idx = w.idx := by unfold Warp.results; split <;> simp
@[simp] theorem Warp.results_key (w : Warp) (la : Nat) (ld : LoadKind) (xs : List RegWrite) : (w.results la ld xs).key = w.key := by unfold Warp.results; split <;> simp
@[simp] theorem Warp.results_occ (w : Warp) (la : Nat) (ld : LoadKind) (xs : List RegWrite) : (w.results la ld xs).occ = w.occ := by unfold Warp.results; split <;> simp
@[simp] theorem Warp.results_item (w : Warp) (la : Nat) (ld : LoadKind) (xs : List RegWrite) : (w.results la ld xs).item = w.item := by unfold Warp.results; split <;> simp
@[simp] theorem Warp.results_age (w : Warp) (la : Nat) (ld : LoadKind) (xs : List RegWrite) : (w.results la ld xs).age = w.age := by unfold Warp.results; split <;> simp
@[simp] theorem Warp.results_pc (w : Warp) (la : Nat) (ld : LoadKind) (xs : List RegWrite) : (w.results la ld xs).pc = w.pc :=
  by unfold Warp.results; split <;> simp
@[simp] theorem Warp.results_crpc (w : Warp) (la : Nat) (ld : LoadKind) (xs : List RegWrite) : (w.results la ld xs).crpc = w.crpc := by unfold Warp.results; split <;> simp
@[simp] theorem Warp.results_depth (w : Warp) (la : Nat) (ld : LoadKind) (xs : List RegWrite) : (w.results la ld xs).depth = w.depth := by unfold Warp.results; split <;> simp
@[simp] theorem Warp.results_stack (w : Warp) (la : Nat) (ld : LoadKind) (xs : List RegWrite) : (w.results la ld xs).stack = w.stack := by unfold Warp.results; split <;> simp
@[simp] theorem Warp.results_spill (w : Warp) (la : Nat) (ld : LoadKind) (xs : List RegWrite) : (w.results la ld xs).spill = w.spill := by unfold Warp.results; split <;> simp
@[simp] theorem Warp.results_hints (w : Warp) (la : Nat) (ld : LoadKind) (xs : List RegWrite) : (w.results la ld xs).hints = w.hints := by unfold Warp.results; split <;> simp
@[simp] theorem Warp.results_badHint (w : Warp) (la : Nat) (ld : LoadKind) (xs : List RegWrite) : (w.results la ld xs).badHint = w.badHint := by unfold Warp.results; split <;> simp
@[simp] theorem Warp.results_counters (w : Warp) (la : Nat) (ld : LoadKind) (xs : List RegWrite) : (w.results la ld xs).counters = w.counters := by unfold Warp.results; split <;> simp
@[simp] theorem Warp.results_q0 (w : Warp) (la : Nat) (ld : LoadKind) (xs : List RegWrite) : (w.results la ld xs).q0 = w.q0 :=
  by unfold Warp.results; split <;> simp
@[simp] theorem Warp.results_q1 (w : Warp) (la : Nat) (ld : LoadKind) (xs : List RegWrite) : (w.results la ld xs).q1 = w.q1 :=
  by unfold Warp.results; split <;> simp
@[simp] theorem Warp.results_q2 (w : Warp) (la : Nat) (ld : LoadKind) (xs : List RegWrite) : (w.results la ld xs).q2 = w.q2 :=
  by unfold Warp.results; split <;> simp
@[simp] theorem Warp.results_q3 (w : Warp) (la : Nat) (ld : LoadKind) (xs : List RegWrite) : (w.results la ld xs).q3 = w.q3 :=
  by unfold Warp.results; split <;> simp
@[simp] theorem Warp.results_tiles (w : Warp) (la : Nat) (ld : LoadKind) (xs : List RegWrite) : (w.results la ld xs).tiles = w.tiles := by unfold Warp.results; split <;> simp
@[simp] theorem Warp.results_dirty (w : Warp) (la : Nat) (ld : LoadKind) (xs : List RegWrite) : (w.results la ld xs).dirty = w.dirty := by unfold Warp.results; split <;> simp
@[simp] theorem Warp.results_latch (w : Warp) (la : Nat) (ld : LoadKind) (xs : List RegWrite) : (w.results la ld xs).latch = w.latch := by unfold Warp.results; split <;> simp
@[simp] theorem Warp.results_fstat (w : Warp) (la : Nat) (ld : LoadKind) (xs : List RegWrite) : (w.results la ld xs).fstat = w.fstat := by unfold Warp.results; split <;> simp
@[simp] theorem Warp.results_mstat (w : Warp) (la : Nat) (ld : LoadKind) (xs : List RegWrite) : (w.results la ld xs).mstat = w.mstat := by unfold Warp.results; split <;> simp
@[simp] theorem Warp.results_evmask (w : Warp) (la : Nat) (ld : LoadKind) (xs : List RegWrite) : (w.results la ld xs).evmask = w.evmask := by unfold Warp.results; split <;> simp
@[simp] theorem Warp.results_grp (w : Warp) (la : Nat) (ld : LoadKind) (xs : List RegWrite) : (w.results la ld xs).grp = w.grp := by unfold Warp.results; split <;> simp
@[simp] theorem Warp.results_tvec (w : Warp) (la : Nat) (ld : LoadKind) (xs : List RegWrite) : (w.results la ld xs).tvec = w.tvec := by unfold Warp.results; split <;> simp
@[simp] theorem Warp.results_tcause (w : Warp) (la : Nat) (ld : LoadKind) (xs : List RegWrite) : (w.results la ld xs).tcause = w.tcause := by unfold Warp.results; split <;> simp
@[simp] theorem Warp.results_epc (w : Warp) (la : Nat) (ld : LoadKind) (xs : List RegWrite) : (w.results la ld xs).epc = w.epc := by unfold Warp.results; split <;> simp
@[simp] theorem Warp.results_tval (w : Warp) (la : Nat) (ld : LoadKind) (xs : List RegWrite) : (w.results la ld xs).tval = w.tval := by unfold Warp.results; split <;> simp
@[simp] theorem Warp.results_inh (w : Warp) (la : Nat) (ld : LoadKind) (xs : List RegWrite) : (w.results la ld xs).inh = w.inh := by unfold Warp.results; split <;> simp
@[simp] theorem Warp.results_pre (w : Warp) (la : Nat) (ld : LoadKind) (xs : List RegWrite) : (w.results la ld xs).pre = w.pre := by unfold Warp.results; split <;> simp
@[simp] theorem Warp.results_rst (w : Warp) (la : Nat) (ld : LoadKind) (xs : List RegWrite) : (w.results la ld xs).rst = w.rst := by unfold Warp.results; split <;> simp
@[simp] theorem Warp.results_abort (w : Warp) (la : Nat) (ld : LoadKind) (xs : List RegWrite) : (w.results la ld xs).abort = w.abort := by unfold Warp.results; split <;> simp
@[simp] theorem Warp.results_saveptr (w : Warp) (la : Nat) (ld : LoadKind) (xs : List RegWrite) : (w.results la ld xs).saveptr = w.saveptr := by unfold Warp.results; split <;> simp
@[simp] theorem Warp.results_dh (w : Warp) (la : Nat) (ld : LoadKind) (xs : List RegWrite) : (w.results la ld xs).dh = w.dh :=
  by unfold Warp.results; split <;> simp
@[simp] theorem Warp.results_crpcSaved (w : Warp) (la : Nat) (ld : LoadKind) (xs : List RegWrite) : (w.results la ld xs).crpcSaved = w.crpcSaved := by unfold Warp.results; split <;> simp
@[simp] theorem Warp.results_reports (w : Warp) (la : Nat) (ld : LoadKind) (xs : List RegWrite) : (w.results la ld xs).reports = w.reports := by unfold Warp.results; split <;> simp
@[simp] theorem Warp.results_arw (w : Warp) (la : Nat) (ld : LoadKind) (xs : List RegWrite) : (w.results la ld xs).arw = w.arw := by unfold Warp.results; split <;> simp
@[simp] theorem Warp.results_park (w : Warp) (la : Nat) (ld : LoadKind) (xs : List RegWrite) : (w.results la ld xs).park = w.park := by unfold Warp.results; split <;> simp
@[simp] theorem Warp.results_left (w : Warp) (la : Nat) (ld : LoadKind) (xs : List RegWrite) : (w.results la ld xs).left = w.left := by unfold Warp.results; split <;> simp
@[simp] theorem Warp.results_fence (w : Warp) (la : Nat) (ld : LoadKind) (xs : List RegWrite) : (w.results la ld xs).fence = w.fence := by unfold Warp.results; split <;> simp
@[simp] theorem Warp.results_casm (w : Warp) (la : Nat) (ld : LoadKind) (xs : List RegWrite) : (w.results la ld xs).casm = w.casm := by unfold Warp.results; split <;> simp
@[simp] theorem Warp.results_lostPort (w : Warp) (la : Nat) (ld : LoadKind) (xs : List RegWrite) : (w.results la ld xs).lostPort = w.lostPort := by unfold Warp.results; split <;> simp
@[simp] theorem Warp.results_lostLoad (w : Warp) (la : Nat) (ld : LoadKind) (xs : List RegWrite) : (w.results la ld xs).lostLoad = w.lostLoad := by unfold Warp.results; split <;> simp
@[simp] theorem Warp.results_preempt (w : Warp) (la : Nat) (ld : LoadKind) (xs : List RegWrite) : (w.results la ld xs).preempt = w.preempt := by unfold Warp.results; split <;> simp
@[simp] theorem Warp.results_cls (w : Warp) (la : Nat) (ld : LoadKind) (xs : List RegWrite) : (w.results la ld xs).cls = w.cls := by unfold Warp.results; split <;> simp
@[simp] theorem Warp.results_thrPrev (w : Warp) (la : Nat) (ld : LoadKind) (xs : List RegWrite) : (w.results la ld xs).thrPrev = w.thrPrev := by unfold Warp.results; split <;> simp
@[simp] theorem Warp.results_thrChg (w : Warp) (la : Nat) (ld : LoadKind) (xs : List RegWrite) : (w.results la ld xs).thrChg = w.thrChg := by unfold Warp.results; split <;> simp
@[simp] theorem Warp.results_pathCount (w : Warp) (la : Nat) (ld : LoadKind) (xs : List RegWrite) : (w.results la ld xs).pathCount = w.pathCount := by unfold Warp.results; split <;> simp
@[simp] theorem Warp.results_waitCount (w : Warp) (la : Nat) (ld : LoadKind) (xs : List RegWrite) : (w.results la ld xs).waitCount = w.waitCount := by unfold Warp.results; split <;> simp
@[simp] theorem Warp.results_withheld (w : Warp) (la : Nat) (ld : LoadKind) (xs : List RegWrite) : (w.results la ld xs).withheld = w.withheld := by unfold Warp.results; split <;> simp
@[simp] theorem Warp.results_started (w : Warp) (la : Nat) (ld : LoadKind) (xs : List RegWrite) : (w.results la ld xs).started = w.started := by unfold Warp.results; split <;> simp
@[simp] theorem Warp.results_issued (w : Warp) (la : Nat) (ld : LoadKind) (xs : List RegWrite) : (w.results la ld xs).issued = w.issued := by unfold Warp.results; split <;> simp
@[simp] theorem Warp.results_tag (w : Warp) (la : Nat) (ld : LoadKind) (xs : List RegWrite) : (w.results la ld xs).tag = w.tag := by unfold Warp.results; split <;> simp
@[simp] theorem Warp.results_sent (w : Warp) (la : Nat) (ld : LoadKind) (xs : List RegWrite) : (w.results la ld xs).sent = w.sent := by unfold Warp.results; split <;> simp
@[simp] theorem Warp.results_pkg (w : Warp) (la : Nat) (ld : LoadKind) (xs : List RegWrite) : (w.results la ld xs).pkg = w.pkg := by unfold Warp.results; split <;> simp
@[simp] theorem Warp.results_blocked (w : Warp) (la : Nat) (ld : LoadKind) (xs : List RegWrite) : (w.results la ld xs).blocked = w.blocked := by unfold Warp.results; split <;> simp

@[simp] theorem Warp.commitAll_windows (w : Warp) : w.commitAll.windows = [] := rfl

/-! Registers. -/

theorem Vec.at_ofFn (f : Nat → Word) (l : Nat) : Vec.at (Vec.ofFn f) l = if l < 64 then f l else 0 := by
  unfold Vec.at Vec.ofFn lanes
  by_cases h : l < 64 <;> simp [List.getD, h]

@[simp] theorem Vec.at_zero (l : Nat) : Vec.at Vec.zero l = 0 := by
  unfold Vec.at Vec.zero
  simp only [List.getD_eq_getElem?_getD, List.getElem?_replicate]
  split <;> rfl

@[simp] theorem Warp.s_zero (w : Warp) : w.s 0 = 0 := rfl

/-- What a write of a scalar register leaves in the registers that the next unit reads (R44). -/
theorem Warp.sview_setS (w : Warp) (r : Nat) (v : DWord) :
    (w.setS r v).sview = if r = 0 then w.sview else w.sview.set 0 r (w.keptS r v) := by
  by_cases hr : r = 0 <;> cases hv : w.view <;> simp [Warp.setS, Warp.sview, hr, hv]

@[simp] theorem Warp.vview_setS (w : Warp) (r : Nat) (v : DWord) : (w.setS r v).vview = w.vview := by
  by_cases hr : r = 0 <;> cases hv : w.view <;> simp [Warp.setS, Warp.vview, hr, hv]

@[simp] theorem Warp.sview_setV (w : Warp) (r : Nat) (m : Mask) (x : Vec) : (w.setV r m x).sview = w.sview := by
  cases hv : w.view <;> simp [Warp.setV, Warp.sview, hv]

/-- What a write of lanes of a vector register leaves in the registers that the next unit reads (R44). -/
theorem Warp.vview_setV (w : Warp) (r : Nat) (m : Mask) (x : Vec) : (w.setV r m x).vview = setLanes w.vview r m x := by
  cases hv : w.view <;> simp [Warp.setV, Warp.vview, hv]

/-- A write of a scalar register and the reads after it (R13, R108). -/
theorem Warp.s_setS (w : Warp) (r q : Nat) (v : DWord) :
    (w.setS r v).s q =
      if q = 0 then 0 else if q = r then (if r = 55 then v &&& 0x7FFFF else if r = 56 then v &&& w.occ else v) else w.s q := by
  unfold Warp.s
  rw [Warp.sview_setS]
  by_cases hq : q = 0
  · simp [hq]
  · by_cases hr : r = 0
    · simp [hr, hq]
    · simp only [hr, hq, if_false, Cells.get_set, Warp.keptS]

@[simp] theorem Warp.v_setS (w : Warp) (r q : Nat) (v : DWord) : (w.setS r v).v q = w.v q := by simp [Warp.v]
@[simp] theorem Warp.s_setV (w : Warp) (r : Nat) (m : Mask) (x : Vec) (q : Nat) : (w.setV r m x).s q = w.s q := by
  simp [Warp.s]

/-- A write of lanes of a vector register and the reads after it (R131, R132). -/
theorem Warp.at_setV (w : Warp) (r q : Nat) (m : Mask) (x : Vec) (l : Nat) (hl : l < 64) :
    Vec.at ((w.setV r m x).v q) l = if q = r ∧ m.getLsbD l = true then x.at l else Vec.at (w.v q) l := by
  simp only [Warp.v, Warp.vview_setV, setLanes, Cells.get_set]
  by_cases h : q = r
  · subst h; simp [Vec.at_ofFn, hl, Sys2Proof.Machine.lane]
  · simp [h]

/-- Once every window has committed, and once the windows of a unit have ticked, the next unit reads the registers as they are
(R44). -/
@[simp] theorem Warp.commitAll_view (w : Warp) : w.commitAll.view = none := rfl
@[simp] theorem Warp.tickWindows_view (w : Warp) : w.tickWindows.view = none := rfl

/-- A warp with no open window that parks keeps nothing but its registers (R44). -/
theorem Warp.hold_closed (w : Warp) (h : w.windows = []) : w.hold = w := if_pos h

theorem Warp.apply_nil (w : Warp) : w.apply [] = w := rfl
theorem Warp.apply_cons (w : Warp) (x : RegWrite) (xs : List RegWrite) : w.apply (x :: xs) = (w.apply1 x).apply xs := rfl
theorem Warp.apply_append (w : Warp) (xs ys : List RegWrite) : w.apply (xs ++ ys) = (w.apply xs).apply ys := by
  simp [Warp.apply]

@[simp] theorem Warp.counter_setCounter (w : Warp) (n : Nat) (c : Counter) : (w.setCounter n c).counter n = c :=
  Cells.get_set_self _ _ _ _
theorem Warp.counter_setCounter_ne (w : Warp) {n m : Nat} (c : Counter) (h : m ≠ n) :
    (w.setCounter n c).counter m = w.counter m := Cells.get_set_ne _ _ _ h
@[simp] theorem Warp.tile_setTile (w : Warp) (n : Nat) (x : Tile) : (w.setTile n x).tile n = x := Cells.get_set_self _ _ _ _

/-! Focus. -/

theorem State.focus_self (s : State) (h : s.w.life ≠ .empty) : s.focus s.w.place = s := by simp [State.focus, h]

theorem State.atWarp_self (s : State) (f : State → State) (h : s.w.life ≠ .empty) (hp : (f s).w.place = s.w.place)
    (hl : (f s).w.life ≠ .empty) : s.atWarp s.w.place f = f s := by
  unfold State.atWarp
  rw [State.focus_self s h, ← hp, State.focus_self _ hl]

end Sys2Proof.Machine
end

