-- ==== Sys2Proof/Laws/Unit.lean ====
section
/-! SUPPORT. What a trap unit leads to: its checks, the end of a unit that ran, and trap entry. -/

namespace Sys2Proof.Machine

/-! The checks of R57, in their order. -/

theorem unitMod_illegal {m : Nat} {acc : List Nat} {rc priv : Bool} {body : State → Except Stop Eff} {s : State} {x : Word}
    (h : s.badWord m = some x) : unitMod m acc rc priv body s = s.trap 0x01 (x.zeroExtend 64) := by
  simp only [unitMod, h]

theorem unitMod_denied {m : Nat} {acc : List Nat} {rc : Bool} {body : State → Except Stop Eff} {s : State}
    (h : s.badWord m = none) : unitMod m acc rc true body s = s.trap 0x0E 0 := by
  simp only [unitMod, h, if_true]

theorem unitMod_mismatch {m : Nat} {acc : List Nat} {rc : Bool} {body : State → Except Stop Eff} {s : State} {o : Nat}
    (h : s.badWord m = none) (ho : mismatch acc rc s.w.hints = some o) :
    unitMod m acc rc false body s = s.trap 0x03 (BitVec.ofNat 64 o) := by
  simp only [unitMod, h, ho, Bool.false_eq_true, if_false]

/-- A unit whose words are legal and whose hints are accepted runs its body. -/
theorem unitMod_runs {m : Nat} {acc : List Nat} {rc : Bool} {body : State → Except Stop Eff} {s : State}
    (h : s.accepts m acc rc) :
    unitMod m acc rc false body s =
      match body s with
      | .ok e => (e.leaves s.w).finish
      | .error (.trap c v) => s.trap c v
      | .error (.enter t) => t := by
  unfold unitMod
  rw [h.1, h.2]
  cases body s with
  | ok e => rfl
  | error x => cases x <;> rfl

theorem unit_ok {acc : List Nat} {rc : Bool} {body : State → Except Stop Eff} {s : State} {e : Eff}
    (h : s.accepts 22 acc rc) (hb : body s = .ok e) : unit acc rc false body s = (e.leaves s.w).finish := by
  simp only [unit, unitMod_runs h, hb]

theorem unit_trap {acc : List Nat} {rc : Bool} {body : State → Except Stop Eff} {s : State} {c : BitVec 8} {v : DWord}
    (h : s.accepts 22 acc rc) (hb : body s = .error (.trap c v)) : unit acc rc false body s = s.trap c v := by
  simp only [unit, unitMod_runs h, hb]

theorem unit_enter {acc : List Nat} {rc : Bool} {body : State → Except Stop Eff} {s t : State}
    (h : s.accepts 22 acc rc) (hb : body s = .error (.enter t)) : unit acc rc false body s = t := by
  simp only [unit, unitMod_runs h, hb]

/-- What a unit can lead to: the end of its body, a trap of the unit, or the state its body stops with. -/
theorem unitMod_cases (m : Nat) (acc : List Nat) (rc priv : Bool) (body : State → Except Stop Eff) (s : State) :
    (∃ e, body s = .ok e ∧ unitMod m acc rc priv body s = (e.leaves s.w).finish) ∨ (∃ c v, unitMod m acc rc priv body s = s.trap c v) ∨
      ∃ t, body s = .error (.enter t) ∧ unitMod m acc rc priv body s = t := by
  unfold unitMod
  cases s.badWord m with
  | some x => exact .inr (.inl ⟨_, _, rfl⟩)
  | none =>
    cases priv with
    | true => exact .inr (.inl ⟨_, _, rfl⟩)
    | false =>
      cases mismatch acc rc s.w.hints with
      | some o => exact .inr (.inl ⟨_, _, rfl⟩)
      | none =>
        cases hb : body s with
        | ok e => exact .inl ⟨e, rfl, by simp⟩
        | error x =>
          cases x with
          | trap c v => exact .inr (.inl ⟨c, v, by simp⟩)
          | enter t => exact .inr (.inr ⟨t, rfl, by simp⟩)

/-! The end of a unit that ran. -/

/-! What a unit leaves of its own lanes and of what it read when it parked does not touch its results. -/

theorem Warp.apply1_view (w : Warp) (x : RegWrite) (h : w.view = none) : (w.apply1 x).view = none := by
  cases x with
  | s r v => by_cases hr : r = 0 <;> simp [Warp.apply1, Warp.setS, hr, h]
  | v r m y => simp [Warp.apply1, Warp.setV, h]

theorem Warp.apply_view (w : Warp) (xs : List RegWrite) (h : w.view = none) : (w.apply xs).view = none := by
  induction xs generalizing w with
  | nil => exact h
  | cons x r ih => exact ih _ (w.apply1_view x h)

theorem Warp.results_view (w : Warp) (la : Nat) (k : LoadKind) (xs : List RegWrite) (h : w.view = none) :
    (w.results la k xs).view = none := by
  unfold Warp.results
  split
  · exact w.apply_view xs h
  · exact h

theorem Warp.apply_withLeft (w : Warp) (xs : List RegWrite) (l : List LeftLanes) :
    ({ w with left := l }).apply xs = { w.apply xs with left := l } := by
  induction xs generalizing w with
  | nil => rfl
  | cons x r ih =>
    have h1 : ({ w with left := l }).apply1 x = { w.apply1 x with left := l } := by
      cases x with
      | s q v => by_cases hq : q = 0 <;> simp [Warp.apply1, Warp.setS, Warp.keptS, hq]
      | v q m y => rfl
    rw [Warp.apply_cons, Warp.apply_cons, h1, ih]

theorem Warp.ran_withLeft (w : Warp) (la : Nat) (k : LoadKind) (xs : List RegWrite) (l : List LeftLanes) :
    ({ w with left := l }).ran la k xs = { w.ran la k xs with left := l } := by
  have h : ({ w with left := l }).tickWindows = { w.tickWindows with left := l } :=
    congrArg (fun x : Warp => { x with
        windows := (w.windows.filter fun (y : Window) => 1 < y.left).map fun (y : Window) => { y with left := y.left - 1 }, view := none })
      (w.apply_withLeft ((w.windows.filter fun x => x.left ≤ 1).flatMap Window.writes) l)
  unfold Warp.ran Warp.results
  rw [h]
  split
  · rw [Warp.apply_withLeft]
  · rfl

/-- The end of a unit that is no closing event. -/
theorem finish_la (s : State) (la : Nat) (load : LoadKind) (xs : List RegWrite) :
    (Eff.leaves { s := s, writes := xs, la := la, load := load } s.w).finish = s.done (s.w.ran la load xs) (s.w.pc + 4) := by
  have h := s.w.ran_withLeft la load xs s.w.leftAfter
  have hv := s.w.tickWindows.results_view la load xs rfl
  have he : (Eff.leaves { s := s, writes := xs, la := la, load := load } s.w).finish =
      { s with
        w := { (({ s.w with left := s.w.leftAfter }).ran la load xs).dropHints with
          pc := s.w.pc + 4, cls := s.classAfter, issued := s.w.issued + 1 } } := rfl
  rw [he, h]
  unfold State.done
  rw [← hv]
  rfl

/-- A unit that only computes registers. -/
theorem finish_computed (s : State) (xs : List RegWrite) :
    (Eff.leaves { s := s, writes := xs } s.w).finish = s.computed xs := finish_la s 0 .none xs

/-- A closing event that goes on at pc. -/
theorem finish_closed (s : State) (xs : List RegWrite) (pc : BitVec 48) :
    (Eff.leaves { s := s, writes := xs, close := true, next := some pc } s.w).finish = s.closed xs pc := by
  have he : (Eff.leaves { s := s, writes := xs, close := true, next := some pc } s.w).finish =
      { s with
        w := { ((({ s.w with left := s.w.leftAfter }).commitAll).apply xs).dropHints with
          pc := pc, cls := s.classAfter, issued := s.w.issued + 1 } } := rfl
  have hc : ({ s.w with left := s.w.leftAfter }).commitAll = { s.w.commitAll with left := s.w.leftAfter } :=
    congrArg (fun x : Warp => { x with windows := [], view := none })
      (s.w.apply_withLeft (s.w.windows.flatMap Window.writes) s.w.leftAfter)
  have hv := s.w.commitAll.apply_view xs rfl
  rw [he, hc, Warp.apply_withLeft]
  unfold State.closed State.done
  rw [← hv]
  rfl

@[simp] theorem finish_mem (e : Eff) : e.finish.mem = e.s.mem := rfl
@[simp] theorem finish_wg (e : Eff) : e.finish.wg = e.s.wg := rfl
@[simp] theorem finish_lc (e : Eff) : e.finish.lc = e.s.lc := rfl
@[simp] theorem finish_warps (e : Eff) : e.finish.warps = e.s.warps := rfl
@[simp] theorem State.done_mem (s : State) (w : Warp) (pc : BitVec 48) : (s.done w pc).mem = s.mem := rfl
@[simp] theorem State.done_hints (s : State) (w : Warp) (pc : BitVec 48) : (s.done w pc).w.hints = [] := rfl
@[simp] theorem State.done_pc (s : State) (w : Warp) (pc : BitVec 48) : (s.done w pc).w.pc = pc := rfl
@[simp] theorem State.done_sregs (s : State) (w : Warp) (pc : BitVec 48) : (s.done w pc).w.sregs = w.sregs := rfl
@[simp] theorem State.done_vregs (s : State) (w : Warp) (pc : BitVec 48) : (s.done w pc).w.vregs = w.vregs := rfl

/-- The next unit reads what the unit left in the registers. -/
theorem State.done_s (s : State) (w : Warp) (pc : BitVec 48) (r : Nat) (h : w.view = none) : (s.done w pc).w.s r = w.s r := by
  simp [State.done, Warp.s, Warp.sview, h]
theorem State.done_v (s : State) (w : Warp) (pc : BitVec 48) (r : Nat) (h : w.view = none) : (s.done w pc).w.v r = w.v r := by
  simp [State.done, Warp.v, Warp.vview, h]

/-! Lanes left of a unit that faulted (R268). -/

/-- The lanes kept for the unit at the PC are those it finds when it executes again on its path. -/
theorem Warp.unitLeft_setLeft (w : Warp) (m : Mask) (h : m &&& w.em ≠ 0) : (w.setLeft m).unitLeft = m := by
  have hm : m ≠ 0 := fun h0 => h (by simp [h0])
  have hown : ∀ x : LeftLanes, (w.setLeft m).ownsLeft x = w.ownsLeft x := fun _ => rfl
  have h1 : w.ownsLeft ⟨w.unitPc, m, w.inh⟩ = true := by simpa [Warp.ownsLeft] using h
  unfold Warp.unitLeft
  rw [show (w.setLeft m).ownsLeft = w.ownsLeft from funext hown]
  simp only [Warp.setLeft, if_neg hm, List.find?_cons, h1]

/-- Once the unit at the PC has ended, none of its lanes is left. -/
theorem Warp.leftAfter_none (w : Warp) : w.leftAfter.find? w.ownsLeft = none := by
  rw [List.find?_eq_none]
  intro x hx
  simpa [Warp.leftAfter] using (List.mem_filter.mp hx).2

/-! Trap entry (R407, R408). -/

/-- With a handler, and outside it, a trap changes the running warp alone. -/
theorem State.trapEntry_enters {s : State} (c : BitVec 8) (v : DWord) (e : BitVec 48) (hi : s.w.inh = false) (ht : s.w.tvec ≠ 0) :
    s.trapEntry c v e =
      { s with
        w := { s.w.commitAll.dropHints with
          latch := none, park := .none, left := s.w.left.filter fun x => ¬ x.inh, tcause := c, tval := v, epc := e, inh := true
          pre := c = 0x0D, rst := false, abort := false, dh := s.w.depth, crpcSaved := s.w.crpc, pc := s.w.tvec
          issued := s.w.issued + 1 } } := by
  unfold State.trapEntry
  rw [if_neg fun h => h.elim (by simp [hi]) ht]

/-- Otherwise the launch of the warp ends FAULTED. -/
theorem State.trapEntry_ends {s : State} (c : BitVec 8) (v : DWord) (e : BitVec 48) (h : s.w.inh = true ∨ s.w.tvec = 0) :
    s.trapEntry c v e = s.endOwn stFaulted := by
  unfold State.trapEntry
  rw [if_pos h]

theorem foldl_mem {α : Type} (f : State → α → State) (hf : ∀ s a, (f s a).mem = s.mem) (l : List α) (s : State) :
    (l.foldl f s).mem = s.mem := by
  induction l generalizing s with
  | nil => rfl
  | cons a r ih => rw [List.foldl_cons, ih, hf]

@[simp] theorem State.freeGroup_mem (k : GroupKey) (s : State) : (s.freeGroup k).mem = s.mem := rfl

@[simp] theorem State.endLaunch_mem (ld : BitVec 2) (q : BitVec 6) (n : Word) (x : BitVec 8) (s : State) :
    (s.endLaunch ld q n x).mem = s.mem := foldl_mem _ (fun s k => s.freeGroup_mem k) _ _
@[simp] theorem State.endOwn_mem (x : BitVec 8) (s : State) : (s.endOwn x).mem = s.mem := s.endLaunch_mem ..
@[simp] theorem State.trapEntry_mem (c : BitVec 8) (v : DWord) (e : BitVec 48) (s : State) : (s.trapEntry c v e).mem = s.mem := by
  unfold State.trapEntry; split
  · exact s.endOwn_mem _
  · rfl
@[simp] theorem State.trap_mem (c : BitVec 8) (v : DWord) (s : State) : (s.trap c v).mem = s.mem := s.trapEntry_mem c v _
@[simp] theorem State.retry_mem (s : State) : s.retry.mem = s.mem := rfl
@[simp] theorem State.parkAt_mem (p : Park) (s : State) : (s.parkAt p).mem = s.mem := rfl

end Sys2Proof.Machine
end

