-- ==== Sys2Proof/Laws/Memory.lean ====
section
/-! SUPPORT. Memory: the byte at an address after each operation that writes, and that every operation keeps the canonical
form. -/

namespace Sys2Proof.Machine

/-! Folds of writes. -/

theorem wf_foldl_set (c : List (Nat × Byte)) (m : Cells Byte) (h : Memory.wf m = true) :
    Memory.wf (c.foldl (fun m x => m.set memDefault x.1 x.2) m) = true := by
  induction c generalizing m with
  | nil => exact h
  | cons x r ih => exact ih _ (Cells.wf_set memDefault m x.1 x.2 h)

theorem wf_foldl_move (f : Nat → Nat) (c : List (Nat × Byte)) (m : Cells Byte) (h : Memory.wf m = true) :
    Memory.wf (c.foldl (fun m x => m.set memDefault (f x.1) x.2) m) = true := by
  induction c generalizing m with
  | nil => exact h
  | cons x r ih => exact ih _ (Cells.wf_set memDefault m (f x.1) x.2 h)

theorem foldl_zipIdx_set (a k : Nat) (bs : List Byte) (m : Cells Byte) :
    (bs.zipIdx k).foldl (fun m b => m.set memDefault (a + b.2) b.1) m =
      ((bs.zipIdx k).map fun b => (a + b.2, b.1)).foldl (fun m x => m.set memDefault x.1 x.2) m := by
  rw [List.foldl_map]

theorem get_foldl_poke (a k x : Nat) (bs : List Byte) (m : Cells Byte) :
    ((bs.zipIdx k).foldl (fun m b => m.set memDefault (a + b.2) b.1) m).get memDefault x =
      if a + k ≤ x ∧ x < a + k + bs.length then bs.getD (x - (a + k)) 0 else m.get memDefault x := by
  induction bs generalizing k m with
  | nil => exact (if_neg (by simp only [List.length_nil]; omega)).symm
  | cons b r ih =>
    simp only [List.zipIdx_cons, List.foldl_cons, ih, Cells.get_set, List.length_cons]
    by_cases h : x = a + k
    · rw [if_neg (by omega), if_pos h, if_pos (by omega), h, Nat.sub_self, List.getD_cons_zero]
    · by_cases hi : a + (k + 1) ≤ x ∧ x < a + (k + 1) + r.length
      · rw [if_pos hi, if_pos (by omega), show x - (a + k) = x - (a + (k + 1)) + 1 by omega, List.getD_cons_succ]
      · rw [if_neg hi, if_neg h, if_neg (by omega)]

/-! Writes at the home. -/

/-- A write of bytes and the reads after it (R5). -/
theorem State.byteAt_poke (s : State) (a x : Nat) (bs : List Byte) :
    (s.poke a bs).byteAt x = if a ≤ x ∧ x < a + bs.length then bs.getD (x - a) 0 else s.byteAt x := by
  simpa [State.byteAt, State.poke] using get_foldl_poke a 0 x bs s.mem

/-- A write leaves the bytes outside it. -/
theorem State.byteAt_poke_ne (s : State) {a x : Nat} (bs : List Byte) (h : x < a ∨ a + bs.length ≤ x) :
    (s.poke a bs).byteAt x = s.byteAt x := by rw [State.byteAt_poke, if_neg (by omega)]

theorem State.poke_wf (s : State) (a : Nat) (bs : List Byte) (h : Memory.wf s.mem = true) : Memory.wf (s.poke a bs).mem = true := by
  simpa [State.poke, foldl_zipIdx_set] using wf_foldl_set _ s.mem h

theorem State.recall_wf (s : State) (a : Nat) (h : Memory.wf s.mem = true) : Memory.wf (s.recall a).mem = true := by
  unfold State.recall
  split
  · exact h
  · exact wf_foldl_set _ s.mem h

theorem State.evictHart_wf (s : State) (a : Nat) (h : Memory.wf s.mem = true) : Memory.wf (s.evictHart a).mem = true :=
  s.recall_wf a h

theorem State.setAD_wf (s : State) (a pte : Nat) (acc : Access) (h : Memory.wf s.mem = true) :
    Memory.wf (s.setAD a pte acc).mem = true := by
  unfold State.setAD
  dsimp only
  repeat' split
  all_goals first | exact h | exact (s.evictHart a).poke_wf _ _ (s.evictHart_wf a h)

/-- A line that no hart holds is read and written where it is. -/
theorem State.recall_unheld (s : State) (a : Nat) (h : ∀ x ∈ s.hartLines, x.line ≠ a / 64) : s.recall a = s := by
  unfold State.recall
  rw [List.find?_eq_none.mpr fun x hx => by simp [h x hx]]

theorem State.evictHart_unheld (s : State) (a : Nat) (h : ∀ x ∈ s.hartLines, x.line ≠ a / 64) : s.evictHart a = s := by
  unfold State.evictHart
  rw [s.recall_unheld a h]
  have : s.hartLines.filter (fun x => decide (x.line ≠ a / 64)) = s.hartLines :=
    List.filter_eq_self.mpr fun x hx => by simp [h x hx]
  simp only [this]

/-! Writes of the device. -/

theorem State.scrub_wf (s : State) (ld k : Nat) (h : Memory.wf s.mem = true) : Memory.wf (s.scrub ld k).mem = true :=
  Cells.wf_filter memDefault _ s.mem h

/-- A scrubbed region reads 0, and no other byte changes (R338). -/
theorem State.byteAt_scrub (s : State) (ld k x : Nat) :
    (s.scrub ld k).byteAt x =
      if ld * 2 ^ 38 + k * 2 ^ 30 ≤ x ∧ x < ld * 2 ^ 38 + k * 2 ^ 30 + 2 ^ 30 then 0 else s.byteAt x := by
  have := Cells.get_filter memDefault (fun a => ! decide (ld * 2 ^ 38 + k * 2 ^ 30 ≤ a ∧ a < ld * 2 ^ 38 + k * 2 ^ 30 + 2 ^ 30))
    s.mem x
  simp only [State.byteAt, State.scrub, decide_not] at this ⊢
  simp only [decide_eq_true_eq]
  rw [this]
  by_cases hx : ld * 2 ^ 38 + k * 2 ^ 30 ≤ x ∧ x < ld * 2 ^ 38 + k * 2 ^ 30 + 2 ^ 30
  · rw [if_pos hx, decide_eq_true hx]; rfl
  · rw [if_neg hx, decide_eq_false hx]; rfl

theorem State.dropHart_wf (s : State) (ld col : Nat) (h : Memory.wf s.mem = true) : Memory.wf (s.dropHart ld col).mem = true := by
  have key : ∀ (hs : List HartLine) (m : Cells Byte), Memory.wf m = true →
      Memory.wf (hs.foldl (fun m h => h.dirty.foldl (fun m x => m.set memDefault x.1 x.2) m) m) = true := by
    intro hs
    induction hs with
    | nil => exact fun m hm => hm
    | cons x r ih => exact fun m hm => ih _ (wf_foldl_set _ m hm)
  have hp : s.pick.2.mem = s.mem := rfl
  unfold State.dropHart
  dsimp only
  split <;> split
  · exact key _ _ (hp ▸ h)
  · exact hp ▸ h
  · exact key _ _ h
  · exact h

/-! Reads and writes of located bytes. -/

theorem State.countMem_mem (s : State) (ld lo : Nat) : (s.countMem ld lo).mem = s.mem := rfl

theorem State.poisonLine_mem (s : State) (line : Nat) : (s.poisonLine line).mem = s.mem := by
  unfold State.poisonLine
  exact (apply_ite State.mem _ _ _).trans (ite_self _)

theorem State.accept_mem (s : State) (ag : Agent) (line : Nat) : (s.accept ag line).mem = s.mem := by
  unfold State.accept
  dsimp only
  repeat' split
  all_goals rfl

theorem State.markCorr_mem (s : State) (o : Owner) : (s.markCorr o).mem = s.mem := by unfold State.markCorr; split <;> rfl

theorem wf_foldl_xor (c m : Cells Byte) (h : Memory.wf m = true) :
    Memory.wf (c.foldl (fun m x => m.set memDefault x.1 (m.get memDefault x.1 ^^^ x.2)) m) = true := by
  induction c generalizing m with
  | nil => exact h
  | cons x r ih => exact ih _ (Cells.wf_set memDefault m x.1 _ h)

theorem State.checkLine_wf (s : State) (o : Owner) (line : Nat) (h : Memory.wf s.mem = true) :
    Memory.wf (s.checkLine o line).mem = true := by
  unfold State.checkLine
  split
  · exact h
  · split
    · exact wf_foldl_xor _ _ h
    · split
      · rw [State.markCorr_mem]; exact h
      · rw [State.countMem_mem, State.poisonLine_mem]; exact h

theorem State.markBad_mem (s : State) (line : Nat) : (s.markBad line).mem = s.mem := by
  unfold State.markBad
  split
  · rfl
  · rw [State.countMem_mem, State.poisonLine_mem]

theorem State.serve_wf (s : State) (o : Owner) (pa : Nat) (h : Memory.wf s.mem = true) : Memory.wf (s.serve o pa).mem = true :=
  State.checkLine_wf _ o (pa / 64) (s.recall_wf pa h)

theorem State.sendHeld_mem (s : State) (p : Nat) : (s.sendHeld p).mem = s.mem := by unfold State.sendHeld; dsimp only; split <;> rfl

theorem State.readLoc_wf (s : State) (ag : Agent) (l : Loc) (n : Nat) (h : Memory.wf s.mem = true) :
    Memory.wf (s.readLoc ag l n).1.mem = true := by
  have h1 := State.serve_wf _ ag.owner l.pa (s.accept_mem ag (l.pa / 64) ▸ h)
  unfold State.readLoc
  split
  · split
    · exact h
    · dsimp only
      split
      · rw [State.markBad_mem]; exact h1
      · exact h1
  · split <;> exact h
  · split
    · exact h
    · split
      · exact h
      · exact (s.sendHeld_mem _).symm ▸ h

theorem State.clearPoison_mem (s : State) (line : Nat) : (s.clearPoison line).mem = s.mem := by
  unfold State.clearPoison
  dsimp only
  split <;> rfl

/-! Moving a page (R314). -/

theorem State.takeLine_wf (s : State) (old new : Nat) (h : Memory.wf s.mem = true) : Memory.wf (s.takeLine old new).mem = true := by
  have h1 := State.evictHart_wf _ new (State.evictHart_wf _ old (s.serve_wf .device old h))
  unfold State.takeLine
  dsimp only
  split
  · rw [State.markBad_mem]; exact h1
  · exact h1

theorem wf_foldl_state {α : Type} (f : State → α → State)
    (hf : ∀ s a, Memory.wf s.mem = true → Memory.wf (f s a).mem = true) (l : List α) (s : State) (h : Memory.wf s.mem = true) :
    Memory.wf (l.foldl f s).mem = true := by
  induction l generalizing s with
  | nil => exact h
  | cons a r ih => exact ih _ (hf s a h)

theorem State.movePage_wf (s0 : State) (old new : Nat) (h : Memory.wf s0.mem = true) :
    Memory.wf (s0.movePage old new).mem = true := by
  unfold State.movePage
  dsimp only
  generalize hx : (if (s0.ldOf (old / 2 ^ 38)).baseReset = true then s0 else
      (List.range 64).foldl (fun s i => s.takeLine (old + 64 * i) (new + 64 * i)) s0) = s1
  have h1 : Memory.wf s1.mem = true := by
    rw [← hx]
    split
    · exact h
    · exact wf_foldl_state _ (fun s i hs => s.takeLine_wf _ _ hs) _ s0 h
  refine wf_foldl_state _ (fun s i hs => ?_) _ _ ?_
  · by_cases hb : ((s0.ldOf (old / 2 ^ 38)).baseReset || s1.poisoned (old / 64 + i)) = true
    · rw [if_pos hb, State.countMem_mem, State.poisonLine_mem]; exact hs
    · rw [if_neg hb, State.clearPoison_mem]; exact hs
  · split
    · exact Cells.wf_filter memDefault _ _ h1
    · exact wf_foldl_move (fun a => a - old + new) _ _ (Cells.wf_filter memDefault _ _ h1)

theorem State.waitOn_mem (s : State) (who : Option Waiter) (ids : List Nat) : (s.waitOn who ids).mem = s.mem := by
  unfold State.waitOn
  repeat' split
  all_goals rfl

theorem State.ctrlWrite_wf (s : State) (who : Option Waiter) (ld off : Nat) (v : DWord) (h : Memory.wf s.mem = true) :
    Memory.wf (s.ctrlWrite who ld off v).mem = true := by
  unfold State.ctrlWrite State.writeRgnctl
  dsimp only
  repeat' split
  all_goals first
    | exact h
    | exact s.scrub_wf _ _ h
    | (rw [State.setLd_mem, State.waitOn_mem]; first | exact h | exact s.scrub_wf _ _ h)

theorem State.writeLoc_wf (s : State) (ag : Agent) (l : Loc) (bs : List Byte) (full : Bool) (h : Memory.wf s.mem = true) :
    Memory.wf (s.writeLoc ag l bs full).1.mem = true := by
  have h0 : Memory.wf (s.accept ag (l.pa / 64)).mem = true := s.accept_mem ag (l.pa / 64) ▸ h
  have h1 : Memory.wf ((((s.accept ag (l.pa / 64)).evictHart l.pa).poke l.pa bs).clearFlips l.pa bs.length).mem = true :=
    State.poke_wf _ _ _ (State.evictHart_wf _ _ h0)
  unfold State.writeLoc
  split
  · repeat' split
    all_goals first
      | exact h
      | exact h0
      | (dsimp only; repeat' split
         all_goals first
          | exact h0
          | (rw [State.clearPoison_mem]; exact h1)
          | exact h1)
  · split
    · exact h
    · exact s.ctrlWrite_wf _ _ _ _ h
  · split <;> exact h

/-! A request that is served at once. -/

/-- A request without a core port, or one that finds a tracker free and whose port holds no ticket, is not held back. -/
theorem State.Serves.turned {s : State} {ag : Agent} {l : Loc} {h : Nat} (hs : s.Serves ag l h) {r : ReqId}
    (hr : ag.request (l.pa / 64) = some r) : (s.sliceOf (l.pa / 64)).holds r.port = false := by
  unfold Agent.request at hr
  obtain ⟨p, hp, rfl⟩ := Option.map_eq_some_iff.mp hr
  exact hs.turn p hp

theorem State.Serves.reaches {s : State} {ag : Agent} {l : Loc} {h : Nat} (hs : s.Serves ag l h) :
    s.reach ag h (l.pa / 64) = .ok () := by
  have ht : s.ticketWaits ag (l.pa / 64) = false := by
    unfold State.ticketWaits
    split
    · rfl
    · next r hr => simp [Slice.accepts, hs.turned hr, hs.free, hs.unlocked]
  simp [State.reach, hs.up, hs.linked, ht]

theorem State.Serves.accepted {s : State} {ag : Agent} {l : Loc} {h : Nat} (hs : s.Serves ag l h) : s.accept ag (l.pa / 64) = s := by
  unfold State.accept
  split
  · rfl
  · next r hr =>
    have hn : ((s.sliceOf (l.pa / 64)).tickets.any fun t => t.req = r) = false := by
      have := hs.turned hr
      simp only [Slice.holds, List.any_eq_false, decide_eq_true_eq] at this ⊢
      exact fun t ht he => this t ht (by rw [he])
    have hf := hs.fresh r hr
    dsimp only
    rw [if_neg (by rw [hf]; exact Bool.false_ne_true), if_neg (by rw [hn]; exact Bool.false_ne_true)]

theorem State.checkLine_clean (s : State) (o : Owner) (line : Nat) (h : ∀ c ∈ s.flips, c.1 / 64 ≠ line) : s.checkLine o line = s := by
  unfold State.checkLine
  rw [if_pos (List.all_eq_true.mpr fun c hc => by simpa using h c hc)]

/-- A read that is served at once, of an intact line, gives the bytes and changes nothing. -/
theorem State.readLoc_served (s : State) (ag : Agent) (l : Loc) (n h : Nat) (hs : s.Serves ag l h) (hi : s.Intact l.pa) :
    s.readLoc ag l n = (s, .ok (s.peek l.pa n)) := by
  unfold State.readLoc
  have hv : s.serve ag.owner l.pa = s := by
    unfold State.serve
    rw [s.recall_unheld l.pa hi.unheld, s.checkLine_clean _ _ hi.clean]
  simp only [hs.home, hs.reaches, hs.accepted, hv, hi.sound, Bool.false_eq_true, if_false]

theorem State.clearFlips_clean (s : State) (pa n : Nat) (h : ∀ c ∈ s.flips, c.1 / 64 ≠ pa / 64) (hn : pa % 64 + n ≤ 64) :
    s.clearFlips pa n = s := by
  unfold State.clearFlips
  rw [List.filter_eq_self.mpr fun c hc => ?_]
  have := h c hc
  simp only [decide_not, Bool.not_eq_true', decide_eq_false_iff_not]
  omega

/-- A write that is served at once, to an intact line, changes its bytes and nothing else. -/
theorem State.writeLoc_served (s : State) (ag : Agent) (l : Loc) (bs : List Byte) (h : Nat) (hs : s.Serves ag l h)
    (hi : s.Intact l.pa) (hn : l.pa % 64 + bs.length ≤ 64) :
    s.writeLoc ag l bs false = (s.poke l.pa bs, .ok ()) := by
  have hb := hi.sound
  unfold State.bad at hb
  simp only [Bool.or_eq_false_iff] at hb
  unfold State.writeLoc
  simp only [hs.home, hs.reaches, hs.accepted, s.evictHart_unheld l.pa hi.unheld, hb.1, hb.2, Bool.false_eq_true, false_and, if_false]
  rw [State.clearFlips_clean (s.poke l.pa bs) _ _ hi.clean hn]

/-! Reset. -/

theorem reset_wf : Memory.wf State.reset.mem = true := rfl

end Sys2Proof.Machine
end

