-- ==== Sys2Proof/Laws/Access.lean ====
section
/-! SUPPORT. The shared course of memory instructions and the reconvergence stack: what each operation can do. -/

namespace Sys2Proof.Machine

/-! Checks of a unit. -/

theorem need_ok (b : Bool) (v : DWord) : need b v = .ok () ↔ b = true := by cases b <;> simp [need]
theorem trapIf_ok (b : Bool) (c : BitVec 8) (v : DWord) : trapIf b c v = .ok () ↔ b = false := by cases b <;> simp [trapIf]
theorem ready_ok (b : Bool) (s : State) : ready b s = .ok () ↔ b = true := by cases b <;> simp [ready]

/-- Its requests find slots (R295). -/
theorem State.slotsReady_ok (s : State) (n : Nat) : s.slotsReady n = .ok () ↔ s.slotsFree n = true := by
  simp [State.slotsReady, ready_ok]

/-- A memory instruction issues with room for its reports and requests (R295, R407). -/
theorem State.memReady_ok (s : State) (n : Nat) : s.memReady n = .ok () ↔ s.mayIssue n := by
  unfold State.memReady State.mayIssue
  cases hr : reportsFull s.w
  · rw [← State.slotsReady_ok]; simp [ready, bind, Except.bind]
  · simp [ready, bind, Except.bind]

/-- The checks of R294 let a unit go on exactly when each address is aligned and none meets an access fault; they leave what
the translations left. -/
theorem State.memCheckBy_ok (bad : Loc → Bool) (s : State) (as : List (Nat × DWord)) (n : Nat) (acc : Access) (ctrl : Bool)
    (t : State) (fs : List (Nat × DWord × Found1)) :
    s.memCheckBy bad as n acc ctrl = .ok (t, fs) ↔
      (∀ a ∈ as, a.2.toNat % n = 0) ∧ State.locateAll acc n ctrl as s = (t, fs)
        ∧ ∀ f ∈ fs, f.2.2 ≠ .fault ∧ ∀ l, f.2.2 = .loc l → bad l = false := by
  have hfault : ∀ (fs : List (Nat × DWord × Found1)),
      (fs.find? fun f => match f.2.2 with | .fault => true | .loc l => bad l | .page _ _ => false) = none ↔
        ∀ f ∈ fs, f.2.2 ≠ .fault ∧ ∀ l, f.2.2 = .loc l → bad l = false := by
    intro fs
    rw [List.find?_eq_none]
    refine forall₂_congr fun f _ => ?_
    cases f.2.2 <;> simp
  unfold State.memCheckBy
  cases ha : as.find? fun a => a.2.toNat % n ≠ 0 with
  | some a =>
    have hm := List.mem_of_find?_eq_some ha
    have hp := List.find?_some ha
    simp only [ne_eq, decide_not, Bool.not_eq_true', decide_eq_false_iff_not] at hp
    simp only [reduceCtorEq, false_iff, not_and]
    exact fun h => absurd (h a hm) hp
  | none =>
    rw [List.find?_eq_none] at ha
    simp only [ne_eq, decide_not, Bool.not_eq_true', decide_eq_false_iff_not, Decidable.not_not] at ha
    obtain ⟨t', fs'⟩ := State.locateAll acc n ctrl as s
    dsimp only
    split
    · next f hf =>
      refine ⟨fun h => by simp at h, ?_⟩
      rintro ⟨-, h, hall⟩
      obtain ⟨rfl, rfl⟩ := Prod.mk.injEq .. ▸ h
      exact absurd (hf.symm.trans ((hfault fs').mpr hall)) (by simp)
    · next hf =>
      have := (hfault fs').mp hf
      constructor
      · intro h
        obtain ⟨rfl, rfl⟩ := Prod.mk.injEq .. ▸ Except.ok.inj h
        exact ⟨ha, rfl, this⟩
      · rintro ⟨-, h, -⟩
        rw [h]

theorem State.postError_mem (s : State) (ld k st i : Nat) : (s.postError ld k st i).mem = s.mem := by
  unfold State.postError
  exact (apply_ite State.mem _ _ _).trans (ite_self _)

theorem State.beginStallEnd_mem (s : State) (ld st : Nat) (p : Bool) : (s.beginStallEnd ld st p).mem = s.mem := by
  have hq : ∀ (s : State) (q : Nat),
      (if (s.queueOf ld q).en then s.setQueueOf ld q { s.queueOf ld q with en := false } else s).mem = s.mem :=
    fun s q => (apply_ite State.mem _ _ _).trans (ite_self _)
  unfold State.beginStallEnd
  refine (apply_ite State.mem _ _ _).trans ?_
  split
  · rfl
  · exact (foldl_mem _ (fun s x => s.endLaunch_mem ..) _ _).trans (foldl_mem _ hq _ _)

theorem State.reportPoison_mem (s : State) (l : Loc) : (s.reportPoison l).mem = s.mem := s.postError_mem _ _ _ _

/-- The device's own reads and writes keep the canonical form (R334, R335). -/
theorem State.devRead_wf (s : State) (ld stall pa n : Nat) (h : Memory.wf s.mem = true) :
    Memory.wf (s.devRead ld stall pa n).1.mem = true := by
  unfold State.devRead
  dsimp only
  split
  · rw [State.reportPoison_mem, State.markBad_mem]; exact s.serve_wf _ _ h
  · exact s.serve_wf _ _ h

theorem State.devWrite_wf (s : State) (ld stall pa : Nat) (bs : List Byte) (h : Memory.wf s.mem = true) :
    Memory.wf (s.devWrite ld stall pa bs).mem = true := by
  unfold State.devWrite
  repeat' split
  · rw [State.reportPoison_mem]; exact h
  · exact h
  · exact State.poke_wf _ _ _ (s.evictHart_wf _ h)

theorem State.consumePoison_mem (s : State) (l : Loc) : (s.consumePoison l).mem = s.mem := by
  unfold State.consumePoison
  rw [State.beginStallEnd_mem, State.reportPoison_mem]

theorem State.reportNow_mem (s : State) (c : BitVec 8) (v : DWord) : (s.reportNow c v).mem = s.mem := by
  unfold State.reportNow
  exact (apply_ite State.mem _ _ _).trans (ite_self _)

theorem State.countDrop_mem (s : State) (ld : Nat) (e : Lost) : (s.countDrop ld e).mem = s.mem := by
  unfold State.countDrop
  split <;> rfl

theorem State.dropStore_mem (s : State) (va : DWord) (l : Loc) (e : Lost) : (s.dropStore va l e).mem = s.mem := by
  unfold State.dropStore
  dsimp only
  split
  · exact (State.countDrop_mem _ _ _)
  · rw [State.consumePoison_mem, State.reportNow_mem, State.countDrop_mem]; rfl
  · exact (State.countDrop_mem _ _ _)

theorem State.addCopy_mem (c : Copy) (s : State) : (s.addCopy c).mem = s.mem := rfl

theorem State.buffer_mem (l : Loc) (n : Nat) (s : State) : (s.buffer l n).mem = s.mem := by
  unfold State.buffer
  split <;> rfl

/-- A list of stores keeps the canonical form. -/
theorem State.writeAll_wf (ag : Agent) (full : List Nat) (ws : List (DWord × Loc × List Byte)) (gone : List Nat) (s : State)
    (h : Memory.wf s.mem = true) :
    Memory.wf (State.writeAll ag full gone ws s).mem = true := by
  induction ws generalizing gone s with
  | nil => unfold State.writeAll; exact h
  | cons x r ih =>
    obtain ⟨va, l, bs⟩ := x
    have hw := s.writeLoc_wf ag l bs (full.contains (l.pa / 64)) h
    unfold State.writeAll
    revert hw
    split <;> rename_i hx <;> rw [hx] <;> intro hw
    · refine ih _ _ ?_
      split
      · rw [State.buffer_mem]; exact hw
      · exact hw
    · split
      · exact ih _ _ hw
      · exact ih _ _ (by rw [State.dropStore_mem]; exact hw)

/-! The reconvergence stack (R186, R191). -/

/-- Entries that fit on chip go on top of the others, and nothing else changes but the path count. -/
theorem State.push_on_chip (s : State) (es : List Entry) (hd : s.w.depth + es.length ≤ 32)
    (hs : s.w.stack.length = s.w.depth) :
    s.push es = .ok { s with w := { s.w with stack := es.reverse ++ s.w.stack, depth := s.w.depth + es.length, pathCount := 0 } } := by
  have h1 : s.pushCheck es.length = .ok () := by
    rw [State.pushCheck, trapIf_ok]
    simp only [decide_eq_false_iff_not]
    omega
  have hl : (es.reverse ++ s.w.stack).length ≤ 32 := by simp [hs]; omega
  have h2 : (es.reverse ++ s.w.stack).drop 32 = [] := List.drop_eq_nil_of_le hl
  have h3 : (es.reverse ++ s.w.stack).take 32 = es.reverse ++ s.w.stack := List.take_of_length_le hl
  simp only [State.push, h1, h2, h3, List.reverse_nil, List.zipIdx_nil, List.map_nil, State.write32, List.isEmpty_nil, if_true]
  rfl

end Sys2Proof.Machine
end

