-- ==== Sys2Proof/Laws/Decode.lean ====
section
/-! SUPPORT. Words as numbers: what a field of a word built from fields reads as, and that a word is its bytes. -/

namespace Sys2Proof

/-- A field above the last one is a field of the rest. -/
@[simp] theorem fldN_high (x lo k n : Nat) (y : BitVec n) (h : n ≤ lo) : fldN (below x (bits y)) lo k = fldN x (lo - n) k := by
  have : (x * 2 ^ n + y.toNat) / 2 ^ lo = x / 2 ^ (lo - n) := by
    obtain ⟨c, rfl⟩ := Nat.exists_eq_add_of_le h
    rw [Nat.pow_add, ← Nat.div_div_eq_div_mul, Nat.add_sub_cancel_left, Nat.mul_comm, Nat.mul_add_div (Nat.two_pow_pos n),
      Nat.div_eq_of_lt y.isLt, Nat.add_zero]
  simp only [fldN, below, bits, this]

/-- The last field. -/
@[simp] theorem fldN_here (x n : Nat) (y : BitVec n) : fldN (below x (bits y)) 0 n = y := by
  apply BitVec.eq_of_toNat_eq
  simp only [fldN, below, bits, Nat.pow_zero, Nat.div_one, BitVec.toNat_ofNat, Nat.mul_add_mod_of_lt y.isLt]

/-- A part of the last field. -/
theorem fldN_in (x lo k n : Nat) (y : BitVec n) (h : lo + k ≤ n) : fldN (below x (bits y)) lo k = fldN y.toNat lo k := by
  apply BitVec.eq_of_toNat_eq
  simp only [fldN, below, bits, BitVec.toNat_ofNat]
  obtain ⟨c, rfl⟩ := Nat.exists_eq_add_of_le h
  rw [show x * 2 ^ (lo + k + c) = 2 ^ lo * (2 ^ k * (x * 2 ^ c)) by rw [Nat.pow_add, Nat.pow_add]; ac_rfl,
    Nat.mul_add_div (Nat.two_pow_pos lo), Nat.mul_add_mod]

/-- A field of a word is that of the number it was made from. -/
@[simp] theorem fld_word (x lo k : Nat) (h : lo + k ≤ 32) : fld (BitVec.ofNat 32 x) lo k = fldN x lo k := by
  apply BitVec.eq_of_toNat_eq
  simp only [fld, fldN, BitVec.toNat_ofNat]
  obtain ⟨c, hc⟩ := Nat.exists_eq_add_of_le h
  rw [hc, Nat.add_assoc, Nat.pow_add, Nat.mod_mul_right_div_self, Nat.pow_add, Nat.mod_mul_right_mod]

@[simp] theorem fldN_lit (k : Nat) (lo n : Nat) (y : Nat) : fldN (BitVec.ofNat k y).toNat lo n = BitVec.ofNat n (y % 2 ^ k / 2 ^ lo) := rfl

@[simp] theorem res_true (i : Instr) : res true i = .ok i := rfl

end Sys2Proof
end

