-- ==== Sys2Proof/Laws/PerInstr.lean ====
section
/-! SUPPORT. Family Words: the fields of an encoded instruction name it again, constructor by constructor. -/

namespace Sys2Proof.Laws.Words

/-- The fields of the word that the encoder gives for a well-formed i name i (R34 to R37). -/
def Statement (i : Instr) : Prop := i.wellFormed = true → ∀ w, encode i = some w → decodeFields w = .ok i

/-- A constructor without an encoding. -/
theorem of_none {i : Instr} (h : encode i = none) : Statement i := fun _ w hw => by
  rw [h] at hw; contradiction

/-- A constructor with an encoding. -/
theorem of_some {i : Instr} {x : Word} (h : encode i = some x) (hx : i.wellFormed = true → decodeFields x = .ok i) : Statement i :=
  fun hi w hw => by rw [h] at hw; cases hw; exact hx hi

theorem vcvt_fields (t l : BitVec 4) (d a : BitVec 7) (s : BitVec 4) (h : (Instr.vcvt t l d a s).wellFormed = true) :
    decodeFields (word [bits 0x11#6, bits t, bits l, bits d, bits a, bits s]) = .ok (.vcvt t l d a s) := by
  have ht : t.toNat ≤ 8 := by
    have := t.isLt
    simp only [Instr.wellFormed, Bool.and_eq_true, decide_eq_true_eq] at h
    omega
  simp only [word, List.foldl_cons, List.foldl_nil, decodeFields, decodeLow, decodeVcv, fld_word, fldN_high, fldN_here,
    Nat.reduceLeDiff, Nat.reduceAdd, Nat.reduceSub, BitVec.toNat_ofNat, Nat.reducePow, Nat.reduceMod]
  generalize hn : t.toNat = n at ht
  rcases n with _ | _ | _ | _ | _ | _ | _ | _ | _ | n <;> first | rfl | omega

theorem hintImm p : Statement (.hintImm p) :=
  of_some rfl (fun _ => by simp [word, decodeFields, decodeLow, decodeHint])
theorem hintImmh p : Statement (.hintImmh p) :=
  of_some rfl (fun _ => by simp [word, decodeFields, decodeLow, decodeHint])
theorem hintRc o : Statement (.hintRc o) :=
  of_some rfl (fun _ => by simp [word, decodeFields, decodeLow, decodeHint])
theorem hintRep t n : Statement (.hintRep t n) :=
  of_some rfl (fun _ => by simp [word, decodeFields, decodeLow, decodeHint])
theorem hintMod p : Statement (.hintMod p) :=
  of_some rfl (fun _ => by simp [word, decodeFields, decodeLow, decodeHint])
theorem hintCp p s : Statement (.hintCp p s) :=
  of_some rfl (fun _ => by simp [word, decodeFields, decodeLow, decodeHint])
theorem hintSch c : Statement (.hintSch c) :=
  of_some rfl (fun _ => by simp [word, decodeFields, decodeLow, decodeHint])
theorem hintKv k : Statement (.hintKv k) :=
  of_some rfl (fun _ => by simp [word, decodeFields, decodeLow, decodeHint])
theorem add d a b : Statement (.add d a b) :=
  of_some rfl (fun _ => by simp [word, decodeFields, decodeLow, decodeSr])
theorem sub d a b : Statement (.sub d a b) :=
  of_some rfl (fun _ => by simp [word, decodeFields, decodeLow, decodeSr])
theorem mul d a b : Statement (.mul d a b) :=
  of_some rfl (fun _ => by simp [word, decodeFields, decodeLow, decodeSr])
theorem mulh d a b : Statement (.mulh d a b) :=
  of_some rfl (fun _ => by simp [word, decodeFields, decodeLow, decodeSr])
theorem mulhn d a b : Statement (.mulhn d a b) :=
  of_some rfl (fun _ => by simp [word, decodeFields, decodeLow, decodeSr])
theorem div d a b : Statement (.div d a b) :=
  of_some rfl (fun _ => by simp [word, decodeFields, decodeLow, decodeSr])
theorem divn d a b : Statement (.divn d a b) :=
  of_some rfl (fun _ => by simp [word, decodeFields, decodeLow, decodeSr])
theorem rem d a b : Statement (.rem d a b) :=
  of_some rfl (fun _ => by simp [word, decodeFields, decodeLow, decodeSr])
theorem remn d a b : Statement (.remn d a b) :=
  of_some rfl (fun _ => by simp [word, decodeFields, decodeLow, decodeSr])
theorem and d a b : Statement (.and d a b) :=
  of_some rfl (fun _ => by simp [word, decodeFields, decodeLow, decodeSr])
theorem or d a b : Statement (.or d a b) :=
  of_some rfl (fun _ => by simp [word, decodeFields, decodeLow, decodeSr])
theorem xor d a b : Statement (.xor d a b) :=
  of_some rfl (fun _ => by simp [word, decodeFields, decodeLow, decodeSr])
theorem andn d a b : Statement (.andn d a b) :=
  of_some rfl (fun _ => by simp [word, decodeFields, decodeLow, decodeSr])
theorem shl d a b : Statement (.shl d a b) :=
  of_some rfl (fun _ => by simp [word, decodeFields, decodeLow, decodeSr])
theorem shr d a b : Statement (.shr d a b) :=
  of_some rfl (fun _ => by simp [word, decodeFields, decodeLow, decodeSr])
theorem sar d a b : Statement (.sar d a b) :=
  of_some rfl (fun _ => by simp [word, decodeFields, decodeLow, decodeSr])
theorem rol d a b : Statement (.rol d a b) :=
  of_some rfl (fun _ => by simp [word, decodeFields, decodeLow, decodeSr])
theorem min d a b : Statement (.min d a b) :=
  of_some rfl (fun _ => by simp [word, decodeFields, decodeLow, decodeSr])
theorem max d a b : Statement (.max d a b) :=
  of_some rfl (fun _ => by simp [word, decodeFields, decodeLow, decodeSr])
theorem minn d a b : Statement (.minn d a b) :=
  of_some rfl (fun _ => by simp [word, decodeFields, decodeLow, decodeSr])
theorem maxn d a b : Statement (.maxn d a b) :=
  of_some rfl (fun _ => by simp [word, decodeFields, decodeLow, decodeSr])
theorem clz d a : Statement (.clz d a) :=
  of_some rfl (fun _ => by simp [word, decodeFields, decodeLow, decodeSr])
theorem ctz d a : Statement (.ctz d a) :=
  of_some rfl (fun _ => by simp [word, decodeFields, decodeLow, decodeSr])
theorem popc d a : Statement (.popc d a) :=
  of_some rfl (fun _ => by simp [word, decodeFields, decodeLow, decodeSr])
theorem sextB d a : Statement (.sextB d a) :=
  of_some rfl (fun _ => by simp [word, decodeFields, decodeLow, decodeSr])
theorem sextH d a : Statement (.sextH d a) :=
  of_some rfl (fun _ => by simp [word, decodeFields, decodeLow, decodeSr])
theorem sextW d a : Statement (.sextW d a) :=
  of_some rfl (fun _ => by simp [word, decodeFields, decodeLow, decodeSr])
theorem bfx d a b : Statement (.bfx d a b) :=
  of_some rfl (fun _ => by simp [word, decodeFields, decodeLow, decodeSr])
theorem bfi d a b : Statement (.bfi d a b) :=
  of_some rfl (fun _ => by simp [word, decodeFields, decodeLow, decodeSr])
theorem mov d a : Statement (.mov d a) :=
  of_some rfl (fun _ => by simp [word, decodeFields, decodeLow, decodeSr])
theorem cmpEq d a b : Statement (.cmpEq d a b) :=
  of_some rfl (fun _ => by simp [word, decodeFields, decodeLow, decodeSr])
theorem cmpNe d a b : Statement (.cmpNe d a b) :=
  of_some rfl (fun _ => by simp [word, decodeFields, decodeLow, decodeSr])
theorem cmpLt d a b : Statement (.cmpLt d a b) :=
  of_some rfl (fun _ => by simp [word, decodeFields, decodeLow, decodeSr])
theorem cmpLe d a b : Statement (.cmpLe d a b) :=
  of_some rfl (fun _ => by simp [word, decodeFields, decodeLow, decodeSr])
theorem cmpLtn d a b : Statement (.cmpLtn d a b) :=
  of_some rfl (fun _ => by simp [word, decodeFields, decodeLow, decodeSr])
theorem cmpLen d a b : Statement (.cmpLen d a b) :=
  of_some rfl (fun _ => by simp [word, decodeFields, decodeLow, decodeSr])
theorem sel d a b : Statement (.sel d a b) :=
  of_some rfl (fun _ => by simp [word, decodeFields, decodeLow, decodeSr])
theorem addi d a i : Statement (.addi d a i) :=
  of_some rfl (fun _ => by simp [word, decodeFields, decodeLow, decodeSi])
theorem andi d a i : Statement (.andi d a i) :=
  of_some rfl (fun _ => by simp [word, decodeFields, decodeLow, decodeSi])
theorem ori d a i : Statement (.ori d a i) :=
  of_some rfl (fun _ => by simp [word, decodeFields, decodeLow, decodeSi])
theorem xori d a i : Statement (.xori d a i) :=
  of_some rfl (fun _ => by simp [word, decodeFields, decodeLow, decodeSi])
theorem shli d a i : Statement (.shli d a i) :=
  of_some rfl (fun _ => by simp [word, decodeFields, decodeLow, decodeSi])
theorem shri d a i : Statement (.shri d a i) :=
  of_some rfl (fun _ => by simp [word, decodeFields, decodeLow, decodeSi])
theorem sari d a i : Statement (.sari d a i) :=
  of_some rfl (fun _ => by simp [word, decodeFields, decodeLow, decodeSi])
theorem slti d a i : Statement (.slti d a i) :=
  of_some rfl (fun _ => by simp [word, decodeFields, decodeLow, decodeSi])
theorem sltni d a i : Statement (.sltni d a i) :=
  of_some rfl (fun _ => by simp [word, decodeFields, decodeLow, decodeSi])
theorem li d i : Statement (.li d i) :=
  of_some rfl (fun _ => by simp [word, decodeFields, decodeLow, decodeSi])
theorem adr d i : Statement (.adr d i) :=
  of_some rfl (fun _ => by simp [word, decodeFields, decodeLow, decodeSi])
theorem sldB64 l d a i : Statement (.sldB64 l d a i) :=
  of_some rfl (fun _ => by simp [word, decodeFields, decodeLow, decodeSm])
theorem sldB32 l d a i : Statement (.sldB32 l d a i) :=
  of_some rfl (fun _ => by simp [word, decodeFields, decodeLow, decodeSm])
theorem sstB64 d a i : Statement (.sstB64 d a i) :=
  of_some rfl (fun _ => by simp [word, decodeFields, decodeLow, decodeSm])
theorem sstB32 d a i : Statement (.sstB32 d a i) :=
  of_some rfl (fun _ => by simp [word, decodeFields, decodeLow, decodeSm])
theorem sldSt l d a s : Statement (.sldSt l d a s) :=
  of_some rfl (fun _ => by simp [word, decodeFields, decodeLow, decodeSm])
theorem sstSt d a s : Statement (.sstSt d a s) :=
  of_some rfl (fun _ => by simp [word, decodeFields, decodeLow, decodeSm])
theorem casm l d a n : Statement (.casm l d a n) :=
  of_some rfl (fun _ => by simp [word, decodeFields, decodeLow, decodeSm])
theorem claim d a b : Statement (.claim d a b) :=
  of_some rfl (fun _ => by simp [word, decodeFields, decodeLow, decodeSm])
theorem br o : Statement (.br o) :=
  of_some rfl (fun _ => by simp [word, decodeFields, decodeLow, decodeBr]; rfl)
theorem brAny g o : Statement (.brAny g o) :=
  of_some rfl (fun h => by simpa [word, decodeFields, decodeLow, decodeBr] using of_decide_eq_true h)
theorem brAll g o : Statement (.brAll g o) :=
  of_some rfl (fun _ => by simp [word, decodeFields, decodeLow, decodeBr])
theorem brNone g o : Statement (.brNone g o) :=
  of_some rfl (fun _ => by simp [word, decodeFields, decodeLow, decodeBr])
theorem brd g o : Statement (.brd g o) :=
  of_some rfl (fun _ => by simp [word, decodeFields, decodeLow, decodeBrd])
theorem call o : Statement (.call o) :=
  of_some rfl (fun _ => by simp [word, decodeFields, decodeLow, decodeCall])
theorem rsr d n : Statement (.rsr d n) :=
  of_some rfl (fun _ => by simp [word, decodeFields, decodeLow, decodeSys])
theorem wsr n b : Statement (.wsr n b) :=
  of_some rfl (fun _ => by simp [word, decodeFields, decodeLow, decodeSys])
theorem trap n : Statement (.trap n) :=
  of_some rfl (fun _ => by simp [word, decodeFields, decodeLow, decodeSys])
theorem tret : Statement .tret :=
  of_some rfl (fun _ => by simp [word, decodeFields, decodeLow, decodeSys])
theorem fenceAcq s : Statement (.fenceAcq s) :=
  of_some rfl (fun _ => by simp [word, decodeFields, decodeLow, decodeSys]; rfl)
theorem fenceRel s : Statement (.fenceRel s) :=
  of_some rfl (fun _ => by simp [word, decodeFields, decodeLow, decodeSys]; rfl)
theorem fenceFull s : Statement (.fenceFull s) :=
  of_some rfl (fun _ => by simp [word, decodeFields, decodeLow, decodeSys]; rfl)
theorem wait d n t : Statement (.wait d n t) :=
  of_some rfl (fun _ => by simp [word, decodeFields, decodeLow, decodeSys])
theorem waitr d n b : Statement (.waitr d n b) :=
  of_some rfl (fun _ => by simp [word, decodeFields, decodeLow, decodeSys])
theorem nap a : Statement (.nap a) :=
  of_some rfl (fun _ => by simp [word, decodeFields, decodeLow, decodeSys])
theorem refill d : Statement (.refill d) :=
  of_some rfl (fun _ => by simp [word, decodeFields, decodeLow, decodeSys])
theorem exitI : Statement .exitI :=
  of_some rfl (fun _ => by simp [word, decodeFields, decodeLow, decodeSys])
theorem succ n : Statement (.succ n) :=
  of_some rfl (fun _ => by simp [word, decodeFields, decodeLow, decodeSys]; rfl)
theorem succClr : Statement .succClr :=
  of_some rfl (fun _ => by simp [word, decodeFields, decodeLow, decodeSys]; rfl)
theorem retire : Statement .retire :=
  of_some rfl (fun _ => by simp [word, decodeFields, decodeLow, decodeSys])
theorem yield : Statement .yield :=
  of_some rfl (fun _ => by simp [word, decodeFields, decodeLow, decodeSys])
theorem jr d a : Statement (.jr d a) :=
  of_some rfl (fun _ => by simp [word, decodeFields, decodeLow, decodeSys])
theorem stkSave d a : Statement (.stkSave d a) :=
  of_some rfl (fun _ => by simp [word, decodeFields, decodeLow, decodeSys])
theorem stkLoad a : Statement (.stkLoad a) :=
  of_some rfl (fun _ => by simp [word, decodeFields, decodeLow, decodeSys])
theorem acget d n : Statement (.acget d n) :=
  of_some rfl (fun _ => by simp [word, decodeFields, decodeLow, decodeSys])
theorem acset n b : Statement (.acset n b) :=
  of_some rfl (fun _ => by simp [word, decodeFields, decodeLow, decodeSys])
theorem qdrop d q : Statement (.qdrop d q) :=
  of_some rfl (fun _ => by simp [word, decodeFields, decodeLow, decodeSys])
theorem vadd d a b : Statement (.vadd d a b) :=
  of_some rfl (fun _ => by simp [word, decodeFields, decodeLow, decodeVi])
theorem vsub d a b : Statement (.vsub d a b) :=
  of_some rfl (fun _ => by simp [word, decodeFields, decodeLow, decodeVi])
theorem vmul d a b : Statement (.vmul d a b) :=
  of_some rfl (fun _ => by simp [word, decodeFields, decodeLow, decodeVi])
theorem vmulh d a b : Statement (.vmulh d a b) :=
  of_some rfl (fun _ => by simp [word, decodeFields, decodeLow, decodeVi])
theorem vmulhn d a b : Statement (.vmulhn d a b) :=
  of_some rfl (fun _ => by simp [word, decodeFields, decodeLow, decodeVi])
theorem vmad d a b : Statement (.vmad d a b) :=
  of_some rfl (fun _ => by simp [word, decodeFields, decodeLow, decodeVi])
theorem vmin d a b : Statement (.vmin d a b) :=
  of_some rfl (fun _ => by simp [word, decodeFields, decodeLow, decodeVi])
theorem vmax d a b : Statement (.vmax d a b) :=
  of_some rfl (fun _ => by simp [word, decodeFields, decodeLow, decodeVi])
theorem vminn d a b : Statement (.vminn d a b) :=
  of_some rfl (fun _ => by simp [word, decodeFields, decodeLow, decodeVi])
theorem vmaxn d a b : Statement (.vmaxn d a b) :=
  of_some rfl (fun _ => by simp [word, decodeFields, decodeLow, decodeVi])
theorem vabs d a : Statement (.vabs d a) :=
  of_some rfl (fun _ => by simp [word, decodeFields, decodeLow, decodeVi])
theorem vand d a b : Statement (.vand d a b) :=
  of_some rfl (fun _ => by simp [word, decodeFields, decodeLow, decodeVi])
theorem vor d a b : Statement (.vor d a b) :=
  of_some rfl (fun _ => by simp [word, decodeFields, decodeLow, decodeVi])
theorem vxor d a b : Statement (.vxor d a b) :=
  of_some rfl (fun _ => by simp [word, decodeFields, decodeLow, decodeVi])
theorem vandn d a b : Statement (.vandn d a b) :=
  of_some rfl (fun _ => by simp [word, decodeFields, decodeLow, decodeVi])
theorem vshl d a b : Statement (.vshl d a b) :=
  of_some rfl (fun _ => by simp [word, decodeFields, decodeLow, decodeVi])
theorem vshr d a b : Statement (.vshr d a b) :=
  of_some rfl (fun _ => by simp [word, decodeFields, decodeLow, decodeVi])
theorem vsar d a b : Statement (.vsar d a b) :=
  of_some rfl (fun _ => by simp [word, decodeFields, decodeLow, decodeVi])
theorem vrol d a b : Statement (.vrol d a b) :=
  of_some rfl (fun _ => by simp [word, decodeFields, decodeLow, decodeVi])
theorem vclz d a : Statement (.vclz d a) :=
  of_some rfl (fun _ => by simp [word, decodeFields, decodeLow, decodeVi])
theorem vpopc d a : Statement (.vpopc d a) :=
  of_some rfl (fun _ => by simp [word, decodeFields, decodeLow, decodeVi])
theorem vaddsat d a b : Statement (.vaddsat d a b) :=
  of_some rfl (fun _ => by simp [word, decodeFields, decodeLow, decodeVi])
theorem vsubsat d a b : Statement (.vsubsat d a b) :=
  of_some rfl (fun _ => by simp [word, decodeFields, decodeLow, decodeVi])
theorem vaddsatn d a b : Statement (.vaddsatn d a b) :=
  of_some rfl (fun _ => by simp [word, decodeFields, decodeLow, decodeVi])
theorem vsubsatn d a b : Statement (.vsubsatn d a b) :=
  of_some rfl (fun _ => by simp [word, decodeFields, decodeLow, decodeVi])
theorem vdot4 d a b : Statement (.vdot4 d a b) :=
  of_some rfl (fun _ => by simp [word, decodeFields, decodeLow, decodeVi])
theorem vdot4n d a b : Statement (.vdot4n d a b) :=
  of_some rfl (fun _ => by simp [word, decodeFields, decodeLow, decodeVi])
theorem vmov d a : Statement (.vmov d a) :=
  of_some rfl (fun _ => by simp [word, decodeFields, decodeLow, decodeVi])
theorem vbfx d a b : Statement (.vbfx d a b) :=
  of_some rfl (fun _ => by simp [word, decodeFields, decodeLow, decodeVi])
theorem vbfi d a b : Statement (.vbfi d a b) :=
  of_some rfl (fun _ => by simp [word, decodeFields, decodeLow, decodeVi])
theorem vaddX d a x b : Statement (.vaddX d a x b) :=
  of_some rfl (fun _ => by simp [word, decodeFields, decodeLow, decodeVix])
theorem vsubX d a x b : Statement (.vsubX d a x b) :=
  of_some rfl (fun _ => by simp [word, decodeFields, decodeLow, decodeVix])
theorem vmulX d a x b : Statement (.vmulX d a x b) :=
  of_some rfl (fun _ => by simp [word, decodeFields, decodeLow, decodeVix])
theorem vmulhX d a x b : Statement (.vmulhX d a x b) :=
  of_some rfl (fun _ => by simp [word, decodeFields, decodeLow, decodeVix])
theorem vmulhnX d a x b : Statement (.vmulhnX d a x b) :=
  of_some rfl (fun _ => by simp [word, decodeFields, decodeLow, decodeVix])
theorem vmadX d a x b : Statement (.vmadX d a x b) :=
  of_some rfl (fun _ => by simp [word, decodeFields, decodeLow, decodeVix])
theorem vminX d a x b : Statement (.vminX d a x b) :=
  of_some rfl (fun _ => by simp [word, decodeFields, decodeLow, decodeVix])
theorem vmaxX d a x b : Statement (.vmaxX d a x b) :=
  of_some rfl (fun _ => by simp [word, decodeFields, decodeLow, decodeVix])
theorem vminnX d a x b : Statement (.vminnX d a x b) :=
  of_some rfl (fun _ => by simp [word, decodeFields, decodeLow, decodeVix])
theorem vmaxnX d a x b : Statement (.vmaxnX d a x b) :=
  of_some rfl (fun _ => by simp [word, decodeFields, decodeLow, decodeVix])
theorem vandX d a x b : Statement (.vandX d a x b) :=
  of_some rfl (fun _ => by simp [word, decodeFields, decodeLow, decodeVix])
theorem vorX d a x b : Statement (.vorX d a x b) :=
  of_some rfl (fun _ => by simp [word, decodeFields, decodeLow, decodeVix])
theorem vxorX d a x b : Statement (.vxorX d a x b) :=
  of_some rfl (fun _ => by simp [word, decodeFields, decodeLow, decodeVix])
theorem vandnX d a x b : Statement (.vandnX d a x b) :=
  of_some rfl (fun _ => by simp [word, decodeFields, decodeLow, decodeVix])
theorem vshlX d a x b : Statement (.vshlX d a x b) :=
  of_some rfl (fun _ => by simp [word, decodeFields, decodeLow, decodeVix])
theorem vshrX d a x b : Statement (.vshrX d a x b) :=
  of_some rfl (fun _ => by simp [word, decodeFields, decodeLow, decodeVix])
theorem vsarX d a x b : Statement (.vsarX d a x b) :=
  of_some rfl (fun _ => by simp [word, decodeFields, decodeLow, decodeVix])
theorem vrolX d a x b : Statement (.vrolX d a x b) :=
  of_some rfl (fun _ => by simp [word, decodeFields, decodeLow, decodeVix])
theorem vaddsatX d a x b : Statement (.vaddsatX d a x b) :=
  of_some rfl (fun _ => by simp [word, decodeFields, decodeLow, decodeVix])
theorem vsubsatX d a x b : Statement (.vsubsatX d a x b) :=
  of_some rfl (fun _ => by simp [word, decodeFields, decodeLow, decodeVix])
theorem vaddsatnX d a x b : Statement (.vaddsatnX d a x b) :=
  of_some rfl (fun _ => by simp [word, decodeFields, decodeLow, decodeVix])
theorem vsubsatnX d a x b : Statement (.vsubsatnX d a x b) :=
  of_some rfl (fun _ => by simp [word, decodeFields, decodeLow, decodeVix])
theorem vdot4X d a x b : Statement (.vdot4X d a x b) :=
  of_some rfl (fun _ => by simp [word, decodeFields, decodeLow, decodeVix])
theorem vdot4nX d a x b : Statement (.vdot4nX d a x b) :=
  of_some rfl (fun _ => by simp [word, decodeFields, decodeLow, decodeVix])
theorem vmovs d x b : Statement (.vmovs d x b) :=
  of_some rfl (fun _ => by simp [word, decodeFields, decodeLow, decodeVix])
theorem vbfxX d a x b : Statement (.vbfxX d a x b) :=
  of_some rfl (fun _ => by simp [word, decodeFields, decodeLow, decodeVix])
theorem vbfiX d a x b : Statement (.vbfiX d a x b) :=
  of_some rfl (fun _ => by simp [word, decodeFields, decodeLow, decodeVix])
theorem vfadd d a b : Statement (.vfadd d a b) :=
  of_some rfl (fun _ => by simp [word, decodeFields, decodeLow, decodeVf])
theorem vfsub d a b : Statement (.vfsub d a b) :=
  of_some rfl (fun _ => by simp [word, decodeFields, decodeLow, decodeVf])
theorem vfmul d a b : Statement (.vfmul d a b) :=
  of_some rfl (fun _ => by simp [word, decodeFields, decodeLow, decodeVf])
theorem vffma d a b : Statement (.vffma d a b) :=
  of_some rfl (fun _ => by simp [word, decodeFields, decodeLow, decodeVf])
theorem vffms d a b : Statement (.vffms d a b) :=
  of_some rfl (fun _ => by simp [word, decodeFields, decodeLow, decodeVf])
theorem vfmin d a b : Statement (.vfmin d a b) :=
  of_some rfl (fun _ => by simp [word, decodeFields, decodeLow, decodeVf])
theorem vfmax d a b : Statement (.vfmax d a b) :=
  of_some rfl (fun _ => by simp [word, decodeFields, decodeLow, decodeVf])
theorem vfabs d a : Statement (.vfabs d a) :=
  of_some rfl (fun _ => by simp [word, decodeFields, decodeLow, decodeVf])
theorem vfneg d a : Statement (.vfneg d a) :=
  of_some rfl (fun _ => by simp [word, decodeFields, decodeLow, decodeVf])
theorem vfrnd d a : Statement (.vfrnd d a) :=
  of_some rfl (fun _ => by simp [word, decodeFields, decodeLow, decodeVf])
theorem vfclass d a : Statement (.vfclass d a) :=
  of_some rfl (fun _ => by simp [word, decodeFields, decodeLow, decodeVf])
theorem vfscl d a b : Statement (.vfscl d a b) :=
  of_some rfl (fun _ => by simp [word, decodeFields, decodeLow, decodeVf])
theorem vfcpys d a b : Statement (.vfcpys d a b) :=
  of_some rfl (fun _ => by simp [word, decodeFields, decodeLow, decodeVf])
theorem vfaddX d a x b : Statement (.vfaddX d a x b) :=
  of_some rfl (fun _ => by simp [word, decodeFields, decodeLow, decodeVfx])
theorem vfsubX d a x b : Statement (.vfsubX d a x b) :=
  of_some rfl (fun _ => by simp [word, decodeFields, decodeLow, decodeVfx])
theorem vfmulX d a x b : Statement (.vfmulX d a x b) :=
  of_some rfl (fun _ => by simp [word, decodeFields, decodeLow, decodeVfx])
theorem vffmaX d a x b : Statement (.vffmaX d a x b) :=
  of_some rfl (fun _ => by simp [word, decodeFields, decodeLow, decodeVfx])
theorem vffmsX d a x b : Statement (.vffmsX d a x b) :=
  of_some rfl (fun _ => by simp [word, decodeFields, decodeLow, decodeVfx])
theorem vfminX d a x b : Statement (.vfminX d a x b) :=
  of_some rfl (fun _ => by simp [word, decodeFields, decodeLow, decodeVfx])
theorem vfmaxX d a x b : Statement (.vfmaxX d a x b) :=
  of_some rfl (fun _ => by simp [word, decodeFields, decodeLow, decodeVfx])
theorem vfsclX d a x b : Statement (.vfsclX d a x b) :=
  of_some rfl (fun _ => by simp [word, decodeFields, decodeLow, decodeVfx])
theorem vfcpysX d a x b : Statement (.vfcpysX d a x b) :=
  of_some rfl (fun _ => by simp [word, decodeFields, decodeLow, decodeVfx])
theorem vhaddF16 d a b : Statement (.vhaddF16 d a b) :=
  of_some rfl (fun _ => by simp [word, decodeFields, decodeLow, decodeVh])
theorem vhmulF16 d a b : Statement (.vhmulF16 d a b) :=
  of_some rfl (fun _ => by simp [word, decodeFields, decodeLow, decodeVh])
theorem vhfmaF16 d a b : Statement (.vhfmaF16 d a b) :=
  of_some rfl (fun _ => by simp [word, decodeFields, decodeLow, decodeVh])
theorem vhaddBf16 d a b : Statement (.vhaddBf16 d a b) :=
  of_some rfl (fun _ => by simp [word, decodeFields, decodeLow, decodeVh])
theorem vhmulBf16 d a b : Statement (.vhmulBf16 d a b) :=
  of_some rfl (fun _ => by simp [word, decodeFields, decodeLow, decodeVh])
theorem vhfmaBf16 d a b : Statement (.vhfmaBf16 d a b) :=
  of_some rfl (fun _ => by simp [word, decodeFields, decodeLow, decodeVh])
theorem vhminF16 d a b : Statement (.vhminF16 d a b) :=
  of_some rfl (fun _ => by simp [word, decodeFields, decodeLow, decodeVh])
theorem vhmaxF16 d a b : Statement (.vhmaxF16 d a b) :=
  of_some rfl (fun _ => by simp [word, decodeFields, decodeLow, decodeVh])
theorem vhminBf16 d a b : Statement (.vhminBf16 d a b) :=
  of_some rfl (fun _ => by simp [word, decodeFields, decodeLow, decodeVh])
theorem vhmaxBf16 d a b : Statement (.vhmaxBf16 d a b) :=
  of_some rfl (fun _ => by simp [word, decodeFields, decodeLow, decodeVh])
theorem vhdot2Bf16 d a b : Statement (.vhdot2Bf16 d a b) :=
  of_some rfl (fun _ => by simp [word, decodeFields, decodeLow, decodeVh])
theorem vcmp c d a b t : Statement (.vcmp c d a b t) :=
  of_some rfl (fun _ => by simp [word, decodeFields, decodeLow, decodeVc])
theorem vsel g d a b : Statement (.vsel g d a b) :=
  of_some rfl (fun _ => by simp [word, decodeFields, decodeLow, decodeVs])
theorem vrcp l d a : Statement (.vrcp l d a) :=
  of_some rfl (fun _ => by simp [word, decodeFields, decodeLow, decodeVl1])
theorem vrsq l d a : Statement (.vrsq l d a) :=
  of_some rfl (fun _ => by simp [word, decodeFields, decodeLow, decodeVl1])
theorem vsqrt l d a : Statement (.vsqrt l d a) :=
  of_some rfl (fun _ => by simp [word, decodeFields, decodeLow, decodeVl1])
theorem vex2 l d a : Statement (.vex2 l d a) :=
  of_some rfl (fun _ => by simp [word, decodeFields, decodeLow, decodeVl1])
theorem vlg2 l d a : Statement (.vlg2 l d a) :=
  of_some rfl (fun _ => by simp [word, decodeFields, decodeLow, decodeVl1])
theorem vsin l d a : Statement (.vsin l d a) :=
  of_some rfl (fun _ => by simp [word, decodeFields, decodeLow, decodeVl1])
theorem vcos l d a : Statement (.vcos l d a) :=
  of_some rfl (fun _ => by simp [word, decodeFields, decodeLow, decodeVl1])
theorem vtanh l d a : Statement (.vtanh l d a) :=
  of_some rfl (fun _ => by simp [word, decodeFields, decodeLow, decodeVl1])
theorem vdiv l d a : Statement (.vdiv l d a) :=
  of_some rfl (fun _ => by simp [word, decodeFields, decodeLow, decodeVl1])
theorem vshfl l d a m : Statement (.vshfl l d a m) :=
  of_some rfl (fun _ => by simp [word, decodeFields, decodeLow, decodeVl2])
theorem vshflx l d a m : Statement (.vshflx l d a m) :=
  of_some rfl (fun _ => by simp [word, decodeFields, decodeLow, decodeVl2])
theorem vbcast l d a m : Statement (.vbcast l d a m) :=
  of_some rfl (fun _ => by simp [word, decodeFields, decodeLow, decodeVl2])
theorem vredAdd l d a v m : Statement (.vredAdd l d a v m) :=
  of_some rfl (fun _ => by simp [word, decodeFields, decodeLow, decodeVl2])
theorem vredMin l d a v m : Statement (.vredMin l d a v m) :=
  of_some rfl (fun _ => by simp [word, decodeFields, decodeLow, decodeVl2])
theorem vredMax l d a v m : Statement (.vredMax l d a v m) :=
  of_some rfl (fun _ => by simp [word, decodeFields, decodeLow, decodeVl2])
theorem vredAnd l d a m : Statement (.vredAnd l d a m) :=
  of_some rfl (fun _ => by simp [word, decodeFields, decodeLow, decodeVl2])
theorem vredOr l d a m : Statement (.vredOr l d a m) :=
  of_some rfl (fun _ => by simp [word, decodeFields, decodeLow, decodeVl2])
theorem vredXor l d a m : Statement (.vredXor l d a m) :=
  of_some rfl (fun _ => by simp [word, decodeFields, decodeLow, decodeVl2])
theorem vscanAdd l d a v m : Statement (.vscanAdd l d a v m) :=
  of_some rfl (fun _ => by simp [word, decodeFields, decodeLow, decodeVl2])
theorem vscanAddf l d a v m : Statement (.vscanAddf l d a v m) :=
  of_some rfl (fun _ => by simp [word, decodeFields, decodeLow, decodeVl2])
theorem vballot l d a m : Statement (.vballot l d a m) :=
  of_some rfl (fun _ => by simp [word, decodeFields, decodeLow, decodeVl2])
theorem vtopk l d a m : Statement (.vtopk l d a m) :=
  of_some rfl (fun _ => by simp [word, decodeFields, decodeLow, decodeVl2])
theorem vcompact l d a m : Statement (.vcompact l d a m) :=
  of_some rfl (fun _ => by simp [word, decodeFields, decodeLow, decodeVl2])
theorem vcvt t l d a s : Statement (.vcvt t l d a s) :=
  of_some rfl (vcvt_fields t l d a s)
theorem vqnt l d a b : Statement (.vqnt l d a b) :=
  of_some rfl (fun _ => by simp [word, decodeFields, decodeLow, decodeVcv])
theorem vscl l d a b : Statement (.vscl l d a b) :=
  of_some rfl (fun _ => by simp [word, decodeFields, decodeLow, decodeVcv])
theorem vi4xe l d a : Statement (.vi4xe l d a) :=
  of_some rfl (fun _ => by simp [word, decodeFields, decodeLow, decodeVcv])
theorem vi4xd l d a : Statement (.vi4xd l d a) :=
  of_some rfl (fun _ => by simp [word, decodeFields, decodeLow, decodeVcv])
theorem ld w l d a b : Statement (.ld w l d a b) :=
  of_some rfl (fun _ => by simp [word, decodeFields, decodeLow, decodeLdw])
theorem ldB32St s l d a b : Statement (.ldB32St s l d a b) :=
  of_some rfl (fun _ => by simp [word, decodeFields, decodeLow, decodeLds])
theorem ldB64St s l d a b : Statement (.ldB64St s l d a b) :=
  of_some rfl (fun _ => by simp [word, decodeFields, decodeLow, decodeLds64])
theorem ldp c w d a b : Statement (.ldp c w d a b) :=
  of_some rfl (fun _ => by simp [word, decodeFields, decodeLow, decodeLdsp])
theorem st w g v a b : Statement (.st w g v a b) :=
  of_some rfl (fun _ => by simp [word, decodeFields, decodeLow, decodeStw])
theorem stB32St s g v a b : Statement (.stB32St s g v a b) :=
  of_some rfl (fun _ => by simp [word, decodeFields, decodeLow, decodeSts])
theorem gath c q w a b : Statement (.gath c q w a b) :=
  of_some rfl (fun _ => by simp [word, decodeFields, decodeLow, decodeGath])
theorem atomCo g l f d a : Statement (.atomCo g l f d a) :=
  of_some rfl (fun _ => by simp [word, decodeFields, decodeLow, decodeAtomCo])
theorem atomCl g l f d a : Statement (.atomCl g l f d a) :=
  of_some rfl (fun _ => by simp [word, decodeFields, decodeLow, decodeAtomCl])
theorem atomCm g l f d a : Statement (.atomCm g l f d a) :=
  of_some rfl (fun _ => by simp [word, decodeFields, decodeLow, decodeAtomCm])
theorem atomLd g l f d a : Statement (.atomLd g l f d a) :=
  of_some rfl (fun _ => by simp [word, decodeFields, decodeLow, decodeAtomLd])
theorem atomPk g l f d a : Statement (.atomPk g l f d a) :=
  of_some rfl (fun _ => by simp [word, decodeFields, decodeLow, decodeAtomPk])
theorem atomSy g l f d a : Statement (.atomSy g l f d a) :=
  of_some rfl (fun _ => by simp [word, decodeFields, decodeLow, decodeAtomSy])
theorem bld l u d a w : Statement (.bld l u d a w) :=
  of_some rfl (fun _ => by simp [word, decodeFields, decodeLow, decodeBuf])
theorem bst g u v a w : Statement (.bst g u v a w) :=
  of_some rfl (fun _ => by simp [word, decodeFields, decodeLow, decodeBuf])
theorem batomAdd l u d a w : Statement (.batomAdd l u d a w) :=
  of_some rfl (fun _ => by simp [word, decodeFields, decodeLow, decodeBuf])
theorem batomMin l u d a w : Statement (.batomMin l u d a w) :=
  of_some rfl (fun _ => by simp [word, decodeFields, decodeLow, decodeBuf])
theorem batomMax l u d a w : Statement (.batomMax l u d a w) :=
  of_some rfl (fun _ => by simp [word, decodeFields, decodeLow, decodeBuf])
theorem batomExch l u d a w : Statement (.batomExch l u d a w) :=
  of_some rfl (fun _ => by simp [word, decodeFields, decodeLow, decodeBuf])
theorem batomCas l u d a w : Statement (.batomCas l u d a w) :=
  of_some rfl (fun _ => by simp [word, decodeFields, decodeLow, decodeBuf])
theorem barInit a b : Statement (.barInit a b) :=
  of_some rfl (fun _ => by simp [word, decodeFields, decodeLow, decodeBar])
theorem barArw a b : Statement (.barArw a b) :=
  of_some rfl (fun _ => by simp [word, decodeFields, decodeLow, decodeBar])
theorem barArrive a b : Statement (.barArrive a b) :=
  of_some rfl (fun _ => by simp [word, decodeFields, decodeLow, decodeBar])
theorem barWait a b : Statement (.barWait a b) :=
  of_some rfl (fun _ => by simp [word, decodeFields, decodeLow, decodeBar])
theorem barJoin b : Statement (.barJoin b) :=
  of_some rfl (fun _ => by simp [word, decodeFields, decodeLow, decodeBar])
theorem barDrop b : Statement (.barDrop b) :=
  of_some rfl (fun _ => by simp [word, decodeFields, decodeLow, decodeBar])
theorem mma r c a b : Statement (.mma r c a b) :=
  of_some rfl (fun _ => by simp [word, decodeFields, decodeLow, decodeMx])
theorem mmas r c a b : Statement (.mmas r c a b) :=
  of_some rfl (fun _ => by simp [word, decodeFields, decodeLow, decodeMx])
theorem mdist r c a b : Statement (.mdist r c a b) :=
  of_some rfl (fun _ => by simp [word, decodeFields, decodeLow, decodeMx])
theorem mtopk l c d : Statement (.mtopk l c d) :=
  of_some rfl (fun _ => by simp [word, decodeFields, decodeLow, decodeMx])
theorem mrel : Statement .mrel :=
  of_some rfl (fun _ => by simp [word, decodeFields, decodeLow, decodeMx])
theorem tcfg c s : Statement (.tcfg c s) :=
  of_some rfl (fun _ => by simp [word, decodeFields, decodeTl])
theorem tzero c : Statement (.tzero c) :=
  of_some rfl (fun _ => by simp [word, decodeFields, decodeTl])
theorem trow c v s l : Statement (.trow c v s l) :=
  of_some rfl (fun _ => by simp [word, decodeFields, decodeTl])
theorem tcol c v s l : Statement (.tcol c v s l) :=
  of_some rfl (fun _ => by simp [word, decodeFields, decodeTl])
theorem tsetr c v s : Statement (.tsetr c v s) :=
  of_some rfl (fun _ => by simp [word, decodeFields, decodeTl])
theorem tsetc c v s : Statement (.tsetc c v s) :=
  of_some rfl (fun _ => by simp [word, decodeFields, decodeTl])
theorem tld c v s : Statement (.tld c v s) :=
  of_some rfl (fun _ => by simp [word, decodeFields, decodeTl])
theorem tst c v s : Statement (.tst c v s) :=
  of_some rfl (fun _ => by simp [word, decodeFields, decodeTl])
theorem tsave c s : Statement (.tsave c s) :=
  of_some rfl (fun _ => by simp [word, decodeFields, decodeTl])
theorem tload c s : Statement (.tload c s) :=
  of_some rfl (fun _ => by simp [word, decodeFields, decodeTl])
theorem tdrop c : Statement (.tdrop c) :=
  of_some rfl (fun _ => by simp [word, decodeFields, decodeTl])
theorem cpy n d a b : Statement (.cpy n d a b) :=
  of_some rfl (fun _ => by simp [word, decodeFields, decodeCpy])
theorem cpy2d n d a b : Statement (.cpy2d n d a b) :=
  of_some rfl (fun _ => by simp [word, decodeFields, decodeCpy])
theorem mlr n d a b : Statement (.mlr n d a b) :=
  of_some rfl (fun _ => by simp [word, decodeFields, decodeCpy])
theorem mst n d a b : Statement (.mst n d a b) :=
  of_some rfl (fun _ => by simp [word, decodeFields, decodeCpy])
theorem cpyw n d a b : Statement (.cpyw n d a b) :=
  of_some rfl (fun _ => by simp [word, decodeFields, decodeCpy])
theorem cpya n d a b : Statement (.cpya n d a b) :=
  of_some rfl (fun _ => by simp [word, decodeFields, decodeCpy])
theorem cpyo n d a b : Statement (.cpyo n d a b) :=
  of_some rfl (fun _ => by simp [word, decodeFields, decodeCpy])
theorem itemTake n : Statement (.itemTake n) := of_none rfl
theorem startTake : Statement .startTake := of_none rfl
theorem warpRetirement : Statement .warpRetirement := of_none rfl
theorem successorStart : Statement .successorStart := of_none rfl
theorem popAtArrival : Statement .popAtArrival := of_none rfl
theorem fairSwap : Statement .fairSwap := of_none rfl
theorem napExpiry p : Statement (.napExpiry p) := of_none rfl
theorem allowanceCycle c : Statement (.allowanceCycle c) := of_none rfl
theorem ldpReply op lane : Statement (.ldpReply op lane) := of_none rfl
theorem gatherCompletion op : Statement (.gatherCompletion op) := of_none rfl
theorem entryCreation op : Statement (.entryCreation op) := of_none rfl
theorem arbiterGrant c : Statement (.arbiterGrant c) := of_none rfl
theorem passCompletion op : Statement (.passCompletion op) := of_none rfl
theorem copyCompletion op : Statement (.copyCompletion op) := of_none rfl
theorem mlrCompletion op : Statement (.mlrCompletion op) := of_none rfl
theorem asyncReportTrap : Statement .asyncReportTrap := of_none rfl
theorem launchRecord ld : Statement (.launchRecord ld) := of_none rfl
theorem kernelObjectRead ld q : Statement (.kernelObjectRead ld q) := of_none rfl
theorem gangPlacement ld : Statement (.gangPlacement ld) := of_none rfl
theorem timeSliceExpiry ld q : Statement (.timeSliceExpiry ld q) := of_none rfl
theorem preemption p : Statement (.preemption p) := of_none rfl
theorem workgroupSave g : Statement (.workgroupSave g) := of_none rfl
theorem gangRestore ld : Statement (.gangRestore ld) := of_none rfl
theorem earlyEnd ld q status : Statement (.earlyEnd ld q status) := of_none rfl
theorem queueCancel ld q : Statement (.queueCancel ld q) := of_none rfl
theorem queueSuspend ld q : Statement (.queueSuspend ld q) := of_none rfl
theorem storeAtHome x data : Statement (.storeAtHome x data) := of_none rfl
theorem ticketedRequest home r : Statement (.ticketedRequest home r) := of_none rfl
theorem columnScopeStore ld col pa data : Statement (.columnScopeStore ld col pa data) := of_none rfl
theorem readAtHome who pa errs : Statement (.readAtHome who pa errs) := of_none rfl
theorem hartOwnershipRequest x op : Statement (.hartOwnershipRequest x op) := of_none rfl
theorem directoryEviction pa : Statement (.directoryEviction pa) := of_none rfl
theorem parityAlert ld channel again : Statement (.parityAlert ld channel again) := of_none rfl
theorem pageWalk ld stall va acc : Statement (.pageWalk ld stall va acc) := of_none rfl
theorem faultPost ld : Statement (.faultPost ld) := of_none rfl
theorem consStore ld stall v : Statement (.consStore ld stall v) := of_none rfl
theorem resumeRetry ld stall fnum p : Statement (.resumeRetry ld stall fnum p) := of_none rfl
theorem resumeAbort ld stall fnum p : Statement (.resumeAbort ld stall fnum p) := of_none rfl
theorem vxinvalStall ld stall : Statement (.vxinvalStall ld stall) := of_none rfl
theorem vxinvalPage ld stall page : Statement (.vxinvalPage ld stall page) := of_none rfl
theorem vxinvalGpage ld stall page : Statement (.vxinvalGpage ld stall page) := of_none rfl
theorem vxinvalAll ld : Statement (.vxinvalAll ld) := of_none rfl
theorem vxpooltopWrite h mode v : Statement (.vxpooltopWrite h mode v) := of_none rfl
theorem peerRequest ld stall va acc : Statement (.peerRequest ld stall va acc) := of_none rfl
theorem inboundPortRequest port pa req : Statement (.inboundPortRequest port pa req) := of_none rfl
theorem flitCrcMismatch e module dir : Statement (.flitCrcMismatch e module dir) := of_none rfl
theorem laneTest e module dir failing halfOk : Statement (.laneTest e module dir failing halfOk) := of_none rfl
theorem enterTraining port : Statement (.enterTraining port) := of_none rfl
theorem trainingComplete port : Statement (.trainingComplete port) := of_none rfl
theorem trainingTimeout port : Statement (.trainingTimeout port) := of_none rfl
theorem portEnable port : Statement (.portEnable port) := of_none rfl
theorem portDisable port : Statement (.portDisable port) := of_none rfl
theorem fenceCompletion : Statement .fenceCompletion := of_none rfl
theorem governorEvaluation ld col temp power : Statement (.governorEvaluation ld col temp power) := of_none rfl
theorem thermalTrip : Statement .thermalTrip := of_none rfl
theorem quiescePoint c : Statement (.quiescePoint c) := of_none rfl
theorem vxgovWrite h mode v : Statement (.vxgovWrite h mode v) := of_none rfl
theorem clusterGating c : Statement (.clusterGating c) := of_none rfl
theorem wakeEnd c : Statement (.wakeEnd c) := of_none rfl
theorem timingErrorReplay c : Statement (.timingErrorReplay c) := of_none rfl
theorem stallEnd ld stall poison : Statement (.stallEnd ld stall poison) := of_none rfl
theorem vxerrPop ld : Statement (.vxerrPop ld) := of_none rfl
theorem computeDieFailure ld die : Statement (.computeDieFailure ld die) := of_none rfl
theorem baseDieFailure ld : Statement (.baseDieFailure ld) := of_none rfl
theorem coresLost ld col : Statement (.coresLost ld col) := of_none rfl
theorem baseDiePartLost ld col : Statement (.baseDiePartLost ld col) := of_none rfl
theorem firstLight inp : Statement (.firstLight inp) := of_none rfl
theorem attestationRequest nonce : Statement (.attestationRequest nonce) := of_none rfl
theorem rgnctlWrite ld k v : Statement (.rgnctlWrite ld k v) := of_none rfl
theorem csrWrite h mode csr v : Statement (.csrWrite h mode csr v) := of_none rfl
theorem tick : Statement .tick := of_none rfl

end Sys2Proof.Laws.Words
end

