-- ==== Sys2Proof/Tests/Slice0.lean ====
section
/-! SUPPORT. Tests of the model: words written out from the encodings, ill-formed instructions that the check refuses, small
steps, and states that meet the hypotheses of the statements. -/

open Sys2Proof Sys2Proof.Machine

namespace Sys2Proof.Tests
set_option maxRecDepth 100000
set_option Elab.async false

theorem decodes_hint :
    decodeTableWord 32 0b000000_0000_1001111000110111011110 = some (.hintImm 2592222)
    ∧ decodeTableWord 32 0b000000_0001_1101101010100110011011 = some (.hintImmh 3582363)
    ∧ decodeTableWord 32 0b000000_0010_0001011100010101011000 = some (.hintRc 378200)
    ∧ decodeTableWord 32 0b000000_0011000000000000_0100_000101 = some (.hintRep 4 5)
    ∧ decodeTableWord 32 0b000000_0100_1000111111110011010001 = some (.hintMod 2358481)
    ∧ decodeTableWord 32 0b000000_0101000_010_1100011000100011 = some (.hintCp 2 50723)
    ∧ decodeTableWord 32 0b000000_01100000000000000000000_011 = some (.hintSch 3)
    ∧ decodeTableWord 32 0b000000_011100000000000000_00001000 = some (.hintKv 8) := by
  decide
theorem decodes_sr :
    decodeTableWord 32 0b000001_00000000_000101_110001_111011 = some (.add 5 49 59)
    ∧ decodeTableWord 32 0b000001_00000001_000010_100000_100000 = some (.sub 2 32 32)
    ∧ decodeTableWord 32 0b000001_00000010_111110_001111_000101 = some (.mul 62 15 5)
    ∧ decodeTableWord 32 0b000001_00000011_111011_111110_101010 = some (.mulh 59 62 42)
    ∧ decodeTableWord 32 0b000001_00000100_111000_101110_001111 = some (.mulhn 56 46 15)
    ∧ decodeTableWord 32 0b000001_00000101_110101_011101_110100 = some (.div 53 29 52)
    ∧ decodeTableWord 32 0b000001_00000110_110010_001100_011001 = some (.divn 50 12 25)
    ∧ decodeTableWord 32 0b000001_00000111_101111_111011_111110 = some (.rem 47 59 62)
    ∧ decodeTableWord 32 0b000001_00001000_101011_101010_100011 = some (.remn 43 42 35)
    ∧ decodeTableWord 32 0b000001_00001001_101000_011010_001000 = some (.and 40 26 8)
    ∧ decodeTableWord 32 0b000001_00001010_100101_001001_101101 = some (.or 37 9 45)
    ∧ decodeTableWord 32 0b000001_00001011_100010_111000_010010 = some (.xor 34 56 18)
    ∧ decodeTableWord 32 0b000001_00001100_011111_100111_110111 = some (.andn 31 39 55)
    ∧ decodeTableWord 32 0b000001_00001101_011100_010111_011101 = some (.shl 28 23 29)
    ∧ decodeTableWord 32 0b000001_00001110_011000_000110_000010 = some (.shr 24 6 2)
    ∧ decodeTableWord 32 0b000001_00001111_010101_110101_100111 = some (.sar 21 53 39)
    ∧ decodeTableWord 32 0b000001_00010000_010010_100100_001100 = some (.rol 18 36 12)
    ∧ decodeTableWord 32 0b000001_00010001_001111_010011_110001 = some (.min 15 19 49)
    ∧ decodeTableWord 32 0b000001_00010010_001100_000011_010110 = some (.max 12 3 22)
    ∧ decodeTableWord 32 0b000001_00010011_001001_110010_111011 = some (.minn 9 50 59)
    ∧ decodeTableWord 32 0b000001_00010100_000110_100001_100000 = some (.maxn 6 33 32)
    ∧ decodeTableWord 32 0b000001_00010101_000010_010000_000000 = some (.clz 2 16)
    ∧ decodeTableWord 32 0b000001_00010110_111111_111111_000000 = some (.ctz 63 63)
    ∧ decodeTableWord 32 0b000001_00010111_111100_101111_000000 = some (.popc 60 47)
    ∧ decodeTableWord 32 0b000001_00011000_111001_011110_000000 = some (.sextB 57 30)
    ∧ decodeTableWord 32 0b000001_00011001_110110_001101_000000 = some (.sextH 54 13)
    ∧ decodeTableWord 32 0b000001_00011010_110011_111100_000000 = some (.sextW 51 60)
    ∧ decodeTableWord 32 0b000001_00011011_101111_101011_100011 = some (.bfx 47 43 35)
    ∧ decodeTableWord 32 0b000001_00011100_101100_011011_001001 = some (.bfi 44 27 9)
    ∧ decodeTableWord 32 0b000001_00011101_101001_001010_000000 = some (.mov 41 10)
    ∧ decodeTableWord 32 0b000001_00011110_100110_111001_010011 = some (.cmpEq 38 57 19)
    ∧ decodeTableWord 32 0b000001_00011111_100011_101000_111000 = some (.cmpNe 35 40 56)
    ∧ decodeTableWord 32 0b000001_00100000_100000_011000_011101 = some (.cmpLt 32 24 29)
    ∧ decodeTableWord 32 0b000001_00100001_011101_000111_000010 = some (.cmpLe 29 7 2)
    ∧ decodeTableWord 32 0b000001_00100010_011001_110110_100111 = some (.cmpLtn 25 54 39)
    ∧ decodeTableWord 32 0b000001_00100011_010110_100101_001100 = some (.cmpLen 22 37 12)
    ∧ decodeTableWord 32 0b000001_00100100_010011_010100_110001 = some (.sel 19 20 49) := by
  decide
theorem decodes_si :
    decodeTableWord 32 0b000010_0000_010000_000100_1111010110 = some (.addi 16 4 982)
    ∧ decodeTableWord 32 0b000010_0001_001101_110011_1101111011 = some (.andi 13 51 891)
    ∧ decodeTableWord 32 0b000010_0010_001010_100010_1100100000 = some (.ori 10 34 800)
    ∧ decodeTableWord 32 0b000010_0011_000110_010001_1011000101 = some (.xori 6 17 709)
    ∧ decodeTableWord 32 0b000010_0100_000011_000000_1001101010 = some (.shli 3 0 618)
    ∧ decodeTableWord 32 0b000010_0101_000000_110000_1000010000 = some (.shri 0 48 528)
    ∧ decodeTableWord 32 0b000010_0110_111101_011111_0110110101 = some (.sari 61 31 437)
    ∧ decodeTableWord 32 0b000010_0111_111010_001110_0101011010 = some (.slti 58 14 346)
    ∧ decodeTableWord 32 0b000010_1000_110111_111101_0011111111 = some (.sltni 55 61 255)
    ∧ decodeTableWord 32 0b000010_1001_110011_000000_0111101100 = some (.li 51 492)
    ∧ decodeTableWord 32 0b000010_1010_110000_000000_0011011100 = some (.adr 48 220) := by
  decide
theorem decodes_sm :
    decodeTableWord 32 0b000011_0000_1101_001011_101110_111001 = some (.sldB64 13 11 46 57)
    ∧ decodeTableWord 32 0b000011_0001_1010_111010_010011_010111 = some (.sldB32 10 58 19 23)
    ∧ decodeTableWord 32 0b000011_00100000_100111_101001_111000 = some (.sstB64 39 41 56)
    ∧ decodeTableWord 32 0b000011_00110000_100100_011001_011101 = some (.sstB32 36 25 29)
    ∧ decodeTableWord 32 0b000011_0100_0001_001000_000010_000_001 = some (.sldSt 1 8 2 1)
    ∧ decodeTableWord 32 0b000011_01010000_011101_110111_000_000 = some (.sstSt 29 55 0)
    ∧ decodeTableWord 32 0b000011_0110_1010_100110_001100_00_1100 = some (.casm 10 38 12 12)
    ∧ decodeTableWord 32 0b000011_01110000_010111_010101_110001 = some (.claim 23 21 49) := by
  decide
theorem decodes_br :
    decodeTableWord 32 0b000100_000000_11100111110100010100 = some (.br 949524)
    ∧ decodeTableWord 32 0b000100_1011_00_11110110011000110100 = some (.brAny 11 1009204)
    ∧ decodeTableWord 32 0b000100_1101_01_00110010110100100011 = some (.brAll 13 208163)
    ∧ decodeTableWord 32 0b000100_0110_10_01101111010000010010 = some (.brNone 6 455698) := by
  decide
theorem decodes_brd : decodeTableWord 32 0b000101_0111_00_10101011101100000001 = some (.brd 7 703233) := by decide
theorem decodes_call : decodeTableWord 32 0b000110_000000_10100000011111000100 = some (.call 657348) := by decide
theorem decodes_sys :
    decodeTableWord 32 0b000111_00000000_000001_100011100000 = some (.rsr 1 2272)
    ∧ decodeTableWord 32 0b000111_00000001_111100111110_001111 = some (.wsr 3902 15)
    ∧ decodeTableWord 32 0b000111_00000010000000000000_111011 = some (.trap 59)
    ∧ decodeTableWord 32 0b000111_00000011000000000000000000 = some (.tret)
    ∧ decodeTableWord 32 0b000111_00000100000000000000000_100 = some (.fenceAcq 4)
    ∧ decodeTableWord 32 0b000111_00000100000000000000001_001 = some (.fenceRel 1)
    ∧ decodeTableWord 32 0b000111_00000100000000000000010_110 = some (.fenceFull 6)
    ∧ decodeTableWord 32 0b000111_00000101_101011_00_1010_111000 = some (.wait 43 10 56)
    ∧ decodeTableWord 32 0b000111_00000110_101000_00_1010_011110 = some (.waitr 40 10 30)
    ∧ decodeTableWord 32 0b000111_00000111000000_100101_000000 = some (.nap 37)
    ∧ decodeTableWord 32 0b000111_00001000_100001_000000000000 = some (.refill 33)
    ∧ decodeTableWord 32 0b000111_00001001000000000000000000 = some (.exitI)
    ∧ decodeTableWord 32 0b000111_00001010000000000000000_011 = some (.succ 3)
    ∧ decodeTableWord 32 0b000111_00001010000000000000001000 = some (.succClr)
    ∧ decodeTableWord 32 0b000111_00001011000000000000000000 = some (.retire)
    ∧ decodeTableWord 32 0b000111_00001100000000000000000000 = some (.yield)
    ∧ decodeTableWord 32 0b000111_00001101_001110_010011_000000 = some (.jr 14 19)
    ∧ decodeTableWord 32 0b000111_00001110_001011_000010_000000 = some (.stkSave 11 2)
    ∧ decodeTableWord 32 0b000111_00001111000000_001000_000000 = some (.stkLoad 8)
    ∧ decodeTableWord 32 0b000111_00010000_000101_00_0001_000000 = some (.acget 5 1)
    ∧ decodeTableWord 32 0b000111_0001000100000000_0010_010000 = some (.acset 2 16)
    ∧ decodeTableWord 32 0b000111_00010010_111111_0000_11_000000 = some (.qdrop 63 3) := by
  decide
theorem decodes_vi :
    decodeTableWord 32 0b001000_00000_0111100_1101111_0100101 = some (.vadd 60 111 37)
    ∧ decodeTableWord 32 0b001000_00001_1111000_1011110_1001010 = some (.vsub 120 94 74)
    ∧ decodeTableWord 32 0b001000_00010_0110101_1001101_1101111 = some (.vmul 53 77 111)
    ∧ decodeTableWord 32 0b001000_00011_1110010_0111100_0010100 = some (.vmulh 114 60 20)
    ∧ decodeTableWord 32 0b001000_00100_0101111_0101011_0111001 = some (.vmulhn 47 43 57)
    ∧ decodeTableWord 32 0b001000_00101_1101100_0011011_1011110 = some (.vmad 108 27 94)
    ∧ decodeTableWord 32 0b001000_00110_0101001_0001010_0000011 = some (.vmin 41 10 3)
    ∧ decodeTableWord 32 0b001000_00111_1100101_1111001_0101000 = some (.vmax 101 121 40)
    ∧ decodeTableWord 32 0b001000_01000_0100010_1101000_1001101 = some (.vminn 34 104 77)
    ∧ decodeTableWord 32 0b001000_01001_1011111_1010111_1110010 = some (.vmaxn 95 87 114)
    ∧ decodeTableWord 32 0b001000_01010_0011100_1000111_0000000 = some (.vabs 28 71)
    ∧ decodeTableWord 32 0b001000_01011_1011001_0110110_0111100 = some (.vand 89 54 60)
    ∧ decodeTableWord 32 0b001000_01100_0010110_0100101_1100001 = some (.vor 22 37 97)
    ∧ decodeTableWord 32 0b001000_01101_1010011_0010100_0000110 = some (.vxor 83 20 6)
    ∧ decodeTableWord 32 0b001000_01110_0001111_0000011_0101011 = some (.vandn 15 3 43)
    ∧ decodeTableWord 32 0b001000_01111_1001100_1110011_1010001 = some (.vshl 76 115 81)
    ∧ decodeTableWord 32 0b001000_10000_0001001_1100010_1110110 = some (.vshr 9 98 118)
    ∧ decodeTableWord 32 0b001000_10001_1000110_1010001_0011011 = some (.vsar 70 81 27)
    ∧ decodeTableWord 32 0b001000_10010_0000011_1000000_1000000 = some (.vrol 3 64 64)
    ∧ decodeTableWord 32 0b001000_10011_1000000_0110000_0000000 = some (.vclz 64 48)
    ∧ decodeTableWord 32 0b001000_10100_1111100_0011111_0000000 = some (.vpopc 124 31)
    ∧ decodeTableWord 32 0b001000_10101_0111001_0001110_0101111 = some (.vaddsat 57 14 47)
    ∧ decodeTableWord 32 0b001000_10110_1110110_1111101_1010100 = some (.vsubsat 118 125 84)
    ∧ decodeTableWord 32 0b001000_10111_0110011_1101100_1111001 = some (.vaddsatn 51 108 121)
    ∧ decodeTableWord 32 0b001000_11000_1110000_1011100_0011110 = some (.vsubsatn 112 92 30)
    ∧ decodeTableWord 32 0b001000_11001_0101101_1001011_1000011 = some (.vdot4 45 75 67)
    ∧ decodeTableWord 32 0b001000_11010_1101001_0111010_1101000 = some (.vdot4n 105 58 104)
    ∧ decodeTableWord 32 0b001000_11011_0100110_0101001_0000000 = some (.vmov 38 41)
    ∧ decodeTableWord 32 0b001000_11100_1100011_0011000_0110010 = some (.vbfx 99 24 50)
    ∧ decodeTableWord 32 0b001000_11101_0100000_0001000_1011000 = some (.vbfi 32 8 88) := by
  decide
theorem decodes_vix :
    decodeTableWord 32 0b001001_00000_1011101_1110111_1_101110 = some (.vaddX 93 119 1 46)
    ∧ decodeTableWord 32 0b001001_00001_0011010_1100110_0_001100 = some (.vsubX 26 102 0 12)
    ∧ decodeTableWord 32 0b001001_00010_1010111_1010101_1_101010 = some (.vmulX 87 85 1 42)
    ∧ decodeTableWord 32 0b001001_00011_0010011_1000100_0_001000 = some (.vmulhX 19 68 0 8)
    ∧ decodeTableWord 32 0b001001_00100_1010000_0110100_1_100110 = some (.vmulhnX 80 52 1 38)
    ∧ decodeTableWord 32 0b001001_00101_0001101_0100011_0_000100 = some (.vmadX 13 35 0 4)
    ∧ decodeTableWord 32 0b001001_00110_1001010_0010010_1_100010 = some (.vminX 74 18 1 34)
    ∧ decodeTableWord 32 0b001001_00111_0000111_0000001_0_000000 = some (.vmaxX 7 1 0 0)
    ∧ decodeTableWord 32 0b001001_01000_1000100_1110001_1_011110 = some (.vminnX 68 113 1 30)
    ∧ decodeTableWord 32 0b001001_01001_0000000_1100000_0_111100 = some (.vmaxnX 0 96 0 60)
    ∧ decodeTableWord 32 0b001001_01011_0111101_1001111_1_011001 = some (.vandX 61 79 1 25)
    ∧ decodeTableWord 32 0b001001_01100_1111010_0111110_0_110111 = some (.vorX 122 62 0 55)
    ∧ decodeTableWord 32 0b001001_01101_0110111_0101101_1_010101 = some (.vxorX 55 45 1 21)
    ∧ decodeTableWord 32 0b001001_01110_1110100_0011101_1_110011 = some (.vandnX 116 29 1 51)
    ∧ decodeTableWord 32 0b001001_01111_0110001_0001100_0_010001 = some (.vshlX 49 12 0 17)
    ∧ decodeTableWord 32 0b001001_10000_1101110_1111011_1_101111 = some (.vshrX 110 123 1 47)
    ∧ decodeTableWord 32 0b001001_10001_0101010_1101010_0_001101 = some (.vsarX 42 106 0 13)
    ∧ decodeTableWord 32 0b001001_10010_1100111_1011001_1_101011 = some (.vrolX 103 89 1 43)
    ∧ decodeTableWord 32 0b001001_10101_0100100_1001001_0_001001 = some (.vaddsatX 36 73 0 9)
    ∧ decodeTableWord 32 0b001001_10110_1100001_0111000_1_100111 = some (.vsubsatX 97 56 1 39)
    ∧ decodeTableWord 32 0b001001_10111_0011110_0100111_0_000100 = some (.vaddsatnX 30 39 0 4)
    ∧ decodeTableWord 32 0b001001_11000_1011011_0010110_1_100010 = some (.vsubsatnX 91 22 1 34)
    ∧ decodeTableWord 32 0b001001_11001_0010111_0000101_0_000000 = some (.vdot4X 23 5 0 0)
    ∧ decodeTableWord 32 0b001001_11010_1010100_1110101_1_011110 = some (.vdot4nX 84 117 1 30)
    ∧ decodeTableWord 32 0b001001_11011_0010001_0000000_0_110110 = some (.vmovs 17 0 54)
    ∧ decodeTableWord 32 0b001001_11100_1001110_1010011_1_011010 = some (.vbfxX 78 83 1 26)
    ∧ decodeTableWord 32 0b001001_11101_0001011_1000010_0_111000 = some (.vbfiX 11 66 0 56) := by
  decide
theorem decodes_vf :
    decodeTableWord 32 0b001010_00000_1001000_0110010_1100110 = some (.vfadd 72 50 102)
    ∧ decodeTableWord 32 0b001010_00001_0000100_0100001_0001011 = some (.vfsub 4 33 11)
    ∧ decodeTableWord 32 0b001010_00010_1000001_0010000_0110000 = some (.vfmul 65 16 48)
    ∧ decodeTableWord 32 0b001010_00011_1111110_1111111_1010101 = some (.vffma 126 127 85)
    ∧ decodeTableWord 32 0b001010_00100_0111011_1101110_1111010 = some (.vffms 59 110 122)
    ∧ decodeTableWord 32 0b001010_00101_1111000_1011110_0011111 = some (.vfmin 120 94 31)
    ∧ decodeTableWord 32 0b001010_00110_0110101_1001101_1000100 = some (.vfmax 53 77 68)
    ∧ decodeTableWord 32 0b001010_00111_1110010_0111100_0000000 = some (.vfabs 114 60)
    ∧ decodeTableWord 32 0b001010_01000_0101110_0101011_0000000 = some (.vfneg 46 43)
    ∧ decodeTableWord 32 0b001010_01001_1101011_0011010_0000000 = some (.vfrnd 107 26)
    ∧ decodeTableWord 32 0b001010_01010_0101000_0001010_0000000 = some (.vfclass 40 10)
    ∧ decodeTableWord 32 0b001010_01011_1100101_1111001_1111101 = some (.vfscl 101 121 125)
    ∧ decodeTableWord 32 0b001010_01100_0100010_1101000_0100010 = some (.vfcpys 34 104 34) := by
  decide
theorem decodes_vfx :
    decodeTableWord 32 0b001011_00000_1011111_1010111_1_011010 = some (.vfaddX 95 87 1 26)
    ∧ decodeTableWord 32 0b001011_00001_0011011_1000110_0_111000 = some (.vfsubX 27 70 0 56)
    ∧ decodeTableWord 32 0b001011_00010_1011000_0110110_0_010110 = some (.vfmulX 88 54 0 22)
    ∧ decodeTableWord 32 0b001011_00011_0010101_0100101_1_110100 = some (.vffmaX 21 37 1 52)
    ∧ decodeTableWord 32 0b001011_00100_1010010_0010100_0_010010 = some (.vffmsX 82 20 0 18)
    ∧ decodeTableWord 32 0b001011_00101_0001111_0000011_1_110000 = some (.vfminX 15 3 1 48)
    ∧ decodeTableWord 32 0b001011_00110_1001100_1110011_0_001110 = some (.vfmaxX 76 115 0 14)
    ∧ decodeTableWord 32 0b001011_01011_0001001_1100010_1_101100 = some (.vfsclX 9 98 1 44)
    ∧ decodeTableWord 32 0b001011_01100_1000101_1010001_0_001010 = some (.vfcpysX 69 81 0 10) := by
  decide
theorem decodes_vh :
    decodeTableWord 32 0b001100_00000_0000010_1000000_0010101 = some (.vhaddF16 2 64 21)
    ∧ decodeTableWord 32 0b001100_00001_0111111_0101111_0111010 = some (.vhmulF16 63 47 58)
    ∧ decodeTableWord 32 0b001100_00010_1111100_0011111_1011111 = some (.vhfmaF16 124 31 95)
    ∧ decodeTableWord 32 0b001100_00011_0111001_0001110_0000100 = some (.vhaddBf16 57 14 4)
    ∧ decodeTableWord 32 0b001100_00100_1110110_1111101_0101001 = some (.vhmulBf16 118 125 41)
    ∧ decodeTableWord 32 0b001100_00101_0110010_1101100_1001110 = some (.vhfmaBf16 50 108 78)
    ∧ decodeTableWord 32 0b001100_00110_1101111_1011011_1110011 = some (.vhminF16 111 91 115)
    ∧ decodeTableWord 32 0b001100_00111_0101100_1001011_0011001 = some (.vhmaxF16 44 75 25)
    ∧ decodeTableWord 32 0b001100_01000_1101001_0111010_0111110 = some (.vhminBf16 105 58 62)
    ∧ decodeTableWord 32 0b001100_01001_0100110_0101001_1100011 = some (.vhmaxBf16 38 41 99)
    ∧ decodeTableWord 32 0b001100_01010_1100011_0011000_0001000 = some (.vhdot2Bf16 99 24 8) := by
  decide
theorem decodes_vc : decodeTableWord 32 0b001101_0011_000111_0101101_0110000_10 = some (.vcmp 3 7 45 48 2) := by decide
theorem decodes_vs : decodeTableWord 32 0b001110_1100_1110111_1010010_0001110_0 = some (.vsel 12 119 82 14) := by decide
theorem decodes_vl1 :
    decodeTableWord 32 0b001111_0000_1001_1100110_1110111_0000 = some (.vrcp 9 102 119)
    ∧ decodeTableWord 32 0b001111_0001_0110_1010101_0011100_0000 = some (.vrsq 6 85 28)
    ∧ decodeTableWord 32 0b001111_0010_0011_1000100_1000001_0000 = some (.vsqrt 3 68 65)
    ∧ decodeTableWord 32 0b001111_0011_0000_0110100_1100110_0000 = some (.vex2 0 52 102)
    ∧ decodeTableWord 32 0b001111_0100_1101_0100011_0001011_0000 = some (.vlg2 13 35 11)
    ∧ decodeTableWord 32 0b001111_0101_1001_0010010_0110000_0000 = some (.vsin 9 18 48)
    ∧ decodeTableWord 32 0b001111_0110_0110_0000001_1010101_0000 = some (.vcos 6 1 85)
    ∧ decodeTableWord 32 0b001111_0111_0011_1110000_1111010_0000 = some (.vtanh 3 112 122)
    ∧ decodeTableWord 32 0b001111_1000_0000_1100000_0100000_0000 = some (.vdiv 0 96 32) := by
  decide
theorem decodes_vl2 :
    decodeTableWord 32 0b010000_0000_1101_1001111_1000101_0_001 = some (.vshfl 13 79 69 1)
    ∧ decodeTableWord 32 0b010000_0001_1010_0111110_1101010_0_111 = some (.vshflx 10 62 106 7)
    ∧ decodeTableWord 32 0b010000_0010_0110_0101101_0001111_0_101 = some (.vbcast 6 45 15 5)
    ∧ decodeTableWord 32 0b010000_0011_0011_0011100_0110100_1_100 = some (.vredAdd 3 28 52 1 4)
    ∧ decodeTableWord 32 0b010000_0100_0000_0001100_1011001_1_010 = some (.vredMin 0 12 89 1 2)
    ∧ decodeTableWord 32 0b010000_0101_1101_1111011_1111110_1_111 = some (.vredMax 13 123 126 1 7)
    ∧ decodeTableWord 32 0b010000_0110_1010_1101010_0100011_0_101 = some (.vredAnd 10 106 35 5)
    ∧ decodeTableWord 32 0b010000_0111_0111_1011001_1001000_0_011 = some (.vredOr 7 89 72 3)
    ∧ decodeTableWord 32 0b010000_1000_0100_1001001_1101101_0_001 = some (.vredXor 4 73 109 1)
    ∧ decodeTableWord 32 0b010000_1001_0000_0111000_0010010_1_110 = some (.vscanAdd 0 56 18 1 6)
    ∧ decodeTableWord 32 0b010000_1010_1101_0100111_0110111_0_011 = some (.vscanAddf 13 39 55 0 3)
    ∧ decodeTableWord 32 0b010000_1011_1010_0010110_1011100_0_010 = some (.vballot 10 22 92 2)
    ∧ decodeTableWord 32 0b010000_1100_0111_0000101_0000001_0_000 = some (.vtopk 7 5 1 0)
    ∧ decodeTableWord 32 0b010000_1101_0100_1110101_0100111_0_110 = some (.vcompact 4 117 39 6) := by
  decide
theorem decodes_vcv :
    decodeTableWord 32 0b010001_0001_0100_1001100_1011100_0001 = some (.vcvt 1 4 76 92 1)
    ∧ decodeTableWord 32 0b010001_1001_1101_1010011_1110001_00_10 = some (.vqnt 13 83 113 2)
    ∧ decodeTableWord 32 0b010001_1010_1010_1000010_0010110_00_00 = some (.vscl 10 66 22 0)
    ∧ decodeTableWord 32 0b010001_1011_0111_0110001_0111011_0000 = some (.vi4xe 7 49 59)
    ∧ decodeTableWord 32 0b010001_1100_0100_0100001_1100000_0000 = some (.vi4xd 4 33 96) := by
  decide
theorem decodes_ldw : decodeTableWord 32 0b010010_001_0000_0000101_0110010_01101 = some (.ld 1 0 5 50 13) := by decide
theorem decodes_lds : decodeTableWord 32 0b010011_110_1111_0101010_0001111_10011 = some (.ldB32St 6 15 42 15 19) := by decide
theorem decodes_lds64 : decodeTableWord 32 0b010100_010_1110_1001111_1101101_11000 = some (.ldB64St 2 14 79 109 24) := by decide
theorem decodes_ldsp : decodeTableWord 32 0b010101_0111_101_1110100_1001011_11110 = some (.ldp 7 5 116 75 30) := by decide
theorem decodes_stw : decodeTableWord 32 0b010110_100_1101_0011001_0101001_00011 = some (.st 4 13 25 41 3) := by decide
theorem decodes_sts : decodeTableWord 32 0b010111_001_1100_0111110_0000111_01001 = some (.stB32St 1 12 62 7 9) := by decide
theorem decodes_gath : decodeTableWord 32 0b011000_1110_11_011_00000_1100101_01110 = some (.gath 14 3 3 101 14) := by decide
theorem decodes_atomCo : decodeTableWord 32 0b011010_1011_1010_1000_1000011_0110100 = some (.atomCo 11 10 8 67 52) := by decide
theorem decodes_atomCl : decodeTableWord 32 0b011011_1000_1010_1110_0100001_1011010 = some (.atomCl 8 10 14 33 90) := by decide
theorem decodes_atomCm : decodeTableWord 32 0b011100_0100_1001_0011_1111111_1111111 = some (.atomCm 4 9 3 127 127) := by decide
theorem decodes_atomLd : decodeTableWord 32 0b011101_0001_1000_1000_1011101_0100101 = some (.atomLd 1 8 8 93 37) := by decide
theorem decodes_atomPk : decodeTableWord 32 0b011110_1110_0111_1101_0111010_1001010 = some (.atomPk 14 7 13 58 74) := by decide
theorem decodes_atomSy : decodeTableWord 32 0b011111_1011_0110_0010_0011000_1110000 = some (.atomSy 11 6 2 24 112) := by decide
theorem decodes_buf :
    decodeTableWord 32 0b100000_0000_1000_0_0_1100111_1110110_01 = some (.bld 8 0 103 118 1)
    ∧ decodeTableWord 32 0b100000_0001_0101_0_1_0001100_1010100_00 = some (.bst 5 1 12 84 0)
    ∧ decodeTableWord 32 0b100000_0010_0001_0_0_0110001_0110010_0_1 = some (.batomAdd 1 0 49 50 1)
    ∧ decodeTableWord 32 0b100000_0011_1110_0_1_1010110_0010000_0_0 = some (.batomMin 14 1 86 16 0)
    ∧ decodeTableWord 32 0b100000_0100_1011_0_0_1111011_1101110_0_0 = some (.batomMax 11 0 123 110 0)
    ∧ decodeTableWord 32 0b100000_0101_1000_0_0_0100000_1001100_0_1 = some (.batomExch 8 0 32 76 1)
    ∧ decodeTableWord 32 0b100000_0110_0101_0_1_1000101_0101010_0_1 = some (.batomCas 5 1 69 42 1) := by
  decide
theorem decodes_bar :
    decodeTableWord 32 0b100001_0000_000010_000000000000_0000 = some (.barInit 2 0)
    ∧ decodeTableWord 32 0b100001_0001_111111_000000000000_1111 = some (.barArw 63 15)
    ∧ decodeTableWord 32 0b100001_0010_111011_000000000000_1110 = some (.barArrive 59 14)
    ∧ decodeTableWord 32 0b100001_0011_111000_000000000000_1110 = some (.barWait 56 14)
    ∧ decodeTableWord 32 0b100001_0100000000000000000000_0101 = some (.barJoin 5)
    ∧ decodeTableWord 32 0b100001_0101000000000000000000_0010 = some (.barDrop 2) := by
  decide
theorem decodes_mx :
    decodeTableWord 32 0b100010_00000_1_0000_1011_1001001_11011 = some (.mma 1 11 73 27)
    ∧ decodeTableWord 32 0b100010_00001_0_0000_1011_1101110_11001 = some (.mmas 0 11 110 25)
    ∧ decodeTableWord 32 0b100010_00010_0_0000_1010_0010011_10111 = some (.mdist 0 10 19 23)
    ∧ decodeTableWord 32 0b100010_000110_0101_1001_0111000_00000 = some (.mtopk 5 9 56)
    ∧ decodeTableWord 32 0b100010_00100000000000000000000000 = some (.mrel) := by
  decide
theorem decodes_tl :
    decodeTableWord 32 0b100011_00000_1111_0000000_000111_0000 = some (.tcfg 15 7)
    ∧ decodeTableWord 32 0b100011_00001_1100_00000000000000000 = some (.tzero 12)
    ∧ decodeTableWord 32 0b100011_00010_1001_1100110_001100_1100 = some (.trow 9 102 12 12)
    ∧ decodeTableWord 32 0b100011_00011_0101_1010101_110001_1010 = some (.tcol 5 85 49 10)
    ∧ decodeTableWord 32 0b100011_00100_0010_1000100_010110_0000 = some (.tsetr 2 68 22)
    ∧ decodeTableWord 32 0b100011_00101_1111_0110011_111011_0000 = some (.tsetc 15 51 59)
    ∧ decodeTableWord 32 0b100011_00110_1100_0100011_100001_0000 = some (.tld 12 35 33)
    ∧ decodeTableWord 32 0b100011_00111_1001_0010010_000110_0000 = some (.tst 9 18 6)
    ∧ decodeTableWord 32 0b100011_01000_0110_0000000_000001_0000 = some (.tsave 6 1)
    ∧ decodeTableWord 32 0b100011_01001_0011_0000000_110000_0000 = some (.tload 3 48)
    ∧ decodeTableWord 32 0b100011_01010_1111_00000000000000000 = some (.tdrop 15) := by
  decide
theorem decodes_cpy :
    decodeTableWord 32 0b100100_0000_1100_001111_011010_011001 = some (.cpy 12 15 26 25)
    ∧ decodeTableWord 32 0b100100_0001_1001_111110_111111_110111 = some (.cpy2d 9 62 63 55)
    ∧ decodeTableWord 32 0b100100_0010_0110_101101_100100_010101 = some (.mlr 6 45 36 21)
    ∧ decodeTableWord 32 0b100100_0011_0011_011100_001001_110011 = some (.mst 3 28 9 51)
    ∧ decodeTableWord 32 0b100100_0100_0000_001100_101110_010001 = some (.cpyw 0 12 46 17)
    ∧ decodeTableWord 32 0b100100_0101_1100_111011_010011_101111 = some (.cpya 12 59 19 47)
    ∧ decodeTableWord 32 0b100100_0110_1001_101010_111000_001101 = some (.cpyo 9 42 56 13) := by
  decide

/-! Ill-formed instructions, which the check refuses. -/

theorem refuses_hint : (Instr.hintCp 4 0).wellFormed = false := by decide
theorem refuses_scopes : [Instr.sldSt 0 1 2 7, .sstSt 1 2 7, .fenceAcq 7, .fenceRel 7, .fenceFull 7, .ldB32St 7 0 1 2 3, .ldB64St 7 0 1 2 3,
    .stB32St 7 0 1 2 3].map Instr.wellFormed = List.replicate 8 false := by decide
theorem refuses_guards : [Instr.brAny 0 1, .brAll 0 1, .brAll 8 1, .brNone 8 1].map Instr.wellFormed = List.replicate 4 false := by
  decide
theorem refuses_compares : [Instr.vcmp 8 1 2 3 0, .vcmp 0 1 2 3 3, .vcmp 6 1 2 3 1].map Instr.wellFormed = List.replicate 3 false := by
  decide
theorem refuses_conversions : [Instr.vcvt 9 0 1 2 0, .vcvt 0 0 1 2 9].map Instr.wellFormed = [false, false] := by decide
theorem refuses_widths : [Instr.ld 7 0 1 2 3, .ldp 0 7 1 2 3, .st 7 0 1 2 3, .gath 0 1 5 2 3, .bld 0 1 2 3 3, .bst 0 1 2 3 3].map
    Instr.wellFormed = List.replicate 6 false := by decide
theorem refuses_atomics : [Instr.atomCo 0 0 15 1 2, .atomCl 0 0 15 1 2, .atomCm 0 0 15 1 2, .atomLd 0 0 15 1 2, .atomPk 0 0 15 1 2,
    .atomSy 0 0 15 1 2].map Instr.wellFormed = List.replicate 6 false := by decide
theorem refuses_takes : (Instr.itemTake 65).wellFormed = false := by decide
theorem refuses_places : [Instr.napExpiry ⟨0, 48, 0, 0⟩, .preemption ⟨0, 48, 0, 0⟩, .resumeRetry 0 1 2 ⟨0, 48, 0, 0⟩,
    .resumeAbort 0 1 2 ⟨0, 48, 0, 0⟩].map Instr.wellFormed = List.replicate 4 false := by decide
theorem refuses_clusters : [Instr.allowanceCycle ⟨0, 48, 0⟩, .arbiterGrant ⟨0, 48, 0⟩, .quiescePoint ⟨0, 48, 0⟩,
    .clusterGating ⟨0, 48, 0⟩, .wakeEnd ⟨0, 48, 0⟩, .timingErrorReplay ⟨0, 48, 0⟩].map Instr.wellFormed = List.replicate 6 false := by
  decide
theorem refuses_stores : [Instr.storeAtHome ⟨⟨0, 0⟩, true, 0⟩ [], .storeAtHome ⟨⟨0, 0⟩, true, 63⟩ [1, 2], .storeAtHome ⟨⟨0, 48⟩, true, 0⟩ [1],
    .columnScopeStore 0 48 0 [1], .columnScopeStore 0 0 63 [1, 2]].map Instr.wellFormed = List.replicate 5 false := by decide
theorem refuses_columns : [Instr.ticketedRequest ⟨0, 48⟩ ⟨.link 1, 0, .arrive⟩, .ticketedRequest ⟨0, 0⟩ ⟨.link 18, 0, .arrive⟩,
    .governorEvaluation 0 48 0 0, .coresLost 0 48, .baseDiePartLost 0 48].map Instr.wellFormed = List.replicate 5 false := by decide
theorem refuses_harts : [Instr.readAtHome (.hart ⟨0, 48⟩ 8 true) 0 [], .readAtHome (.hart ⟨0, 0⟩ 2 true) 63 [],
    .readAtHome (.warp ⟨0, 48, 0, 0⟩) 0 [], .readAtHome (.port 18) 0 [], .hartOwnershipRequest ⟨⟨0, 48⟩, true, 0⟩ .own,
    .vxpooltopWrite ⟨0, 48⟩ .m 0, .vxgovWrite ⟨0, 48⟩ .m 0, .csrWrite ⟨0, 48⟩ .m 0 0].map Instr.wellFormed = List.replicate 8 false := by
  decide
theorem refuses_units : [Instr.parityAlert 0 128 false, .inboundPortRequest 18 0 (.read 1), .enterTraining 31, .trainingComplete 34,
    .trainingTimeout 18, .portEnable 18, .portDisable 18, .flitCrcMismatch .e01 96 false, .laneTest .e01 96 0 0 false,
    .rgnctlWrite 0 240 0].map Instr.wellFormed = List.replicate 10 false := by decide

/-! States that meet the hypotheses of the statements, clause by clause. -/

/-- The state that a launch of one warp leaves, its word still to come. -/
def started : State := State.reset.withFetchWord 32 0

/-- The same with another warp. -/
def withW (f : Warp → Warp) : State := { started with w := f started.w }

/-- The same with hints pending. -/
def hinted (hs : List Hint) : State := withW fun w => { w with hints := hs }

/-- The same in a trap handler. -/
def inHandler : State := withW fun w => { w with inh := true, tvec := 0x4000, epc := 0x3000 }

/-- The same with one waiting sibling path. -/
def sibling : Entry := ⟨0x5000, 0xF0, 0x6000, 0, true⟩
def divided : State := withW fun w => { w with stack := [sibling], depth := 1 }

/-- A translation found by evaluation. -/
theorem found {s t : State} {va : DWord} {acc : Access} {l : Loc}
    (h : (match s.xlate va acc with | (u, .ok x) => decide (u = t ∧ x = l) | _ => false) = true) :
    s.xlate va acc = (t, .ok l) := by
  revert h
  split
  · next u x hx => intro h; obtain ⟨rfl, rfl⟩ := of_decide_eq_true h; exact hx
  · intro h; cases h

/-- An address of memory that the warp reaches. -/
def there (a : Nat) : Loc := ⟨a, false, 0, 0⟩

/-- An evaluation ends in a value that satisfies p. -/
def holds {ε α : Type} (x : Except ε α) (p : α → Bool) : Bool := match x with | .ok a => p a | .error _ => false
def holdsSome {α : Type} (x : Option α) (p : α → Bool) : Bool := match x with | some a => p a | none => false

/-- One evaluation after another ends in a value with a property. -/
theorem ok_ex {ε α : Type} {x : Except ε α} {p : α → Prop} {b : α → Bool} (hb : ∀ a, b a = true → p a) (h : holds x b = true) :
    ∃ a, x = .ok a ∧ p a := by
  cases x with
  | ok a => exact ⟨a, rfl, hb a h⟩
  | error e => cases h

theorem ok_of {ε α : Type} {x : Except ε α} {p : α → Prop} [DecidablePred p] (h : holds x (fun a => decide (p a)) = true) :
    ∃ a, x = .ok a ∧ p a := ok_ex (fun _ => of_decide_eq_true) h

theorem ok_ok {ε δ α γ : Type} {x : Except ε α} {f : α → Except δ γ} {p : α → γ → Prop} [∀ a c, Decidable (p a c)]
    (h : holds x (fun a => holds (f a) fun c => decide (p a c)) = true) : ∃ a, x = .ok a ∧ ∃ c, f a = .ok c ∧ p a c :=
  ok_ex (fun _ => ok_of) h

theorem some_of {α : Type} {x : Option α} {p : α → Prop} [DecidablePred p] (h : holdsSome x (fun a => decide (p a)) = true) :
    ∃ a, x = some a ∧ p a := by
  cases x with
  | some a => exact ⟨a, rfl, of_decide_eq_true h⟩
  | none => cases h



/-- The hints of a unit are accepted, by evaluation; and what a unit over vector registers, or over registers, needs. -/
theorem accepted {s : State} {m : Nat} {acc : List Nat} {rc : Bool}
    (h : (decide (s.badWord m = none) && decide (mismatch acc rc s.w.hints = none)) = true) : s.accepts m acc rc := by
  simpa [State.accepts] using h

theorem vready {s : State} {acc : List Nat} {runs : List (Nat × Nat)} {srcs : List Nat}
    (h : ((decide (s.badWord 22 = none) && decide (mismatch acc false s.w.hints = none)) && s.regsOk runs srcs
      && ((s.unitRegs runs srcs).all fun r => ! s.pendingLanes r)
      && ((queuesOf srcs).all fun q => decide (s.w.rep.1 ≤ (s.w.queue q).length)
        && ((s.w.queue q).take s.w.rep.1).all fun e => e.value.isSome)) = true) : s.VectorReady acc runs srcs := by
  rw [Bool.and_eq_true, Bool.and_eq_true, Bool.and_eq_true] at h
  obtain ⟨⟨⟨ha, hb⟩, hc⟩, hd⟩ := h
  refine ⟨accepted ha, hb, fun r hr => ?_, fun q hq => ?_⟩
  · simpa using List.all_eq_true.mp hc r hr
  · simpa [Bool.and_eq_true, List.all_eq_true] using List.all_eq_true.mp hd q hq

theorem uready {s : State} {acc regs srcs : List Nat}
    (h : ((decide (s.badWord 22 = none) && decide (mismatch acc false s.w.hints = none)) && (regs.all fun r => ! s.pendingLanes r)
      && decide (queuesOf srcs = [])) = true) : s.UnitReady acc regs srcs := by
  rw [Bool.and_eq_true, Bool.and_eq_true] at h
  obtain ⟨⟨ha, hb⟩, hc⟩ := h
  refine ⟨accepted ha, fun r hr => ?_, fun q hq => ?_⟩
  · simpa using List.all_eq_true.mp hb r hr
  · rw [of_decide_eq_true hc] at hq
    cases hq

/-- A request is served at once at an intact line, by evaluation. -/
def plainAt (s : State) (ag : Agent) (l : Loc) (h : Nat) : Bool :=
  decide (paKind s.vxpkg.toNat l.pa = .mem h) && ! s.unreachable ag.ld h && ! s.linkWaits ag.ld h (l.pa / 64)
    && decide ((s.sliceOf (l.pa / 64)).busy < 448) && (ag.port.all fun p => ! (s.sliceOf (l.pa / 64)).holds p)
    && ((ag.request (l.pa / 64)).all fun r => ! s.accepted.contains r) && ! s.lockedOut ag.owner (l.pa / 64)
    && (s.online l.pa && ! s.bad (l.pa / 64) && (s.flips.all fun c => decide (c.1 / 64 ≠ l.pa / 64))
      && (s.hartLines.all fun x => decide (x.line ≠ l.pa / 64)))

theorem plain_of {s : State} {ag : Agent} {l : Loc} {h : Nat} (k : plainAt s ag l h = true) : s.PlainLine ag l h := by
  simp only [plainAt, Bool.and_eq_true, Bool.not_eq_true', decide_eq_true_eq, List.all_eq_true] at k
  obtain ⟨⟨⟨⟨⟨⟨⟨hm, hu⟩, hl⟩, hf⟩, ht⟩, hr⟩, hk⟩, ⟨⟨ho, hb⟩, hc⟩, hh⟩ := k
  refine ⟨⟨hm, hu, hl, hf, fun p hp => ?_, fun r hp => ?_, hk⟩, ho, hb, hc, hh⟩
  · rw [hp] at ht
    simpa using ht
  · rw [hp] at hr
    simpa using hr

/-- The warp reaches an address, by evaluation. -/
theorem reached {s : State} {va : DWord} {acc : Access} {n h : Nat} {l : Loc}
    (k : (! reportsFull s.w && s.slotsFree 1 && decide (va.toNat % n = 0)
      && match s.xlate va acc with
        | (t, .ok x) => decide (x = l) && plainAt t (t.me none) l h
        | _ => false) = true) : s.Reaches va acc n (s.xlate va acc).1 l := by
  revert k
  rcases hx : s.xlate va acc with ⟨t, _ | x⟩
  · simp
  · simp only [Bool.and_eq_true, Bool.not_eq_true', decide_eq_true_eq]
    rintro ⟨⟨⟨hr, hs⟩, ha⟩, rfl, hp⟩
    exact ⟨⟨hr, hs⟩, ha, hx, ⟨h, (plain_of hp).serves⟩, (plain_of hp).intact⟩

theorem witness_accepts (acc : List Nat) (h : acc ∈ [[], [0, 1], [5], [0, 5], [7], [4]]) : started.accepts 22 acc false := by
  have all : ∀ a ∈ [[], [0, 1], [5], [0, 5], [7], [4]],
      (decide (started.badWord 22 = none) && decide (mismatch a false started.w.hints = none)) = true := by decide
  exact accepted (all acc h)

/-- A memory instruction may issue, by evaluation. -/
theorem issues {s : State} {n : Nat} (h : (! reportsFull s.w && s.slotsFree n) = true) : s.mayIssue n := by
  simpa [State.mayIssue] using h

theorem witness_UnitChecks_illegal :
    isTarget (.vtopk 1 2 4 0) = true ∧ (Instr.vtopk 1 2 4 0).wellFormed = true ∧ namesRegister (.vtopk 1 2 4 0) = true
    ∧ (hinted [.mod 128]).badWord (modWidth (.vtopk 1 2 4 0)) = some 0x0100_0080
    ∧ (hinted [.mod 127]).badWord (modWidth (.vtopk 1 2 4 0)) = none
    ∧ (withW fun w => { w with hints := [.imm 1], badHint := some (0, 0x0300_0800) }).badWord (modWidth (.add 1 2 3))
        = some 0x0300_0800 := by decide

theorem witness_UnitChecks_denied :
    started.badWord (modWidth .tret) = none ∧ started.deniedTo .tret = true ∧ started.deniedTo (.wsr 0x030 1) = true
    ∧ started.deniedTo (.wsr 0x034 1) = true ∧ started.deniedTo (.wsr 0x035 1) = false ∧ inHandler.deniedTo .tret = false
    ∧ namesRegister (.wsr 0x034 1) = true := by decide

theorem witness_UnitChecks_mismatch :
    (hinted [.sch 1, .imm 5]).badWord (modWidth (.mul 1 2 3)) = none ∧ (hinted [.sch 1, .imm 5]).deniedTo (.mul 1 2 3) = false
    ∧ mismatch (acceptedKinds (.mul 1 2 3)) (needsRc (.mul 1 2 3)) (hinted [.sch 1, .imm 5]).w.hints = some 4
    ∧ mismatch (acceptedKinds (.brd 1 2)) (needsRc (.brd 1 2)) started.w.hints = some 0 := by decide

theorem witness_UnitChecks_hints : (hinted [.imm 0, .immh 0, .mod 0]).w.hints.length < 4 ∧ (3 : BitVec 3).toNat < 4
    ∧ (hinted [.imm 0, .immh 0, .mod 0, .sch 1]).w.hints.length = 4
    ∧ (∃ c, (Instr.hintSch 2) = .hintSch c ∧ Hint.sch 2 = .sch c) :=
  ⟨by decide, by decide, by decide, 2, rfl, rfl⟩

theorem witness_ImmediateResults : (hinted [.imm 5, .immh 1]).accepts 22 [0, 1] false := ⟨by decide, by decide⟩

theorem witness_ScalarRegisterRules : (55 : Nat) ≠ 0 ∧ (56 : Nat) ≠ 55 ∧ 63 < 64 := by decide

/-- s1 holds an address of memory. -/
def pointing (a : DWord) : State := withW fun w => w.setS 1 a

theorem reaches_read : ∃ s1, (pointing 0x2000).Reaches 0x2000 .read 8 s1 (there 0x2000) := ⟨_, reached (h := 0) (by decide)⟩

theorem reaches_write : ∃ s1, (pointing 0x2000).Reaches 0x2000 .write 8 s1 (there 0x2000) := ⟨_, reached (h := 0) (by decide)⟩

theorem witness_ScalarAccesses : (pointing 0x2000).accepts 22 [0, 5] false ∧ (pointing 0x2000).accepts 22 [5] false
    ∧ (pointing 0x2002).accepts 22 [0, 5] false ∧ ¬ ((0 : BitVec 4) ≠ 0 ∧ ((55 : BitVec 6) = 55 ∨ (55 : BitVec 6) = 56))
    ∧ ¬ ((15 : BitVec 4) ≠ 0 ∧ ((54 : BitVec 6) = 55 ∨ (54 : BitVec 6) = 56))
    ∧ (pointing 0x2000).w.s 1 + (pointing 0x2000).w.imm 6 0 * BitVec.ofNat 64 8 = 0x2000 ∧ (pointing 0x2000).w.s 1 = 0x2000
    ∧ ((pointing 0x2002).w.s 1 + (pointing 0x2002).w.imm 6 1 * BitVec.ofNat 64 4).toNat % 4 ≠ 0
    ∧ reportsFull (pointing 0x2002).w = false ∧ (pointing 0x2002).slotsFree 1 = true :=
  ⟨accepted (by decide), accepted (by decide), accepted (by decide), by decide⟩

theorem witness_Branches : (9 : BitVec 4).toNat % 8 ≠ 0 := by decide

/-- A warp at a divergent branch with guard k1. -/
def branching (k1 : DWord) (depth : Nat) (spill : BitVec 48) : State :=
  withW fun w => { w.setS 57 k1 with hints := [.rc 4], depth := depth, stack := List.replicate (min depth 32) sibling, spill := spill }

theorem witness_Branches_divergent : (branching 0xF 0 0).accepts 22 [2] true
    ∧ (∃ s1, (branching 0xF 30 0).push [sibling, sibling] = .ok s1) ∧ (branching 0 0 0).w.em &&& (branching 0 0 0).w.guard 1 = 0
    ∧ (branching 0xF 0 0).w.em &&& (branching 0xF 0 0).w.guard 1 ≠ 0
    ∧ (branching 0xF 0 0).w.em &&& ~~~ (branching 0xF 0 0).w.guard 1 ≠ 0
    ∧ (started.w.em &&& ~~~ started.w.guard 0) = 0
    ∧ (branching 0xF 30 0).w.depth + 2 ≤ 32 ∧ (branching 0xF 30 0).w.stack.length = (branching 0xF 30 0).w.depth
    ∧ (30 < (branching 0xF 31 0).w.depth ∧ (branching 0xF 31 0).w.spill = 0) ∧ 1022 < (branching 0xF 1023 32).w.depth :=
  ⟨accepted (by decide), ⟨_, State.push_on_chip _ _ (by decide) (by decide)⟩, by decide⟩

theorem witness_SpecialRegisters : srAssigned 0x000 = true ∧ started.srWaits 0x000 = false ∧ started.srWaits 0x01A = false
  ∧ started.srWaits 0x01B = false
    ∧ srAssigned 0xFFF = false
    ∧ started.badWord 22 = none ∧ started.deniedTo (.wsr 0x01A 1) = false ∧ srAssigned 0x01A = true ∧ started.passes none = false
    ∧ ((0x019 : BitVec 12) = 0x019 ∧ 32 < (branching 0 33 32).w.depth) ∧ srAssigned 0x019 = true
    ∧ inHandler.deniedTo (.wsr 0x034 1) = false ∧ (0x017 : Nat) ≤ 0x018 ∧ 7 < 8 := by decide

theorem witness_Traps : (withW fun w => { w with tvec := 4 }).w.inh = false ∧ (withW fun w => { w with tvec := 4 }).w.tvec ≠ 0
    ∧ (inHandler.w.inh = true ∧ inHandler.w.life = .run ∧ inHandler.w.fence = none) ∧ started.w.tvec = 0
    ∧ (∀ g ∈ started.allGroups, g.key = started.w.key → g.allRetired = false)
    ∧ (inHandler.w.abort = false ∧ inHandler.w.pre = false ∧ inHandler.w.arw = none ∧ inHandler.w.dh ≤ inHandler.w.depth
        ∧ inHandler.w.depth ≤ 32 ∧ inHandler.w.stack.length = inHandler.w.depth)
    ∧ (withW fun w => { w with inh := true, abort := true }).w.abort = true := by decide

theorem witness_PathSwaps_yield : inHandler.w.inh = true ∧ started.w.depth ≤ started.w.dh ∧ divided.w.inh = false ∧ divided.w.dh = 0
    ∧ 0 < divided.w.depth ∧ divided.w.depth ≤ 32 ∧ divided.w.stack.length = divided.w.depth ∧ divided.w.stack = [] ++ [sibling]
    ∧ sibling.k = true ∧ sibling.mask &&& divided.w.occ ≠ 0 := by decide

/-- A stack of 34 entries, two of them in memory at 0x2000, the first one a waiting path. -/
def spilling : State := (branching 0xF 34 0x2000).poke 0x2000 sibling.bytes

theorem witness_PathSwaps_swap :
    let s0 : State := { spilling with w := spilling.w.commitAll.dropHints }
    let out := fun (xs : List (Nat × Nat)) (ws : List (Nat × DWord × Loc)) =>
      let es := (xs.map fun x => entryOf x.2) ++ spilling.w.stack.reverse
      ws.map fun w => (w.1, w.2.1, w.2.2, (es.getD (w.1 + 1) sibling).bytes)
    spilling.w.dh < spilling.w.depth ∧ spilling.w.inh = false
    ∧ (∃ c, s0.spillCheck .read (List.range 2) = .ok c ∧ ∃ x, c.1.loadAll none 32 c.2 = .ok x
      ∧ ∃ w, c.1.spillCheck .write (List.range 2) = .ok w ∧ ∃ y, w.1.loadAll none 32 c.2 = .ok y
      ∧ ∃ t, y.1.storeAll none [] (out x.2 w.2) = .ok t
        ∧ ((x.2.map fun z => entryOf z.2).head? = some sibling ∧ x.2 = y.2 ∧ w.2.length = 2))
    ∧ started.slotsFree 0 = true ∧ divided.slotsFree 0 = true :=
  ⟨by decide, by decide, ok_ex (fun _ => ok_ex fun _ => ok_ex fun _ => ok_ok) (by decide +kernel), by decide, by decide⟩

/-- The path of the warp arrives at its reconvergence PC. -/
def arriving : State := withW fun w => { w with stack := [sibling], depth := 1, crpc := w.pc }

theorem witness_PathSwaps_pop : started.w.arrived = false ∧ arriving.w.dh < arriving.w.depth ∧ arriving.w.depth ≤ 32
    ∧ arriving.w.pc = arriving.w.crpc ∧ arriving.w.stack = sibling :: [] ∧ sibling.mask &&& arriving.w.occ ≠ 0
    ∧ sibling.pc ≠ sibling.rpc ∧ started.w.stack = [] ∧ started.w.depth = 0 := by decide

/-- The same with 33 entries; and with an entry above that stands at its own reconvergence PC. -/
def deep : State := { spilling with w := { spilling.w with depth := 33, crpc := spilling.w.pc } }
def chained : State :=
  withW fun w => { w with stack := [{ sibling with pc := sibling.rpc }, sibling], depth := 2, crpc := w.pc }

theorem witness_PathSwaps_pops : 32 < deep.w.depth ∧ deep.w.stack = sibling :: List.replicate 31 sibling
    ∧ (∃ c, ({ deep with w := deep.w.commitAll.dropHints } : State).read32 [deep.w.spillAddr (deep.w.depth - 33)]
        = .ok c ∧ c.2.map entryOf = [sibling])
    ∧ chained.w.depth ≤ 32 ∧ chained.w.stack.length = chained.w.depth ∧ chained.w.pc = chained.w.crpc
    ∧ chained.w.stack = [{ sibling with pc := sibling.rpc }] ++ sibling :: [] ∧ chained.w.dh ≤ 0 :=
  ⟨by decide, by decide, ok_of (by decide +kernel), by decide⟩

theorem reaches_write32 : ∃ s1, (pointing 0x2000).Reaches 0x2000 .write 32 s1 (there 0x2000) := ⟨_, reached (h := 0) (by decide)⟩

/-- The warp with one entry, and s1 at 0x2000. -/
def saving : State := { pointing 0x2000 with w := { (pointing 0x2000).w with stack := [sibling], depth := 1 } }

theorem witness_StackImages_save : (((pointing 0x2010).w.s 1).toNat % 32 ≠ 0 ∧ (pointing 0x2000).w.depth = 0
    ∧ (pointing 0x2000).w.stack = [] ∧ (saving.w.s 1).toNat % 32 = 0)
    ∧ saving.mayIssue 1 ∧ saving.read32 ((List.range (saving.w.depth - 32)).map saving.w.spillAddr) = .ok (saving, [])
    ∧ ∃ s2, saving.write32 ((0x2000, bytesOf 8 saving.w.depth ++ bytesOf 8 saving.w.crpc.toNat ++ bytesOf 16 0) ::
        [sibling].zipIdx.map fun x => (0x2000 + BitVec.ofNat 64 (32 * (x.2 + 1)), x.1.bytes)) = .ok s2 ∧ s2.w.depth = 1 :=
  ⟨by decide, issues (by decide), rfl, ok_of (by decide +kernel)⟩

/-- An image of a stack in memory: its header, and the lower doublewords of its first entry. -/
def image (depth crpc : Nat) : State := (pointing 0x2000).poke 0x2000 (bytesOf 8 depth ++ bytesOf 8 crpc)
def imageOf (depth : Nat) (e : Entry) : State := (image depth 1).poke 0x2020 e.bytes
/-- The same with a spill area. -/
def roomy (s : State) : State := { s with w := { s.w with spill := 0x4000 } }

theorem witness_StackImages_reads : ∃ s1, (image 0 8).Reaches 0x2000 .read 32 s1 (there 0x2000) := ⟨_, reached (h := 0) (by decide)⟩

theorem witness_StackImages_load :
    (∃ c, (image 1025 1).read32 [0x2000] = .ok c ∧ c.2.map (· % 2048) = [1025])
    ∧ (∃ c, (image 1024 2).read32 [0x2000] = .ok c ∧ c.2.map (fun h => (h % 2048, BitVec.ofNat 48 (h / 2 ^ 64))) = [(1024, 2)])
    ∧ (∃ c, (image 33 1).read32 [0x2000] = .ok c ∧ c.2.map (fun h => (h % 2048, BitVec.ofNat 48 (h / 2 ^ 64))) = [(33, 1)])
    ∧ (image 33 1).w.spill = 0 ∧ (image 33 1).mayIssue 1 ∧ ((image 33 1).w.s 1).toNat % 32 = 0 :=
  ⟨ok_of (by decide +kernel), ok_of (by decide +kernel), ok_of (by decide +kernel), by decide, ⟨by decide, by decide⟩, by decide⟩

theorem witness_StackImages_entries :
    let reads := fun s : State => s.read32 [(0x2020 : DWord)]
    let holdsOne := fun e : Entry => ∃ c, (imageOf 1 e).read32 [0x2000] = .ok c ∧ ∃ d, reads c.1 = .ok d
      ∧ c.2.map (· % 2048) = [1] ∧ d.2.map entryOf = [e]
    holdsOne { sibling with pc := 2 } ∧ holdsOne { sibling with rpc := 2 } ∧ holdsOne sibling :=
  ⟨ok_ok (by decide +kernel), ok_ok (by decide +kernel), ok_ok (by decide +kernel)⟩

theorem witness_StackImages_spills :
    let s := roomy (imageOf 34 sibling)
    s.w.spill ≠ 0 ∧ (∃ c, s.read32 [0x2000] = .ok c ∧ c.2.map (· % 2048) = [34])
    ∧ ∃ d, s.read32 ((List.range 34).map fun i => 0x2000 + BitVec.ofNat 64 (32 * (i + 1))) = .ok d
      ∧ ∃ s3, d.1.write32 [(0x4000, sibling.bytes), (0x4020, (entryOf 0).bytes)] = .ok s3 ∧ (d.2.map entryOf).take 1 = [sibling] :=
  ⟨by decide, ok_of (by decide +kernel), ok_ok (by decide +kernel)⟩

/-- A fence in progress, behind a request that a port lost. -/
def fencing (kind : BitVec 2) (sc : BitVec 3) (lost : Option Nat) : State :=
  withW fun w => { w with fence := some (kind, sc), lostPort := lost, evmask := 2, tvec := 4 }
/-- A fence that a write held at a port, in training or not, holds back. -/
def fenceStuck (st : PortState) : State :=
  { fencing 2 6 none with ports := [(0, { Port.reset with state := st, held := [⟨0, started.owner, 0, there 0x100_0000_0000, [], none, none⟩] })] }

theorem witness_FencesBeginAndComplete : started.w.fence = none ∧ (fencing 2 6 none).w.fence = some (2, 6)
    ∧ (fencing 2 6 none).fenceHeld = false ∧ (fencing 2 5 (some 3)).fenceHeld = false ∧ (5 : BitVec 3) ≠ 6
    ∧ (fencing 2 6 none).w.lostBefore 2 = none ∧ (fencing 0 6 (some 3)).w.lostBefore 0 = none
    ∧ (fencing 2 6 (some 3)).w.fence = some (2, 6) ∧ (fencing 2 6 (some 3)).fenceHeld = false
    ∧ (fencing 2 6 (some 3)).w.lostBefore 2 = some 3 ∧ (fencing 2 6 (some 3)).w.evmask.getLsbD 1 = true
    ∧ (fencing 2 6 (some 3)).w.inh = false ∧ (fencing 2 6 (some 3)).w.tvec ≠ 0 ∧ (fenceStuck .training).fenceHeld = true
    ∧ (fenceStuck .training).heldTraining = true ∧ (fenceStuck .up).fenceHeld = true ∧ (fenceStuck .up).heldTraining = false ∧ started.w.evmask.getLsbD 1 = false
    ∧ reportsFull started.w = false := by decide

/-! Items, successors, retirement and waits. -/

/-- The launch has n items, of which ic are taken; the warp has these lanes occupied, and the active ones among them. -/
def serving (ic n : Nat) (occ em : Mask) : State :=
  { withW (fun w => { w with occ := occ, sregs := w.sregs.set 0 56 em }) with
    lc := { loadLaunch with record := { Record.zero with n := BitVec.ofNat 48 n }, ic := BitVec.ofNat 48 ic } }

theorem witness_ItemsAreTaken : (64 : BitVec 7).toNat ≤ 64 ∧ (serving 5 9 0 0).lc.ic.toNat ≤ (serving 5 9 0 0).lc.record.n.toNat
    ∧ (inHandler.w.inh = true ∧ divided.w.depth ≠ 0) ∧ ((List.range 64).filter fun l => ! started.w.occ.getLsbD l) = []
    ∧ (serving 5 9 3 3).w.inh = false ∧ (serving 5 9 3 3).w.depth = 0
    ∧ (∀ r ∈ (serving 5 9 3 3).ilive, (serving 5 9 3 3).pendingLanes r = false)
    ∧ min ((List.range 64).filter fun l => ! (serving 9 9 3 3).w.occ.getLsbD l).length (9 - 9) = 0
    ∧ min ((List.range 64).filter fun l => ! (serving 5 9 3 3).w.occ.getLsbD l).length (9 - 5) ≠ 0 := by decide

/-- The same on a warp with one waiting path. -/
def exiting : State := { serving 5 9 0xFF 0x0F with w := { (serving 5 9 0xFF 0x0F).w with stack := [sibling], depth := 1 } }

theorem witness_ExitEndsItems : inHandler.w.inh = true ∧ (serving 5 9 7 3).w.inh = false
    ∧ (serving 5 9 7 3).w.occ &&& ~~~ (serving 5 9 7 3).w.em ≠ 0 ∧ (serving 5 9 7 3).w.depth ≤ (serving 5 9 7 3).w.dh
    ∧ (serving 5 9 3 3).w.occ &&& ~~~ (serving 5 9 3 3).w.em = 0 ∧ (serving 8 9 3 3).lc.ic.toNat < (serving 8 9 3 3).lc.record.n.toNat
    ∧ (serving 9 9 3 3).lc.ic = (serving 9 9 3 3).lc.record.n ∧ (serving 9 9 3 3).w.reports = []
    ∧ exiting.w.dh < exiting.w.depth ∧ exiting.w.depth ≤ 32 ∧ exiting.w.stack = sibling :: []
    ∧ sibling.mask &&& exiting.w.occ &&& ~~~ exiting.w.em ≠ 0 ∧ exiting.w.occ &&& ~~~ exiting.w.em ≠ 0
    ∧ sibling.pc ≠ sibling.rpc := by decide

/-- The same alone: its retirement is the last of its workgroup. -/
def departing : State := { withW (fun w => { w with life := .retiring }) with wg := loadGroup }

theorem witness_Retirement_last : departing.quiet departing.w = true ∧ departing.strongHeld = false ∧ departing.w.life = .retiring
    ∧ (∀ k < 16, k ≠ departing.w.idx.toNat → departing.wg.live.getLsbD k = false) := by decide

/-- A warp whose retirement is under way, beside another warp of its workgroup. -/
def leaving : State :=
  { withW (fun w => { w with life := .retiring }) with
    wg := { loadGroup with warps := 2 }, warps := [{ loadWarp (Warp.fresh ⟨0, 0, 0, 1⟩) with place := ⟨0, 0, 0, 1⟩, idx := 1 }] }

theorem witness_Retirement : inHandler.w.inh = true ∧ started.w.reports = [] ∧ started.w.life ≠ .retiring ∧ started.w.life ≠ .stopping
    ∧ leaving.quiet leaving.w = true ∧ leaving.strongHeld = false ∧ leaving.w.life = .retiring
    ∧ (∃ k < 16, k ≠ leaving.w.idx.toNat ∧ leaving.wg.live.getLsbD k = true) := by decide

theorem witness_Retirement_waiting :
    ({ leaving with w := { leaving.w with counters := [(0, ⟨1, 0⟩)] } } : State).quiet { leaving.w with counters := [(0, ⟨1, 0⟩)] }
      = false := by decide

/-- A workgroup whose one warp has retired with a successor recorded. -/
def succeeding : State :=
  { withW (fun w => { w with life := .retired }) with wg := { loadGroup with retired := 1, succ := some 0 } }

theorem witness_Successors : started.wg.succ = none ∧ succeeding.wg.succ = some 0 ∧ succeeding.wg.allRetired = true
    ∧ succeeding.lc.ending = none ∧ succeeding.w.key = succeeding.wg.key ∧ succeeding.w.life = .retired ∧ 63 < 64 := by decide

/-- A warp that naps. -/
def napping : State := withW fun w => { w with park := .nap 9 }

theorem witness_Waits : napping.w.park = .nap 9 ∧ napping.w.life ≠ .empty := by decide

/-- The warp is (not) a member of barrier word 2. -/
def member (arr memb : BitVec 16) : State := { started with wg := { loadGroup with barriers := [(2, ⟨7, arr, memb⟩)] } }

theorem witness_Barriers : (member 0 0).w.park = .none ∧ ((member 0 0).wg.barrier 2).memb &&& (1 <<< 0 : BitVec 16) = 0
    ∧ ((member 0 1).wg.barrier 2).memb &&& (1 <<< 0 : BitVec 16) ≠ 0
    ∧ ((⟨7, 0 ||| 1, 1⟩ : Barrier).settle).ph ≠ 7 ∧ ((⟨7, 0 ||| 1, 3⟩ : Barrier).settle).ph = 7
    ∧ ((member 0 3).wg.barrier 2).memb &&& (1 <<< 0 : BitVec 16) ≠ 0 := by decide

/-! One step each; the expected values are the manual's worked examples or follow by hand from the rule named. -/

/-- What a warp holds after one instruction. -/
def after (i : Instr) (s : State) (f : State → Bool) : Bool := match exec i s with | .next t => f t | _ => false

/-- R45, Table 9: the words of the listing of 01_encoding. -/
theorem test_words : decode 0x0400_3105 = .ok (.add 3 4 5) ∧ decode 0x0004_8D15 = .ok (.hintImm 0x4_8D15)
    ∧ decode 0x0A47_0278 = .ok (.li 7 0x278) ∧ decode 0x4A18_90E4 = .ok (.ld 4 3 9 7 4) ∧ decode 0x0080_001F = .ok (.hintRc 31)
    ∧ decode 0x1480_000F = .ok (.brd 2 15) ∧ decode 0x1C00_5003 = .ok (.rsr 5 3) ∧ decode 0x1C04_0849 = .ok (.wsr 0x21 9)
    ∧ decode 0x8810_0008 = .ok (.mma 1 0 0 8) ∧ decode 0x8880_0000 = .ok .mrel := ⟨rfl, rfl, rfl, rfl, rfl, rfl, rfl, rfl, rfl, rfl⟩

/-- The example of R117: 0x8000_0000_0000_0001 in three units. -/
theorem test_li : after (.li 5 0) (hinted [.imm 0x20_0000]) (fun t => t.w.s 5 == 0xFFFF_FFFF_8000_0000) = true := by decide
theorem test_shli : after (.shli 5 5 32) (withW fun w => w.setS 5 0xFFFF_FFFF_8000_0000) (fun t => t.w.s 5 == 0x8000_0000_0000_0000)
    = true := by decide
theorem test_ori : after (.ori 5 5 1) (withW fun w => w.setS 5 0x8000_0000_0000_0000) (fun t => t.w.s 5 == 0x8000_0000_0000_0001)
    = true := by decide

/-- R113: the borrow wraps, and a source that is also the destination is read first. -/
theorem test_sub_wraps : after (.sub 2 1 2) (withW fun w => (w.setS 1 3).setS 2 5) (fun t => t.w.s 2 == 0xFFFF_FFFF_FFFF_FFFE) = true := by
  decide
/-- R113: division by zero, and the most negative dividend. -/
theorem test_div_zero : after (.div 3 1 2) (withW fun w => w.setS 1 7) (fun t => t.w.s 3 == BitVec.allOnes 64) = true := by decide
theorem test_div_overflow : after (.div 3 1 2) (withW fun w => (w.setS 1 0x8000_0000_0000_0000).setS 2 (BitVec.allOnes 64))
    (fun t => t.w.s 3 == 0x8000_0000_0000_0000) = true := by decide
/-- R107: s0 discards a write. -/
theorem test_s0 : after (.addi 0 1 5) (withW fun w => w.setS 1 9) (fun t => t.w.s 0 == 0 && t.w.pc == 0x10_0004) = true := by decide
/-- R41: a result with la 2 is not yet read by the next unit. -/
theorem test_lookahead : after (.sldB64 2 9 1 0) (pointing 0x2000) (fun t => t.w.s 9 == 0 && t.w.windows.length == 1) = true := by decide
/-- R118: the high half of a doubleword, from the second scaled offset. -/
theorem test_sld_b32 : after (.sldB32 0 9 1 1) ((pointing 0x2000).poke 0x2000 [1, 2, 3, 4, 5, 6, 7, 0x88])
    (fun t => t.w.s 9 == 0x8807_0605) = true := by decide
/-- R118: a misaligned store traps with its address and stores nothing. -/
theorem test_sst_misaligned : after (.sstB64 2 1 0) (withW fun w => { (w.setS 1 0x2004).setS 2 7 with tvec := 0x4000 })
    (fun t => t.w.tcause == 4 && t.w.tval == 0x2004 && t.w.pc == 0x4000 && t.byteAt 0x2004 == 0) = true := by decide

/-- R121: the link is the address after the call. -/
theorem test_call : after (.call 0xFFFFF) started (fun t => t.w.s 54 == 0x10_0004 && t.w.pc == 0xF_FFFC) = true := by decide
/-- R122: a target beyond 48 bits. -/
theorem test_jr_far : after (.jr 0 1) (withW fun w => { w.setS 1 0x1_0000_0000_0000 with tvec := 0x4000 })
    (fun t => t.w.tcause == 6 && t.w.epc == 0x10_0000) = true := by decide
/-- R12, R121: the link is exact at the top of the address space. -/
theorem test_call_top : after (.call 1) (withW fun w => { w with pc := 0xFFFF_FFFF_FFFC })
    (fun t => t.w.s 54 == 0x1_0000_0000_0000 && t.w.pc == 0) = true := by decide
/-- R171: 0.8 rounds to the smallest normal of E2M1, which is no underflow. -/
theorem test_round_min_normal : Fmt.round .e2m1 0 false false 0 (Fmt.decode .f32 false 0x3F4C_CCCD) = (2, 0x10) := by decide
/-- R186: lanes 0 to 3 take the branch; the others wait behind the join. -/
theorem test_brd : after (.brd 1 15) (branching 0xF 0 0) (fun t => t.w.em == 0xF && t.w.depth == 2 && t.w.crpc == 0x10_0010
    && t.w.pc == 0x10_003C && (t.w.stack.map Entry.mask) == [0xFFFF_FFFF_FFFF_FFF0, 0xFFFF_FFFF_FFFF_FFFF]) = true := by decide

def spread (x : Word) : Vec := Vec.ofFn fun _ => x

/-- R138: the example of `vdot4` and `vdot4n`. -/
def dots : State := withW fun w => (((w.setV 1 1 (spread 0x80FF_0102)).setV 2 1 (spread 0x0203_0405)).setV 3 1 (spread 10)).setS 56 1
theorem test_vdot4 : after (.vdot4 3 1 2) dots (fun t => (t.w.v 3).at 0 == 0xFFFF_FF15) = true := by decide
theorem test_vdot4n : after (.vdot4n 3 1 2) dots (fun t => (t.w.v 3).at 0 == 0x0000_0415) = true := by decide

/-- Table 7 of R143: one lane, an `fm` value, two operands; the result and the flags that it adds (R174). -/
def floats (fm : DWord) (a b : Word) : State :=
  withW fun w => (((w.setV 1 1 (spread a)).setV 2 1 (spread b)).setS 55 fm).setS 56 1
theorem test_vfadd_up : after (.vfadd 3 1 2) (floats 0x2000 0x3F80_0000 0x3380_0000) (fun t => (t.w.v 3).at 0 == 0x3F80_0001 && t.w.fstat == 0x10) = true := by
  decide
theorem test_vfadd_overflow : after (.vfadd 3 1 2) (floats 0x1000 0x7F7F_FFFF 0x7F7F_FFFF) (fun t => (t.w.v 3).at 0 == 0x7F7F_FFFF && t.w.fstat == 0x14)
    = true := by decide
theorem test_vfmul_invalid : after (.vfmul 3 1 2) (floats 0 0x7F80_0000 0) (fun t => (t.w.v 3).at 0 == 0x7FC0_0000 && t.w.fstat == 1) = true := by decide
theorem test_vfmul_flushed : after (.vfmul 3 1 2) (floats 0x1_0000 0x0080_0000 0x3F00_0000) (fun t => (t.w.v 3).at 0 == 0 && t.w.fstat == 0x18) = true := by
  decide
theorem test_vfmin_zero : after (.vfmin 3 1 2) (floats 0 0x8000_0000 0) (fun t => (t.w.v 3).at 0 == 0x8000_0000 && t.w.fstat == 0) = true := by decide

/-- R215: lanes 0 to 3 of one `batom.add` name offset 16, which holds 5. -/
def adding : State :=
  let s := withW fun w => (((w.setS 56 0xF).setV 1 0xF (spread 16)).setV 2 0xF (Vec.ofFn fun l => BitVec.ofNat 32 (l + 1)))
  { s with wg := s.wg.bufWrite 0 16 (bytesOf 4 5) }
theorem test_batom_add : after (.batomAdd 0 0 2 1 0) adding (fun t => t.wg.bufRead 0 16 4 == 15
    && (List.range 4).map (fun l => ((t.w.v 2).at l).toNat) == [5, 6, 8, 11]) = true := by decide

/-- The example of R206: the merged list of `vtopk`. -/
def lists : State :=
  let v := fun (a b c d : Word) => Vec.ofFn fun l => [a, b, c, d].getD l 0
  withW fun w => { (((((w.setS 56 0xF).setV 20 0xF (v 0x4110_0000 0x40A0_0000 0x40A0_0000 0xFF80_0000)).setV 21 0xF
    (v 7 2 8 0xFFFF_FFFF)).setV 10 0xF (v 0x40A0_0000 0x7FC0_0000 0x4110_0000 0x8000_0000)).setV 11 0xF (v 4 11 7 3)) with
      hints := [.mod 4] }
theorem test_vtopk : after (.vtopk 0 20 10 0) lists (fun t => (List.range 4).map (fun l => ((t.w.v 20).at l).toNat)
      == [0x4110_0000, 0x4110_0000, 0x40A0_0000, 0x40A0_0000]
    && (List.range 4).map (fun l => ((t.w.v 21).at l).toNat) == [7, 7, 2, 4]) = true := by decide

/-- R220: the last arrival completes the phase. -/
theorem test_bar_arrive : after (.barArrive 0 2) (member 0 1) (fun t => (t.wg.barrier 2).ph == 8 && (t.wg.barrier 2).arr == 0) = true := by
  decide
/-- R300: a wait above its threshold parks the warp at the unit behind it. -/
theorem test_wait : after (.wait 1 2 0) (withW fun w => { w with counters := [(2, ⟨1, 0⟩)] })
    (fun t => t.w.park == .counter 2 0 && t.w.s 1 == 0) = true := by decide
/-- R409: `tret` outside a handler is privileged. -/
theorem test_tret_denied : after .tret (withW fun w => { w with tvec := 0x4000 }) (fun t => t.w.tcause == 0x0E && t.w.inh) = true := by
  decide
theorem test_tret : after .tret inHandler (fun t => t.w.pc == 0x3000 && ! t.w.inh) = true := by decide
/-- R408: without a handler the launch ends FAULTED. -/
theorem test_trap_faults : after (.trap 3) started (fun t => t.lc.ending == some 0x09) = true := by decide
/-- R248: the shape byte of a tile is kept, and its elements are 0. -/
theorem test_tcfg : after (.tcfg 3 1) (withW fun w => w.setS 1 0x83) (fun t => (t.w.tile 3).shape == 0x83) = true := by decide
/-- R128: a cycle passes. -/
theorem test_tick : after .tick State.reset (fun t => t.tick == 1) = true := by decide

/-! The vector pipes. -/

/-- A unit that names no queue. -/
theorem no_queue {xs : List Nat} {p : Nat → Prop} (h : queuesOf xs = []) : ∀ q ∈ queuesOf xs, p q := by
  rw [h]; exact fun q hq => absurd hq (by simp)

/-- Lanes 0 and 63 are active; s1 points at memory, v2 holds 16 times the lane and v3 an odd offset. -/
def ends : Mask := 0x8000_0000_0000_0001
def lanesAt (a : DWord) : State :=
  withW fun w => ((((w.setS 56 ends).setS 1 a).setV 2 (BitVec.allOnes 64) (Vec.ofFn fun l => BitVec.ofNat 32 (16 * l))).setV 3
    (BitVec.allOnes 64) (Vec.ofFn fun l => BitVec.ofNat 32 (16 * l + 1)))

/-- The same with a complete entry at the head of queue 1, and two repetitions four registers apart. -/
def queued : State := withW fun w => { w with q1 := [⟨0, some Vec.zero⟩, ⟨1, some Vec.zero⟩], hints := [.rep 4 1] }

theorem ready2 : started.VectorReady [3] [(1, 1)] [2, 119] :=
  vready (by decide)
theorem ready2_repeated : queued.VectorReady [3] [(115, 1)] [121, 127] :=
  vready (by decide)
theorem ready1 : started.VectorReady [3] [(1, 1)] [2] := vready (by decide)
theorem ready1_immediate : (hinted [.imm 7, .rep 1 3]).VectorReady [0, 3] [(100, 1)] [2] :=
  vready (by decide)
theorem ready0 : started.VectorReady [3] [(1, 1)] [] := vready (by decide)

theorem witness_LaneResults : started.VectorReady [3] [(1, 1)] [2, 119] ∧ started.VectorReady [3] [(1, 1)] [2]
    ∧ (hinted [.imm 7, .rep 1 3]).VectorReady (if (1 : BitVec 1) = 1 then [0, 3] else [3]) [(100, 1)] [2]
    ∧ started.VectorReady (if (0 : BitVec 1) = 1 then [0, 3] else [3]) [(1, 1)] [] ∧ queued.VectorReady [3] [(115, 1)] [121, 127] :=
  ⟨ready2, ready1, ready1_immediate, ready0, ready2_repeated⟩

/-- The rounding code of `fm`: 5 is RS, 6 is reserved. -/
def rounding (r : Nat) : State := withW fun w => w.setS 55 (BitVec.ofNat 64 (4096 * r))

theorem witness_FloatResults : (rounding 6).VectorReady [3] [(1, 1)] [2, 119] ∧ 6 ≤ (rounding 6).w.fm.toNat / 4096 % 8
    ∧ (rounding 5).VectorReady [3] [(1, 1)] [2] ∧ ¬ 6 ≤ (rounding 5).w.fm.toNat / 4096 % 8 :=
  ⟨vready (by decide), by decide,
    vready (by decide), by decide⟩

theorem witness_FloatSelections : (rounding 5).w.fm.toNat / 4096 % 8 < 6 ∧ (rounding 5).VectorReady [3] [(1, 1)] [2] :=
  ⟨by decide, vready (by decide)⟩

theorem witness_HalfResults : started.VectorReady [3] [(1, 1)] [2, 119] ∧ started.w.fm.toNat / 4096 % 8 < 6 := ⟨ready2, by decide⟩

theorem witness_MasksAndSelection : started.VectorReady [] [] [2, 119] ∧ (Instr.vcmp 7 1 2 119 2).wellFormed = true
    ∧ (Instr.vcmp 5 1 2 119 0).wellFormed = true ∧ started.VectorReady [] [(1, 1)] [2, 119] ∧ 63 < 64 :=
  ⟨vready (by decide), by decide, by decide,
    vready (by decide), by decide⟩

theorem witness_SpecialFunctions : started.VectorReady [3] [(1, 1)] [2] ∧ started.w.fm.toNat / 4096 % 8 < 6
    ∧ (rounding 6).VectorReady [3] [(1, 1)] [2] ∧ 6 ≤ (rounding 6).w.fm.toNat / 4096 % 8
    ∧ started.VectorReady [3] [(119, 1), (118, 2)] [] ∧ (rounding 6).VectorReady [3] [(119, 1), (118, 2)] [] :=
  ⟨ready1, by decide, vready (by decide), by decide, vready (by decide), vready (by decide)⟩

/-- The sine of 1.5 is one of the approximate results. -/
theorem witness_SpecialFunctions_approximate : (3 : Nat) ≠ 0
    ∧ specialRaw 5 (.fin false 3 (-1) false) false
      = (specialApprox 5 (word32 (.fin false 3 (-1) false)) false false 3 (-1), 0) := ⟨by decide, rfl⟩

theorem witness_CrossLaneResults : started.VectorReady [] [(1, 1)] [2] ∧ started.VectorReady [] [(1, 1), (118, 2)] []
    ∧ started.VectorReady [] [(118, 2)] [2] ∧ membersOf started.w.em ≠ []
    ∧ membersOf (withW fun w => w.setS 56 0).w.em = [] ∧ (withW fun w => w.setS 56 0).VectorReady [] [(1, 1)] [2] :=
  ⟨vready (by decide), vready (by decide),
    vready (by decide), by decide, by decide,
    vready (by decide)⟩

theorem witness_TopKMerges : (hinted [.mod 64]).accepts 7 [4] false ∧ (hinted [.mod 65]).accepts 7 [4] false
    ∧ (hinted [.mod 64]).regsOk [(2, 2), (118, 2)] [] = true
    ∧ (∀ r ∈ (hinted [.mod 64]).unitRegs [(2, 2), (118, 2)] [], (hinted [.mod 64]).pendingLanes r = false)
    ∧ ((hinted [.mod 65]).w.hintMod.getD 0).toNat = 65 ∧ (started.w.hintMod.getD 0).toNat = 0 :=
  ⟨accepted (by decide), accepted (by decide), by decide⟩

theorem witness_TopKMerges_order : (Fmt.decode .f32 false 0x8000_0000).isNan = false := by decide

theorem witness_Conversions : Fmt.ofCode 3 = some .e4m3 ∧ Fmt.ofCode 0 = some .f32
    ∧ started.VectorReady [3] ((1, 1) :: (sourcesOf 2 4).1) (sourcesOf 2 4).2
    ∧ Fmt.ofCode 8 = some .i4x ∧ started.VectorReady [3] ((1, 8) :: (sourcesOf 9 1).1) (sourcesOf 9 1).2
    ∧ (rounding 7).VectorReady [3] ((1, 1) :: (sourcesOf 2 1).1) (sourcesOf 2 1).2 ∧ 6 ≤ (rounding 7).w.fm.toNat / 4096 % 8 :=
  ⟨rfl, rfl, vready (by decide), rfl,
    vready (by decide), vready (by decide), by decide⟩

/-- The A format code of `fm`. -/
def formatA (a : Nat) : State := withW fun w => w.setS 55 (BitVec.ofNat 64 a)

theorem witness_QuantizedBlocks : (3 ≤ (formatA 3).w.fm.toNat % 16 ∧ (formatA 7).w.fm.toNat % 16 ≤ 7)
    ∧ (formatA 3).VectorReady [3] [(1, 1), (2, 5)] [] ∧ (formatA 7).VectorReady [3] [(1, 1), (2, 9)] []
    ∧ (formatA 8).VectorReady [3] [(1, 1)] [2] ∧ (formatA 8).w.fm.toNat % 16 ≤ 8 ∧ 7 < (formatA 8).w.fm.toNat % 16
    ∧ (formatA 8).VectorReady [3] [(1, 1), (2, 5)] [] ∧ (formatA 2).w.fm.toNat % 16 < 3 ∧ 8 < (formatA 9).w.fm.toNat % 16
    ∧ (formatA 9).VectorReady [3] [(1, 1)] [2] ∧ started.VectorReady [3] [(1, 4), (8, 8)] []
    ∧ started.VectorReady [3] [(8, 8), (16, 4)] [] ∧ (formatA 3).w.fm.toNat / 4096 % 8 < 6 :=
  ⟨by decide, vready (by decide), vready (by decide),
    vready (by decide), by decide, by decide,
    vready (by decide), by decide, by decide,
    vready (by decide), vready (by decide),
    vready (by decide), by decide⟩

/-! Memory. -/

/-- One location is served at once. -/
theorem plain_one {s : State} {ag : Agent} {k h : Nat} {va : DWord} {l : Loc} (p : plainAt s ag l h = true) :
    s.allPlain ag [(k, va, l)] := by
  intro x hx
  obtain rfl := List.mem_singleton.mp hx
  exact ⟨⟨h, (plain_of p).serves⟩, (plain_of p).intact⟩

theorem witness_AccessesReachMemory :
    (lanesAt 0x2000).allPlain ((lanesAt 0x2000).me none) [(0, 0x2000, there 0x2000)]
    ∧ (lanesAt 0x2000).allPlain ((lanesAt 0x2000).me none)
        ([((0x2000 : DWord), there 0x2000, [(1 : Byte)])].map fun w => (0, w.1, w.2.1)) :=
  ⟨plain_one (h := 0) (by decide), plain_one (h := 0) (by decide)⟩

theorem witness_VectorAccesses_load :
    let s := lanesAt 0x2000
    let as := s.laneAddrs 1 2 (s.actingLanes s.w.em)
    s.UnitReady [5] (2 :: (List.range (codeRegs 6)).map (116 + ·)) [2] ∧ s.destOk 116 (codeRegs 6) = true ∧ s.srcOk 2 = true
    ∧ s.mayIssue (linesOf as) ∧ as = [(0, 0x2000), (63, 0x23F0)] ∧ ∃ c, s.memCheck as (codeBytes 6) .read false = .ok c
      ∧ ∃ r, c.1.loadAll none (codeBytes 6) (located c.2) = .ok r ∧ (pagedOut c.2).isEmpty = true :=
  ⟨uready (by decide), by decide, by decide, issues (by decide), by decide, ok_ok (by decide)⟩

theorem witness_VectorAccesses_store :
    let s := lanesAt 0x2000
    let as := s.laneAddrs 1 2 (s.actingLanes (s.w.em &&& s.w.guard 0))
    s.UnitReady [5] (2 :: (List.range (codeRegs 6)).map (4 + ·)) [2, 4] ∧ s.srcOk 2 = true
    ∧ (if codeRegs 6 = 1 then s.srcOk 4 else s.destOk 4 (codeRegs 6)) = true ∧ s.mayIssue (linesOf as)
    ∧ ∃ c, s.memCheck as (codeBytes 6) .write false = .ok c
      ∧ ∃ t, c.1.storeAll none (c.1.doneRanges (s.laneAddrs 1 2 (s.doneLanes (s.w.em &&& s.w.guard 0))) (codeBytes 6))
          ((located c.2).map fun f => (f.1, f.2.1, f.2.2, List.replicate 16 0)) = .ok t ∧ (pagedOut c.2).isEmpty = true :=
  ⟨uready (by decide), by decide, by decide, ⟨by decide, by decide⟩, ok_ok (by decide)⟩

theorem witness_VectorAccesses_misaligned :
    let s := lanesAt 0x2000
    let as := s.laneAddrs 1 3 (s.actingLanes (s.w.em &&& s.w.guard 0))
    (6 : BitVec 3).toNat < 7 ∧ s.mayIssue (linesOf as)
    ∧ (as.find? fun y => y.2.toNat % codeBytes (2 : BitVec 3).toNat ≠ 0) = some (0, 0x2001)
    ∧ s.UnitReady [5] (3 :: (List.range (codeRegs 2)).map (4 + ·)) [3] :=
  ⟨by decide, ⟨by decide, by decide⟩, by decide, uready (by decide)⟩

theorem unit_queued : queued.UnitReady [3] [2] [121] where
  accepts := accepted (by decide)
  settled := by decide
  queued := by
    intro q hq
    have : q = 1 := by simpa [queuesOf] using hq
    subst this
    exact ⟨_, _, rfl, rfl⟩

theorem witness_SplitPhaseOperations_issue :
    let s := lanesAt 0x2000
    let as := s.laneAddrs 1 2 s.w.em
    s.srcOk 2 = true ∧ s.mayIssue (linesOf as) ∧ (s.w.counter 0).cnt ≠ BitVec.allOnes 16
    ∧ (as.all fun x => x.2.toNat % codeBytes 6 = 0) = true
    ∧ (∃ s1, State.locateIssue (codeBytes 6) .read as s = (s1, none, [], [(0, .at_ (there 0x2000)), (63, .at_ (there 0x23F0))]))
    ∧ s.UnitReady [5] (2 :: (List.range (codeRegs 6)).map (4 + ·)) [2] ∧ s.destOk 4 (codeRegs 6) = true
    ∧ s.UnitReady [5] [2] [2] ∧ (s.w.queue 3).length < 8
    ∧ 8 ≤ ((withW fun w => { w with q3 := List.replicate 8 ⟨0, none⟩ }).w.queue 3).length
    ∧ ((lanesAt 0x2000).w.setS 56 0).em = 0 :=
  ⟨by decide, ⟨by decide, by decide⟩, by decide, by decide, ⟨_, Prod.ext rfl (by decide)⟩,
    uready (by decide), by decide, uready (by decide), by decide⟩

/-- An outstanding split-phase load and a gather of lanes 0 and 63. -/
def aims : List (Nat × Aim) := [(0, .at_ (there 0x2000)), (63, .at_ (there 0x23F0))]
def loadOp : Op := ⟨3, Place.zero, 2, 0, 0, 0, .ldp 6 8 ends aims (0, 0), []⟩
def gathOp : Op := ⟨4, Place.zero, 2, 0, 0, 0, .gath 4 1 ends aims (0, 0), []⟩
def outstanding : State := { withW (fun w => { w with q1 := [⟨4, none⟩], counters := [(2, ⟨2, 0⟩)] }) with ops := [loadOp, gathOp] }

/-- Every home slice of LD0 is full. -/
def held33 (s : State) : State := (List.range 48).foldl (fun s c =>
  s.setCol 0 c { s.colOf 0 c with slice := { (s.colOf 0 c).slice with busy := 448 } }) s

theorem witness_SplitPhaseOperations_reply :
    let ag := outstanding.opAgent loadOp
    (outstanding.asyncRead ag aims (.at_ (there 0x23F0)) 16 (0, 0)).1.w = outstanding.w
    ∧ outstanding.waiting ag false (aimLocs [(0, .at_ (there 0x23F0))]) = []
    ∧ (held33 outstanding).waiting ag false (aimLocs [(0, .at_ (there 0x23F0))]) ≠ []
    ∧ outstanding.findOp loadOp.id = some loadOp ∧ loadOp.kind = .ldp 6 8 ends aims (0, 0) ∧ loadOp.place = outstanding.w.place
      ∧ outstanding.w.life ≠ .empty
    ∧ ends.getLsbD (1 : BitVec 6).toNat = false ∧ ends.getLsbD (63 : BitVec 6).toNat = true
    ∧ (aims.find? fun a => a.1 = 63) = some (63, .at_ (there 0x23F0)) ∧ ends &&& ~~~ ((1 : Mask) <<< 63) ≠ 0
    ∧ (1 : Mask) &&& ~~~ ((1 : Mask) <<< 0) = 0 := by decide

theorem witness_SplitPhaseOperations_gather : outstanding.findOp gathOp.id = some gathOp ∧ gathOp.place = outstanding.w.place
    ∧ gathOp.kind = .gath 4 (1 : BitVec 2).toNat ends aims (0, 0)
    ∧ (gatherReads (outstanding.opAgent gathOp) 4 (0, 0) aims aims outstanding).1.w = outstanding.w
    ∧ outstanding.waiting (outstanding.opAgent gathOp) false (aimLocs aims) = []
    ∧ (held33 outstanding).waiting (outstanding.opAgent gathOp) false (aimLocs aims) ≠ [] := by decide

/-- The register pair v4, v5 holds addresses of memory in lanes 0 and 63. -/
def addressing : State :=
  withW fun w => (w.setS 56 ends).setV 4 (BitVec.allOnes 64) (Vec.ofFn fun l => BitVec.ofNat 32 (0x2000 + 16 * l))

theorem witness_Atomics_lane :
    (lanesAt 0x2000).allPlain ((lanesAt 0x2000).me (some 5)) [(0, 0x2000, there 0x2000)] ∧ (5 : Nat) < 256 ^ 4
    ∧ (lanesAt 0x2000).allPlain ((lanesAt 0x2000).me none) [(0, 0x2000, there 0x2000)] ∧ (there 0x2000).pa % 8 = 0 :=
  ⟨plain_one (h := 0) (by decide), by decide, plain_one (h := 0) (by decide), by decide⟩

theorem witness_Atomics :
    let s := addressing
    let as := (membersOf (s.actingLanes (s.w.em &&& s.w.guard 0))).map fun k =>
      (k, BitVec.ofNat 64 (((s.w.v 4).at k).toNat + 2 ^ 32 * ((s.w.v 5).at k).toNat))
    s.UnitReady [5] ((List.range 2).map (4 + ·) ++ (List.range 4).map (8 + ·)) [] ∧ s.destOk 4 2 = true ∧ s.destOk 8 4 = true
    ∧ s.mayIssue (linesOf as) ∧ ∃ c, s.memCheckBy (pcieBad s.vxpkg.toNat 12) as 8 .rw false = .ok c
      ∧ ∃ r, atomSend 12 4 (fun k => (0, k)) (located c.2) c.1 = .ok r ∧ (pagedOut c.2).isEmpty = true :=
  ⟨uready (by decide), by decide, by decide, ⟨by decide, by decide⟩, ok_ok (by decide +kernel)⟩

/-- A block at 0x2000: its header and its entries. -/
def swapping (h : Nat) (es : List (Nat × Nat × Nat)) : State :=
  (pointing 0x2000).poke 0x2000 (bytesOf 8 h ++ es.flatMap fun e => bytesOf 8 e.1 ++ bytesOf 8 e.2.1 ++ bytesOf 8 e.2.2)

theorem witness_CompareAndSwapMany : (swapping 1 []).accepts 22 [] false ∧ (swapping 1 []).mayIssue 1
    ∧ ¬ ((0 : BitVec 4) ≠ 0 ∧ ((55 : BitVec 6) = 55 ∨ (55 : BitVec 6) = 56)) ∧ ((pointing 0x2004).w.s 1).toNat % 8 ≠ 0
    ∧ ((swapping 1 []).w.s 1).toNat % 8 = 0
    ∧ (∃ c, casmRead (swapping 2 []) 0x2000 = .ok c ∧ c.2 % 256 ≠ (0 : BitVec 4).toNat + 1)
    ∧ (∃ c, casmRead (swapping 513 []) 0x2000 = .ok c ∧ c.2 % 256 = 1 ∧ 512 ≤ c.2) :=
  ⟨accepted (by decide), ⟨by decide, by decide⟩, by decide, by decide, by decide, ok_of (by decide), ok_of (by decide)⟩

/-- One page of the running warp's address space, 0x8000 to 0x8FFF, named by s1 and s2. -/
def claiming (len : DWord) : State := withW fun w => (w.setS 1 0x8000).setS 2 len

/-- A stall whose first stage maps 0x8000 to arena page 3, which lies in LD1, with one free frame on LD0's stack or none. -/
def arenaPage (room : BitVec 32) : State :=
  let s := { claiming 0x1000 with vxarena := 0x50000, vxarenan := 8, tlb := [] }
  let s1 := (((s.poke 0 (bytesOf 8 (9 * 2 ^ 60 + 0x10))).poke 0x10000 (bytesOf 8 (0x11 * 2 ^ 10 + 1))).poke 0x11000
    (bytesOf 8 (0x12 * 2 ^ 10 + 1))).poke 0x12000 (bytesOf 8 (0x13 * 2 ^ 10 + 1))
  let s2 := (s1.poke 0x13040 (bytesOf 8 (3 * 2 ^ 10 + 0x1DF))).poke 0x50018 (bytesOf 8 (2 ^ 63 + 0x400_0000))
  (s2.poke 0x60000 (bytesOf 8 0x777)).setLd 0 { s2.ldOf 0 with vxpool := 0x60000, vxpooltop := room, vxpoolcap := 8 }
    |>.setLd 1 { s2.ldOf 1 with vxpool := 0x40_0006_0000, vxpooltop := 0, vxpoolcap := 8 }

/-- The block of two entries at b leads to translations with a property. -/
def blockMeets (s : State) (b : DWord) (h : Nat)
    (p : List (DWord × Nat × Nat) → State × List (DWord × Except XFault Loc) → Bool) : Prop :=
  ∃ c, casmRead s b = .ok c ∧ ∃ e, casmEntries b 2 0 c.1 = .ok e ∧ c.2 = h ∧ p e.2 (casmXlate .rw (e.2.map Prod.fst) e.1) = true

def aligned (es : List (DWord × Nat × Nat)) : Bool := es.all fun e => e.1.toNat % 8 = 0
def fails (p : XFault → Bool) (x : DWord × Except XFault Loc) : Bool := match x.2 with | .ok _ => false | .error e => p e
def mapped (xs : List (DWord × Except XFault Loc)) : Bool := ! xs.any (fails fun _ => true)
def inMem (t : State) (xs : List (DWord × Except XFault Loc)) : Bool := (locsOf xs).all t.inPackage

/-- The stall's tables map 0x8000 alone, and its handle 0 is the memory of stall 1, from address 0 up: it holds a block. -/
def pageBlock (es : List (Nat × Nat × Nat)) : State :=
  let s := ((arenaPage 1).poke 24 (bytesOf 8 0x7_0001)).poke 0x7_0000 (bytesOf 8 (2 ^ 63 + 2 ^ 62 + 2 ^ 50 + 16))
  (s.poke 64 loadRecord).poke 0x2000 (bytesOf 8 2 ++ es.flatMap fun e => bytesOf 8 e.1 ++ bytesOf 8 e.2.1 ++ bytesOf 8 e.2.2)

/-- Handle 0 of the stall is memory of LD1, whose base die is in reset. -/
def farBlock (es : List (Nat × Nat × Nat)) : State :=
  let s := ((swapping 2 es).poke 24 (bytesOf 8 0x7_0001)).poke 0x7_0000 (bytesOf 8 (2 ^ 63 + 2 ^ 62 + 2 ^ 60 + 16))
  s.setLd 1 { s.ldOf 1 with baseReset := true }

theorem witness_CompareAndSwapMany_stops :
    blockMeets (swapping 2 [(0x3000, 5, 9), (0x3004, 6, 8)]) 0x2000 2
      (fun es _ => (es.map fun e => decide (e.1.toNat % 8 = 0)) = [true, false])
    ∧ blockMeets (swapping 2 [(0x3000, 5, 9), (0x3F_F000_0000, 6, 8)]) 0x2000 2
        (fun es x => aligned es && x.2.any (fails fun e => e = .access))
    ∧ blockMeets (pageBlock [(0x7000_0000_3000, 5, 9), (0xA000, 6, 8)]) 0x7000_0000_2000 2
        (fun es x => aligned es && ! x.2.any (fails fun e => e = .access || e = .peerFail)
          && x.2.any (fails fun e => match e with | .page .. => true | _ => false)) :=
  ⟨ok_ok (by decide +kernel), ok_ok (by decide +kernel), ok_ok (by decide +kernel)⟩

theorem witness_CompareAndSwapMany_statuses :
    blockMeets (swapping 2 [(0x3000, 5, 9), (0x100_0000_0000, 6, 8)]) 0x2000 2
        (fun es x => aligned es && mapped x.2 && ! inMem x.1 x.2)
    ∧ blockMeets (swapping 2 [(0x3000, 5, 9), (0x3000, 6, 8)]) 0x2000 2
        (fun es x => aligned es && mapped x.2 && inMem x.1 x.2 && decide ¬ ((locsOf x.2).map Loc.pa).Nodup)
    ∧ blockMeets (farBlock [(0x3000, 5, 9), (0x7000_0000_0000, 6, 8)]) 0x2000 2
        (fun es x => aligned es && ! x.2.any (fails fun e => e ≠ .peerDown) && inMem x.1 x.2 && decide ((locsOf x.2).length ≠ 2)) :=
  ⟨ok_ok (by decide +kernel), ok_ok (by decide +kernel), ok_ok (by decide +kernel)⟩

/-- Both entries are served at once, and so are the expected fields of a block with RETOLD. -/
theorem witness_CompareAndSwapMany_runs :
    let served := fun (es : List (DWord × Nat × Nat)) (x : State × List (DWord × Except XFault Loc)) =>
      aligned es && mapped x.2 && inMem x.1 x.2 && decide ((locsOf x.2).map Loc.pa).Nodup
        && ((locsOf x.2).all fun l => plainAt x.1 (x.1.me (some 5)) l 0 && decide (l.pa % 8 = 0))
    blockMeets (swapping 2 [(0x3000, 5, 9), (0x3008, 0, 8)]) 0x2000 2 served
    ∧ blockMeets (swapping 258 [(0x3000, 5, 9), (0x3008, 0, 8)]) 0x2000 258 (fun es x => served es x &&
        let f := casmXlate .write ((List.range 2).map fun i => 0x2000 + BitVec.ofNat 64 (16 + 24 * i)) x.1
        mapped f.2 && (locsOf f.2).all fun l => plainAt f.1 (f.1.me none) l 0 && decide (l.pa % 8 = 0)) :=
  ⟨ok_ok (by decide +kernel), ok_ok (by decide +kernel)⟩

/-! Claims, buffers, the matrix engine, tiles and copies. -/

theorem witness_ClaimMovesPages : (claiming 0x1000).accepts 22 [] false ∧ ((claiming 0x1001).w.s 2).toNat % 4096 ≠ 0
    ∧ ((claiming 0x1000).w.s 1).toNat % 4096 = 0
    ∧ (∃ c, claimPages [0x8000] (claiming 0x1000) = .ok c ∧ none ∈ c.2)
    ∧ (∃ c, claimPages [] (claiming 0) = .ok c ∧ none ∉ c.2 ∧ c.1 = claiming 0)
    ∧ (claiming 0).claimLeaf 0x8000 = none ∧ (claiming 0).heldTraining = false ∧ (claiming 0).strongHeld = false
    ∧ (claiming 0).moveWaits 0 [] = false ∧ (claiming 0).claimRoom 0 [] = true ∧ (claiming 0).claimRoom 0 [7] = false ∧ (claiming 0).quiet (claiming 0).w = true
    ∧ (claiming 0).ownHeld = [] ∧ (claiming 0).moving [] = false :=
  ⟨accepted (by decide), by decide, by decide, ok_of (by decide), ok_of (by decide), by decide⟩

theorem witness_ClaimMovesPages_far :
    ((arenaPage 1).claimLeaf 0x8000).map Found.size = some 4096
    ∧ (∃ c, claimPages [0x8000] (arenaPage 1) = .ok c ∧ (c.2 = [some 3] ∧ c.1.arenaFrame 3 / 2 ^ 38 = 1
      ∧ c.1.claimRoom 0 [3] = true ∧ c.1.moving [3] = false ∧ c.1.moveWaits 0 [3] = false ∧ c.1.heldTraining = false)
      ∧ (arenaPage 1).quiet (arenaPage 1).w = true)
    ∧ ∃ c, claimPages [0x8000] (arenaPage 0) = .ok c ∧ c.2 = [some 3] ∧ c.1.claimRoom 0 [3] = false :=
  ⟨by decide +kernel, ok_of (by decide +kernel), ok_of (by decide +kernel)⟩

/-- Lanes 0 and 63 with buffer offsets in v2 and odd ones in v3. -/
theorem witness_BufferAccesses :
    let s := lanesAt 0
    let off := fun a : Nat => (membersOf s.w.em).map fun k => (k, ((s.w.src a 0).at k).toNat)
    s.UnitReady [] (2 :: (List.range 4).map (4 + ·)) [2] ∧ s.UnitReady [] (2 :: (List.range 4).map (4 + ·)) [2, 4]
    ∧ s.destOk 4 4 = true ∧ s.srcOk 2 = true
    ∧ ((off 3).find? fun o => o.2 % 16 ≠ 0) = some (0, 1) ∧ ((off 2).all fun o => o.2 % 16 = 0) = true
    ∧ ((off 2).all fun o => decide (o.2 + 16 ≤ s.wg.len 0)) = true
    ∧ ((off 2).find? fun o => ! decide (o.2 + 16 ≤ ({ loadGroup with alen := 1008 } : Group).len 0)) = some (63, 1008)
    ∧ ((off 2).all fun o => o.2 % 16 = 0 && decide (o.2 + 16 ≤ s.wg.len 1)) = true :=
  ⟨uready (by decide), uready (by decide), by decide⟩

theorem witness_BufferAccesses_atomics :
    let s := lanesAt 0
    (((membersOf s.w.em).map fun k => (k, ((s.w.src 2 0).at k).toNat)).all fun o =>
      o.2 % 8 = 0 && decide (o.2 + 8 ≤ s.wg.len 1)) = true ∧ s.srcOk 2 = true
    ∧ s.UnitReady [] (2 :: (List.range 4).map (8 + ·)) [2] ∧ s.destOk 8 4 = true :=
  ⟨by decide, by decide, uready (by decide), by decide⟩

/-- A matrix instruction over bf16 operands and f32 tile 2 of 8 rows: the offset in s1, and the active lanes. -/
def multiplying (em : Mask) (o : DWord) : State :=
  withW fun w => { ((w.setS 55 0x011).setS 56 em).setS 1 o with tiles := [(2, ⟨0x13, []⟩)], hints := [.kv 32] }

/-- A tile fits a matrix instruction, by evaluation. -/
theorem tile_meets {s : State} {c : BitVec 4} {n : Nat}
    (h : (decide ((s.w.tile c.toNat).shape ≠ 0 ∧ (s.w.tile c.toNat).cols = 32 ∧ (s.w.tile c.toNat).bits = n)
      && (List.range 64).all fun l => ! s.w.em.getLsbD l || decide (l < (s.w.tile c.toNat).rows)) = true) : s.tileMeets c n := by
  simp only [Bool.and_eq_true, decide_eq_true_eq, List.all_eq_true, List.mem_range, Bool.or_eq_true, Bool.not_eq_true'] at h
  exact ⟨h.1.1, h.1.2.1, h.1.2.2, fun l hl he => (h.2 l hl).resolve_left (by simp [he])⟩

theorem witness_MatrixPosting : (multiplying 0x81 256).accepts 22 [7] false ∧ (multiplying 0x81 256).tileMeets 2 32
    ∧ passShape (withW fun w => w.setS 55 0x010).w.fm = none
    ∧ (∃ p, passShape (multiplying 0x81 256).w.fm = some p ∧ (p.c = .f32 ∧ p.k = 32 ∧ 8 + (16 + p.scaleRegs) ≤ 120
        ∧ 256 + p.bytes ≤ (multiplying 0x81 256).wg.wlen ∧ (multiplying 0x81 524032).wg.wlen < 524032 + p.bytes
        ∧ (multiplying 0x81 256).vregs = 120))
    ∧ ((multiplying 0x81 256).w.hintKv.map BitVec.toNat).getD 0 = 32
    ∧ (∀ k < 17, (multiplying 0x81 256).pendingLanes (8 + k) = false) ∧ (multiplying 0 0).w.em = 0 ∧ (multiplying 0x81 256).w.em ≠ 0
    ∧ ((multiplying 0x81 255).w.s 1).toNat % 256 ≠ 0 ∧ ((multiplying 0x81 256).w.s 1).toNat % 256 = 0
    ∧ ((multiplying 0x81 256).w.counter 2).cnt ≠ BitVec.allOnes 16 ∧ (multiplying 0x81 256).tableLoad < 32 :=
  ⟨accepted (by decide), tile_meets (by decide), by decide, some_of (by decide), by decide⟩

theorem witness_MatrixPosting_search : (hinted [.mod 8]).accepts 4 [4] false ∧ (hinted [.mod 9]).accepts 4 [4] false
    ∧ (multiplying 0x81 0).tileMeets 2 Fmt.f32.width
    ∧ (withW fun w => { w with hints := [.mod 8], tiles := [(2, ⟨0x83, []⟩)] }).tileMeets 2 Fmt.f32.width
    ∧ ((hinted [.mod 8]).w.hintMod.getD 0).toNat = 8
    ∧ ((hinted [.mod 9]).w.hintMod.getD 0).toNat = 9
    ∧ (104 : BitVec 7).toNat + 16 ≤ started.vregs ∧ fmC started.w.fm ≤ 2 ∧ (multiplying 0x81 0).passes (some 2) = false
    ∧ (∀ i < 16, started.pendingLanes (104 + i) = false) :=
  ⟨accepted (by decide), accepted (by decide), tile_meets (by decide), tile_meets (by decide), by decide⟩

/-- A posted matrix operation of lanes 0 and 7, alone, behind an entry that it may join, and with its entry's rows written. -/
def mxOp (left : Mask) (inTable : Bool) : Op := ⟨5, Place.zero, 2, 0, 0, 0, .matrix 0 2 256 32 0x011 0x81 left [] 0 0 inTable, []⟩
def mxEntry (granted : Bool) : MxEntry := ⟨Place.zero, 0, 2, 256, 32, 0x011, [(1, 0xFF00, [])], 0, 0, granted, 0⟩
def tabled (es : List MxEntry) (o : Op) (c : Int) : State :=
  let s := { started with ops := [o] }
  s.setCluster ⟨0, 0, 0⟩ { s.clusterOf ⟨0, 0, 0⟩ with entries := es, c := c }

theorem witness_MatrixTable : (tabled [] (mxOp 0x81 false) 64).findOp 5 = some (mxOp 0x81 false)
    ∧ (tabled [] (mxOp 0x81 false) 64).olderPosted (mxOp 0x81 false) = false
    ∧ (tabled [mxEntry false] (mxOp 0x81 false) 64).findOp 5 = some (mxOp 0x81 false)
    ∧ ((((tabled [mxEntry false] (mxOp 0x81 false) 64).clusterOf ⟨0, 0, 0⟩).entries.filter fun e =>
        e.place = Place.zero ∧ e.tile = 2).getLast? = some (mxEntry false)) ∧ (mxEntry false).granted = false
    ∧ (∀ j ∈ octets 0x81, j ∉ (mxEntry false).octets)
    ∧ (tabled [mxEntry true] (mxOp 0x81 false) 64).selectEntry ⟨0, 0, 0⟩ = none
    ∧ (tabled [mxEntry false] (mxOp 0x81 false) 63).selectEntry ⟨0, 0, 0⟩ = some (mxEntry false)
    ∧ ((tabled [mxEntry false] (mxOp 0x81 false) 63).clusterOf ⟨0, 0, 0⟩).c < 64
    ∧ 64 ≤ ((tabled [mxEntry false] (mxOp 0x81 false) 64).clusterOf ⟨0, 0, 0⟩).c
    ∧ (tabled [] (mxOp 0 true) 0).findOp 5 = some (mxOp 0 true) ∧ (mxOp 0 true).place = (tabled [] (mxOp 0 true) 0).w.place
    ∧ (tabled [] (mxOp 0 true) 0).w.life ≠ .empty := by decide

theorem witness_MatrixTable_full :
    32 ≤ ((tabled (List.replicate 32 { mxEntry false with tile := 3 }) (mxOp 0x81 false) 64).clusterOf ⟨0, 0, 0⟩).entries.length
    ∧ (((tabled (List.replicate 32 { mxEntry false with tile := 3 }) (mxOp 0x81 false) 64).clusterOf ⟨0, 0, 0⟩).entries.filter fun e =>
        e.place = Place.zero ∧ e.tile = 2) = [] := by decide

/-- s1 holds x, and tile 2 has 8 rows of 32 columns of 32 bits. -/
def tiled (x : DWord) (em : Mask) : State := withW fun w => { (w.setS 56 em).setS 1 x with tiles := [(2, ⟨0x13, []⟩)] }

theorem witness_TileElements : (tiled 7 3).accepts 22 [] false ∧ (tiled 7 3).UnitReady [] [4] [4] ∧ (tiled 7 3).passes (some 2) = false
    ∧ (tiled 7 3).kernel.tiles ≤ (15 : BitVec 4).toNat + 1 ∧ (2 : BitVec 4).toNat < (tiled 0x13 3).kernel.tiles
    ∧ (1 ≤ 0x13 / 16 ∧ 0x13 / 16 ≤ 8 ∧ 8 * (0x13 / 16) * (8 * (0x13 % 8 + 1)) * 32 / 8 ≤ 8192) ∧ ¬ 1 ≤ 0x0F / 16
    ∧ ((tiled 7 3).w.tile 3).shape = 0 ∧ ((tiled 7 3).w.tile 2).shape ≠ 0 ∧ (tiled 7 3).destOk 4 1 = true
    ∧ (tiled 7 3).pendingLanes 4 = false ∧ (tiled 7 0).w.em = 0 ∧ (tiled 7 3).w.em ≠ 0
    ∧ ((tiled 8 3).w.tile 2).rows ≤ ((tiled 8 3).w.s 1).toNat ∧ ((tiled 7 3).w.s 1).toNat < ((tiled 7 3).w.tile 2).rows
    ∧ ((tiled 32 3).w.tile 2).cols ≤ ((tiled 32 3).w.s 1).toNat ∧ ((tiled 31 3).w.s 1).toNat < ((tiled 31 3).w.tile 2).cols
    ∧ (tiled 7 3).srcOk 4 = true := ⟨accepted (by decide), uready (by decide), by decide⟩

theorem witness_TileElements_noTile :
    ({ started with lc := { loadLaunch with kernel := some { loadKernel with tiles := 2 } } } : State).kernel.tiles
      ≤ (2 : BitVec 4).toNat := by
  decide

/-- The row parts of lanes 0 and 1 of `tld` and `tst`, and the lines of `tsave` and `tload`. -/
theorem witness_TileMemory_rows :
    let s := tiled 0x2000 1
    let partsOf := fun m : Mask => ((membersOf m).filter (· < (s.w.tile 2).rows)).flatMap fun k =>
      (List.range ((s.w.tile 2).rowBytes / 16)).map fun i =>
        (k, s.w.s 1 + ((s.w.src 4 0).at k).zeroExtend 64 + BitVec.ofNat 64 (16 * i))
    let now := partsOf (s.actingLanes s.w.em)
    s.passes (some 2) = false ∧ (s.w.tile 2).shape ≠ 0 ∧ s.srcOk 4 = true ∧ s.w.em ≠ 0 ∧ s.mayIssue (linesOf now)
    ∧ (∃ c, s.memCheck now 16 .read false = .ok c ∧ ∃ r, c.1.loadAll none 16 (located c.2) = .ok r ∧ (pagedOut c.2).isEmpty = true)
    ∧ ∃ c, s.memCheck now 16 .write false = .ok c ∧ ∃ t, c.1.storeAll none (c.1.doneRanges (partsOf (s.doneLanes s.w.em)) 16)
        ((located c.2).map fun f => (f.1, f.2.1, f.2.2, List.replicate 16 0)) = .ok t ∧ (pagedOut c.2).isEmpty = true :=
  ⟨by decide, by decide, by decide, by decide, ⟨by decide, by decide⟩, ok_ok (by decide +kernel), ok_ok (by decide +kernel)⟩

theorem witness_TileMemory_image :
    let s := tiled 0x2000 1
    let lines := (List.range ((s.w.tile 2).rows * (s.w.tile 2).rowBytes / 64)).map fun i => (i, s.w.s 1 + BitVec.ofNat 64 (64 * i))
    s.accepts 22 [] false ∧ ((tiled 0x2020 1).w.s 1).toNat % 64 ≠ 0 ∧ (s.w.s 1).toNat % 64 = 0
    ∧ s.mayIssue ((s.w.tile 2).rows * (s.w.tile 2).rowBytes / 64)
    ∧ (∃ c, s.memCheck lines 64 .write false = .ok c ∧ ∃ t, c.1.storeAll none [] ((located c.2).map fun f =>
        (f.1, f.2.1, f.2.2, List.replicate 64 0)) = .ok t ∧ (pagedOut c.2).isEmpty = true)
    ∧ ∃ c, s.memCheck lines 64 .read false = .ok c ∧ ∃ r, c.1.loadAll none 64 (located c.2) = .ok r ∧ (pagedOut c.2).isEmpty = true :=
  ⟨accepted (by decide), by decide, by decide, ⟨by decide, by decide⟩, ok_ok (by decide +kernel), ok_ok (by decide +kernel)⟩

theorem witness_Copies_issue : started.copyLoad < 48 ∧ (started.w.counter 15).cnt ≠ BitVec.allOnes 16 ∧ started.accepts 22 [] false
    ∧ (hinted [.mod 5]).accepts 22 [4] false := ⟨by decide, by decide, accepted (by decide), accepted (by decide)⟩

/-- Outstanding copies: one of 64 bytes between memory lines, one into the A buffer, a multicast store and a load-reduce. -/
def copyOp (k : OpKind) : Op := ⟨6, Place.zero, 2, 0, 0, 0, k, []⟩
def copying (k : OpKind) : State := { started with ops := [copyOp k] }
def copyKind : OpKind := .copy 0 0x3000 0x2000 64 0
def multiKind (store : Bool) : OpKind := .multi store 0x3000 0x2000 64 (0x1_0000_0000 + 0)

/-- The same with writes of the copy at port 33, which trains. -/
def portCopy (d : DWord) : State :=
  let s := copying (.copy 0 d 0x2000 64 0)
  s.setPort 33 { s.portOf 33 with state := .training }
def posted (held : List HeldWrite) : State :=
  let s := copying (.posted false)
  s.setPort 33 { s.portOf 33 with state := .training, held := held }

theorem witness_Copies_complete :
    let end_ := fun (k : OpKind) (x : Xfer) => (x.s.w = (copying k).w ∧ x.wait = false) ∧ x.s.heldBy (fun o => o = .op 6) = []
    let part := Xfer.readParts (linesFrom 0x2000 64) { s := started, op := 6 }
    (copying copyKind).findOp 6 = some (copyOp copyKind) ∧ (copyOp copyKind).place = (copying copyKind).w.place
    ∧ (copying copyKind).w.life ≠ .empty ∧ end_ copyKind (runCopy 6 0 0x3000 0x2000 64 0 (copying copyKind))
    ∧ end_ (multiKind true) (runMst 6 0x3000 0x2000 64 0x1_0000_0000 (copying (multiKind true)))
    ∧ part.1.failed = false ∧ part.2.length = 64 := by decide +kernel

theorem witness_Copies_waits :
    let x := runCopy 6 0 0x200_0000_0000 0x2000 64 0 (portCopy 0x200_0000_0000)
    let y := runCopy 6 0 0x2000 0x200_0000_0000 64 0 (portCopy 0x2000)
    (x.s.w = (portCopy 0x200_0000_0000).w ∧ x.wait = false ∧ x.s.heldBy (fun o => o = .op 6) ≠ [])
    ∧ (y.s.w = (portCopy 0x2000).w ∧ y.wait = true)
    ∧ (posted [⟨0, .op 6, 0, there 0x200_0000_0000, [], none, none⟩]).heldBy (fun o => o = .op 6) ≠ [] ∧ (posted []).heldBy (fun o => o = .op 6) = [] := by
  decide +kernel

/-- The same when handle 0 of the stall is its own memory from address 0 up (R352). -/
def peering : State :=
  ((copying (multiKind false)).poke 24 (bytesOf 8 0x7_0001)).poke 0x7_0000 (bytesOf 8 (2 ^ 63 + 2 ^ 62 + 16))

theorem witness_Copies_reduce :
    let dst := (parts 64 256 0x3000).map fun p => (p, 64)
    let read := fun s : State => Xfer.members 0x1_0000_0000 0x2000 128 (groupMembers 0x1_0000_0000) { s := s, op := 6 }
    let m := read peering
    let p := Xfer.place dst m.1
    let y := Xfer.writeParts none p.2 (mlrBytes 64 m.2) 0 p.1
    let far := read (copying (multiKind false))
    let q := (Xfer.place dst far.1).1
    peering.findOp 6 = some (copyOp (multiKind false)) ∧ (copyOp (multiKind false)).place = peering.w.place ∧ peering.w.life ≠ .empty
    ∧ m.1.err = 0 ∧ p.1.failed = false ∧ y.wait = false ∧ y.s.w = peering.w ∧ p.1.wait = false ∧ p.1.s.w = peering.w ∧ y.s.heldBy (fun o => o = .op 6) = []
    ∧ far.1.err ≠ 0 ∧ q.wait = false ∧ q.s.w = (copying (multiKind false)).w ∧ q.s.heldBy (fun o => o = .op 6) = [] := by
  decide +kernel

/-! Events of the device. -/

/-- The results of a pair whose second part can be an error. -/
def ends_with {σ ε α : Type} (x : σ × Except ε α) (bad : ε → Bool) (good : α → Bool) : Bool :=
  match x.2 with | .ok a => good a | .error e => bad e

theorem error_of {σ α : Type} {x : σ × Except Bool α} {b : Bool} (h : ends_with x (fun e => e == b) (fun _ => false) = true) :
    ∃ s, x = (s, .error b) := by
  obtain ⟨s, r⟩ := x
  cases r with
  | ok a => cases h
  | error e => exact ⟨s, by rw [show e = b from by simpa [ends_with] using h]⟩

theorem pair_of {σ ε α : Type} {x : σ × Except ε α} {p : α → Prop} [DecidablePred p]
    (h : ends_with x (fun _ => false) (fun a => decide (p a)) = true) : ∃ s a, x = (s, .ok a) ∧ p a := by
  obtain ⟨s, r⟩ := x
  cases r with
  | ok a => exact ⟨s, a, rfl, of_decide_eq_true h⟩
  | error e => cases h

theorem flag_of {σ : Type} {x : σ × Bool} {b : Bool} (h : x.2 = b) : ∃ s, x = (s, b) := ⟨x.1, by rw [← h]⟩

/-- Stall 7 has written one record, whose second doubleword is n; queue 0 of LD0 is enabled for `owner`, and `behind` launches of
it wait. -/
def handing (n : DWord) (en : Bool) (owner : BitVec 10) (behind : Nat) : State :=
  let s := started.setQueueOf 0 0 { started.queueOf 0 0 with en := en, owner := owner }
  let t := s.setLd 0 { s.ldOf 0 with handed := [⟨[0x4000, n, 0, 0, 0, 0, 0, 0x5000], 7, 5⟩] }
  { t with launches := List.replicate behind loadLaunch }

theorem witness_LaunchesAreRead_record : (started.ldOf 0).handed = []
    ∧ ((handing 1 true 7 0).ldOf 0).handed = ⟨[0x4000, 1, 0, 0, 0, 0, 0, 0x5000], 7, 5⟩ :: []
    ∧ ((handing 1 false 7 0).queueOf 0 0).en = false ∧ ((handing 1 true 6 0).queueOf 0 0).owner ≠ 7
    ∧ ((handing 1 true 7 0).queueOf 0 0).en = true ∧ ((handing 1 true 7 0).queueOf 0 0).owner = 7
    ∧ 32 ≤ ((handing 1 true 7 31).allLaunches.countP fun l => l.ld = 0 ∧ l.record.queue = 0)
    ∧ ((handing 1 true 7 30).allLaunches.countP fun l => l.ld = 0 ∧ l.record.queue = 0) < 32
    ∧ ((0x0001_0000_0000_0001 : DWord)).toNat / 2 ^ 48 ≠ 0
    ∧ ((handing 0x0001_0000_0000_0001 true 7 0).ldOf 0).handed ≠ []
    ∧ ¬ ((1 : DWord).toNat / 2 ^ 48 ≠ 0 ∨ (0 : DWord).toNat / 2 ^ 41 ≠ 0 ∨ (0x4000 : DWord).toNat % 256 ≠ 0
        ∨ (0x5000 : DWord).toNat % 8 ≠ 0) := by decide +kernel

/-- The launch at the head of queue 0 names a kernel object whose first doubleword, and the range of its first variant, are
these; its queue has one save block, or none. -/
def heading (kobj d0 low : Nat) (blocks : BitVec 16) : State :=
  let s := started.setQueueOf 0 0 { started.queueOf 0 0 with nblk := blocks, save := 0x0014_0000_0000_0000 }
  let t := (((s.poke 0x4000 (bytesOf 8 d0)).poke 0x4008 (bytesOf 8 0x0008_0101)).poke 0x4040 (bytesOf 8 0x100)).poke 0x4080
    (bytesOf 8 low ++ bytesOf 8 low)
  { t with lc := { Launch.none with record := { Record.zero with kobj := BitVec.ofNat 64 kobj, n := 1 }, order := 4 } }

def headed (kobj : Nat) : Launch :=
  { Launch.none with record := { Record.zero with kobj := BitVec.ofNat 64 kobj, n := 1 }, order := 4 }

theorem witness_LaunchesAreRead_head : State.reset.headOf 0 0 = none
    ∧ (heading 0x4000 0x10001 0 1).headOf 0 0 = some (headed 0x4000) ∧ (headed 0x4000).record.n ≠ 0
    ∧ (headed 0x4000).kernel = none ∧ (headed 0x4000).ending = none := by decide +kernel

theorem witness_LaunchesAreRead_stops :
    (∃ s1, State.readFors 0 0 0 32 0x100_0000_0000 (heading 0x100_0000_0000 0 0 1) = (s1, .error true))
    ∧ (∃ s1, State.readFors 0 0 0 32 0x8000_0000_0000 (heading 0x8000_0000_0000 0 0 1) = (s1, .error false))
    ∧ (∃ s1 w, State.readFors 0 0 0 32 0x4000 (heading 0x4000 0x10002 0 1) = (s1, .ok w) ∧ badObject w = true)
    ∧ (∃ s1 w, State.readFors 0 0 0 32 0x4000 (heading 0x4000 0x10101 1 1) = (s1, .ok w)
        ∧ (badObject w = false ∧ variants w ≠ 0 ∧ variantFor w 0 = none)) :=
  ⟨error_of (by decide +kernel), error_of (by decide +kernel), pair_of (by decide +kernel), pair_of (by decide +kernel)⟩

theorem witness_LaunchesAreRead_runs :
    (∃ s1 w, State.readFors 0 0 0 32 0x4000 (heading 0x4000 0x10001 0 0) = (s1, .ok w)
        ∧ (badObject w = false ∧ variants w = 0 ∧ neverFits (kernelOf 0x4000 w) ((heading 0x4000 0x10001 0 0).queueOf 0 0) = true))
    ∧ ∃ s1 w, State.readFors 0 0 0 32 0x4000 (heading 0x4000 0x10001 0 1) = (s1, .ok w)
        ∧ (badObject w = false ∧ variants w = 0 ∧ neverFits (kernelOf 0x4000 w) ((heading 0x4000 0x10001 0 1).queueOf 0 0) = false) :=
  ⟨pair_of (by decide +kernel), pair_of (by decide +kernel)⟩

/-- One launch of a kernel of one warp of 8 registers; its queue has a save block at `base` and this handler, and its one workgroup, if
`saved`, waits in the block. -/
def small : Kernel := ⟨0x10_0000, 1, [0x100], 0, 8, 1, 1, 0, 0, 0⟩
def current (drained : Bool) : Launch :=
  { Launch.none with record := { Record.zero with n := 1 }, order := 4, kernel := some small, drainSeen := drained }
def savedGroup : Group := { Group.none with saved := true, warps := 1 }
def placing (base tvec : Nat) (saved : Bool) : State :=
  let s := (started.setQueueOf 0 0 { started.queueOf 0 0 with
    nblk := 1, save := BitVec.ofNat 64 (20 * 2 ^ 48 + base), tvec := BitVec.ofNat 48 tvec }).poke 0x3_0008 (bytesOf 8 1)
  { s with w := Warp.fresh Place.zero, wg := if saved then savedGroup else Group.none, lc := current saved }

theorem witness_GangsArePlaced_new : (State.reset.observeDrain 0).work 0 = []
    ∧ ((placing 0x3_0000 0 false).observeDrain 0).nextWork 0 = some (.fresh (current false), 0, [0])
    ∧ (current false).kernel = some small := by decide +kernel

theorem witness_GangsArePlaced_restored :
    (placing 0x3_0000 0 true).nextWork 0 = some (.restore (current true) 0, 0, [0])
    ∧ ((placing 0x3_0000 0 true).queueOf 0 0).tvec = 0
    ∧ (placing 0x3_0000 0x4000 true).nextWork 0 = some (.restore (current true) 0, 0, [0])
    ∧ (placing 0x8000_0000_0000 0x4000 true).nextWork 0 = some (.restore (current true) 0, 0, [0])
    ∧ ((placing 0x3_0000 0x4000 true).queueOf 0 0).tvec ≠ 0 := by decide +kernel

theorem witness_GangsArePlaced_read :
    (∃ s1, State.restoreGroups (current true) small ((placing 0x8000_0000_0000 0x4000 true).queueOf 0 0) 0
      (((placing 0x8000_0000_0000 0x4000 true).gangGroups (current true) 0).zip [0]) (placing 0x8000_0000_0000 0x4000 true)
        = (s1, .error false))
    ∧ ∃ s1 u, State.restoreGroups (current true) small ((placing 0x3_0000 0x4000 true).queueOf 0 0) 0
      (((placing 0x3_0000 0x4000 true).gangGroups (current true) 0).zip [0]) (placing 0x3_0000 0x4000 true) = (s1, .ok u)
        ∧ u = () :=
  ⟨error_of (by decide +kernel), pair_of (by decide +kernel)⟩

/-- The launch at the head of queue 0 holds a core; another of its priority waits in queue 1 for one of 16 warps of a core. -/
def waiting : Launch :=
  { Launch.none with
    record := { Record.zero with n := 1, queue := 1 }, order := 8, kernel := some { small with vregs := 120, tiles := 32 } }
def contending (slice tvec : Nat) : State :=
  let s := started.setQueueOf 0 0 { started.queueOf 0 0 with slice := BitVec.ofNat 16 slice, tvec := BitVec.ofNat 48 tvec }
  let t := s.setQueueOf 0 1 { s.queueOf 0 1 with nblk := 1, save := 0x0014_0000_0003_0000 }
  { t with launches := [waiting] }

theorem witness_QueueControl : State.reset.headOf 0 0 = none ∧ started.headOf 0 0 = some loadLaunch
    ∧ ((contending 0 0x4000).queueOf 0 0).slice = 0 ∧ (contending 5 0x4000).headOf 0 0 = some loadLaunch
    ∧ waiting ∈ (contending 5 0x4000).allLaunches ∧ waiting.ld = 0 ∧ waiting.order ≠ loadLaunch.order
    ∧ loadLaunch.record.prio.toNat ≤ waiting.record.prio.toNat ∧ (contending 5 0x4000).waitsUnfit waiting = true
    ∧ (contending 5 0x4000).resident loadLaunch = true ∧ ((contending 5 0x4000).queueOf 0 0).slice ≠ 0
    ∧ (contending 5 0x4000).hasHandler loadLaunch = true ∧ loadLaunch.ending = none
    ∧ (∀ m ∈ started.allLaunches, m.ld ≠ 0 ∨ m.record.queue ≠ 3) ∧ (∃ m ∈ started.allLaunches, m.ld = 0 ∧ m.record.queue = 0) := by
  decide

/-- A warp with one report, with a handler or in it. -/
def reporting (inh : Bool) : State := withW fun w => { w with reports := [⟨0x0C, 1, 3⟩], tvec := 0x4000, inh := inh }
/-- A workgroup whose warp has vacated, or retired, and whose save block lies at `base`. -/
def vacating (life : Life) (base : Nat) : State :=
  let s := placing base 0x4000 false
  { s with w := { loadWarp (Warp.fresh Place.zero) with life := life }, wg := { Group.none with warps := 1 } }
def vacatedGroup : Group := { Group.none with warps := 1 }

theorem witness_PreemptionAndSave_traps : (reporting true).w.inh = true ∧ (reporting false).w.inh = false
    ∧ (reporting false).w.tvec ≠ 0 ∧ (reporting false).w.reports = ⟨0x0C, 1, 3⟩ :: [] ∧ started.w.reports = []
    ∧ (reporting false).w.life = .run ∧ (reporting false).w.fence = none ∧ (reporting false).w.hints = []
    ∧ (reporting false).w.badHint = none ∧ (reporting false).w.park = .none ∧ (reporting true).w.life = .run
    ∧ (reporting false).w.arrived = false ∧ (reporting false).ownHeld = []
    ∧ (withW fun w => { w with life := .retired }).w.life = .retired := by decide +kernel

theorem witness_PreemptionAndSave_blocks :
    ((vacating .vacating 0x3_0000).allGroups.find? fun h => h.key = vacatedGroup.key) = some vacatedGroup
    ∧ (vacating .run 0x3_0000).vacated vacatedGroup = false ∧ (vacating .vacating 0x3_0000).vacated vacatedGroup = true
    ∧ (vacating .vacating 0x8000_0000_0000).vacated vacatedGroup = true
    ∧ (vacating .vacating 0x3_0000).launchOf vacatedGroup = some (current false)
    ∧ (vacating .vacating 0x8000_0000_0000).launchOf vacatedGroup = some (current false) := by decide +kernel

/-- Every module of edge 0 retrains, and the save block lies in memory of LD1 that a handle names. -/
def linkless : State :=
  let s := ((vacating .vacating 0x7000_0000_0000).poke 24 (bytesOf 8 0x7_0001)).poke 0x7_0000
    (bytesOf 8 (2 ^ 63 + 2 ^ 62 + 2 ^ 60 + 16) ++ bytesOf 8 0x40_0003_0000)
  let t := s.setLd 1 { s.ldOf 1 with stalltab := 0x40_0000_0000 }
  { t.poke 0x40_0000_0000 (bytesOf 16 0 ++ bytesOf 8 (0x40_0002_0000 + 6) ++ bytesOf 8 0 ++ bytesOf 8 1) with
    modules := (List.range 96).map fun m => (m, { Module.reset with retraining := true }) }

/-- Whichever module carries a line over that edge, it retrains. -/
theorem linkless_waits (s : State) (h : s.modules = linkless.modules) (line : Nat) : s.linkWaits 0 1 line = true := by
  have up : ((List.range 96).filter fun m => ¬ (s.modules.any fun x => x.1 = moduleKey 0 m ∧ x.2.out)) = List.range 96 := by
    rw [h]; decide +kernel
  have any : (s.modules.any fun x => x.2.retraining) = true := by rw [h]; decide +kernel
  have all : ∀ m ∈ List.range 96, (s.modules.any fun x => decide (x.1 = moduleKey 0 m ∧ x.2.retraining)) = true := by
    rw [h]; decide +kernel
  have hm : Config.moduleHash 0 line % 96 < 96 := Nat.mod_lt _ (by decide)
  have hr : route 0 1 = [0] := by decide
  simp only [State.linkWaits, any, hr, State.carrier, up, List.length_range, List.any_cons, List.any_nil, Bool.true_and, Bool.or_false]
  rw [List.getElem?_eq_getElem (by simpa using hm)]
  simpa using all _ (by simpa using hm)

theorem linkless_put (v : Nat) (r : List (Nat × Nat)) (x : State × Except XFault Loc)
    (hx : (match x with
      | (t, .ok l) => decide (t.modules = linkless.modules ∧ t.unreachable 0 1 = false ∧ paKind t.vxpkg.toNat l.pa = .mem 1
          ∧ t.locOk l.pa 8 false = true)
      | _ => false) = true)
    (ht : linkless.translate ⟨0, 0, 8, 0⟩ (0x7000_0000_0000 + BitVec.ofNat 64 0x100) .write = x) :
    ∃ s1, State.putFors 0 0 0 0x7000_0000_0000 ((0x100, v) :: r) linkless = (s1, .error true) := by
  rcases x with ⟨t, _ | l⟩
  · cases hx
  · obtain ⟨hm, hu, hk, ho⟩ := of_decide_eq_true hx
    have hw : t.writeLoc (Agent.device 0) l (bytesOf 8 v) false = (t, .error .link) := by
      simp only [State.writeLoc, hk, State.reach, Agent.device, hu, linkless_waits t hm, Bool.false_eq_true, if_false, if_true]
    have hl : (bytesOf 8 v).length = 8 := by simp [bytesOf]
    exact ⟨t, by simp only [State.putFors, State.putFor, ht, hl, ho, hw, if_true]⟩

theorem witness_PreemptionAndSave_saves :
    let put := fun s : State => State.putFors 0 0 (s.queueOf 0 0).owner.toNat (blockAddr (s.queueOf 0 0) 0) (s.saveWords vacatedGroup) s
    (∃ s1, put (vacating .vacating 0x8000_0000_0000) = (s1, .error false))
    ∧ ∃ s1 u, put (vacating .vacating 0x3_0000) = (s1, .ok u) ∧ u = () :=
  ⟨error_of (by decide +kernel), pair_of (by decide +kernel)⟩

theorem witness_PreemptionAndSave_waits : linkless.vacated vacatedGroup = true ∧ linkless.launchOf vacatedGroup = some (current false)
    ∧ ∃ s1, State.putFors 0 0 (linkless.queueOf 0 0).owner.toNat (blockAddr (linkless.queueOf 0 0) 0)
      (linkless.saveWords vacatedGroup) linkless = (s1, .error true) := by
  have ho : (linkless.queueOf 0 0).owner.toNat = 0 := by decide +kernel
  have hb : blockAddr (linkless.queueOf 0 0) 0 = 0x7000_0000_0000 := by decide +kernel
  have hs : (linkless.saveWords vacatedGroup).head?.map Prod.fst = some 0x100 := by decide +kernel
  refine ⟨by decide +kernel, by decide +kernel, ?_⟩
  rw [ho, hb]
  revert hs
  rcases linkless.saveWords vacatedGroup with _ | ⟨⟨o, v⟩, r⟩
  · exact fun hs => nomatch hs
  · intro hs
    obtain rfl : o = 0x100 := by simpa using hs
    exact linkless_put v r _ (by decide +kernel) rfl

/-- Eight bytes, and a whole line. -/
def octet : List Byte := bytesOf 8 0x77
def whole : List Byte := bytesOf 64 0x77
/-- The launch line 0 of column 5 of LD0. -/
def launchAddr : Nat := 0x1F_FFF0_1400
/-- The hart of column 5, and of column 7, of LD0. -/
def hart5 : HartId := ⟨0, 5⟩
def hart7 : HartId := ⟨0, 7⟩

theorem plain : started.PlainLine (Agent.hart hart5) (started.hartLoc hart5 0x2000) 0 := plain_of (by decide)

/-- Hart 7 owns lines of memory and has written into one; the line of a launch it only owns. -/
def holding (pa : Nat) (dirty : Cells Byte) : State := { started with hartLines := [⟨hart7, pa / 64, true, dirty⟩] }

theorem witness_HomeEvents_stores : started.PlainLine (Agent.hart hart5) (started.hartLoc hart5 0x2000) 0
    ∧ started.PlainLine ⟨(0 : BitVec 2).toNat, .device, some (.slice 0 0), some 3, 0⟩ (homeLoc 0 0x2000) 0
    ∧ started.hartUp ⟨0, 48⟩ = false ∧ started.hartUp hart5 = true ∧ octet.length = 8 ∧ 0x2000 % 64 + whole.length ≤ 64
      ∧ whole ≠ [] ∧ 0x2000 % 8 = 0 ∧ (started.hartLines.countP fun x => x.hart = hart5) < 17408 :=
  ⟨plain, plain_of (by decide), by decide⟩

theorem witness_HomeEvents_caches :
    let s := holding 0x2000 [(0x2000, 1)]
    s.hartUp hart7 = true ∧ s.online 0x2000 = true ∧ (s.ldOf 0).baseReset = false ∧ paKind s.vxpkg.toNat 0x2000 = .mem 0
    ∧ launchLine (64 * (0x2000 / 64)) = none
    ∧ s.hartLines = ⟨hart7, 0x2000 / 64, true, [(0x2000, 1)]⟩ :: s.hartLines.filter fun x => ! decide (x.line = 0x2000 / 64)
    ∧ s.unreachable hart7.ld.toNat 0 = false := by decide

theorem witness_HomeEvents_launches :
    started.PlainLine (Agent.hart hart7) (started.hartLoc hart7 (64 * (launchAddr / 64))) 0
    ∧ launchLine (64 * (launchAddr / 64)) = some (0, 5) ∧ (started.ldOf 0).day = true
    ∧ (started.ldOf 0).homes.getLsbD 5 = true ∧ (started.colOf 0 5).hartLost = false ∧ started.hartUp hart7 = true :=
  ⟨plain_of (by decide), by decide⟩

/-- One channel of LD0 has failed, and another has met four alerts. -/
def alerted : State := started.setLd 0 { started.ldOf 0 with channels := [(3, (4, false)), (9, (5, true))] }
/-- The slice of column 4 of LD0 is full, or its queue holds the ticket of port 2. -/
def queueing (busy : Nat) (tickets : List Ticket) : State :=
  let c := started.colOf 0 4
  started.setCol 0 4 { c with slice := { c.slice with busy := busy, tickets := tickets } }

theorem witness_HomeEvents_reads : started.PlainLine ⟨portLd 3, .device, some (.link 3), some 6, 0⟩ (homeLoc 0 0x2000) 0
    ∧ started.w.place = Place.zero ∧ started.w.life ≠ .empty ∧ started.PlainLine (started.me none) (homeLoc 0 0x2000) 0
    ∧ (started.addErrors 0x2000 [(0, 1)]).crcFails 0x80 = true ∧ (started.addErrors 0x2000 [(0, 1)]).badBytes 0x80 0 ≤ 4
    ∧ (started.addErrors 0x2000 [(0, 1)]).badBytes 0x80 1 ≤ 4
    ∧ (let u := started.addErrors 0x2000 [(0, 1), (2, 1), (4, 1), (6, 1), (8, 1)]
       u.crcFails 0x80 = true ∧ 4 < u.badBytes 0x80 0) :=
  ⟨plain_of (by decide), by decide, by decide, plain_of (by decide), by decide +kernel⟩

theorem witness_HomeEvents_lines :
    let s := holding 0x2000 [(0x2000, 1)]
    s.hartUp hart5 = true ∧ s.homeOf 0x2000 = some 0 ∧ s.reach (Agent.hart hart5) 0 0x80 = .ok () ∧ s.bad 0x80 = false
    ∧ (∀ f ∈ s.flips, f.1 / 64 ≠ 0x80) ∧ (∀ x ∈ s.hartLines, x.hart = hart5 → x.line = 0x80 → x.owned = false) :=
  ⟨by decide, by decide, rfl, by decide⟩

theorem witness_HomeEvents_tickets : (started.ldOf 0).baseReset = false ∧ (started.colOf 0 4).hartLost = false
    ∧ (started.ldOf 0).homes.getLsbD 4 = true ∧ ((queueing 3 [⟨7, .outside (.link 2) 5⟩]).colOf 0 4).slice.tickets = [⟨7, .outside (.link 2) 5⟩]
    ∧ ((queueing 447 []).colOf 0 4).slice.busy < 448 ∧ 448 ≤ ((queueing 448 []).colOf 0 4).slice.busy
    ∧ ((alerted.ldOf 0).channels.get (0, false) 9).2 = true ∧ ((alerted.ldOf 0).channels.get (0, false) 3).2 = false
    ∧ 5 ≤ ((alerted.ldOf 0).channels.get (0, false) 3).1 + 1 := by decide

def faultInfo (n : Option (BitVec 16)) : FaultInfo := ⟨n, .read, 1, 0x9000, 0, 0, none⟩
/-- A warp that waits at a page fault, its entry held for the ring of stall 0 or posted there with a number. -/
def faulting (n : Option (BitVec 16)) (hold : Bool) : State :=
  let s := withW fun w => { w with park := .fault (faultInfo n), tvec := 0x4000 }
  s.setLd 0 { s.ldOf 0 with heldFaults := if hold then [⟨Place.zero, 0⟩] else [] }

/-- The same warp beside an unset table of stalls. -/
def ringless : State := withW (fun w => { w with tvec := 0x4000 }) |>.poke 32 [0]

theorem witness_PageFaults_parks : ringless.stallRec 0 (ringless.stallOf ringless.w) = none ∧ ringless.w.inh = false
    ∧ ringless.w.tvec ≠ 0 ∧ (∃ r, started.stallRec 0 (started.stallOf started.w) = some r
      ∧ (started.online (r.2.2.1 / 4096 % 2 ^ 44 * 4096) = true ∧ started.bad (r.2.2.1 / 4096 % 2 ^ 44 * 64) = false)) :=
  ⟨by decide, by decide, by decide, some_of (by decide)⟩

theorem witness_PageFaults_ring : started.hartLines = [] ∧ started.ring 0 0 = some (0x2_0000, 6) ∧ started.postable 0 = none
    ∧ ((faulting none true).ldOf 0).heldFaults = [⟨(faulting none true).w.place, 0⟩] ∧ (faulting none true).ringRoom 0 0 = true
    ∧ (faulting none true).w.life ≠ .empty ∧ (faulting none true).w.park = .fault (faultInfo none)
    ∧ (faulting none true).hartLines = [] ∧ (faulting none true).ring 0 0 = some (0x2_0000, 6)
    ∧ (started.ldOf 0).heldFaults = [] := by decide

/-- Every line of the ring is online and without error. -/
theorem witness_PageFaults_lines : ∀ x, 0x2_0000 ≤ x → x < 0x2_0000 + 64 + 32 * 2 ^ 6 →
    (faulting none true).bad (x / 64) = false ∧ (faulting none true).online x = true := by
  intro x h1 h2
  have h : ∀ k ∈ List.range 33, (faulting none true).bad (0x800 + k) = false := by decide +kernel
  refine ⟨?_, ?_⟩
  · have := h (x / 64 - 0x800) (List.mem_range.mpr (by omega))
    rwa [show 0x800 + (x / 64 - 0x800) = x / 64 by omega] at this
  · have e : x / 2 ^ 38 = 0 ∧ x % 2 ^ 38 / 2 ^ 30 = 0 := by omega
    unfold State.online
    rw [e.1, e.2]
    have hp : (faulting none true).phase = .daylight := by decide
    have hr : ((faulting none true).rgn 0 0).getLsbD 2 = true := by decide
    simp [hp, hr]

theorem witness_PageFaults_commands : (faulting (some 4) false).w.place.ld = 0 ∧ (faulting (some 4) false).w.life ≠ .empty
    ∧ (faulting (some 4) false).stallOf (faulting (some 4) false).w = 0
    ∧ (faulting (some 4) false).w.park = .fault (faultInfo (some 4)) ∧ (faultInfo (some 4)).fnum = some 4
    ∧ (faulting (some 4) false).w.inh = false ∧ (faulting (some 4) false).w.tvec ≠ 0
    ∧ (faulting (some 4) false).hartLines = [] ∧ (faulting (some 4) false).ring 0 0 = some (0x2_0000, 6)
    ∧ (faulting (some 4) false).w.preempt = false
    ∧ ∀ w ∈ (faulting (some 4) false).allWarps, w.place ≠ ⟨0, 1, 0, 0⟩ := by decide

/-- A write of RESUME leaves the record of stall 0 as it is. -/
theorem witness_PageFaults_drops (m : List Byte) : (started.poke (0x2_0000 + 16) m).ring 0 0 = some (0x2_0000, 6) := by
  have hp : (started.poke (0x2_0000 + 16) m).peek 0 40 = started.peek 0 40 := by
    unfold State.peek
    congr 1
    apply List.map_congr_left
    intro i hi
    have := List.mem_range.mp hi
    exact State.byteAt_poke_ne started m (.inl (by omega))
  have ha : (started.poke (0x2_0000 + 16) m).recordAt 0 0 = some 0 := (by decide : started.recordAt 0 0 = some 0)
  have hb : started.recordAt 0 0 = some 0 := by decide
  have e : (started.poke (0x2_0000 + 16) m).stallRec 0 0 = started.stallRec 0 0 := by
    simp only [State.stallRec, ha, hb, Option.bind_some]
    exact congrArg (recordOk 0) hp
  unfold State.ring
  rw [e]
  exact (by decide : started.ring 0 0 = some (0x2_0000, 6))

theorem witness_Translation : ringless.stallRec 0 0 = none ∧ inPeer 0x7000_0000_0000 = true
    ∧ (∃ r, started.stallRec 0 0 = some r ∧ (r.1 / 2 ^ 60 % 16 = 0 ∧ r.2.1 / 2 ^ 60 % 16 = 0)) ∧ inPeer 0x2000 = false
    ∧ started.tlb = [] ∧ started.walkWords = [] ∧ started.hartLines = []
    ∧ (0x3F_FFFF_F000 : DWord).toNat / 2 ^ 38 = started.w.place.ld.toNat ∧ started.hartUp hart5 = true
    ∧ started.hartUp ⟨0, 48⟩ = false :=
  ⟨by decide, by decide, some_of (by decide), by decide⟩

/-- Port n in a state, with one write held. -/
def porting (n : Nat) (st : PortState) : State := started.setPort n ⟨st, 0, [⟨0, .device, 0, there 0x100_0000_0000, octet, none, none⟩]⟩
def portless (n : Nat) (st : PortState) : State := started.setPort n ⟨st, 0, []⟩

theorem witness_PortsAndEdges_requests : ((portless 3 .down).portOf 3).state ≠ .up ∧ ((porting 3 .up).portOf 3).state = .up
    ∧ (porting 3 .up).PlainLine (Agent.inbound 3) (homeLoc 0 0x2000) 0 ∧ 0x2000 % 64 + 64 ≤ 64
    ∧ 0x2000 % 64 + (bytesOf 63 5).length ≤ 64 ∧ bytesOf 63 5 ≠ [] ∧ (bytesOf 63 5).length ≠ 8 ∧ (bytesOf 63 5).length < 64
    ∧ 0x2000 % 4 = 0 :=
  ⟨by decide, by decide, plain_of (by decide), by decide⟩

theorem witness_PortsAndEdges_states : ((porting 33 .training).portOf 33).state = .training
    ∧ ((portless 33 .training).portOf 33).held = [] ∧ ((porting 33 .up).portOf 33).state ≠ .training
    ∧ ({ started with vxualen := 0 } : State).vxualen.getLsbD 18 = false ∧ started.vxualen.getLsbD 19 = true := by decide

/-- Module 95 of edge 3 with these replays behind it. -/
def replaying (n : Nat) (m : Module) : State := started.setModule (96 * 3 + 95) { m with replays := List.replicate n 0 }
def recents (s : State) : List Nat :=
  ((s.moduleOf (96 * 3 + 95)).replays.filter fun t => s.tick.toNat < t + 1000 * Config.cyclesPerUs) ++ [s.tick.toNat]

theorem witness_PortsAndEdges_modules :
    let of := fun s : State => s.moduleOf (96 * edgeNo .e13 + (95 : BitVec 7).toNat)
    (of (replaying 0 { Module.reset with out := true })).out = true ∧ (of (replaying 15 Module.reset)).out = false
    ∧ (of (replaying 15 Module.reset)).retraining = false ∧ (of (replaying 15 Module.reset)).replaying = false
    ∧ (recents (replaying 15 Module.reset)).length ≤ 16 ∧ 16 < (recents (replaying 16 Module.reset)).length
    ∧ (of (replaying 16 Module.reset)).out = false ∧ (of (replaying 0 { Module.reset with retraining := true })).retraining = true
    ∧ (of (replaying 0 { Module.reset with retraining := true })).out = false := by decide

/-- The cluster of the running warp with this power state, rate and count of replays; its column at this level. -/
def powered (g : Gate) (rate : BitVec 2) (n : Nat) (level : BitVec 2) : State :=
  let s := started.setCluster ⟨0, 0, 0⟩ { started.clusterOf ⟨0, 0, 0⟩ with gate := g, rate := rate, replays := List.replicate n 0 }
  s.setCol 0 0 { s.colOf 0 0 with level := level }

/-- The same without warps, 50 µs on. -/
def resting : State := { powered .on 1 0 0 with w := Warp.fresh Place.zero, tick := 80000 }

theorem witness_PowerEvents_clusters : ((powered .gated 1 0 0).clusterOf ⟨0, 0, 0⟩).gate ≠ .on
    ∧ ((powered .on 1 0 0).clusterOf ⟨0, 0, 0⟩).gate = .on ∧ ((powered .on 1 0 0).clusterOf ⟨0, 0, 0⟩).entries = []
    ∧ resting.clusterIdle ⟨0, 0, 0⟩ = true ∧ (resting.clusterOf ⟨0, 0, 0⟩).gate = .on
    ∧ (resting.clusterOf ⟨0, 0, 0⟩).idle + 50 * Config.cyclesPerUs ≤ resting.tick.toNat
    ∧ started.clusterIdle ⟨0, 0, 0⟩ = false ∧ ((powered .waking 1 0 0).clusterOf ⟨0, 0, 0⟩).gate = .waking
    ∧ ((powered .waking 1 0 0).ldOf 0).wakes = [] ∧ ((powered .on 2 256 0).clusterOf ⟨0, 0, 0⟩).rate = 2
    ∧ ((powered .on 2 256 0).clusterOf ⟨0, 0, 0⟩).gate = .on ∧ ((powered .on 1 0 0).clusterOf ⟨0, 0, 0⟩).rate ≠ 2 := by decide

/-- Governor levels: up at 88 °C, not at 87; down from 1 below 85 °C. -/
theorem witness_PowerEvents_levels : nextLevel 0 0 88 0 = 1 ∧ nextLevel 0 0 87 3600 = 0 ∧ nextLevel 0 0 20 3601 = 1
    ∧ nextLevel 1 0 84 3600 = 0 ∧ nextLevel 1 0 85 3600 = 1 ∧ nextLevel 3 0 101 0 = 3 ∧ nextLevel 3 0 100 0 = 2
    ∧ nextLevel 1 2 20 0 = 2 ∧ ((powered .on 1 0 3).colOf 0 0).level.toNat = 3 ∧ (powered .on 1 0 3).w.life ≠ .empty
    ∧ (powered .on 1 0 3).w.place.ld = 0 ∧ (powered .on 1 0 3).w.place.col = 0 := by decide

theorem witness_PowerEvents_writes : HartMode.u ≠ .m ∧ HartMode.u ≠ .hs ∧ started.hartUp ⟨0, 47⟩ = true
    ∧ started.hartUp ⟨0, 48⟩ = false := by decide

/-- LD1 has lost a compute die, LD2 its base die, and LD3 the base-die part of column 7. -/
def failing : State :=
  let s := (started.setLd 1 { started.ldOf 1 with dieReset := 2 }).setLd 2 { started.ldOf 2 with baseReset := true }
  let t := s.setCol 3 7 { s.colOf 3 7 with hartLost := true, coresLost := true }
  t.setLd 3 { t.ldOf 3 with cols := (t.ldOf 3).cols &&& ~~~ (1 <<< 7 : BitVec 48) }

theorem witness_StallEndsAndFailures : (∀ e ∈ (started.ldOf 0).endings, e.1 ≠ 5) ∧ (5 : BitVec 10) ≠ 0
    ∧ (started.queueOf 0 63).owner = 0 ∧ (failing.ldOf 1).dieReset.getLsbD 1 = true ∧ (failing.ldOf 1).dieReset.getLsbD 0 = false
    ∧ (failing.ldOf 2).baseReset = true ∧ (failing.ldOf 1).baseReset = false ∧ (failing.colOf 3 7).coresLost = true
    ∧ (failing.ldOf 3).cols.getLsbD 7 = false ∧ (failing.ldOf 3).cols.getLsbD 47 = true ∧ (failing.ldOf 3).homes.getLsbD 48 = false
    ∧ (failing.colOf 3 7).hartLost = true ∧ (failing.colOf 3 6).hartLost = false ∧ (failing.ldOf 3).homes.getLsbD 6 = true := by decide

/-- What a start finds: an accepted copy of an image and a rejected one, and the step that does not end. -/
def good : ImageCopy := ⟨1, 2, true, true, 7⟩
def bad : ImageCopy := ⟨1, 2, true, true, 6⟩
def beginning (images : List ImageCopy) (stop : Option Nat) : StartInput := ⟨⟨1, 2, 7⟩, images, stop, [], [], (100, 200, 300)⟩
/-- A start whose step k has ended, at this count of TICK. -/
def starting (k tick : Nat) (stop : Option Nat) : State :=
  { match execFirstLight (beginning [good] stop) started with | .next t => t | _ => started with phase := .starting k, tick := BitVec.ofNat 64 tick }

theorem witness_StartAndControlRegisters_steps : firstStop (beginning [good] (some 5)) = some 5
    ∧ firstStop (beginning [good] (some 6)) = some 6 ∧ (starting 5 99 none).phase = .starting 5
    ∧ (starting 5 99 none).start = some (beginning [good] none) ∧ (starting 5 99 none).tick.toNat < (beginning [good] none).ends.1
    ∧ (beginning [good] none).ends.2.2 ≤ (starting 7 300 none).tick.toNat ∧ (starting 7 300 none).phase = .starting 7
    ∧ firstStop (beginning [good] (some 8)) = some (7 + 1)
    ∧ (starting 7 300 (some 8)).start = some (beginning [good] (some 8)) := by decide +kernel

/-- Region 5 of LD0 is offline with a changed mode. -/
def offline : State :=
  started.setLd 0 { started.ldOf 0 with rgnctl := [(5, 1)], modeChanged := [(5, true)] }

theorem witness_StartAndControlRegisters_start : firstStop (beginning [good, bad] none) = none
    ∧ firstStop (beginning [bad, bad] (some 3)) = some 1 ∧ (portless 32 .up).phase = .daylight
    ∧ ((portless 32 .up).portOf 32).state = .up ∧ (started.portOf 32).state ≠ .up
    ∧ (divided.w.life = .run ∧ divided.w.park = .none ∧ divided.w.inh = false ∧ divided.w.dh < divided.w.depth) := by decide

theorem witness_StartAndControlRegisters_registers : (239 : BitVec 8).toNat < 240 ∧ 240 ≤ (240 : BitVec 8).toNat
    ∧ 2 ≤ (6 : BitVec 64).toNat % 4 ∧ (5 : BitVec 64).toNat % 4 < 2 ∧ (offline.ldOf 0).pairRetired (5 % 32) = false
    ∧ (offline.rgn 0 5).getLsbD 2 = false ∧ (5 : BitVec 64).getLsbD 2 = true ∧ (offline.ldOf 0).modeChanged.get false 5 = true
    ∧ (started.rgn 0 239).getLsbD 2 = true ∧ HartMode.vu ≠ .m ∧ HartMode.vu ≠ .hs ∧ started.hartUp ⟨3, 0⟩ = true
    ∧ started.pkgFixed = false := by decide

theorem witness_EncodedWordsDecode : (Instr.vcvt 1 0 127 1 3).wellFormed = true ∧ (encode (.vcvt 1 0 127 1 3)).isSome = true := by decide

/-- The next word is `addi`, or a hint; and an event that is due. -/
theorem fetched (w : Nat) (h : w = 0 ∨ w = 0b000010_0000_010001_010110_0000011011) :
    let s := State.reset.withFetchWord 32 w
    s.sel = true ∧ s.w.arrived = false ∧ ∃ s1, s.xlate (s.w.pc.zeroExtend 64) .exec = (s1, .ok (there 0x10_0000))
      ∧ s1.Serves (s1.me none) (there 0x10_0000) 0 ∧ s1.Intact 0x10_0000 := by
  have go : ∀ s : State, s.Reaches (s.w.pc.zeroExtend 64) .exec 4 (s.xlate (s.w.pc.zeroExtend 64) .exec).1 (there 0x10_0000) →
      plainAt (s.xlate (s.w.pc.zeroExtend 64) .exec).1 ((s.xlate (s.w.pc.zeroExtend 64) .exec).1.me none) (there 0x10_0000) 0 = true →
      ∃ s1, s.xlate (s.w.pc.zeroExtend 64) .exec = (s1, .ok (there 0x10_0000)) ∧ s1.Serves (s1.me none) (there 0x10_0000) 0
        ∧ s1.Intact 0x10_0000 := fun s hr hp => ⟨_, hr.maps, (plain_of hp).serves, hr.intact⟩
  rcases h with rfl | rfl <;> exact ⟨by decide, by decide, go _ (reached (h := 0) (by decide)) (by decide)⟩

theorem witness_StepRunsDecoded_words :
    (decode (wordOf (started.byteAt 0x10_0000) (started.byteAt 0x10_0001) (started.byteAt 0x10_0002) (started.byteAt 0x10_0003))
      = .ok (.hintImm 0)) ∧ (∃ t, exec (.hintImm 0) started = .next t ∧ unitGoesOn started t = true)
    ∧ (∃ t, exec (.addi 17 22 27) started = .next t ∧ unitGoesOn started t = false ∧ notIssued started t = false)
    ∧ ∃ t, exec (.wait 0 1 63) (withW fun w => { w with counters := [(1, ⟨64, 0⟩)] }) = .next t :=
  ⟨rfl, ⟨_, rfl, by decide⟩, ⟨_, rfl, by decide, by decide⟩, ⟨_, rfl⟩⟩

theorem witness_StepRunsDecoded_events : ({ State.reset with agenda := [(0, .tick)] } : State).sel = false
    ∧ Instr.tick.isWord = false ∧ State.reset.phase = .daylight ∧ ∀ x ∈ [((0 : Nat), Instr.tick)], x.2.isWord = false := by decide

theorem witness_MemoryStaysCanonical : Memory.wf started.mem = true ∧ ∃ t, step started = .next t := ⟨by decide, _, rfl⟩

theorem witness_ResetValues : (47 : BitVec 6).toNat < 48 := by decide

theorem witness_Frames : (Instr.add 1 2 3) ∈ (srForms 1 2 3).map Prod.fst ∧ (Instr.popc 1 2) ∈ (srForms1 1 2).map Prod.fst
    ∧ (Instr.li 1 3) ∈ (siForms 1 2 3).map Prod.fst ∧ started.accepts 22 [] false ∧ started.accepts 22 [0, 1] false
    ∧ started.VectorReady [3] [((1 : BitVec 7).toNat, 1)] [(2 : BitVec 7).toNat, (119 : BitVec 7).toNat]
    ∧ (Instr.vxor 1 2 119) ∈ (viForms 1 2 119).map Prod.fst ∧ (Instr.vfadd 1 2 119) ∈ (vfForms 1 2 119).map Prod.fst
    ∧ started.w.fm.toNat / 4096 % 8 < 6 ∧ (pointing 0x2000).accepts 22 [0, 5] false
    ∧ ∃ s1, (pointing 0x2000).Reaches ((pointing 0x2000).w.s 1 + (pointing 0x2000).w.imm 6 0 * BitVec.ofNat 64 8) .write 8 s1
        (there 0x2000) :=
  ⟨by decide, by decide, by decide, accepted (by decide), accepted (by decide), ready2, by decide, by decide, by decide,
    accepted (by decide), reaches_write⟩

/-- The units of the last statement: `vtopk` of 64 places, a `casm` of one entry, swaps, pops and the image of an empty stack. -/
theorem witness_UnitsComplete : (hinted [.mod 64]).accepts 7 [4] false
    ∧ (∃ k, (hinted [.mod 64]).w.hintMod = some k ∧ 1 ≤ k.toNat ∧ k.toNat ≤ 64)
    ∧ (∃ c, casmRead (swapping 1 [(0x3000, 0, 9)]) 0x2000 = .ok c ∧ ∃ e, casmRead c.1 0x2008 = .ok e
      ∧ ∃ f, casmRead e.1 0x2010 = .ok f ∧ ∃ g, casmRead f.1 0x2018 = .ok g
        ∧ (c.2 = 1 ∧ e.2 = 0x3000 ∧ f.2 = 0 ∧ g.2 = 9)
        ∧ (let x := g.1.xlate (BitVec.ofNat 64 0x3000) .rw
           ((match x.2 with | .ok l => decide (l = there 0x3000) | .error _ => false)
            && x.1.locOk 0x3000 8 false && x.1.inPackage (there 0x3000) && plainAt x.1 (x.1.me (some 5)) (there 0x3000) 0) = true))
    ∧ (divided.w.dh < divided.w.depth ∧ divided.w.stack.length = divided.w.depth ∧ divided.w.stack = [] ++ [sibling])
    ∧ (started.w.stack = [] ∧ started.w.depth = 0)
    ∧ (arriving.w.pc = arriving.w.crpc ∧ sibling.mask &&& arriving.w.occ ≠ 0 ∧ sibling.pc ≠ sibling.rpc) :=
  ⟨accepted (by decide), ⟨_, rfl, by decide⟩,
    ok_ex (fun _ => ok_ex fun _ => ok_ex fun _ => ok_of) (by decide +kernel), by decide, by decide, by decide⟩

/-! More clauses. -/

/-- E2M1 of Table 2. -/
def rowE2m1 : FloatRow := ⟨.e2m1, 4, 1, 1, 0, 6, 0x7, 0, false, false⟩
def rowF32 : FloatRow := ⟨.f32, 32, 23, 127, -126, (2 - 1 / 2 ^ 23) * 2 ^ 127, 0x7F7FFFFF, 0x7FC00000, true, true⟩

theorem rows_listed : rowE2m1 ∈ floatRows ∧ rowF32 ∈ floatRows := by simp [floatRows, rowE2m1, rowF32]

/-- Lowest multiples: the value is one. -/
theorem selects_exact (mode : Nat) (neg : Bool) (thr : Nat) (x q : ℚ) (n : ℤ) (hq : q ≠ 0) (h : x = n * q) : selects mode neg thr x q x := by
  have : ⌊x / q⌋ = n := by rw [h, mul_div_cancel_right₀ _ hq]; exact Int.floor_intCast n
  exact .inl ⟨by rw [this]; exact h, by rw [this]; exact h⟩

/-- Table 4 with the spacing of the row for x = 2^k: an exact value in range, one beyond the range, and a subnormal one. -/
theorem witness_RoundingRules_round :
    let q := fun (r : FloatRow) (x : ℚ) => (2 : ℚ) ^ (max (Int.log 2 x) r.emin - r.mant)
    (standsFor 1 0 false (q rowE2m1 1) 1 ∧ selects 0 false 0 1 (q rowE2m1 1) 1 ∧ (1 : ℚ) ≤ rowE2m1.big)
    ∧ (standsFor 1 3 false (q rowE2m1 8) 8 ∧ selects 0 false 0 8 (q rowE2m1 8) 8 ∧ rowE2m1.big < 8)
    ∧ ∃ x, standsFor 1 (-149) false (q rowF32 x) x ∧ selects 0 false 0 x (q rowF32 x) x ∧ x < 2 ^ rowF32.emin ∧ x ≤ rowF32.big := by
  have hl : ∀ k : ℤ, Int.log 2 ((2 : ℚ) ^ k) = k := fun k => Int.log_zpow (b := 2) (by norm_num) k
  have h1 : Int.log 2 (1 : ℚ) = 0 := by simp
  have h8 : Int.log 2 (8 : ℚ) = 3 := by norm_num
  refine ⟨⟨.inl ⟨rfl, by norm_num⟩, selects_exact _ _ _ _ _ 2 (by positivity) ?_, by norm_num [rowE2m1]⟩,
    ⟨.inl ⟨rfl, by norm_num⟩, selects_exact _ _ _ _ _ 2 (by positivity) ?_, by norm_num [rowE2m1]⟩,
    (2 : ℚ) ^ (-149 : ℤ), .inl ⟨rfl, by norm_num⟩, selects_exact _ _ _ _ _ 1 (by positivity) ?_, ?_, ?_⟩
  · dsimp only; rw [h1]; norm_num [rowE2m1]
  · dsimp only; rw [h8]; norm_num [rowE2m1]
  · dsimp only; rw [hl]; norm_num [rowF32]
  · norm_num [rowF32]
  · norm_num [rowF32]

/-- A tie, and a value known only to lie above m × 2^k. -/
theorem witness_RoundingRules_between : selects 0 false 0 (1 / 4) (1 / 2) 0 ∧ selects 1 true 0 (3 / 4) (1 / 2) (1 / 2)
    ∧ selects 3 true 0 (3 / 4) (1 / 2) 1 ∧ selects 5 false 0x3FFF (1 / 4) 1 1 ∧ selects 5 false 0x4000 (1 / 4) 1 0
    ∧ standsFor (2 ^ 32) (-34) true (1 / 2) (1 / 4 + 1 / 2 ^ 35) := by
  refine ⟨?_, ?_, ?_, ?_, ?_, .inr ⟨rfl, ?_⟩⟩ <;> norm_num [selects]

theorem witness_ExactArithmetic : (Machine.Num.fin true 1 0 false).below (.fin false 0 0 false) ∧ (Machine.Num.inf true).below (.fin true 3 0 false)
    ∧ (Machine.Num.fin false 3 0 false).below (.inf false)
    ∧ ((3 : ℚ) = (3 : Nat) * 2 ^ (0 : Int) ∧ selects 0 false 0 3 1 3 ∧ (3 : ℚ) < 2 ^ 128)
    ∧ (rowF32.flushed = true ∧ ∃ x : ℚ, x = (1 : Nat) * 2 ^ (-149 : Int) ∧ selects 0 false 0 x (2 ^ (Int.log 2 x - rowF32.mant)) x)
    ∧ ((Fmt.decode .e4m3 false 0x38).isNan = false ∧ (Fmt.decode .e4m3 false 0x38).value = ((1 : Int) : ℚ))
    ∧ (∀ v : Int, ¬ ((Fmt.decode .e4m3 false 0x7E).isNan = false ∧ (Fmt.decode .e4m3 false 0x7E).value = v ∧ -7 ≤ v ∧ v ≤ 7)) := by
  have hd : Fmt.decode .e4m3 false 0x38 = .fin false 8 (-3) false := by decide
  have he : Fmt.decode .e4m3 false 0x7E = .fin false 14 5 false := by decide
  refine ⟨.inl (by norm_num [Machine.Num.value]), by simp [Machine.Num.below], by simp [Machine.Num.below],
    ⟨by norm_num, selects_exact _ _ _ _ _ 3 (by norm_num) (by norm_num), by norm_num⟩,
    ⟨rfl, 2 ^ (-149 : ℤ), by norm_num, selects_exact _ _ _ _ _ (2 ^ 23) (by positivity) ?_⟩,
    ⟨by decide, by rw [hd]; norm_num [Machine.Num.value]⟩, ?_⟩
  · have hl : Int.log 2 ((2 : ℚ) ^ (-149 : ℤ)) = -149 := Int.log_zpow (b := 2) (by norm_num) _
    rw [hl]; norm_num [rowF32]
  · rintro v ⟨-, h, -, hv⟩
    rw [he] at h
    have : (448 : ℚ) = v := by rw [← h]; norm_num [Machine.Num.value]
    have : (448 : ℤ) = v := by exact_mod_cast this
    omega

theorem witness_Traps_ends : inHandler.w.inProgress = false ∧ (withW fun w => { w with inh := true, abort := true }).w.inProgress = false
    ∧ started.groupRuns := by
  refine ⟨by decide, by decide, ?_⟩
  unfold State.groupRuns
  decide

/-- A strong write of the warp stands at port 0. -/
def withHeld (s : State) : State :=
  { s with ports := [(0, { Port.reset with held := [⟨0, s.owner, 0, there 0x100_0000_0000, [], some 6, none⟩] })] }

theorem witness_Barriers_held : (withHeld (member 0 1)).strongHeld = true ∧ (member 0 1).strongHeld = false
    ∧ ((withHeld (member 0 1)).wg.barrier 2).memb &&& (1 <<< 0 : BitVec 16) ≠ 0 ∧ (withHeld (member 0 1)).w.park = .none := by decide

theorem witness_FloatSelections_reserved : (rounding 6).VectorReady [3] [(1, 1)] [2] ∧ 6 ≤ (rounding 6).w.fm.toNat / 4096 % 8 :=
  ⟨vready (by decide), by decide⟩

theorem witness_BufferAccesses_old : (tabled [] (mxOp 0x81 false) 0).ops[0]? = some (mxOp 0x81 false)
    ∧ Cells.wf none (mxOp 0x81 false).old = true ∧ Cells.wf none [(3, some (7 : Word))] = true := by decide

theorem witness_TileMemory_misaligned :
    let s := tiled 0x2008 1
    let row := fun k => s.w.s 1 + ((s.w.src 4 0).at k).zeroExtend 64
    s.passes (some 2) = false ∧ (s.w.tile 2).shape ≠ 0 ∧ s.srcOk 4 = true ∧ s.w.em ≠ 0
    ∧ (((membersOf (s.actingLanes s.w.em)).filter (· < (s.w.tile 2).rows)).find? fun j => (row j).toNat % 16 ≠ 0) = some 0 := by decide

theorem witness_GangsArePlaced_retry :
    ∃ s1, State.restoreGroups (current true) small ((placing 0x100_0000_0000 0x4000 true).queueOf 0 0) 0
      (((placing 0x100_0000_0000 0x4000 true).gangGroups (current true) 0).zip [0]) (placing 0x100_0000_0000 0x4000 true)
        = (s1, .error true) := error_of (by decide +kernel)

theorem witness_GangsArePlaced_preempts : (placing 0x3_0000 0 true).preemptFor 0 = placing 0x3_0000 0 true
    ∧ (placing 0x100_0000_0000 0x4000 true).preemptFor 0 = placing 0x100_0000_0000 0x4000 true
    ∧ ((placing 0x3_0000 0 false).observeDrain 0).preemptFor 0 = (placing 0x3_0000 0 false).observeDrain 0
    ∧ ((State.reset.observeDrain 0).preemptFor 0).work 0 = [] := by decide +kernel

theorem witness_PreemptionAndSave_boundary : (reporting false).w.casm = none ∧ (reporting false).strongHeld = false
    ∧ ((reporting false).clusterOf (clusterAt (reporting false).w.place)).changing = false := by decide

/-- Hart 5 waits for the acknowledgement of an operation in flight. -/
def unacked (s : State) : State := { withHeld s with waits := [⟨.hart hart5, [0]⟩] }

theorem witness_acknowledged : (unacked started).acked (.hart hart5) = false ∧ (unacked started).hartUp hart5 = true
    ∧ started.acked (.hart hart5) = true ∧ started.hartUp hart5 = true ∧ started.acked (.hart hart7) = true ∧ started.again = false := by
  decide

theorem witness_PageFaults_obey :
    let i : FaultInfo := ⟨some 4, .read, 1, 0x9000, 0, 0, some true⟩
    let s := withW fun w => { w with park := .fault i, tvec := 0x4000 }
    s.w.park = .fault i ∧ i.cmd = some true ∧ s.w.preempt = false ∧ s.w.inh = false ∧ s.w.tvec ≠ 0
    ∧ (faultInfo (some 4)).cmd = none ∧ s.w.place.ld = 0 ∧ s.stallOf s.w = (0 : BitVec 10).toNat
    ∧ (let t := withW fun w => { w with park := .fault { i with cmd := some false }, preempt := true }
       t.w.preempt = true ∧ t.w.inh = false ∧ t.ring 0 0 = some (0x2_0000, 6)) := by decide

/-- A split-phase load and a held write used a translation that invalidations name. -/
def translated : State :=
  { withHeld outstanding with
    tlb := [{ ld := 0, col := 0, holder := 8, stall := 0, page := 2, gpages := [2], arena := none, frame := 2, perms := 15, nc := false },
      { ld := 0, col := 0, holder := 8, stall := 0, page := 3, gpages := [3], arena := none, frame := 0x1000_0000, perms := 15, nc := false }] }

theorem witness_Translation_waits : loadOp ∈ translated.ops ∧ loadOp.kind = .ldp 6 8 ends aims (0, 0)
    ∧ (63, Aim.at_ (there 0x23F0)) ∈ aims ∧ ends.getLsbD 63 = true ∧ (there 0x23F0).ld = (0 : BitVec 2).toNat
    ∧ (∃ e ∈ translated.tlb, e.ld = 0 ∧ decide (e.stall = 0) = true ∧ e.frame = (there 0x23F0).pa / 4096)
    ∧ (∃ p ∈ translated.ports, ∃ w ∈ p.2.held, w.loc.ld = (0 : BitVec 2).toNat
        ∧ ∃ e ∈ translated.tlb, e.ld = 0 ∧ e.gpages.contains 3 = true ∧ e.frame = w.loc.pa / 4096)
    ∧ translated.acked (.hart hart5) = true := by decide

theorem witness_PowerEvents_begun : ((powered .on 1 0 0).clusterOf ⟨0, 0, 0⟩).begun = false
    ∧ (withW fun w => { w with life := .start }).w.life = .start := by decide

/-- Checked addresses, none paged out, that serve an agent at once, by evaluation. -/
def servedAll (h : Nat) (p : Loc → Bool) (scope : Option (BitVec 3)) (c : State × List (Nat × DWord × Found1)) : Bool :=
  (pagedOut c.2).isEmpty && (located c.2).all fun x => plainAt c.1 (c.1.me scope) x.2.2 h && p x.2.2

def Served (scope : Option (BitVec 3)) (p : Loc → Bool) (x : Except Stop (State × List (Nat × DWord × Found1))) : Prop :=
  ∃ c, x = .ok c ∧ pagedOut c.2 = [] ∧ c.1.allPlain (c.1.me scope) (located c.2) ∧ ∀ y ∈ located c.2, p y.2.2 = true

theorem served_of {h : Nat} {p : Loc → Bool} {scope : Option (BitVec 3)} {x : Except Stop (State × List (Nat × DWord × Found1))}
    (k : holds x (servedAll h p scope) = true) : Served scope p x := by
  refine ok_ex (b := servedAll h p scope) (fun c hc => ?_) k
  rw [servedAll, Bool.and_eq_true, List.isEmpty_iff, List.all_eq_true] at hc
  simp only [Bool.and_eq_true] at hc
  exact ⟨hc.1, fun y hy => ⟨⟨h, (plain_of (hc.2 y hy).1).serves⟩, (plain_of (hc.2 y hy).1).intact⟩, fun y hy => (hc.2 y hy).2⟩

theorem witness_MemoryFrames_lanes :
    let s := lanesAt 0x2000
    let as := s.laneAddrs 1 2 (s.actingLanes s.w.em)
    let served := fun (acc : Access) (scope : Option (BitVec 3)) =>
      Served scope (fun _ => true) (s.memCheck as (codeBytes 5) acc false)
    served .read none ∧ served .read (some 5) ∧ served .write none ∧ served .write (some 3) ∧ s.NoneAhead 3
    ∧ s.UnitReady [5] (2 :: (List.range (codeRegs 5)).map (4 + ·)) [2] ∧ s.destOk 4 (codeRegs 5) = true :=
  ⟨served_of (h := 0) (by decide +kernel), served_of (h := 0) (by decide +kernel), served_of (h := 0) (by decide +kernel),
    served_of (h := 0) (by decide +kernel), fun _ h hh => absurd hh (by revert h; decide), uready (by decide), by decide⟩

theorem witness_MemoryFrames_atomics :
    let s := addressing
    let as := (membersOf (s.actingLanes (s.w.em &&& s.w.guard 0))).map fun k =>
      (k, BitVec.ofNat 64 (((s.w.v 4).at k).toNat + 2 ^ 32 * ((s.w.v 5).at k).toNat))
    Served (some 4) (fun l => decide (l.pa % 8 = 0)) (s.memCheckBy (pcieBad s.vxpkg.toNat 12) as 8 .rw false) :=
  served_of (h := 0) (by decide +kernel)

theorem witness_MemoryFrames_buffers :
    let s := lanesAt 0
    let os := (membersOf s.w.em).map fun k => ((s.w.src 2 0).at k).toNat
    s.UnitReady [] (2 :: (List.range 2).map (4 + ·)) [2] ∧ s.UnitReady [] (2 :: (List.range 1).map (4 + ·)) [2, 4]
    ∧ (os.all fun o => o % 8 = 0 && decide (o + 8 ≤ s.wg.len 1)) = true ∧ (os.all fun o => o % 4 = 0 && decide (o + 4 ≤ s.wg.len 0)) = true
    ∧ s.destOk 4 2 = true ∧ s.srcOk 4 = true ∧ s.srcOk 2 = true := ⟨uready (by decide), uready (by decide), by decide⟩

theorem witness_MemoryFrames_tiles :
    let s := tiled 7 3
    let t := s.w.tile 2
    s.passes (some 2) = false ∧ t.shape ≠ 0 ∧ 7 < t.rows ∧ 7 < t.cols ∧ s.UnitReady [] [4] [4] ∧ s.accepts 22 [] false
    ∧ ((tiled 0x13 3).w.s 1).toNat % 256 = 0x13 := ⟨by decide, by decide, by decide, by decide, uready (by decide), accepted (by decide), by decide⟩

theorem witness_MemoryFrames_images :
    let s := tiled 0x2000 1
    let t := s.w.tile 2
    let rows := ((membersOf (s.actingLanes s.w.em)).filter (· < t.rows)).flatMap fun k =>
      (List.range (t.rowBytes / 16)).map fun i => (k, s.w.s 1 + ((s.w.src 4 0).at k).zeroExtend 64 + BitVec.ofNat 64 (16 * i))
    let lines := (List.range (t.rows * t.rowBytes / 64)).map fun i => (i, s.w.s 1 + BitVec.ofNat 64 (64 * i))
    let served := fun (as : List (Nat × DWord)) (n : Nat) (acc : Access) =>
      Served none (fun _ => true) (s.memCheck as n acc false)
    served rows 16 .read ∧ served rows 16 .write ∧ served lines 64 .read ∧ served lines 64 .write :=
  ⟨served_of (h := 0) (by decide +kernel), served_of (h := 0) (by decide +kernel), served_of (h := 0) (by decide +kernel),
    served_of (h := 0) (by decide +kernel)⟩

/-- A stack of 33 entries, the lowest one, a waiting path, in memory at 0x2000. -/
def spilt : State := { spilling with w := { spilling.w with depth := 33, hints := [] } }

theorem witness_UnitsComplete_spilled :
    let s0 : State := { spilt with w := spilt.w.commitAll }
    spilt.accepts 22 [] false ∧ spilt.w.inh = false ∧ spilt.w.dh = 0 ∧ spilt.w.depth = 33
    ∧ spilt.w.stack = List.replicate 31 sibling ++ [sibling] ∧ spilt.w.spillAddr 0 = 0x2000
    ∧ (∃ s1 s2, s0.Reaches 0x2000 .read 32 s1 (there 0x2000) ∧ s1.Reaches 0x2000 .write 32 s2 (there 0x2000)
        ∧ s1.valueAt 0x2000 32 = s2.valueAt 0x2000 32 ∧ entryOf (s2.valueAt 0x2000 32) = sibling)
    ∧ sibling.k = true ∧ sibling.mask &&& spilt.w.occ ≠ 0 := by
  refine ⟨accepted (by decide), by decide, by decide, by decide, by decide, by decide,
    ⟨_, _, reached (h := 0) (by decide +kernel), reached (h := 0) (by decide +kernel), by decide +kernel, by decide +kernel⟩, by decide, by decide⟩

theorem witness_UnitsComplete_pops : 32 < deep.w.depth ∧ deep.w.dh < deep.w.depth ∧ deep.w.pc = deep.w.crpc
    ∧ deep.w.spillAddr (deep.w.depth - 33) = 0x2000
    ∧ ∃ s1, ({ deep with w := deep.w.commitAll.dropHints } : State).Reaches 0x2000 .read 32 s1 (there 0x2000) :=
  ⟨by decide, by decide, by decide, by decide, _, reached (h := 0) (by decide +kernel)⟩

/-- A `casm` of two entries, where both hold what is expected, and one not. -/
theorem witness_UnitsComplete_two :
    let served := fun (es : List (DWord × Nat × Nat)) (x : State × List (DWord × Except XFault Loc)) =>
      aligned es && mapped x.2 && inMem x.1 x.2 && decide ((locsOf x.2).map Loc.pa).Nodup && ! x.1.strongHeld
        && ((locsOf x.2).all fun l => plainAt x.1 (x.1.me (some 5)) l 0 && decide (l.pa % 8 = 0) && x.1.locOk l.pa 8 false)
    blockMeets (swapping 2 [(0x3000, 0, 9), (0x3040, 0, 8)]) 0x2000 2 served
    ∧ blockMeets (swapping 2 [(0x3000, 5, 9), (0x3040, 0, 8)]) 0x2000 2 served
    ∧ blockMeets (withHeld (swapping 2 [(0x3000, 0, 9), (0x3040, 0, 8)])) 0x2000 2
        (fun es x => aligned es && mapped x.2 && inMem x.1 x.2 && x.1.strongHeld)
    ∧ (swapping 2 []).w.casm = none :=
  ⟨ok_ok (by decide +kernel), ok_ok (by decide +kernel), ok_ok (by decide +kernel), by decide⟩

end Sys2Proof.Tests
end

section
/-! SUPPORT. The scalar registers: what the guard mask of R39 selects. -/

namespace Sys2Proof.Machine

/-- Lane l of the guard mask of a guard field (R39). -/
theorem Warp.getLsbD_guard (w : Warp) (g : BitVec 4) {l : Nat} (hl : l < 64) :
    (w.guard g).getLsbD l =
      if g.toNat % 8 = 0 then true else (w.s (56 + g.toNat % 8)).getLsbD l ^^ decide (8 ≤ g.toNat) := by
  have hbits : bitsOf g.toNat 0 3 = g.toNat % 8 := by simp [bitsOf]
  have hinv : ∀ x : BitVec 4, x.getLsbD 3 = decide (8 ≤ x.toNat) := by decide
  unfold Warp.guard
  rw [hbits, hinv]
  by_cases h0 : g.toNat % 8 = 0
  · rw [if_pos h0, if_pos h0, BitVec.getLsbD_allOnes, decide_eq_true hl]
  · by_cases h8 : 8 ≤ g.toNat <;> simp [h0, h8, hl]

/-- Settles O4: the register rule is what a read after a write returns, the guard rule is read off lane by lane. -/
theorem scalarRegisterRules : Obligations.ScalarRegisterRules := by
  refine ⟨fun w r v => ⟨rfl, fun hr => ?_, fun q hq => ?_⟩, fun w g l hl => w.getLsbD_guard g hl⟩
  · rw [Warp.s_setS, if_neg hr, if_pos rfl]
  · rw [Warp.s_setS, if_neg hq]
    split
    · next h0 => rw [h0, Warp.s_zero]
    · rfl

end Sys2Proof.Machine
end

section
/-! SUPPORT. Bytes of values in memory and in buffers (R5, R214), and the accesses of lanes that are served at once (R294, R296). -/

namespace Sys2Proof.Machine

/-! Bytes of a value. -/

@[simp] theorem length_bytesOf (n v : Nat) : (bytesOf n v).length = n := by simp [bytesOf]

/-- Byte i of the n bytes of a value. -/
theorem getD_bytesOf {n i : Nat} (v : Nat) (h : i < n) : (bytesOf n v).getD i 0 = BitVec.ofNat 8 (v / 256 ^ i) := by
  simp [bytesOf, List.getD, h, Nat.pow_mul]

/-- n bytes that are those of v hold v modulo 256^n. -/
theorem ofBytes_of_digits (f : Nat → Byte) (n v : Nat) (h : ∀ i < n, f i = BitVec.ofNat 8 (v / 256 ^ i)) :
    ofBytes ((List.range n).map f) = v % 256 ^ n := by
  induction n generalizing f v with
  | zero => simp [ofBytes, Nat.mod_one]
  | succ n ih =>
    have hrest : ∀ i < n, f (i + 1) = BitVec.ofNat 8 (v / 256 / 256 ^ i) := fun i hi => by
      rw [h (i + 1) (by omega), Nat.div_div_eq_div_mul, Nat.pow_succ']
    rw [List.range_succ_eq_map, List.map_cons, List.map_map, ofBytes, h 0 (by omega),
      show f ∘ Nat.succ = fun i => f (i + 1) from rfl, ih _ _ hrest, Nat.pow_succ', Nat.mod_mul]
    simp

/-- The bytes that memory holds from an address on, as a value (R5). -/
theorem State.peek_eq_valueAt (s : State) (a n : Nat) : s.peek a n = s.valueAt a n := by
  unfold State.peek
  induction n generalizing a with
  | zero => rfl
  | succ n ih =>
    rw [List.range_succ_eq_map, List.map_cons, List.map_map, ofBytes, State.valueAt, ← ih (a + 1)]
    simp [State.byteAt, Function.comp_def, Nat.add_assoc, Nat.add_comm 1]

/-- A store of the bytes of a value and the byte read after it (R5). -/
theorem State.byteAt_poke_bytesOf (s : State) (a n v x : Nat) :
    (s.poke a (bytesOf n v)).byteAt x =
      if a ≤ x ∧ x < a + n then BitVec.ofNat 8 (v / 256 ^ (x - a)) else s.byteAt x := by
  rw [State.byteAt_poke, length_bytesOf]
  split
  · next h => rw [getD_bytesOf v (by omega)]
  · rfl

/-- A store of the bytes of a value and the value read after it (R5). -/
theorem State.valueAt_poke_bytesOf (s : State) (a n v : Nat) : (s.poke a (bytesOf n v)).valueAt a n = v % 256 ^ n := by
  rw [← State.peek_eq_valueAt]
  refine ofBytes_of_digits _ n v fun i hi => ?_
  have := s.byteAt_poke_bytesOf a n v (a + i)
  rwa [if_pos (by omega), Nat.add_sub_cancel_left] at this

/-! Bytes of a buffer (R214). -/

theorem Group.buf_setBuf (g : Group) (u k : BitVec 1) (o i : Nat) (b : Byte) :
    (g.setBuf u o b).buf k i = if k = u ∧ i = o then b else g.buf k i := by
  have bit : ∀ x : BitVec 1, x = 0 ∨ x = 1 := by decide
  rcases bit u with rfl | rfl <;> rcases bit k with rfl | rfl <;> simp [Group.setBuf, Group.buf, Cells.get_set]

/-- A write of bytes to a buffer and the bytes read after it. -/
theorem Group.buf_bufWrite (g : Group) (u k : BitVec 1) (o i : Nat) (bs : List Byte) :
    (g.bufWrite u o bs).buf k i = if k = u ∧ o ≤ i ∧ i < o + bs.length then bs.getD (i - o) 0 else g.buf k i := by
  induction bs generalizing g o with
  | nil => exact (if_neg (by simp only [List.length_nil]; omega)).symm
  | cons b r ih =>
    rw [Group.bufWrite, ih, Group.buf_setBuf, List.length_cons]
    by_cases hk : k = u
    · by_cases hi : i = o
      · subst hi
        rw [if_neg (by omega), if_pos ⟨hk, rfl⟩, if_pos ⟨hk, by omega⟩, Nat.sub_self, List.getD_cons_zero]
      · by_cases hin : o + 1 ≤ i ∧ i < o + 1 + r.length
        · rw [if_pos ⟨hk, hin⟩, if_pos ⟨hk, by omega⟩, show i - o = i - (o + 1) + 1 by omega, List.getD_cons_succ]
        · rw [if_neg fun c => hin c.2, if_neg fun c => hi c.2, if_neg (by omega)]
    · simp [hk]

/-- A write of the bytes of a value to a buffer and the byte read after it. -/
theorem Group.buf_bufWrite_bytesOf (g : Group) (u k : BitVec 1) (o n v i : Nat) :
    (g.bufWrite u o (bytesOf n v)).buf k i =
      if k = u ∧ o ≤ i ∧ i < o + n then BitVec.ofNat 8 (v / 256 ^ (i - o)) else g.buf k i := by
  rw [Group.buf_bufWrite, length_bytesOf]
  split
  · next h => rw [getD_bytesOf v (by omega)]
  · rfl

/-- A write of the bytes of a value to a buffer and the value read after it. -/
theorem Group.bufRead_bufWrite_bytesOf (g : Group) (u : BitVec 1) (o n v : Nat) :
    (g.bufWrite u o (bytesOf n v)).bufRead u o n = v % 256 ^ n := by
  refine ofBytes_of_digits _ n v fun i hi => ?_
  rw [Group.buf_bufWrite_bytesOf, if_pos ⟨rfl, by omega, by omega⟩, Nat.add_sub_cancel_left]

/-! Reads and writes that are served at once. -/

/-- Reads of plain lines find the bytes of each and change nothing (R294, R325). -/
theorem State.readAll_plain (ag : Agent) (n : Nat) (ls : List (Nat × DWord × Loc)) (s : State) (hs : s.allPlain ag ls) :
    State.readAll ag n ls s = .ok (s, ls.map (fun x => (x.1, s.valueAt x.2.2.pa n)), ls.map fun x => x.2.2) := by
  induction ls with
  | nil => rfl
  | cons x r ih =>
    obtain ⟨t, va, l⟩ := x
    obtain ⟨⟨h, hserves⟩, hintact⟩ := hs (t, va, l) (by simp)
    rw [State.readAll, s.readLoc_served ag l n h hserves hintact]
    simp only [ih fun y hy => hs y (by simp [hy]), State.peek_eq_valueAt]
    rfl

/-- A state in which everything that serves a request stands as in another, and nothing more is poisoned or in error: what a
write of a plain line leaves to the accesses after it. -/
structure State.AsPlain (s t : State) : Prop where
  serves : ∀ ag l h, s.Serves ag l h → t.Serves ag l h
  intact : ∀ pa, s.Intact pa → t.Intact pa

theorem State.AsPlain.allPlain {s t : State} (h : s.AsPlain t) {ag : Agent} {ls : List (Nat × DWord × Loc)}
    (hs : s.allPlain ag ls) : t.allPlain ag ls := fun x hx =>
  ⟨(hs x hx).1.imp fun k => h.serves ag x.2.2 k, h.intact _ (hs x hx).2⟩

theorem State.AsPlain.trans {s t u : State} (h : s.AsPlain t) (k : t.AsPlain u) : s.AsPlain u :=
  ⟨fun ag l n x => k.serves ag l n (h.serves ag l n x), fun pa x => k.intact pa (h.intact pa x)⟩

theorem State.asPlain_poke (s : State) (a : Nat) (bs : List Byte) : s.AsPlain (s.poke a bs) :=
  ⟨fun _ _ _ h => ⟨h.home, h.up, h.linked, h.free, h.turn, h.fresh, h.unlocked⟩,
    fun _ h => ⟨h.online, h.sound, h.clean, h.unheld⟩⟩

theorem State.asPlain_clearFlips (s : State) (a n : Nat) : s.AsPlain (s.clearFlips a n) :=
  ⟨fun _ _ _ h => ⟨h.home, h.up, h.linked, h.free, h.turn, h.fresh, h.unlocked⟩,
    fun _ h => ⟨h.online, h.sound, fun c hc => h.clean c (List.mem_filter.mp hc).1, h.unheld⟩⟩

theorem State.asPlain_buffer (s : State) (l : Loc) (n : Nat) : s.AsPlain (s.buffer l n) := by
  unfold State.buffer
  split
  · exact ⟨fun _ _ _ h => h, fun _ h => h⟩
  · exact ⟨fun _ _ _ h => ⟨h.home, h.up, h.linked, h.free, h.turn, h.fresh, h.unlocked⟩,
      fun _ h => ⟨h.online, h.sound, h.clean, h.unheld⟩⟩

/-- Clearing the poison of a line changes the records of poison alone, and poisons no other line. -/
theorem State.clearPoison_eq (s : State) (line : Nat) : ∃ ps hs, s.clearPoison line = { s with poison := ps, healed := hs }
    ∧ ∀ k, s.poisoned k = false → ({ s with poison := ps, healed := hs } : State).poisoned k = false := by
  unfold State.clearPoison
  dsimp only
  split <;> refine ⟨_, _, rfl, fun k hk => ?_⟩ <;> simp_all [State.poisoned, State.colOf, State.homeCol, State.ldOf]

theorem State.asPlain_clearPoison (s : State) (line : Nat) : s.AsPlain (s.clearPoison line) := by
  obtain ⟨ps, hs, he, hp⟩ := s.clearPoison_eq line
  rw [he]
  refine ⟨fun _ _ _ h => ⟨h.home, h.up, h.linked, h.free, h.turn, h.fresh, h.unlocked⟩,
    fun pa h => ⟨h.online, ?_, h.clean, h.unheld⟩⟩
  obtain ⟨hpoison, hdead⟩ := Bool.or_eq_false_iff.mp h.sound
  exact Bool.or_eq_false_iff.mpr ⟨hp _ hpoison, hdead⟩

@[simp] theorem State.clearPoison_w (s : State) (line : Nat) : (s.clearPoison line).w = s.w := by
  obtain ⟨ps, hs, he, -⟩ := s.clearPoison_eq line
  rw [he]

/-- A write of a plain line changes its bytes and neither the warp nor what the accesses after it meet, whether or not the request
covers the line. -/
theorem State.writeLoc_plain (s : State) (ag : Agent) (l : Loc) (bs : List Byte) (full : Bool) (h : Nat) (hs : s.Serves ag l h)
    (hi : s.Intact l.pa) :
    ∃ t, s.writeLoc ag l bs full = (t, .ok ()) ∧ s.AsPlain t ∧ t.w = s.w ∧ t.mem = (s.poke l.pa bs).mem := by
  obtain ⟨hpoison, hdead⟩ := Bool.or_eq_false_iff.mp hi.sound
  have hplain := (s.asPlain_poke l.pa bs).trans (State.asPlain_clearFlips _ l.pa bs.length)
  unfold State.writeLoc
  simp only [hs.home, hs.reaches, hs.accepted, s.evictHart_unheld l.pa hi.unheld, hpoison, hdead, Bool.false_eq_true, false_and,
    if_false]
  cases full with
  | false => exact ⟨_, rfl, hplain, rfl, rfl⟩
  | true => exact ⟨_, rfl, hplain.trans (State.asPlain_clearPoison _ _), State.clearPoison_w _ _, State.clearPoison_mem _ _⟩

@[simp] theorem State.buffer_w (l : Loc) (n : Nat) (s : State) : (s.buffer l n).w = s.w := by
  unfold State.buffer
  split <;> rfl

/-- The bytes of memory after a store depend on memory alone. -/
theorem State.poke_mem_congr {s t : State} (h : s.mem = t.mem) (a : Nat) (bs : List Byte) : (s.poke a bs).mem = (t.poke a bs).mem := by
  simp only [State.poke, h]

theorem State.foldl_poke_mem_congr {s t : State} (h : s.mem = t.mem) (ws : List (DWord × Loc × List Byte)) :
    (ws.foldl (fun (u : State) w => u.poke w.2.1.pa w.2.2) s).mem = (ws.foldl (fun (u : State) w => u.poke w.2.1.pa w.2.2) t).mem := by
  induction ws generalizing s t with
  | nil => exact h
  | cons x r ih => exact ih (State.poke_mem_congr h _ _)

/-- Writes of plain lines reach memory in their order and change nothing of the warp (R296, R325). -/
theorem State.writeAll_plain (ag : Agent) (full gone : List Nat) (ws : List (DWord × Loc × List Byte)) (s : State)
    (hs : s.allPlain ag (ws.map fun w => (0, w.1, w.2.1))) :
    (State.writeAll ag full gone ws s).w = s.w
      ∧ (State.writeAll ag full gone ws s).mem = (ws.foldl (fun (u : State) w => u.poke w.2.1.pa w.2.2) s).mem := by
  induction ws generalizing s with
  | nil => exact ⟨rfl, rfl⟩
  | cons x r ih =>
    obtain ⟨va, l, bs⟩ := x
    obtain ⟨⟨h, hserves⟩, hintact⟩ := hs (0, va, l) (by simp)
    obtain ⟨t, ht, hplain, hw, hmem⟩ := s.writeLoc_plain ag l bs (full.contains (l.pa / 64)) h hserves hintact
    have hrest : s.allPlain ag (r.map fun w => (0, w.1, w.2.1)) := fun y hy => hs y (List.mem_cons_of_mem _ hy)
    rw [State.writeAll, ht, List.foldl_cons]
    dsimp only
    split
    · obtain ⟨iw, im⟩ := ih _ ((hplain.trans (t.asPlain_buffer l bs.length)).allPlain hrest)
      rw [iw, im, State.buffer_w, hw]
      exact ⟨rfl, State.foldl_poke_mem_congr ((State.buffer_mem l bs.length t).trans hmem) r⟩
    · obtain ⟨iw, im⟩ := ih t (hplain.allPlain hrest)
      rw [iw, im, hw]
      exact ⟨rfl, State.foldl_poke_mem_congr hmem r⟩

/-- Settles O30: reads and writes by induction on the list of lanes, each access served at once; bytes of values digit by digit. -/
theorem accessesReachMemory : Obligations.AccessesReachMemory := by
  refine ⟨State.readAll_plain, fun ag full gone ws s hs => ⟨_, rfl, State.writeAll_plain ag full gone ws s hs⟩, fun s a n v => ?_,
    fun g u o n v => ?_⟩
  · exact ⟨s.byteAt_poke_bytesOf a n v, s.valueAt_poke_bytesOf a n v, s.peek_eq_valueAt a n⟩
  · exact ⟨fun k i => g.buf_bufWrite_bytesOf u k o n v i, g.bufRead_bufWrite_bytesOf u o n v⟩

end Sys2Proof.Machine
end

section
/-! SUPPORT. The special registers: what `rsr` reads and `wsr` writes (R104, R125 to R129). -/

namespace Sys2Proof.Machine

/-! The end of a unit whose body changed fields that the lanes left of it do not depend on (R268). -/

/-- The lanes left of a unit are told by its address, its handler and its path alone: a body that keeps these leaves, at the end, the
state of a unit that only computes registers. -/
theorem finish_computed_of_ownsLeft {s t : State} (h : t.w.ownsLeft = s.w.ownsLeft) (xs : List RegWrite) :
    (Eff.leaves { s := t, writes := xs } s.w).finish = t.computed xs := by
  rw [← finish_computed t xs]
  unfold Eff.leaves
  rw [h]

theorem Warp.ownsLeft_srWrite (w : Warp) (n : Nat) (v : DWord) : (w.srWrite n v).ownsLeft = w.ownsLeft := by
  unfold Warp.srWrite
  repeat' split
  all_goals rfl

/-! The words of `rsr` and `wsr` (R125, R126). -/

theorem srPrivileged_and_eq_deniedTo (s : State) (n : BitVec 12) (b : BitVec 6) :
    (srPrivileged n.toNat && decide ¬ s.w.inh = true) = s.deniedTo (.wsr n b) := by
  simp [srPrivileged, State.deniedTo]

/-- A word that names no register is reported as it stands when no hint word of its unit is illegal (R57). -/
theorem State.illegal_of_legal {s : State} (h : s.badWord 22 = none) {x : Nat} (hx : x < 2 ^ 32) :
    s.illegal (BitVec.ofNat 32 x) = s.trap 0x01 (BitVec.ofNat 64 x) := by
  unfold State.illegal
  rw [h]
  congr 1
  apply BitVec.eq_of_toNat_eq
  simp
  omega

theorem exec_rsr_assigned (s : State) (d : BitVec 6) (n : BitVec 12) (h : s.accepts 22 [] false) (hn : srAssigned n.toNat = true)
    (hw : s.srWaits n.toNat = false) :
    exec (.rsr d n) s = .next
      ((if n = 0x00A then s.send [(s.srRead 0x00A).toNat] else s).computed [.s d.toNat (s.srRead n.toNat)]) := by
  have hready : ready (¬ s.srWaits n.toNat) s = .ok () := by simp [ready_ok, hw]
  have hlast : n.toNat = 0x00A ↔ n = 0x00A := BitVec.toNat_inj (y := 0x00A)
  change Host.Outcome.next _ = _
  rw [if_pos hn]
  congr 1
  by_cases hq : n = 0x00A
  · rw [if_pos hq, unit_ok h (by simp only [hlast.mpr hq] at hready ⊢; rw [hready]; rfl)]
    rw [hlast.mpr hq]
    exact finish_computed_of_ownsLeft rfl _
  · rw [if_neg hq, unit_ok h (by simp only [hready, mt hlast.mp hq, if_false]; rfl)]
    exact finish_computed s _

theorem exec_rsr_unassigned (s : State) (d : BitVec 6) (n : BitVec 12) (hn : srAssigned n.toNat = false) (h : s.badWord 22 = none) :
    exec (.rsr d n) s = .next (s.trap 0x01 (BitVec.ofNat 64 (0x1C00_0000 + d.toNat * 4096 + n.toNat))) := by
  change Host.Outcome.next _ = _
  rw [if_neg (by simp [hn])]
  exact congrArg Host.Outcome.next (State.illegal_of_legal h (by omega))

theorem exec_wsr_assigned (s : State) (n : BitVec 12) (b : BitVec 6) (h : s.accepts 22 [] false) (hn : srAssigned n.toNat = true)
    (hd : s.deniedTo (.wsr n b) = false) (hw : n = 0x01A ∨ n = 0x01B → s.srWaits n.toNat = false) :
    exec (.wsr n b) s = .next
      (if n = 0x019 ∧ 32 < s.w.depth then s.trap 0x02 0
       else ({ s with w := s.w.srWrite n.toNat (s.w.s b.toNat) }).computed []) := by
  have hstk : (n.toNat = 0x019 ∧ s.w.spilled ≠ 0) ↔ (n = 0x019 ∧ 32 < s.w.depth) := by
    rw [← BitVec.toNat_inj (y := 0x019), Warp.spilled, Nat.sub_ne_zero_iff_lt]
    rfl
  have hready : ready (¬ ((n.toNat = 0x01A ∨ n.toNat = 0x01B) ∧ s.srWaits n.toNat)) s = .ok () := by
    rw [ready_ok, decide_eq_true_eq]
    rintro ⟨hr, ht⟩
    exact absurd (hw (hr.imp BitVec.toNat_inj.mp BitVec.toNat_inj.mp)) (by simp [ht])
  change Host.Outcome.next _ = _
  rw [if_pos hn, srPrivileged_and_eq_deniedTo s n b, hd]
  congr 1
  by_cases hq : n = 0x019 ∧ 32 < s.w.depth
  · have hneed : need (¬ (n.toNat = 0x019 ∧ s.w.spilled ≠ 0)) = .error (.trap 0x02 0) := if_neg (by simp [hstk.mpr hq])
    rw [if_pos hq]
    exact unit_trap h (by simp only [hneed]; rfl)
  · have hneed : need (¬ (n.toNat = 0x019 ∧ s.w.spilled ≠ 0)) = .ok () := (need_ok _ _).mpr (decide_eq_true (mt hstk.mp hq))
    rw [if_neg hq, unit_ok h (by simp only [hneed, hready]; rfl)]
    exact finish_computed_of_ownsLeft (s.w.ownsLeft_srWrite _ _) _

theorem exec_wsr_unassigned (s : State) (n : BitVec 12) (b : BitVec 6) (hn : srAssigned n.toNat = false) (h : s.badWord 22 = none) :
    exec (.wsr n b) s = .next (s.trap 0x01 (BitVec.ofNat 64 (0x1C04_0000 + n.toNat * 64 + b.toNat))) := by
  change Host.Outcome.next _ = _
  rw [if_neg (by simp [hn])]
  exact congrArg Host.Outcome.next (State.illegal_of_legal h (by omega))

/-! What the registers read as (R104, R105, R127). -/

/-- Byte k of a value made of bytes. -/
theorem ofBytes_digit (f : Nat → Byte) {n k : Nat} (hk : k < n) :
    ofBytes ((List.range n).map f) / 256 ^ k % 256 = (f k).toNat := by
  induction n generalizing f k with
  | zero => omega
  | succ n ih =>
    have hlt := (f 0).isLt
    rw [List.range_succ_eq_map, List.map_cons, List.map_map, ofBytes]
    cases k with
    | zero => simp; omega
    | succ j =>
      rw [Nat.pow_succ', ← Nat.div_div_eq_div_mul, Nat.add_mul_div_left _ _ (by decide), Nat.div_eq_of_lt hlt, Nat.zero_add,
        ih _ (by omega)]
      rfl

theorem ofBytes_lt (bs : List Byte) : ofBytes bs < 256 ^ bs.length := by
  induction bs with
  | nil => simp [ofBytes]
  | cons b r ih =>
    have := b.isLt
    rw [ofBytes, List.length_cons, Nat.pow_succ']
    omega

/-- TSHAPE: byte k of half h is the shape of tile 8h + k (R250). -/
theorem Warp.tshape_digit (w : Warp) (h : Nat) {k : Nat} (hk : k < 8) :
    (w.tshape h).toNat / 256 ^ k % 256 = (w.tile (8 * h + k)).shape.toNat := by
  have hlt := ofBytes_lt ((List.range 8).map fun k => (w.tile (8 * h + k)).shape)
  rw [List.length_map, List.length_range] at hlt
  rw [Warp.tshape, BitVec.toNat_ofNat, Nat.mod_eq_of_lt (hlt.trans_eq (by norm_num)), ofBytes_digit _ hk]

/-- TSTAT: INH and PRE (R406). -/
theorem State.srRead_tstat_inh (s : State) : (s.srRead 0x034).getLsbD 0 = s.w.inh := by
  change (BitVec.ofNat 64 _).getLsbD 0 = _
  rw [BitVec.getLsbD_ofNat, Nat.testBit_zero]
  cases s.w.inh <;> simp <;> omega

theorem State.srRead_tstat_pre (s : State) : (s.srRead 0x034).getLsbD 1 = s.w.pre := by
  change (BitVec.ofNat 64 _).getLsbD 1 = _
  rw [BitVec.getLsbD_ofNat, Nat.testBit_succ, Nat.testBit_zero]
  have hi := s.w.inh.toNat_lt
  cases s.w.pre <;> simp <;> omega

/-- QLEFT: the items not yet taken (R105). -/
theorem State.srRead_qleft_toNat (s : State) : (s.srRead 0x00A).toNat = s.lc.record.n.toNat - s.lc.ic.toNat := by
  change (BitVec.ofNat 64 _).toNat = _
  rw [BitVec.toNat_ofNat, Nat.mod_eq_of_lt (by omega)]

/-- WARPID: the slot above the index. -/
theorem State.srRead_warpid (s : State) :
    s.srRead 0x001 = BitVec.ofNat 64 (16 * s.w.place.slot.toNat + s.w.idx.toNat) := by
  rw [Nat.mul_comm]
  rfl

/-- The refill of a governor level (R426), as a table of levels. -/
theorem refillOf_eq (c : Column) :
    refillOf c = if c.level = 0 then c.budget.toNat else if c.level = 3 then c.budget.toNat / 2 else 3 * c.budget.toNat / 4 := by
  have level : ∀ x : BitVec 2, x = 0 ∨ x = 1 ∨ x = 2 ∨ x = 3 := by decide
  unfold refillOf
  rcases level c.level with h | h | h | h <;> rw [h] <;> rfl

theorem ite_neg_min_toNat (x : Int) (k : Nat) : (if x < 0 then 0 else min x.toNat k) = min x.toNat k := by
  split
  · omega
  · rfl

/-- The highest rate that the level and the replay cap allow (R426, R429). -/
def topRate (c : Column) (x : ClusterState) : Nat := if c.level = 3 then 0 else if c.level = 2 ∨ x.replayCap = true then 1 else 2

/-- A cluster runs at another rate than the one asked for exactly when that lies above the highest allowed. -/
theorem effectiveRate_ne_iff (c : Column) (x : ClusterState) (cl : BitVec 1) :
    effectiveRate c x cl ≠ (if cl = 0 then c.clk0 else c.clk1) ↔ topRate c x < (if cl = 0 then c.clk0 else c.clk1).toNat := by
  change (if (if cl = 0 then c.clk0 else c.clk1).toNat ≤ topRate c x then (if cl = 0 then c.clk0 else c.clk1)
    else BitVec.ofNat 2 (topRate c x)) ≠ _ ↔ _
  generalize (if cl = 0 then c.clk0 else c.clk1) = asked
  split
  · next h => simp; omega
  · next h =>
    refine ⟨fun _ => by omega, fun hlt he => ?_⟩
    have := congrArg BitVec.toNat he
    rw [BitVec.toNat_ofNat, Nat.mod_eq_of_lt (by omega)] at this
    omega

theorem State.srRead_budget (s : State) :
    let c := s.colOf s.w.place.ld.toNat s.w.place.col.toNat
    s.srRead 0x021 = BitVec.ofNat 64 ((if c.level = 0 then c.budget.toNat else if c.level = 3 then c.budget.toNat / 2
      else 3 * c.budget.toNat / 4) * 2 ^ 16 + min (s.clusterOf (clusterAt s.w.place)).c.toNat 0xFFFF) := by
  intro c
  rw [← refillOf_eq, ← ite_neg_min_toNat]
  rfl

theorem State.srRead_rate (s : State) :
    let c := s.colOf s.w.place.ld.toNat s.w.place.col.toNat
    let x := s.clusterOf (clusterAt s.w.place)
    s.srRead 0x022 = BitVec.ofNat 64
      (x.rate.toNat + if topRate c x < (if (clusterAt s.w.place).cl = 0 then c.clk0 else c.clk1).toNat then 4 else 0) := by
  intro c x
  simp only [← effectiveRate_ne_iff]
  rfl

/-! What a write leaves (R9, R126). -/

/-- A mask whose low k bits are 0 clears the low k bits. -/
theorem and_shiftLeft_allOnes {n : Nat} (x : BitVec n) (k : Nat) : x &&& (BitVec.allOnes n <<< k) = (x >>> k) <<< k := by
  ext i hi
  by_cases h : i < k
  · simp [h]
  · simp [h, Nat.add_sub_cancel' (Nat.le_of_not_lt h), hi]

/-- Registers of the table without a field that `wsr` writes. -/
theorem Warp.srWrite_readOnly (w : Warp) (m : Nat) (v : DWord) (h : m ≤ 0x018 ∨ m = 0x021 ∨ m = 0x022 ∨ m = 0x035) :
    w.srWrite m v = w := by
  have hgrp : ¬ (0x040 ≤ m ∧ m ≤ 0x047) := by omega
  unfold Warp.srWrite
  split
  case h_11 => exact if_neg hgrp
  all_goals omega

/-- GRP0 to GRP7 keep bits [35:0]. -/
theorem Warp.srWrite_grp (w : Warp) (v : DWord) {g : Nat} (hg : g < 8) (h : Nat) :
    (w.srWrite (0x040 + g) v).grp.get 0 h = if h = g then v &&& 0xF_FFFF_FFFF else w.grp.get 0 h := by
  have hw : w.srWrite (0x040 + g) v = { w with grp := w.grp.set 0 g (v &&& 0xF_FFFF_FFFF) } := by
    interval_cases g <;> rfl
  rw [hw, Cells.get_set]

/-- Settles O7: the ends of the units of `rsr` and `wsr`, then the registers one by one. -/
theorem specialRegisters : Obligations.SpecialRegisters := by
  refine ⟨fun s d n => ⟨exec_rsr_assigned s d n, exec_rsr_unassigned s d n, rfl, rfl, rfl, rfl, rfl, rfl, rfl, rfl, rfl, rfl,
      s.srRead_tstat_inh, s.srRead_tstat_pre, s.srRead_qleft_toNat, s.srRead_warpid, rfl, rfl, rfl, rfl, rfl, rfl, rfl, rfl, rfl,
      rfl, rfl, rfl, ?tshape, rfl, rfl, rfl, s.srRead_budget, s.srRead_rate⟩,
    fun s n b h hn hd hw => ⟨exec_wsr_assigned s n b h hn hd hw, rfl, rfl, ?tvec, ?epc, ?spill, rfl, rfl, rfl, rfl, ?thr,
      fun m hm => s.w.srWrite_readOnly m _ hm, fun g hg k _ => s.w.srWrite_grp _ hg k⟩,
    exec_wsr_unassigned⟩
  case tshape =>
    intro h hh k hk
    rw [← Warp.tshape_digit _ _ hk]
    interval_cases h <;> rfl
  case tvec => exact and_shiftLeft_allOnes _ 2
  case epc => exact and_shiftLeft_allOnes _ 2
  case spill => exact and_shiftLeft_allOnes _ 5
  case thr => simp [Warp.srWrite]

end Sys2Proof.Machine
end

section
/-! SUPPORT. Control: the targets of branches (R38, R123), and the divergent branch whose push ends its own launch (R186, R335,
R439). -/

namespace Sys2Proof.Machine

theorem signed_toNat {n : Nat} (x : BitVec n) : signed n x.toNat = x.toInt := by
  unfold signed
  rw [Nat.mod_eq_of_lt x.isLt, BitVec.toInt_eq_toNat_cond]
  cases n with
  | zero => simp [BitVec.of_length_zero]
  | succ k =>
    rw [Nat.add_sub_cancel, Nat.pow_succ]
    split <;> split <;> omega

/-- A target counts words from the address of the instruction (R38, R123). -/
theorem target_toNat {n : Nat} (pc : BitVec 48) (o : BitVec n) : target pc n o.toNat = pc + BitVec.ofInt 48 (o.toInt * 4) := by
  rw [target, signed_toNat]

/-- The entries that `brd` pushes, the join entry deepest (R186). -/
def State.brdEntries (s : State) (g : BitVec 4) : List Entry :=
  let rc := target s.w.pc 22 (s.w.hintRc.getD 0).toNat
  [⟨rc, s.w.em, s.w.crpc, s.w.fm, false⟩, ⟨s.w.pc + 4, s.w.em &&& ~~~ s.w.guard g, rc, s.w.fm, true⟩]

/-- A `brd` whose parts both have lanes and whose entries are pushed (R186): the lanes left of its unit are those that the warp
told before the push (R268). -/
theorem exec_brd_pushes {s s1 : State} {g : BitVec 4} {o : BitVec 20} (h : s.accepts 22 [2] true)
    (ht : s.w.em &&& s.w.guard g ≠ 0) (hn : s.w.em &&& ~~~ s.w.guard g ≠ 0)
    (hp : s.push (s.brdEntries g) = .ok s1) :
    exec (.brd g o) s = .next (Eff.leaves
      { s := { s1 with w := { s1.w with crpc := target s.w.pc 22 (s.w.hintRc.getD 0).toNat } }
        writes := [.s 56 (s.w.em &&& s.w.guard g)], close := true, next := some (target s.w.pc 20 o.toNat) } s.w).finish := by
  change Host.Outcome.next _ = _
  rw [unit_ok h]
  rw [State.brdEntries] at hp
  simp only [if_neg ht, if_neg hn, hp]
  rfl

@[simp] theorem finish_left (e : Eff) : e.finish.w.left = e.s.w.left := by
  unfold Eff.finish
  dsimp only
  split <;> simp

/-- A warp of stall 7 at `brd`, its last place on chip free: the push spills one entry to a poisoned line, which ends the stall and
stops the warp, and what the stop commits writes 0 to `em`. Lane 0 of the unit is left from an earlier page fault. -/
def brdAtPoison : State :=
  let s := State.reset.withFetchWord 32 0
  let s1 := (s.setQueueOf 0 0 { s.queueOf 0 0 with owner := 7 }).poke (64 * 7) loadRecord
  { s1 with
    poison := [0x2000 / 64]
    w := { s1.w.setS 57 0xF with
      hints := [.rc 4], depth := 31, stack := List.replicate 31 ⟨0x5000, 0xF0, 0x6000, 0, true⟩, spill := 0x2000
      windows := [⟨2, .none, [.s 56 0]⟩], left := [⟨s1.w.pc - 4, 1, false⟩] } }

/-- The warp owns the lanes left before the push, and no longer after it. -/
theorem brdAtPoison_push : ∃ t, brdAtPoison.push (brdAtPoison.brdEntries 1) = .ok t
    ∧ (t.w.left.filter fun x => ¬ brdAtPoison.w.ownsLeft x) = [] ∧ t.w.leftAfter ≠ [] := by
  have hrun : ((brdAtPoison.push (brdAtPoison.brdEntries 1)).toOption.map fun t =>
      decide ((t.w.left.filter fun x => ¬ brdAtPoison.w.ownsLeft x) = [] ∧ t.w.leftAfter ≠ [])) = some true := by decide +kernel
  cases hp : brdAtPoison.push (brdAtPoison.brdEntries 1) with
  | error e => rw [hp] at hrun; cases hrun
  | ok t => rw [hp] at hrun; exact ⟨t, rfl, of_decide_eq_true (Option.some.inj hrun)⟩

/-- Refutes O6 by the last clause of its `brd` part. The entry that `brdAtPoison` spills meets a poisoned line, the stall of the page
ends (R335, R439), and the stop of the warp commits its open windows (R404). One of them writes `em`, so the path of the warp after
the push is not the one whose lanes the unit left (R268): `exec` forgets lane 0, which was left of the unit on the path before the
push, while the statement asks the warp after the push which lanes it owns, and keeps it. The clause ranges over every state; a scalar
load that names `em` opens no window (R46), which it does not suppose. -/
theorem not_branches : ¬ Obligations.Branches := by
  rintro ⟨-, -, -, hbrd⟩
  have hacc : brdAtPoison.accepts 22 [2] true := by unfold State.accepts; decide
  have ht : brdAtPoison.w.em &&& brdAtPoison.w.guard 1 ≠ 0 := by decide
  have hn : brdAtPoison.w.em &&& ~~~ brdAtPoison.w.guard 1 ≠ 0 := by decide
  obtain ⟨t, hp, howned, hleft⟩ := brdAtPoison_push
  obtain ⟨-, -, -, -, hpush⟩ := hbrd brdAtPoison 1 0 hacc
  have hclaim := hpush t ht hn (by simpa only [State.brdEntries, target_toNat] using hp)
  rw [exec_brd_pushes hacc ht hn hp] at hclaim
  have hw := congrArg (fun u : State => u.w.left) (Host.Outcome.next.inj hclaim)
  rw [finish_left] at hw
  exact hleft (hw.symm.trans howned)

end Sys2Proof.Machine
end

section
/-! SUPPORT. Lines of memory at their homes: addresses and their homes (R319, R341), accesses of plain lines (R325, R328),
what the check of a read changes (R334, R335), and reads that reach a home whatever hart holds the line. -/

namespace Sys2Proof.Machine

/-! Addresses of memory and their homes (R319, R341). -/

theorem paKind_mem {pkg pa ld : Nat} (h : paKind pkg pa = .mem ld) : pa < 2 ^ 40 ∧ pa / 2 ^ 38 = ld := by
  simp only [paKind] at h
  split at h
  · next hlt =>
    split at h
    · exact ⟨hlt, PaKind.mem.inj h⟩
    · split at h <;> cases h
  · repeat' split at h
    all_goals cases h

/-- The 64 bytes of a line lie in one part of the map. -/
theorem paKind_of_line {pkg pa ld : Nat} (h : paKind pkg (64 * (pa / 64)) = .mem ld) : paKind pkg pa = .mem ld := by
  obtain ⟨hlt, hld⟩ := paKind_mem h
  have ho : 64 * (pa / 64) % 2 ^ 38 < 0x3C_0000_0000 := by
    by_contra hge
    simp only [paKind, if_pos hlt, if_neg hge] at h
    split at h <;> cases h
  have hpa : pa < 2 ^ 40 := by omega
  have hin : pa % 2 ^ 38 < 0x3C_0000_0000 := by omega
  simp only [paKind, if_pos hpa, if_pos hin, PaKind.mem.injEq]
  omega

theorem State.online_line (s : State) (a : Nat) : s.online (64 * (a / 64)) = s.online a := by
  have hhome : 64 * (a / 64) / 2 ^ 38 = a / 2 ^ 38 := by omega
  have hregion : 64 * (a / 64) % 2 ^ 38 / 2 ^ 30 = a % 2 ^ 38 / 2 ^ 30 := by omega
  have hlow : (64 * (a / 64) < 2 ^ 30) = (a < 2 ^ 30) := propext (by omega)
  simp only [State.online, hhome, hregion, hlow]

theorem State.homeOf_eq_some {s : State} {pa ld : Nat} :
    s.homeOf pa = some ld ↔ paKind s.vxpkg.toNat pa = .mem ld ∧ s.online pa = true ∧ (s.ldOf ld).baseReset = false := by
  unfold State.homeOf
  split
  · next l hk =>
    simp only [hk, PaKind.mem.injEq, Bool.not_eq_true, Option.ite_none_right_eq_some, Option.some.injEq]
    constructor
    · rintro ⟨⟨ho, hb⟩, rfl⟩
      exact ⟨rfl, ho, hb⟩
    · rintro ⟨rfl, ho, hb⟩
      exact ⟨⟨ho, hb⟩, rfl⟩
  · next hk =>
    constructor
    · exact fun h => nomatch h
    · exact fun h => absurd h.1 (hk ld)

theorem State.homeOf_of_line {s : State} {a ld : Nat} (h : s.homeOf (64 * (a / 64)) = some ld) : s.homeOf a = some ld := by
  obtain ⟨hk, ho, hb⟩ := State.homeOf_eq_some.mp h
  exact State.homeOf_eq_some.mpr ⟨paKind_of_line hk, s.online_line a ▸ ho, hb⟩

theorem State.baseReset_of_reached {s : State} {a b : Nat} (h : s.unreachable a b = false) : (s.ldOf b).baseReset = false :=
  (Bool.or_eq_false_iff.mp h).1

theorem State.PlainLine.homeOf {s : State} {ag : Agent} {l : Loc} {ld : Nat} (hp : s.PlainLine ag l ld) :
    s.homeOf l.pa = some ld :=
  State.homeOf_eq_some.mpr ⟨hp.serves.home, hp.intact.online, State.baseReset_of_reached hp.serves.up⟩

theorem State.locOk_of_homeOf {s : State} {a ld : Nat} (h : s.homeOf a = some ld) (n : Nat) (c : Bool) : s.locOk a n c = true := by
  obtain ⟨hk, ho, -⟩ := State.homeOf_eq_some.mp h
  simp only [State.locOk, hk, ho]

/-! Accesses of a plain line (R325, R328). -/

theorem State.Intact.unpoisoned {s : State} {pa : Nat} (h : s.Intact pa) : s.poisoned (pa / 64) = false :=
  (Bool.or_eq_false_iff.mp h.sound).1

theorem State.Intact.alive {s : State} {pa : Nat} (h : s.Intact pa) : s.dead (pa / 64) = false :=
  (Bool.or_eq_false_iff.mp h.sound).2

/-- A line that is not poisoned has no poison to clear. -/
theorem State.clearPoison_unpoisoned {s : State} {line : Nat} (h : s.poisoned line = false) : s.clearPoison line = s := by
  have hm : ∀ x ∈ s.poison, x ≠ line := by
    have := (Bool.or_eq_false_iff.mp h).1
    intro x hx he
    exact absurd (List.contains_iff_mem.mpr (he ▸ hx)) (by rw [this]; exact Bool.false_ne_true)
  have hf : s.poison.filter (· ≠ line) = s.poison := List.filter_eq_self.mpr fun x hx => decide_eq_true (hm x hx)
  unfold State.clearPoison
  simp only [hf, h, Bool.false_eq_true, if_false]

/-- A write of a plain line changes its bytes and nothing else, whether or not the request covers the line. -/
theorem State.PlainLine.writeLoc {s : State} {ag : Agent} {l : Loc} {ld : Nat} (hp : s.PlainLine ag l ld) (bs : List Byte)
    (full : Bool) (hn : l.pa % 64 + bs.length ≤ 64) : s.writeLoc ag l bs full = (s.poke l.pa bs, .ok ()) := by
  obtain ⟨hs, hi⟩ := hp
  cases full with
  | false => exact s.writeLoc_served ag l bs ld hs hi hn
  | true =>
    unfold State.writeLoc
    simp only [hs.home, hs.reaches, hs.accepted, s.evictHart_unheld l.pa hi.unheld, hi.unpoisoned, hi.alive, Bool.false_eq_true,
      false_and, if_false, if_true, State.clearFlips_clean (s.poke l.pa bs) _ _ hi.clean hn]
    rw [State.clearPoison_unpoisoned (s := s.poke l.pa bs) hi.unpoisoned]

theorem State.PlainLine.readLoc {s : State} {ag : Agent} {l : Loc} {ld : Nat} (hp : s.PlainLine ag l ld) (n : Nat) :
    s.readLoc ag l n = (s, .ok (s.valueAt l.pa n)) := by
  rw [s.readLoc_served ag l n ld hp.serves hp.intact, State.peek_eq_valueAt]

theorem State.PlainLine.applied {s : State} {ag : Agent} {l : Loc} {ld : Nat} (hp : s.PlainLine ag l ld) (bs : List Byte)
    (hn : l.pa % 64 + bs.length ≤ 64) : s.applied ag l bs = true := by
  have hlow : l.pa < 2 ^ 40 := (paKind_mem hp.serves.home).1
  simp only [State.applied, hlow, hp.intact.alive, hp.writeLoc bs false hn, decide_true, Bool.false_eq_true, not_false_eq_true,
    Bool.and_self]

/-- No column hart holds a line. -/
theorem State.hartLine_unheld {s : State} {a : Nat} (h : ∀ x ∈ s.hartLines, x.line ≠ a / 64) (hart : HartId) :
    s.hartLine hart a = none :=
  List.find?_eq_none.mpr fun x hx => by simp [h x hx]

/-! What the check of a read changes (R334, R335). -/

theorem Cells.get_unlisted {α : Type} (d : α) {c : Cells α} {k : Nat} (h : ∀ e ∈ c, e.1 ≠ k) : c.get d k = d := by
  induction c with
  | nil => rfl
  | cons e r ih =>
    rw [Cells.get_cons, if_neg (h e List.mem_cons_self), ih fun x hx => h x (List.mem_cons_of_mem _ hx)]

/-- A line without a changed byte has no atom whose CRC mismatches. -/
theorem State.crcFails_clean {s : State} {line : Nat} (h : ∀ c ∈ s.flips, c.1 / 64 ≠ line) : s.crcFails line = false := by
  have hn : s.atomBytes (64 * line) = 32 ∨ s.atomBytes (64 * line) = 64 := by
    unfold State.atomBytes
    split <;> simp
  unfold State.crcFails
  simp only [List.any_eq_false, List.mem_range, decide_eq_true_eq, ne_eq, not_not]
  intro i hi
  congr 1
  refine List.map_congr_left fun k hk => ?_
  have hk' := List.mem_range.mp hk
  have hin : (64 * line + i * s.atomBytes (64 * line) + k) / 64 = line := by
    rcases hn with hn | hn <;> rw [hn] at hi hk' ⊢ <;> omega
  rw [Cells.get_unlisted 0 fun e he hk => h e he (by rw [hk, hin])]
  exact BitVec.xor_zero.symm

theorem State.flips_of_crcFails {s : State} {line : Nat} (hc : s.crcFails line = true) :
    ¬ (s.flips.all fun c => decide (c.1 / 64 ≠ line)) = true := fun hall =>
  Bool.false_ne_true ((State.crcFails_clean fun c hm => of_decide_eq_true (List.all_eq_true.mp hall c hm)).symm.trans hc)

/-- At most four erroneous bytes of each codeword are corrected: no byte of the group is wrong any more, and CORR counts it. -/
theorem State.checkLine_corrects {s : State} {line : Nat} (hc : s.crcFails line = true) (h0 : s.badBytes line 0 ≤ 4)
    (h1 : s.badBytes line 1 ≤ 4) (o : Owner) :
    s.checkLine o line =
      (({ s with flips := s.flips.filter fun c => c.1 / 256 ≠ line / 4 }).countMem (line * 64 / 2 ^ 38) 48).markCorr o := by
  unfold State.checkLine
  rw [if_neg (State.flips_of_crcFails hc), if_neg (not_not.mpr hc), if_pos ⟨h0, h1⟩]

/-- More than four erroneous bytes of a codeword poison the line. -/
theorem State.checkLine_poisons {s : State} {line : Nat} (hc : s.crcFails line = true)
    (h : 4 < s.badBytes line 0 ∨ 4 < s.badBytes line 1) (o : Owner) :
    s.checkLine o line =
      (({ s with flips := s.flips.filter fun c => c.1 / 64 ≠ line }).poisonLine line).countMem (line * 64 / 2 ^ 38) 32 := by
  unfold State.checkLine
  rw [if_neg (State.flips_of_crcFails hc), if_neg (not_not.mpr hc), if_neg (by omega)]

/-- Which lines give no data depends on the poison, the lost slices, the failed channels and the homes alone. -/
theorem State.bad_congr {s t : State} (hp : t.poison = s.poison) (hh : t.healed = s.healed)
    (hcol : ∀ n k, (t.colOf n k).hartLost = (s.colOf n k).hartLost) (hhome : ∀ n, (t.ldOf n).homes = (s.ldOf n).homes)
    (hch : ∀ n, (t.ldOf n).channels = (s.ldOf n).channels) (line : Nat) : t.bad line = s.bad line := by
  simp only [State.bad, State.poisoned, State.dead, State.homeCol, hp, hh, hcol, hhome, hch]

theorem State.ldOf_countMem (s : State) (ld lo n : Nat) :
    (s.countMem ld lo).ldOf n =
      if n = ld then { s.ldOf ld with memerr := addMemerr (s.ldOf ld).memerr lo } else s.ldOf n := Cells.get_set _ _ _ _ _

theorem State.countMem_bad (s : State) (ld lo line : Nat) : (s.countMem ld lo).bad line = s.bad line := by
  have hkeep (n : Nat) : ((s.countMem ld lo).ldOf n).homes = (s.ldOf n).homes
      ∧ ((s.countMem ld lo).ldOf n).channels = (s.ldOf n).channels := by
    rw [State.ldOf_countMem]
    split
    · next hn => exact ⟨by rw [hn], by rw [hn]⟩
    · exact ⟨rfl, rfl⟩
  exact State.bad_congr (s := s) (t := s.countMem ld lo) rfl rfl (fun _ _ => rfl) (fun n => (hkeep n).1) (fun n => (hkeep n).2) line

/-- Marking the warp whose read was corrected changes warps alone. -/
theorem State.markCorr_eq (s : State) (o : Owner) : ∃ w ws, s.markCorr o = { s with w := w, warps := ws } := by
  unfold State.markCorr
  split
  · exact ⟨_, _, rfl⟩
  · exact ⟨_, _, rfl⟩
  · exact ⟨s.w, s.warps, rfl⟩

/-- CORR is set in the running warp when its own read was corrected (R316). -/
theorem State.markCorr_owner {s : State} (hl : s.w.life ≠ .empty) :
    (s.markCorr s.owner).w = { s.w with mstat := s.w.mstat ||| 8 } := by
  simp [State.markCorr, State.owner, State.mapWarps, hl]

/-- A line that becomes poisoned is listed, and its LD's log can change. -/
theorem State.poisonLine_eq (s : State) (line : Nat) :
    ∃ d ps, s.poisonLine line = { s.setLd (line * 64 / 2 ^ 38) d with poison := ps } ∧ line ∈ ps := by
  by_cases h : s.poison.contains line = true
  · exact ⟨_, s.poison, if_pos h, List.contains_iff_mem.mp h⟩
  · exact ⟨_, line :: s.poison, if_neg h, List.mem_cons_self⟩

theorem State.poisonLine_poison (s : State) (line : Nat) : line ∈ (s.poisonLine line).poison := by
  obtain ⟨d, ps, he, hmem⟩ := s.poisonLine_eq line
  rw [he]
  exact hmem

theorem State.poisonLine_w (s : State) (line : Nat) : (s.poisonLine line).w = s.w := by
  obtain ⟨d, ps, he, -⟩ := s.poisonLine_eq line
  rw [he]
  rfl

theorem State.poisonLine_again (s : State) (line : Nat) : (s.poisonLine line).again = s.again := by
  obtain ⟨d, ps, he, -⟩ := s.poisonLine_eq line
  rw [he]
  rfl

/-- A poisoned line is marked already. -/
theorem State.markBad_poisoned {s : State} {line : Nat} (h : line ∈ s.poison) : s.markBad line = s := by
  unfold State.markBad State.poisoned
  rw [List.contains_iff_mem.mpr h, Bool.true_or, if_pos rfl]

/-- Memory errors do not keep a request from being served. -/
theorem State.Serves.addErrors {s : State} {ag : Agent} {l : Loc} {h : Nat} (hs : s.Serves ag l h) (a : Nat)
    (errs : List (BitVec 8 × BitVec 8)) : (s.addErrors a errs).Serves ag l h :=
  ⟨hs.home, hs.up, hs.linked, hs.free, hs.turn, hs.fresh, hs.unlocked⟩

/-- What a read that is served at once, of a line that no hart holds, leaves: what the check leaves, poisoned if it gives no data. -/
theorem State.readLoc_checked {s : State} {ag : Agent} {l : Loc} {h : Nat} (hs : s.Serves ag l h)
    (hunheld : ∀ x ∈ s.hartLines, x.line ≠ l.pa / 64) (n : Nat) :
    (s.readLoc ag l n).1 =
      if (s.checkLine ag.owner (l.pa / 64)).bad (l.pa / 64) then (s.checkLine ag.owner (l.pa / 64)).markBad (l.pa / 64)
      else s.checkLine ag.owner (l.pa / 64) := by
  unfold State.readLoc
  simp only [hs.home, hs.reaches, hs.accepted, State.serve, s.recall_unheld l.pa hunheld]
  split <;> rfl

/-! Reads that reach their home, whatever hart holds the line (R328). -/

theorem State.accept_flips (s : State) (ag : Agent) (line : Nat) : (s.accept ag line).flips = s.flips := by
  unfold State.accept
  dsimp only
  repeat' split
  all_goals rfl

theorem State.hartLost_setSlice (s : State) (line : Nat) (x : Slice) (n k : Nat) :
    ((s.setSlice line x).colOf n k).hartLost = (s.colOf n k).hartLost := by
  simp only [State.setSlice, State.setCol, State.colOf, Cells.get_set]
  split
  · next h => rw [h]
  · rfl

theorem State.accept_bad (s : State) (ag : Agent) (line k : Nat) : (s.accept ag line).bad k = s.bad k := by
  unfold State.accept
  dsimp only
  split
  · rfl
  · repeat' split
    · rfl
    · exact State.bad_congr (s := s) (t := s.setSlice line _) rfl rfl (s.hartLost_setSlice line _) (fun _ => rfl) (fun _ => rfl) k
    · rfl

/-- A read that reaches the home of a line without errors recalls it and succeeds, whatever hart holds it. -/
theorem State.readLoc_reached {s : State} {ag : Agent} {l : Loc} {ld : Nat} (hk : paKind s.vxpkg.toNat l.pa = .mem ld)
    (hr : s.reach ag ld (l.pa / 64) = .ok ()) (hb : s.bad (l.pa / 64) = false) (hf : ∀ f ∈ s.flips, f.1 / 64 ≠ l.pa / 64) (n : Nat) :
    ∃ t x, s.readLoc ag l n = (t, .ok x) := by
  let r := (s.accept ag (l.pa / 64)).recall l.pa
  have hkeep : r.flips = (s.accept ag (l.pa / 64)).flips ∧ r.bad (l.pa / 64) = (s.accept ag (l.pa / 64)).bad (l.pa / 64) := by
    simp only [r, State.recall]
    split <;> exact ⟨rfl, rfl⟩
  have hserve : (s.accept ag (l.pa / 64)).serve ag.owner l.pa = r :=
    State.checkLine_clean _ _ _ fun c hc => hf c (by rwa [hkeep.1, State.accept_flips] at hc)
  have hgood : r.bad (l.pa / 64) = false := by rw [hkeep.2, State.accept_bad, hb]
  unfold State.readLoc
  simp only [hk, hr, hserve, hgood, Bool.false_eq_true, if_false]
  exact ⟨_, _, rfl⟩

end Sys2Proof.Machine
end

section
/-! SUPPORT. Column harts: their stores and reads, the lines that they own and write back (R328, R329), and the launch lines
that they clean (R388). -/

namespace Sys2Proof.Machine

/-! Stores and reads of plain lines (R325, R328). -/

theorem State.hartStore_plain {s : State} {h : HartId} {a ld : Nat} {data : List Byte}
    (hp : s.PlainLine (Agent.hart h) (s.hartLoc h a) ld) (hn : a % 64 + data.length ≤ 64) :
    s.hartStore h a data = if data.length = 8 ∧ a % 8 = 0 then (s.poke a data).strong8 a (ofBytes data) else s.poke a data := by
  have hok : s.locOk a data.length true = true := State.locOk_of_homeOf hp.homeOf _ _
  unfold State.hartStore
  simp only [hok, not_true_eq_false, if_false, hp.writeLoc data _ hn, hp.applied data hn, and_true]
  rfl

/-- Caches that are not full need no room. -/
theorem State.hartRoom_free {s : State} {h : HartId} (hn : (s.hartLines.countP fun x => x.hart = h) < 17408) : s.hartRoom h = s := by
  rw [List.countP_eq_length_filter] at hn
  exact if_pos hn

/-- A hart's read of a plain line: it has the bytes, and keeps a shared copy. -/
theorem State.hartRead_plain {s : State} {h : HartId} {a ld : Nat} (hp : s.PlainLine (Agent.hart h) (s.hartLoc h a) ld)
    (hn : (s.hartLines.countP fun x => x.hart = h) < 17408) (n : Nat) :
    s.hartRead h a n = { s.hartGot h (bytesOf n (s.valueAt a n)) with hartLines := ⟨h, a / 64, false, []⟩ :: s.hartLines } := by
  have hunheld : ∀ x ∈ s.hartLines, x.line ≠ a / 64 := hp.intact.unheld
  have hhome : s.homeOf a = some ld := hp.homeOf
  have hlow : a < 2 ^ 40 := (paKind_mem hp.serves.home).1
  have hroom (bs : List Byte) : (s.hartGot h bs).hartRoom h = s.hartGot h bs := State.hartRoom_free hn
  unfold State.hartRead
  simp only [State.locOk_of_homeOf hhome, State.hartLine_unheld hunheld, hp.readLoc, hhome, hlow, hroom, Option.isSome_none,
    Option.isSome_some, and_self, not_true_eq_false, Bool.false_eq_true, if_false, if_true]
  rfl

/-! Events of column harts: one that does not run does nothing, and one that waits for an acknowledgement comes again (R338). -/

theorem State.asHart_down {s : State} {h : HartId} (hu : s.hartUp h = false) (f : State → State) : s.asHart h f = s := by
  simp [State.asHart, hu]

theorem State.asHart_waits {s : State} {h : HartId} (hu : s.hartUp h = true) (ha : s.acked (.hart h) = false) (f : State → State) :
    s.asHart h f = { s with again := true } := by
  simp [State.asHart, hu, ha, State.comeAgain]

theorem State.asHart_runs {s : State} {h : HartId} (hu : s.hartUp h = true) (ha : s.acked (.hart h) = true) (f : State → State) :
    s.asHart h f = f s := by
  simp [State.asHart, hu, ha]

theorem exec_storeAtHome_runs {s : State} {h : HartId} (hu : s.hartUp h = true) (ha : s.acked (.hart h) = true) (allow : Bool)
    (pa : BitVec 56) {data : List Byte} (hd : data ≠ []) (hn : pa.toNat % 64 + data.length ≤ 64) :
    exec (.storeAtHome ⟨h, allow, pa⟩ data) s =
      .next (if allow then s.hartStore h pa.toNat data else s.hartExc h .storeAccessFault) := by
  show execStoreAtHome ⟨h, allow, pa⟩ data s = _
  unfold execStoreAtHome
  rw [State.asHart_runs hu ha]
  simp only [hd, false_or, if_neg (Nat.not_lt.mpr hn)]
  cases allow <;> rfl

/-- A hart whose access is not allowed takes an access fault (R19). -/
theorem exec_hartOwnershipRequest_refused {s : State} {h : HartId} (hu : s.hartUp h = true) (ha : s.acked (.hart h) = true)
    (pa : BitVec 56) (op : HartOp) :
    exec (.hartOwnershipRequest ⟨h, false, pa⟩ op) s = .next (s.hartExc h .storeAccessFault) :=
  congrArg Host.Outcome.next (State.asHart_runs hu ha _)

section
variable {s : State} {h : HartId} {pa : BitVec 56} {ld : Nat} (hu : s.hartUp h = true) (ha : s.acked (.hart h) = true)
  (hh : s.homeOf pa.toNat = some ld)
include hu ha hh

theorem exec_own_obtained {t : State} (ho : s.obtain h pa.toNat = (t, .ok ())) :
    exec (.hartOwnershipRequest ⟨h, true, pa⟩ .own) s = .next t := by
  show execHartOwnershipRequest ⟨h, true, pa⟩ .own s = _
  unfold execHartOwnershipRequest
  rw [State.asHart_runs hu ha]
  simp [hh, ho]

theorem exec_hartStore_cached {data : List Byte} (hd : data ≠ []) (hn : pa.toNat % 64 + data.length ≤ 64) :
    exec (.hartOwnershipRequest ⟨h, true, pa⟩ (.store data)) s = .next (s.hartCached h pa.toNat data) := by
  show execHartOwnershipRequest ⟨h, true, pa⟩ (.store data) s = _
  unfold execHartOwnershipRequest
  rw [State.asHart_runs hu ha]
  simp [hh, hd, Nat.not_lt.mpr hn]

theorem exec_clean : exec (.hartOwnershipRequest ⟨h, true, pa⟩ .clean) s = .next (s.hartClean h pa.toNat false) := by
  show execHartOwnershipRequest ⟨h, true, pa⟩ .clean s = _
  unfold execHartOwnershipRequest
  rw [State.asHart_runs hu ha]
  simp [hh]

theorem exec_flush : exec (.hartOwnershipRequest ⟨h, true, pa⟩ .flush) s = .next (s.hartClean h pa.toNat true) := by
  show execHartOwnershipRequest ⟨h, true, pa⟩ .flush s = _
  unfold execHartOwnershipRequest
  rw [State.asHart_runs hu ha]
  simp [hh]

end

theorem exec_inval_eq_flush (s : State) (h : HartId) (allow : Bool) (pa : BitVec 56) :
    exec (.hartOwnershipRequest ⟨h, allow, pa⟩ .inval) s = exec (.hartOwnershipRequest ⟨h, allow, pa⟩ .flush) s := rfl

/-! Ownership and the caches of harts (R328, R329). -/

theorem State.dirtyRoom_free {s : State} {h : HartId} (hn : (s.hartLines.countP fun x => x.hart = h ∧ x.dirty ≠ []) < 256)
    (line : Nat) : s.dirtyRoom h line = s := by
  refine if_pos (Nat.lt_of_le_of_lt ?_ hn)
  rw [← List.countP_eq_length_filter]
  exact List.countP_mono_left fun x _ hx => by simp_all

/-- What a hart that obtains an uncached line of memory leaves (R328): it owns the line, and no copy of it is left. -/
def State.owning (s : State) (h : HartId) (line : Nat) (dirty : Cells Byte) : State :=
  { s with hartLines := ⟨h, line, true, dirty⟩ :: s.hartLines, copies := s.copies.filter fun c => c.line ≠ line }

theorem State.obtain_plain {s : State} {h : HartId} {a ld : Nat} (hp : s.PlainLine (Agent.hart h) (s.hartLoc h a) ld)
    (hn : (s.hartLines.countP fun x => x.hart = h) < 17408) : s.obtain h a = (s.owning h (a / 64) [], .ok ()) := by
  have hunheld : ∀ x ∈ s.hartLines, x.line ≠ a / 64 := hp.intact.unheld
  unfold State.obtain
  simp only [State.hartLine_unheld hunheld, hp.readLoc, State.hartRoom_free hn,
    List.filter_eq_self.mpr fun x hx => decide_eq_true (hunheld x hx)]
  rfl

/-- A byte written into a line that has just been obtained is its only dirty one. -/
theorem State.dirtyBytes_owning {s : State} {h : HartId} {a : Nat} (hunheld : ∀ x ∈ s.hartLines, x.line ≠ a / 64)
    (hn : (s.hartLines.countP fun x => x.hart = h ∧ x.dirty ≠ []) < 256) (v : Byte) :
    (s.owning h (a / 64) []).dirtyBytes h a [v] = s.owning h (a / 64) [(a, v)] := by
  have hroom : (s.owning h (a / 64) []).dirtyRoom h (a / 64) = s.owning h (a / 64) [] :=
    State.dirtyRoom_free (by simpa [State.owning] using hn) _
  have hline : (s.owning h (a / 64) []).hartLine h a = some ⟨h, a / 64, true, []⟩ := List.find?_cons_of_pos (by simp)
  have hrest : (s.owning h (a / 64) []).hartLines.filter (fun y => ¬ (y.hart = h ∧ y.line = a / 64)) = s.hartLines := by
    simp only [State.owning]
    rw [List.filter_cons_of_neg (by simp), List.filter_eq_self.mpr fun x hx => by simp [hunheld x hx]]
  unfold State.dirtyBytes
  simp only [hroom, hline, hrest]
  rfl

theorem State.hartCached_plain {s : State} {h : HartId} {a ld : Nat} (hp : s.PlainLine (Agent.hart h) (s.hartLoc h a) ld)
    (hn : (s.hartLines.countP fun x => x.hart = h) < 17408)
    (hd : (s.hartLines.countP fun x => x.hart = h ∧ x.dirty ≠ []) < 256) (v : Byte) :
    s.hartCached h a [v] = s.owning h (a / 64) [(a, v)] := by
  have hunheld : ∀ x ∈ s.hartLines, x.line ≠ a / 64 := hp.intact.unheld
  unfold State.hartCached
  simp only [State.obtain_plain hp hn, State.dirtyBytes_owning hunheld hd, List.length_singleton]
  rfl

/-- The dirty bytes of a line that a hart owns reach a home that can be reached, and the hart keeps the line clean. -/
theorem State.writeBack_owned {s : State} {h : HartId} {line : Nat} {d : Cells Byte} {rest : List HartLine}
    (hl : s.hartLines = ⟨h, line, true, d⟩ :: rest) (hd : d ≠ []) (hrest : ∀ x ∈ rest, x.line ≠ line)
    (hr : s.unreachable h.ld.toNat (line * 64 / 2 ^ 38) = false) :
    s.writeBack h line =
      { s with mem := d.foldl (fun m b => m.set memDefault b.1 b.2) s.mem, hartLines := ⟨h, line, false, []⟩ :: rest } := by
  have hfind : (s.hartLines.find? fun x => x.hart = h ∧ x.line = line ∧ x.dirty ≠ []) = some ⟨h, line, true, d⟩ := by
    rw [hl]
    exact List.find?_cons_of_pos (by simp [hd])
  have hheld : (s.hartLines.find? fun x => x.line = 64 * line / 64 ∧ (x.owned ∨ x.dirty ≠ [])) = some ⟨h, line, true, d⟩ := by
    rw [hl]
    exact List.find?_cons_of_pos (by simp)
  have hmap : (rest.map fun x => if x = ⟨h, line, true, d⟩ then { x with owned := false, dirty := [] } else x) = rest :=
    (List.map_congr_left fun x hx => if_neg fun he => hrest x hx (by rw [he])).trans (List.map_id' rest)
  unfold State.writeBack
  simp only [hfind, hr, Bool.false_eq_true, if_false]
  unfold State.recall
  simp only [hheld]
  simp only [hl, List.map_cons, hmap, if_true]

/-- Dirty bytes of a line that launches nothing reach the home, and the hart keeps the line clean, or loses it (R329). -/
theorem State.hartClean_owned {s : State} {h : HartId} {a ld : Nat} {d : Cells Byte} {rest : List HartLine}
    (hl : s.hartLines = ⟨h, a / 64, true, d⟩ :: rest) (hd : d ≠ []) (hrest : ∀ x ∈ rest, x.line ≠ a / 64) (hld : a / 2 ^ 38 = ld)
    (hr : s.unreachable h.ld.toNat ld = false) (hw : s.linkWaits h.ld.toNat ld (a / 64) = false)
    (hn : launchLine (64 * (a / 64)) = none) (flush : Bool) :
    s.hartClean h a flush =
      { s with
        mem := d.foldl (fun m b => m.set memDefault b.1 b.2) s.mem
        hartLines := if flush then rest else ⟨h, a / 64, false, []⟩ :: rest } := by
  have hhome : a / 64 * 64 / 2 ^ 38 = ld := by omega
  have hgone : (⟨h, a / 64, false, []⟩ :: rest).filter (fun x : HartLine => ¬ (x.hart = h ∧ x.line = a / 64)) = rest := by
    rw [List.filter_cons_of_neg (by simp), List.filter_eq_self.mpr fun x hx => by simp [hrest x hx]]
  unfold State.hartClean
  simp only [hn, hhome, hw, Bool.false_eq_true, and_false, if_false, State.writeBack_owned hl hd hrest (hhome ▸ hr)]
  cases flush with
  | false => rfl
  | true => simp only [State.dropHartLine, hgone, if_true]

/-- A hart that does not own the line yet and reaches its home owns it afterwards, alone, and no copy is left. -/
theorem State.obtain_sole {s : State} {h : HartId} {a ld : Nat} (hh : s.homeOf a = some ld)
    (hr : s.reach (Agent.hart h) ld (a / 64) = .ok ()) (hb : s.bad (a / 64) = false) (hf : ∀ f ∈ s.flips, f.1 / 64 ≠ a / 64)
    (hno : ∀ x ∈ s.hartLines, x.hart = h → x.line = a / 64 → x.owned = false) :
    ∃ t, s.obtain h a = (t, .ok ()) ∧ (∃ x ∈ t.hartLines, x.hart = h ∧ x.line = a / 64)
      ∧ (∀ x ∈ t.hartLines, x.line = a / 64 → x.hart = h ∧ x.owned = true) ∧ ∀ c ∈ t.copies, c.line ≠ a / 64 := by
  have hsole (y : HartLine) (ys : List HartLine) (cs : List Copy) (hy : y.hart = h ∧ y.line = a / 64 ∧ y.owned = true) :
      (∃ x ∈ y :: ys.filter fun z => z.line ≠ a / 64, x.hart = h ∧ x.line = a / 64)
        ∧ (∀ x ∈ y :: ys.filter fun z => z.line ≠ a / 64, x.line = a / 64 → x.hart = h ∧ x.owned = true)
        ∧ ∀ c ∈ cs.filter fun c => c.line ≠ a / 64, c.line ≠ a / 64 := by
    refine ⟨⟨y, List.mem_cons_self, hy.1, hy.2.1⟩, fun x hx hl => ?_, fun c hc => of_decide_eq_true (List.mem_filter.mp hc).2⟩
    rcases List.mem_cons.mp hx with rfl | hx
    · exact ⟨hy.1, hy.2.2⟩
    · exact absurd hl (of_decide_eq_true (List.mem_filter.mp hx).2)
  have hk := (State.homeOf_eq_some.mp hh).1
  unfold State.obtain
  split
  · next x hx =>
    unfold State.hartLine at hx
    have hx' : x.hart = h ∧ x.line = a / 64 := by simpa using List.find?_some hx
    have hown : x.owned = false := hno x (List.mem_of_find?_eq_some hx) hx'.1 hx'.2
    simp only [hown, (paKind_mem hk).2, hr, Bool.false_eq_true, if_false]
    exact ⟨_, rfl, hsole { x with owned := true } _ _ ⟨hx'.1, hx'.2, rfl⟩⟩
  · obtain ⟨t, x, ht⟩ := State.readLoc_reached (ag := Agent.hart h) (l := s.hartLoc h a) hk hr hb hf 1
    simp only [ht]
    exact ⟨_, rfl, hsole ⟨h, a / 64, true, []⟩ _ _ ⟨rfl, rfl, rfl⟩⟩

theorem exec_clean_owned {s : State} {h : HartId} {pa : BitVec 56} {ld : Nat} {v : Byte} {rest : List HartLine}
    (hu : s.hartUp h = true) (ha : s.acked (.hart h) = true) (hh : s.homeOf pa.toNat = some ld)
    (hl : s.hartLines = ⟨h, pa.toNat / 64, true, [(pa.toNat, v)]⟩ :: rest) (hrest : ∀ x ∈ rest, x.line ≠ pa.toNat / 64)
    (hr : s.unreachable h.ld.toNat ld = false) (hw : s.linkWaits h.ld.toNat ld (pa.toNat / 64) = false)
    (hn : launchLine (64 * (pa.toNat / 64)) = none) :
    (∃ t, exec (.hartOwnershipRequest ⟨h, true, pa⟩ .clean) s = .next t ∧ t.mem = (s.poke pa.toNat [v]).mem
      ∧ t.hartLines = ⟨h, pa.toNat / 64, false, []⟩ :: rest)
    ∧ ∃ t, exec (.hartOwnershipRequest ⟨h, true, pa⟩ .flush) s = .next t
      ∧ exec (.hartOwnershipRequest ⟨h, true, pa⟩ .inval) s = .next t ∧ t.mem = (s.poke pa.toNat [v]).mem ∧ t.hartLines = rest := by
  have hld : pa.toNat / 2 ^ 38 = ld := (paKind_mem (State.homeOf_eq_some.mp hh).1).2
  have hclean := State.hartClean_owned hl (List.cons_ne_nil _ _) hrest hld hr hw hn
  have hflush := (exec_flush hu ha hh).trans (congrArg _ (hclean true))
  exact ⟨⟨_, (exec_clean hu ha hh).trans (congrArg _ (hclean false)), rfl, rfl⟩, _, hflush,
    (exec_inval_eq_flush s h true pa).trans hflush, rfl, rfl⟩

/-! Launch lines that a hart cleans (R388). -/

/-- The bytes of the value that memory holds are the bytes of memory (R5). -/
theorem State.digit_valueAt (s : State) (a : Nat) {n i : Nat} (hi : i < n) :
    BitVec.ofNat 8 (s.valueAt a n / 256 ^ i) = s.byteAt (a + i) := by
  induction n generalizing a i with
  | zero => omega
  | succ n ih =>
    rw [State.valueAt]
    cases i with
    | zero => exact BitVec.eq_of_toNat_eq (by simp [(s.byteAt a).isLt])
    | succ i =>
      have hb : (s.byteAt a).toNat < 256 := (s.byteAt a).isLt
      have hdiv : ((s.byteAt a).toNat + 256 * s.valueAt (a + 1) n) / 256 = s.valueAt (a + 1) n := by omega
      rw [Nat.pow_succ', ← Nat.div_div_eq_div_mul, hdiv, ih (a + 1) (by omega)]
      congr 1
      omega

theorem State.bytesOf_valueAt (s : State) (a n : Nat) : bytesOf n (s.valueAt a n) = (List.range n).map fun i => s.byteAt (a + i) := by
  refine List.map_congr_left fun i hi => ?_
  rw [Nat.pow_mul]
  exact s.digit_valueAt a (List.mem_range.mp hi)

/-- A store of the bytes that memory holds changes no byte. -/
theorem State.byteAt_poke_valueAt (s : State) (a n x : Nat) : (s.poke a (bytesOf n (s.valueAt a n))).byteAt x = s.byteAt x := by
  rw [State.byteAt_poke_bytesOf]
  split
  · next hx => rw [s.digit_valueAt a (by omega), Nat.add_sub_cancel' hx.1]
  · rfl

/-- A doubleword of a line read as bytes. -/
theorem State.doubleword_bytesOf (s : State) (a : Nat) {i : Nat} (hi : i < 8) :
    ofBytes (((bytesOf 64 (s.valueAt a 64)).drop (8 * i)).take 8) = s.valueAt (a + 8 * i) 8 := by
  have hbytes : ((bytesOf 64 (s.valueAt a 64)).drop (8 * i)).take 8 = (List.range 8).map fun j => s.byteAt (a + 8 * i + j) := by
    rw [State.bytesOf_valueAt]
    refine List.ext_getElem (by simp; omega) fun j _ _ => ?_
    simp [Nat.add_assoc]
  rw [hbytes, ← State.peek_eq_valueAt]
  rfl

/-- A record is handed on from a column that is exposed and in service, once DAY is set. -/
theorem State.handOn_exposed {s : State} {ld col : Nat} (hday : (s.ldOf ld).day = true) (hhome : (s.ldOf ld).homes.getLsbD col = true)
    (hcol : (s.colOf ld col).hartLost = false) (writer : Nat) (bytes : List Byte) :
    s.handOn ld col writer bytes = s.setLd ld { s.ldOf ld with
      handed := (s.ldOf ld).handed ++ [⟨(List.range 8).map fun i => BitVec.ofNat 64 (ofBytes ((bytes.drop (8 * i)).take 8)),
        BitVec.ofNat 10 writer, BitVec.ofNat 6 col⟩] } := by
  unfold State.handOn
  simp only [hday, hhome, hcol, not_true_eq_false, or_self, Bool.false_eq_true, if_false]

theorem State.hartClean_launch {s : State} {h : HartId} {a ld n c : Nat}
    (hp : s.PlainLine (Agent.hart h) (s.hartLoc h (64 * (a / 64))) ld) (hl : launchLine (64 * (a / 64)) = some (n, c)) :
    s.hartClean h a true =
      (s.poke (64 * (a / 64)) (bytesOf 64 (s.valueAt (64 * (a / 64)) 64))).handOn n c
        (s.colOf h.ld.toNat h.col.toNat).vxstall.toNat (bytesOf 64 (s.valueAt (64 * (a / 64)) 64)) := by
  have hfit : 64 * (a / 64) % 64 + (bytesOf 64 (s.valueAt (64 * (a / 64)) 64)).length ≤ 64 := by
    rw [length_bytesOf]
    omega
  have hline : s.lineFor h (a / 64) = (s, .ok (bytesOf 64 (s.valueAt (64 * (a / 64)) 64))) := by
    have hunheld : ∀ x ∈ s.hartLines, x.line ≠ 64 * (a / 64) / 64 := hp.intact.unheld
    unfold State.lineFor
    simp only [State.hartLine_unheld hunheld, hp.readLoc, Option.isSome_none, Bool.false_eq_true, if_false]
    rfl
  unfold State.hartClean
  simp only [hl, hline, hp.writeLoc _ _ hfit, true_or, if_true]
  rfl

/-- A launch line that a hart flushes hands its record on, and its bytes stay (R388). -/
theorem exec_flush_launches {s : State} {h : HartId} {pa : BitVec 56} {ld n c : Nat} (hu : s.hartUp h = true)
    (ha : s.acked (.hart h) = true) (hp : s.PlainLine (Agent.hart h) (s.hartLoc h (64 * (pa.toNat / 64))) ld)
    (hl : launchLine (64 * (pa.toNat / 64)) = some (n, c)) (hday : (s.ldOf n).day = true) (hhome : (s.ldOf n).homes.getLsbD c = true)
    (hcol : (s.colOf n c).hartLost = false) :
    ∃ t, exec (.hartOwnershipRequest ⟨h, true, pa⟩ .flush) s = .next t ∧ (∀ x, t.byteAt x = s.byteAt x)
      ∧ (t.ldOf n).handed = (s.ldOf n).handed ++
        [⟨(List.range 8).map fun i => BitVec.ofNat 64 (s.valueAt (64 * (pa.toNat / 64) + 8 * i) 8),
          (s.colOf h.ld.toNat h.col.toNat).vxstall, BitVec.ofNat 6 c⟩] := by
  refine ⟨_, exec_flush hu ha (State.homeOf_of_line hp.homeOf), ?_⟩
  rw [State.hartClean_launch hp hl, State.handOn_exposed (by exact hday) (by exact hhome) (by exact hcol)]
  refine ⟨s.byteAt_poke_valueAt _ 64, ?_⟩
  have hwords : ∀ i ∈ List.range 8,
      BitVec.ofNat 64 (ofBytes (((bytesOf 64 (s.valueAt (64 * (pa.toNat / 64)) 64)).drop (8 * i)).take 8)) =
        BitVec.ofNat 64 (s.valueAt (64 * (pa.toNat / 64) + 8 * i) 8) := fun i hi => by
    rw [s.doubleword_bytesOf _ (List.mem_range.mp hi)]
  rw [State.ldOf_setLd, List.map_congr_left hwords, BitVec.ofNat_toNat, BitVec.setWidth_eq]
  rfl

end Sys2Proof.Machine
end

section
/-! SUPPORT. Events at a home slice: stores of a column, reads and their checks, tickets, evictions and parity alerts (R324 to
R336). -/

namespace Sys2Proof.Machine

/-! Stores of a column (R326). -/

/-- The store of a column reaches the home in the same step. -/
theorem exec_columnScopeStore_plain {s : State} {l : BitVec 2} {c : BitVec 6} {pa : BitVec 56} {ld : Nat} {data : List Byte}
    (hp : s.PlainLine ⟨l.toNat, .device, some (.slice l c), some 3, 0⟩ (homeLoc ld pa.toNat) ld)
    (hn : pa.toNat % 64 + data.length ≤ 64) : exec (.columnScopeStore l c pa data) s = .next (s.poke pa.toNat data) := by
  have hh : s.homeOf pa.toNat = some ld := hp.homeOf
  show execColumnScopeStore l c pa data s = _
  unfold execColumnScopeStore
  simp only [hh, hp.writeLoc data _ hn]
  rfl

/-! Reads at the home (R328, R334). -/

/-- A read without memory errors: one that has to come again is performed in the same way. -/
theorem exec_readAtHome_nil (who : Reader) (pa : BitVec 56) (s : State) :
    exec (.readAtHome who pa []) s = .next (s.readBy who pa.toNat) := by
  have hnone : s.addErrors pa.toNat [] = s := rfl
  show execReadAtHome who pa [] s = _
  unfold execReadAtHome
  simp only [hnone, ite_self]

theorem exec_readAtHome_port {s : State} {n : BitVec 6} {pa : BitVec 56} {ld : Nat}
    (hp : s.PlainLine ⟨portLd n.toNat, .device, some (.link n), some 6, 0⟩ (homeLoc ld pa.toNat) ld) :
    exec (.readAtHome (.port n) pa []) s = .next s := by
  have hh : s.homeOf pa.toNat = some ld := hp.homeOf
  rw [exec_readAtHome_nil]
  unfold State.readBy
  simp only [hh, hp.readLoc]

theorem exec_readAtHome_hart {s : State} {h : HartId} {pa : BitVec 56} {ld : Nat} (hu : s.hartUp h = true)
    (ha : s.acked (.hart h) = true) (hp : s.PlainLine (Agent.hart h) (s.hartLoc h pa.toNat) ld)
    (hn : (s.hartLines.countP fun x => x.hart = h) < 17408) {k : BitVec 7} (hk : 1 ≤ k.toNat) (hfit : pa.toNat % 64 + k.toNat ≤ 64) :
    exec (.readAtHome (.hart h k true) pa []) s = .next { s.hartGot h (bytesOf k.toNat (s.valueAt pa.toNat k.toNat)) with
      hartLines := ⟨h, pa.toNat / 64, false, []⟩ :: s.hartLines } := by
  rw [exec_readAtHome_nil, ← State.hartRead_plain hp hn]
  unfold State.readBy
  simp only [State.asHart_runs hu ha, Nat.one_le_iff_ne_zero.mp hk, Nat.not_lt.mpr hfit, or_self, not_true_eq_false, if_false]

/-- A read of the running warp, after memory errors, leaves what the read of its own location leaves, as long as that changes neither
its place nor whether the event waits. -/
theorem exec_readAtHome_warp {s t : State} {pa : BitVec 56} {ld : Nat} {errs : List (BitVec 8 × BitVec 8)}
    (hl : s.w.life ≠ .empty) (hh : s.homeOf pa.toNat = some ld)
    (ht : ((s.addErrors pa.toNat errs).readLoc (s.me none) (homeLoc ld pa.toNat) 1).1 = t) (hplace : t.w.place = s.w.place)
    (hlife : t.w.life ≠ .empty) (hagain : t.again = false) : exec (.readAtHome (.warp s.w.place) pa errs) s = .next t := by
  have hh' : (s.addErrors pa.toNat errs).homeOf pa.toNat = some ld := hh
  have hld : pa.toNat / 2 ^ 38 = ld := (paKind_mem (State.homeOf_eq_some.mp hh).1).2
  have hread : (s.addErrors pa.toNat errs).readBy (.warp s.w.place) pa.toNat = t := by
    unfold State.readBy
    simp only [hh', hld, Option.isNone_some, Bool.false_eq_true, if_false]
    refine (State.atWarp_self (s.addErrors pa.toNat errs) _ hl ?_ ?_).trans ((if_pos rfl).trans ht)
    · exact (congrArg (fun u : State => u.w.place) ((if_pos rfl).trans ht)).trans hplace
    · exact fun he => hlife ((congrArg (fun u : State => u.w.life) ((if_pos rfl).trans ht)).symm.trans he)
  show execReadAtHome (.warp s.w.place) pa errs s = _
  unfold execReadAtHome
  simp only [hh, Option.isSome_some, if_true, hread, hagain, Bool.false_eq_true, if_false]

section
variable {s : State} {pa : BitVec 56} {ld : Nat} {errs : List (BitVec 8 × BitVec 8)} (hl : s.w.life ≠ .empty) (hagain : s.again = false)
  (hp : s.PlainLine (s.me none) (homeLoc ld pa.toNat) ld) (hc : (s.addErrors pa.toNat errs).crcFails (pa.toNat / 64) = true)
include hl hagain hp hc

/-- A warp's read that corrects: the home copy stands, CORR counts in the LD and is set in the warp. -/
theorem exec_readAtHome_corrects (h0 : (s.addErrors pa.toNat errs).badBytes (pa.toNat / 64) 0 ≤ 4)
    (h1 : (s.addErrors pa.toNat errs).badBytes (pa.toNat / 64) 1 ≤ 4) :
    ∃ t, exec (.readAtHome (.warp s.w.place) pa errs) s = .next t ∧ t.mem = s.mem
      ∧ (∀ f ∈ t.flips, f.1 / 256 ≠ pa.toNat / 64 / 4) ∧ t.w = { s.w with mstat := s.w.mstat ||| 8 }
      ∧ (t.ldOf ld).memerr = addMemerr (s.ldOf ld).memerr 48 := by
  let u := s.addErrors pa.toNat errs
  let v := ({ u with flips := u.flips.filter fun c => c.1 / 256 ≠ pa.toNat / 64 / 4 }).countMem (pa.toNat / 64 * 64 / 2 ^ 38) 48
  have hcheck : u.checkLine (s.me none).owner (pa.toNat / 64) = v.markCorr v.owner := State.checkLine_corrects hc h0 h1 _
  have hw : (v.markCorr v.owner).w = { s.w with mstat := s.w.mstat ||| 8 } := State.markCorr_owner hl
  have hv : v.bad (pa.toNat / 64) = false := (State.countMem_bad _ _ _ _).trans hp.intact.sound
  obtain ⟨w, ws, hmark⟩ := v.markCorr_eq v.owner
  have hread : (u.readLoc (s.me none) (homeLoc ld pa.toNat) 1).1 = v.markCorr v.owner := by
    have hbad : (v.markCorr v.owner).bad (pa.toNat / 64) = false := by rw [hmark]; exact hv
    refine (State.readLoc_checked (hp.serves.addErrors pa.toNat errs) hp.intact.unheld 1).trans ?_
    rw [show (homeLoc ld pa.toNat).pa = pa.toNat from rfl, hcheck, hbad, if_neg Bool.false_ne_true]
  refine ⟨_, exec_readAtHome_warp hl hp.homeOf hread (by rw [hw]) (by rw [hw]; exact hl) (by rw [hmark]; exact hagain),
    by rw [hmark]; rfl, ?_, hw, ?_⟩
  · rw [hmark]
    exact fun f hf => of_decide_eq_true (List.mem_filter.mp hf).2
  · have hld : pa.toNat / 64 * 64 / 2 ^ 38 = ld := by
      have := (paKind_mem hp.serves.home).2
      simp only [homeLoc] at this
      omega
    have hv' : (v.ldOf ld).memerr = addMemerr (s.ldOf ld).memerr 48 := by
      simp only [v, hld, State.ldOf_countMem, if_true]
      rfl
    rw [hmark]
    exact hv'

/-- A warp's read that cannot correct poisons the line, and the home copy stands. -/
theorem exec_readAtHome_poisons
    (h : 4 < (s.addErrors pa.toNat errs).badBytes (pa.toNat / 64) 0 ∨ 4 < (s.addErrors pa.toNat errs).badBytes (pa.toNat / 64) 1) :
    ∃ t, exec (.readAtHome (.warp s.w.place) pa errs) s = .next t ∧ t.mem = s.mem ∧ pa.toNat / 64 ∈ t.poison := by
  let u := s.addErrors pa.toNat errs
  let t := (({ u with flips := u.flips.filter fun c => c.1 / 64 ≠ pa.toNat / 64 }).poisonLine (pa.toNat / 64)).countMem
    (pa.toNat / 64 * 64 / 2 ^ 38) 32
  have hcheck : u.checkLine (s.me none).owner (pa.toNat / 64) = t := State.checkLine_poisons hc h _
  have hpoison : pa.toNat / 64 ∈ t.poison := State.poisonLine_poison _ _
  have hw : t.w = s.w := State.poisonLine_w _ _
  have hread : (u.readLoc (s.me none) (homeLoc ld pa.toNat) 1).1 = t := by
    refine (State.readLoc_checked (hp.serves.addErrors pa.toNat errs) hp.intact.unheld 1).trans ?_
    rw [show (homeLoc ld pa.toNat).pa = pa.toNat from rfl, hcheck, State.markBad_poisoned hpoison, ite_self]
  exact ⟨t, exec_readAtHome_warp hl hp.homeOf hread (by rw [hw]) (by rw [hw]; exact hl) ((State.poisonLine_again _ _).trans hagain),
    State.poisonLine_mem _ _, hpoison⟩

end

/-! Tickets (R330). -/

theorem Slice.holds_iff {x : Slice} {p : ReqPort} : x.holds p = true ↔ ∃ t ∈ x.tickets, t.req.port = p := by
  simp [Slice.holds]

/-- A request sent again is accepted exactly when a tracker is free and its ticket is at the head. -/
theorem Slice.ticket_accepted_iff {x : Slice} {r : ReqId} :
    ((x.tickets.any fun t => t.req = r) = true ∧ x.accepts r = true) ↔ x.busy < 448 ∧ ∃ t, x.tickets.head? = some t ∧ t.req = r := by
  simp only [Slice.accepts, Bool.and_eq_true, Bool.or_eq_true, decide_eq_true_eq, Option.any_eq_true]
  constructor
  · rintro ⟨hany, hbusy, hfree | ⟨t, ht, hreq⟩⟩
    · obtain ⟨t, ht, hreq⟩ := List.any_eq_true.mp hany
      exact absurd (Slice.holds_iff.mpr ⟨t, ht, by rw [of_decide_eq_true hreq]⟩) hfree
    · exact ⟨hbusy, t, ht, hreq⟩
  · rintro ⟨hbusy, t, ht, hreq⟩
    exact ⟨List.any_eq_true.mpr ⟨t, List.mem_of_head? ht, decide_eq_true hreq⟩, hbusy, .inr ⟨t, ht, hreq⟩⟩

/-- A slice in a base die that is in reset takes no request. -/
theorem exec_ticketedRequest_reset {s : State} {ld : BitVec 2} (hb : (s.ldOf ld.toNat).baseReset = true) (n : BitVec 6)
    (r : PortRequest) : exec (.ticketedRequest ⟨ld, n⟩ r) s = .next s := by
  show execTicketedRequest ⟨ld, n⟩ r s = _
  unfold execTicketedRequest
  simp only [hb, true_or, if_true]

section
variable {s : State} {ld : BitVec 2} {n : BitVec 6} (hb : (s.ldOf ld.toNat).baseReset = false)
  (hl : (s.colOf ld.toNat n.toNat).hartLost = false) (hh : (s.ldOf ld.toNat).homes.getLsbD n.toNat = true)
  (port : ReqPort) (tag : Nat)
include hb hl hh

theorem exec_ticketedRequest_arrive :
    exec (.ticketedRequest ⟨ld, n⟩ ⟨port, tag, .arrive⟩) s = .next (
      let c := s.colOf ld.toNat n.toNat
      if c.slice.holds port then s
      else if c.slice.busy < 448 then s.setCol ld.toNat n.toNat { c with slice := { c.slice with busy := c.slice.busy + 1 } }
      else (s.setCol ld.toNat n.toNat { c with slice := c.slice.refuse (.outside port tag) }).countMem ld.toNat 0) := by
  show execTicketedRequest ⟨ld, n⟩ ⟨port, tag, .arrive⟩ s = _
  unfold execTicketedRequest
  simp only [hb, hl, hh, not_true_eq_false, or_self, Bool.false_eq_true, if_false]

theorem exec_ticketedRequest_again :
    exec (.ticketedRequest ⟨ld, n⟩ ⟨port, tag, .again⟩) s = .next (
      let c := s.colOf ld.toNat n.toNat
      if (c.slice.tickets.any fun t => t.req = .outside port tag) ∧ c.slice.accepts (.outside port tag) then
        s.setCol ld.toNat n.toNat { c with slice := { c.slice with
          busy := c.slice.busy + 1, tickets := c.slice.tickets.filter fun t => t.req ≠ .outside port tag } }
      else s) := by
  show execTicketedRequest ⟨ld, n⟩ ⟨port, tag, .again⟩ s = _
  unfold execTicketedRequest
  simp only [hb, hl, hh, not_true_eq_false, or_self, Bool.false_eq_true, if_false]

theorem exec_ticketedRequest_done :
    exec (.ticketedRequest ⟨ld, n⟩ ⟨port, tag, .done⟩) s = .next (
      let c := s.colOf ld.toNat n.toNat
      s.setCol ld.toNat n.toNat { c with slice := { c.slice with busy := c.slice.busy - 1 } }) := by
  show execTicketedRequest ⟨ld, n⟩ ⟨port, tag, .done⟩ s = _
  unfold execTicketedRequest
  simp only [hb, hl, hh, not_true_eq_false, or_self, Bool.false_eq_true, if_false]

/-- A port that holds a ticket sends no other request. -/
theorem exec_ticketedRequest_held (hm : ∃ t ∈ (s.colOf ld.toNat n.toNat).slice.tickets, t.req.port = port) :
    exec (.ticketedRequest ⟨ld, n⟩ ⟨port, tag, .arrive⟩) s = .next s := by
  simp only [exec_ticketedRequest_arrive hb hl hh, Slice.holds_iff.mpr hm, if_true]

theorem exec_ticketedRequest_tracked (hm : ¬ ∃ t ∈ (s.colOf ld.toNat n.toNat).slice.tickets, t.req.port = port)
    (hbusy : (s.colOf ld.toNat n.toNat).slice.busy < 448) :
    exec (.ticketedRequest ⟨ld, n⟩ ⟨port, tag, .arrive⟩) s = .next (s.setCol ld.toNat n.toNat { s.colOf ld.toNat n.toNat with
      slice := { (s.colOf ld.toNat n.toNat).slice with busy := (s.colOf ld.toNat n.toNat).slice.busy + 1 } }) := by
  simp only [exec_ticketedRequest_arrive hb hl hh, mt Slice.holds_iff.mp hm, hbusy, Bool.false_eq_true, if_false, if_true]

/-- A full slice refuses a request with its next ticket, and REFUSE counts it. -/
theorem exec_ticketedRequest_refused (hm : ¬ ∃ t ∈ (s.colOf ld.toNat n.toNat).slice.tickets, t.req.port = port)
    (hbusy : 448 ≤ (s.colOf ld.toNat n.toNat).slice.busy) :
    ∃ t, exec (.ticketedRequest ⟨ld, n⟩ ⟨port, tag, .arrive⟩) s = .next t
      ∧ (t.colOf ld.toNat n.toNat).slice = (s.colOf ld.toNat n.toNat).slice.refuse (.outside port tag)
      ∧ (t.ldOf ld.toNat).memerr = addMemerr (s.ldOf ld.toNat).memerr 0 := by
  refine ⟨_, exec_ticketedRequest_arrive hb hl hh port tag, ?_⟩
  simp only [mt Slice.holds_iff.mp hm, Nat.not_lt.mpr hbusy, Bool.false_eq_true, if_false, State.ldOf_countMem, State.ldOf_setCol,
    if_true, and_true]
  exact congrArg Column.slice (s.colOf_setCol ld.toNat n.toNat _)

theorem exec_ticketedRequest_accepted (hbusy : (s.colOf ld.toNat n.toNat).slice.busy < 448)
    (hq : ∃ t, (s.colOf ld.toNat n.toNat).slice.tickets.head? = some t ∧ t.req = .outside port tag) :
    exec (.ticketedRequest ⟨ld, n⟩ ⟨port, tag, .again⟩) s = .next (s.setCol ld.toNat n.toNat { s.colOf ld.toNat n.toNat with
      slice := { (s.colOf ld.toNat n.toNat).slice with
        busy := (s.colOf ld.toNat n.toNat).slice.busy + 1
        tickets := (s.colOf ld.toNat n.toNat).slice.tickets.filter fun t => t.req ≠ .outside port tag } }) :=
  (exec_ticketedRequest_again hb hl hh port tag).trans (congrArg _ (if_pos (Slice.ticket_accepted_iff.mpr ⟨hbusy, hq⟩)))

theorem exec_ticketedRequest_waits
    (hno : (∀ t, (s.colOf ld.toNat n.toNat).slice.tickets.head? = some t → t.req ≠ .outside port tag)
      ∨ 448 ≤ (s.colOf ld.toNat n.toNat).slice.busy) :
    exec (.ticketedRequest ⟨ld, n⟩ ⟨port, tag, .again⟩) s = .next s := by
  refine (exec_ticketedRequest_again hb hl hh port tag).trans (congrArg _ (if_neg fun hc => ?_))
  obtain ⟨hbusy, t, ht, hreq⟩ := Slice.ticket_accepted_iff.mp hc
  rcases hno with hno | hfull
  · exact hno t ht hreq
  · exact Nat.not_lt.mpr hfull hbusy

end

/-! The directory and the command parity of a channel (R324, R336). -/

theorem exec_directoryEviction (pa : BitVec 56) (s : State) :
    exec (.directoryEviction pa) s = .next { s with
      copies := s.copies.filter fun c => ! decide (c.line = pa.toNat / 64)
        || (decide (c.ld.toNat = pa.toNat / 64 * 64 / 2 ^ 38) && decide (c.col.toNat = s.homeCol (pa.toNat / 64))) } := by
  show execDirectoryEviction pa s = _
  simp only [execDirectoryEviction, State.evictDirectory, ne_eq, decide_not]

/-- A report changes neither the channels of an LD nor REPLACE. -/
theorem State.ldOf_postError (s : State) (ld kind stall info : Nat) :
    ((s.postError ld kind stall info).ldOf ld).channels = (s.ldOf ld).channels
      ∧ ((s.postError ld kind stall info).ldOf ld).replace = (s.ldOf ld).replace := by
  unfold State.postError
  dsimp only
  split <;> simp only [State.ldOf_setLd, and_self]

/-- The channels of an LD once the alerts on one command of a channel are k. -/
def LdState.alerted (d : LdState) (ch k : Nat) : LdState :=
  { d with channels := d.channels.set (0, false) ch (k, decide (5 ≤ k)) }

section
variable {s : State} {ld : BitVec 2} {ch : BitVec 9} {again : Bool}

theorem exec_parityAlert_failed (hx : ((s.ldOf ld.toNat).channels.get (0, false) ch.toNat).2 = true) :
    exec (.parityAlert ld ch again) s = .next s := by
  show execParityAlert ld ch again s = _
  simp only [execParityAlert, hx, if_true]

/-- The fifth alert on one command marks the channel failed and raises REPLACE; an earlier one counts in MEMERR. -/
theorem exec_parityAlert_counts (hx : ((s.ldOf ld.toNat).channels.get (0, false) ch.toNat).2 = false) {k : Nat}
    (hk : k = if again then ((s.ldOf ld.toNat).channels.get (0, false) ch.toNat).1 + 1 else 1) :
    exec (.parityAlert ld ch again) s = .next (
      let t := s.setLd ld.toNat ((s.ldOf ld.toNat).alerted ch.toNat k)
      if 5 ≤ k then t.raiseReplace ld.toNat else t.countMem ld.toNat 16) := by
  show execParityAlert ld ch again s = _
  unfold execParityAlert
  simp only [hx, Bool.false_eq_true, if_false, ← hk, LdState.alerted]
  split
  · next h => rw [decide_eq_true h]
  · next h => rw [decide_eq_false h]

theorem exec_parityAlert_alive (hx : ((s.ldOf ld.toNat).channels.get (0, false) ch.toNat).2 = false) {k : Nat}
    (hk : k = if again then ((s.ldOf ld.toNat).channels.get (0, false) ch.toNat).1 + 1 else 1) :
    ∃ t, exec (.parityAlert ld ch again) s = .next t ∧ t.mem = s.mem
      ∧ (t.ldOf ld.toNat).channels.get (0, false) ch.toNat = (k, decide (5 ≤ k))
      ∧ (5 ≤ k → (t.ldOf ld.toNat).replace = true)
      ∧ (k < 5 → (t.ldOf ld.toNat).memerr = addMemerr (s.ldOf ld.toNat).memerr 16) := by
  refine ⟨_, exec_parityAlert_counts hx hk, ?_⟩
  by_cases h : 5 ≤ k
  · simp only [if_pos h, State.raiseReplace, State.ldOf_postError, State.postError_mem, State.ldOf_setLd, State.setLd_mem,
      LdState.alerted, Cells.get_set_self, implies_true, true_and]
    exact fun hlt => absurd h (Nat.not_le.mpr hlt)
  · simp only [if_neg h, State.ldOf_countMem, State.countMem_mem, State.ldOf_setLd, State.setLd_mem, LdState.alerted,
      Cells.get_set_self, if_true, implies_true, true_and, and_true]
    exact fun hle => absurd hle h

end

/-- Settles O46, clause by clause: each event that meets a plain line is served at once, and the rule of its event says what it
changes there. -/
theorem homeEvents : Obligations.HomeEvents := by
  unfold Obligations.HomeEvents
  refine ⟨fun s h pa data ld allow op => ⟨fun hu => ?_, fun hu ha => ?_, fun hu ha => ?_, fun l c => ?_, fun hu ha hd hn hp => ?_,
    fun hu ha hp hn => ?_, fun hu ha hw ho hb hk hl v hv hr => ?_, fun n c hu ha hp hl hday hhome hcol => ?_⟩,
    fun s pa ld h n p ch again errs port tag => ⟨?_, fun hu ha hp hn k hk hfit => ?_, fun hplace hl hagain hp hc => ?_,
      fun hu ha hh hr hb hf hno => ?_, ⟨?_, ?_⟩, ?_, ?_⟩⟩
  · exact ⟨congrArg Host.Outcome.next (State.asHart_down hu _), congrArg Host.Outcome.next (State.asHart_down hu _)⟩
  · exact ⟨congrArg Host.Outcome.next (State.asHart_waits hu ha _), congrArg Host.Outcome.next (State.asHart_waits hu ha _)⟩
  · exact ⟨exec_hartOwnershipRequest_refused hu ha pa op, exec_storeAtHome_runs hu ha false pa⟩
  · exact exec_columnScopeStore_plain
  · exact (exec_storeAtHome_runs hu ha true pa hd hn).trans (congrArg _ (State.hartStore_plain hp hn))
  · have hh : s.homeOf pa.toNat = some ld := hp.homeOf
    refine ⟨exec_own_obtained hu ha hh (State.obtain_plain hp hn), fun v hd => ?_⟩
    exact (exec_hartStore_cached hu ha hh (List.cons_ne_nil v []) (by simp only [List.length_singleton]; omega)).trans
      (congrArg _ (State.hartCached_plain hp hn hd v))
  · exact exec_clean_owned hu ha (State.homeOf_eq_some.mpr ⟨hk, ho, hb⟩) hv
      (fun x hx => by simpa using (List.mem_filter.mp hx).2) hr hw hl
  · exact exec_flush_launches hu ha hp hl hday hhome hcol
  · exact exec_readAtHome_port
  · exact exec_readAtHome_hart hu ha hp hn hk hfit
  · subst hplace
    exact ⟨exec_readAtHome_corrects hl hagain hp hc, exec_readAtHome_poisons hl hagain hp hc⟩
  · obtain ⟨t, ht, hsole⟩ := State.obtain_sole hh hr hb hf hno
    exact ⟨t, exec_own_obtained hu ha hh ht, hsole⟩
  · exact fun hb act => exec_ticketedRequest_reset hb n _
  · intro hb hl hh
    refine ⟨exec_ticketedRequest_held hb hl hh port tag, exec_ticketedRequest_tracked hb hl hh port tag,
      exec_ticketedRequest_refused hb hl hh port tag, ?_, exec_ticketedRequest_waits hb hl hh port tag,
      exec_ticketedRequest_done hb hl hh port tag⟩
    rintro hbusy ⟨k, r, hq⟩
    exact exec_ticketedRequest_accepted hb hl hh port tag hbusy ⟨_, by rw [hq, List.head?_cons], rfl⟩
  · exact exec_directoryEviction pa s
  · exact ⟨exec_parityAlert_failed, fun hx => exec_parityAlert_alive hx rfl⟩

end Sys2Proof.Machine
end

section
/-! SUPPORT. Words: the decoder gives every well-formed instruction back from its word, and reads the words of the manual's formats
(R33 to R37, R58 to R61). -/

namespace Sys2Proof.Laws.Words

/-- The round trip of the fields, one lemma for each constructor in their order. -/
theorem decodeFields_encode (i : Instr) : Statement i :=
  Instr.casesOn (motive := Statement) i
    hintImm hintImmh hintRc hintRep hintMod hintCp hintSch hintKv add sub mul mulh mulhn div divn rem remn and or xor andn shl shr
    sar rol min max minn maxn clz ctz popc sextB sextH sextW bfx bfi mov cmpEq cmpNe cmpLt cmpLe cmpLtn cmpLen sel addi andi ori
    xori shli shri sari slti sltni li adr sldB64 sldB32 sstB64 sstB32 sldSt sstSt casm claim br brAny brAll brNone brd call rsr wsr
    trap tret fenceAcq fenceRel fenceFull wait waitr nap refill exitI succ succClr retire yield jr stkSave stkLoad acget acset qdrop
    vadd vsub vmul vmulh vmulhn vmad vmin vmax vminn vmaxn vabs vand vor vxor vandn vshl vshr vsar vrol vclz vpopc vaddsat vsubsat
    vaddsatn vsubsatn vdot4 vdot4n vmov vbfx vbfi vaddX vsubX vmulX vmulhX vmulhnX vmadX vminX vmaxX vminnX vmaxnX vandX vorX vxorX
    vandnX vshlX vshrX vsarX vrolX vaddsatX vsubsatX vaddsatnX vsubsatnX vdot4X vdot4nX vmovs vbfxX vbfiX vfadd vfsub vfmul vffma
    vffms vfmin vfmax vfabs vfneg vfrnd vfclass vfscl vfcpys vfaddX vfsubX vfmulX vffmaX vffmsX vfminX vfmaxX vfsclX vfcpysX
    vhaddF16 vhmulF16 vhfmaF16 vhaddBf16 vhmulBf16 vhfmaBf16 vhminF16 vhmaxF16 vhminBf16 vhmaxBf16 vhdot2Bf16 vcmp vsel vrcp vrsq
    vsqrt vex2 vlg2 vsin vcos vtanh vdiv vshfl vshflx vbcast vredAdd vredMin vredMax vredAnd vredOr vredXor vscanAdd vscanAddf
    vballot vtopk vcompact vcvt vqnt vscl vi4xe vi4xd ld ldB32St ldB64St ldp st stB32St gath atomCo atomCl atomCm atomLd atomPk
    atomSy bld bst batomAdd batomMin batomMax batomExch batomCas barInit barArw barArrive barWait barJoin barDrop mma mmas mdist
    mtopk mrel tcfg tzero trow tcol tsetr tsetc tld tst tsave tload tdrop cpy cpy2d mlr mst cpyw cpya cpyo itemTake startTake
    warpRetirement successorStart popAtArrival fairSwap napExpiry allowanceCycle ldpReply gatherCompletion entryCreation
    arbiterGrant passCompletion copyCompletion mlrCompletion asyncReportTrap launchRecord kernelObjectRead gangPlacement
    timeSliceExpiry preemption workgroupSave gangRestore earlyEnd queueCancel queueSuspend storeAtHome ticketedRequest
    columnScopeStore readAtHome hartOwnershipRequest directoryEviction parityAlert pageWalk faultPost consStore resumeRetry
    resumeAbort vxinvalStall vxinvalPage vxinvalGpage vxinvalAll vxpooltopWrite peerRequest inboundPortRequest flitCrcMismatch
    laneTest enterTraining trainingComplete trainingTimeout portEnable portDisable fenceCompletion governorEvaluation thermalTrip
    quiescePoint vxgovWrite clusterGating wakeEnd timingErrorReplay stallEnd vxerrPop computeDieFailure baseDieFailure coresLost
    baseDiePartLost firstLight attestationRequest rgnctlWrite csrWrite tick

/-- The decoder answers the instruction that the fields name when it is well formed (R37). -/
theorem decode_encode {i : Instr} (h : i.wellFormed = true) {w : Word} (hw : encode i = some w) : decode w = .ok i := by
  rw [decode, decodeFields_encode i h w hw]
  exact if_pos h

end Sys2Proof.Laws.Words

namespace Sys2Proof

/-- The number of a word made of bytes (R33). -/
theorem toNat_wordOf (b0 b1 b2 b3 : Byte) :
    (wordOf b0 b1 b2 b3).toNat = b0.toNat + 256 * (b1.toNat + 256 * (b2.toNat + 256 * b3.toNat)) := by
  unfold wordOf
  simp only [BitVec.toNat_append]
  repeat rw [← Nat.shiftLeft_add_eq_or_of_lt (by omega)]
  omega

/-- A word is its four bytes (R33). -/
theorem wordOf_bytes (w : Word) :
    wordOf (w.extractLsb' 0 8) (w.extractLsb' 8 8) (w.extractLsb' 16 8) (w.extractLsb' 24 8) = w := by
  apply BitVec.eq_of_toNat_eq
  simp only [toNat_wordOf, BitVec.extractLsb'_toNat]
  omega

/-- Settles O53: the fields of an encoded word name its instruction, constructor by constructor, and a word is its bytes. -/
theorem encodedWordsDecode : Obligations.EncodedWordsDecode := fun _ w h hw => ⟨Laws.Words.decode_encode h hw, wordOf_bytes w⟩

/-- Settles O54: each word is read field by field. -/
theorem decodedWords : Obligations.DecodedWords := by
  refine ⟨rfl, rfl, rfl, rfl, rfl, rfl, rfl, rfl, rfl, rfl, rfl, rfl, rfl, rfl, rfl, rfl, rfl, rfl, rfl⟩

end Sys2Proof
end

section
/-! SUPPORT. Trap units: the checks that every target makes before its body, the hints that a target accepts, and hint words (R47 to
R57). -/

namespace Sys2Proof.Machine

/-! The checks of a target, in the order of R57. -/

/-- The state t to which a unit leads from s when step 2, 3 or 4 of R57 stops it. -/
structure StoppedByChecks (modBits : Nat) (acc : List Nat) (needRc priv : Bool) (s t : State) : Prop where
  illegal : ∀ x, s.badWord modBits = some x → t = s.trap 0x01 (x.zeroExtend 64)
  denied : s.badWord modBits = none → priv = true → t = s.trap 0x0E 0
  unaccepted : ∀ o, s.badWord modBits = none → priv = false → mismatch acc needRc s.w.hints = some o →
    t = s.trap 0x03 (BitVec.ofNat 64 o)

/-- Every trap unit makes the checks, whatever its body; so do the forms that units share. -/
theorem unitMod_checks (m : Nat) (acc : List Nat) (rc priv : Bool) (body : State → Except Stop Eff) (s : State) :
    StoppedByChecks m acc rc priv s (unitMod m acc rc priv body s) where
  illegal _ h := unitMod_illegal h
  denied h hp := by subst hp; exact unitMod_denied h
  unaccepted _ h hp ho := by subst hp; exact unitMod_mismatch h ho

theorem unit_checks (acc : List Nat) (rc priv : Bool) (body : State → Except Stop Eff) (s : State) :
    StoppedByChecks 22 acc rc priv s (unit acc rc priv body s) := unitMod_checks ..

theorem scalarUnit_checks (acc : List Nat) (d : Nat) (pre : State → Except Stop Unit) (f : Warp → DWord) (s : State) :
    StoppedByChecks 22 acc false false s (scalarUnit acc d pre f s) := unit_checks ..

theorem vectorUnit_checks (acc : List Nat) (la : Nat) (runs : List (Nat × Nat)) (srcs : List Nat) (pre : State → Except Stop Unit)
    (body : State → Nat → Warp → List RegWrite × BitVec 8) (s : State) :
    StoppedByChecks 22 acc false false s (vectorUnit acc la runs srcs pre body s) := unit_checks ..

theorem fpUnit_checks (d a : BitVec 7) (o : SecondOp) (rnd : Bool)
    (body : Warp → Nat → (Nat → Word) → (Nat → Word) → (Nat → Word) → List RegWrite × BitVec 8) (s : State) {acc : List Nat}
    (ho : o.acc = acc) : StoppedByChecks 22 acc false false s (fpUnit d a o rnd body s) := by
  subst ho
  exact vectorUnit_checks ..

theorem convertUnit_checks (l : BitVec 4) (d a : BitVec 7) (ns nd : Nat) (pre : State → Except Stop Unit)
    (body : Warp → Nat → (Nat → List Word) → List (List Word) × BitVec 8) (s : State) :
    StoppedByChecks 22 [3] false false s (convertUnit l d a ns nd pre body s) := vectorUnit_checks ..

theorem crossUnit_checks (l : BitVec 4) (d a : BitVec 7) (m : BitVec 3) (pair : Bool) (pre : State → Except Stop Unit)
    (f : Warp → Mask → (Nat → Word) → (Nat → Word) → (Nat → Word) × BitVec 8) (s : State) :
    StoppedByChecks 22 [] false false s (crossUnit l d a m pair pre f s) := vectorUnit_checks ..

theorem tileUnit_checks (c : BitVec 4) (body : State → Except Stop Eff) (s : State) :
    StoppedByChecks 22 [] false false s (tileUnit c body s) := unit_checks ..

theorem convert_checks (dst src : Fmt) (l : BitVec 4) (d a : BitVec 7) (s : State) :
    StoppedByChecks 22 [3] false false s (convert dst src l d a s) := by
  unfold convert
  dsimp only
  exact convertUnit_checks ..

/-- An atomic of a listed function is a unit (R309). -/
theorem atomUnit_checks (op : Nat) (g l f : BitVec 4) (d a : BitVec 7) (s : State) (hf : f.toNat < 15) :
    StoppedByChecks 22 [5] false false s (atomUnit op g l f d a s) := by
  unfold atomUnit
  rw [if_neg (by rintro rfl; exact absurd hf (by decide))]
  exact unit_checks ..

/-- Codes 0 to 8 name formats (R159). -/
theorem Fmt.ofCode_listed {n : Nat} (h : n < 9) : ∃ f, Fmt.ofCode n = some f := by
  interval_cases n <;> exact ⟨_, rfl⟩

/-- A well-formed compare names a condition and a type that are listed (R149, R151). -/
theorem condReserved_of_wellFormed {c : BitVec 4} {d : BitVec 6} {a b : BitVec 7} {t : BitVec 2}
    (h : (Instr.vcmp c d a b t).wellFormed = true) : condReserved c.toNat t.toNat = false := by
  simp only [Instr.wellFormed, Bool.and_eq_true, Bool.or_eq_true, decide_eq_true_eq, beq_iff_eq] at h
  obtain ⟨⟨hc, ht⟩, h6⟩ := h
  have : 6 ≤ c.toNat → t.toNat = 2 := fun hn => h6.elim (by omega) (by rintro rfl; rfl)
  simp [condReserved]
  omega

/-- Every target makes the checks of R57 with the MOD width, the kinds, the RC hint and the privilege of R48, R49 and R126. -/
theorem exec_checks (i : Instr) (s : State) (ht : isTarget i = true) (hw : i.wellFormed = true) (hn : namesRegister i = true) :
    ∃ t, exec i s = .next t ∧ StoppedByChecks (modWidth i) (acceptedKinds i) (needsRc i) (s.deniedTo i) s t := by
  cases i with
  | add | sub | mul | mulh | mulhn | div | divn | rem | remn | and | or | xor | andn | shl | shr | sar | rol | min | max | minn
  | maxn | clz | ctz | popc | sextB | sextH | sextW | bfx | bfi | mov | cmpEq | cmpNe | cmpLt | cmpLe | cmpLtn | cmpLen | sel
  | addi | andi | ori | xori | shli | shri | sari | slti | sltni | li | adr =>
    exact ⟨_, rfl, scalarUnit_checks ..⟩
  | vadd | vsub | vmul | vmulh | vmulhn | vmad | vmin | vmax | vminn | vmaxn | vabs | vand | vor | vxor | vandn | vshl | vshr
  | vsar | vrol | vclz | vpopc | vaddsat | vsubsat | vaddsatn | vsubsatn | vdot4 | vdot4n | vmov | vbfx | vbfi | vaddX | vsubX
  | vmulX | vmulhX | vmulhnX | vmadX | vminX | vmaxX | vminnX | vmaxnX | vandX | vorX | vxorX | vandnX | vshlX | vshrX | vsarX
  | vrolX | vaddsatX | vsubsatX | vaddsatnX | vsubsatnX | vdot4X | vdot4nX | vmovs | vbfxX | vbfiX | vfabs | vfneg | vsel | vrcp
  | vrsq | vsqrt | vex2 | vlg2 | vsin | vcos | vtanh | vdiv | vscanAddf | vballot =>
    exact ⟨_, rfl, vectorUnit_checks ..⟩
  | vfadd | vfsub | vfmul | vffma | vffms | vfmin | vfmax | vfrnd | vfclass | vfscl | vfcpys | vfaddX | vfsubX | vfmulX | vffmaX
  | vffmsX | vfminX | vfmaxX | vfsclX | vfcpysX | vhaddF16 | vhmulF16 | vhfmaF16 | vhaddBf16 | vhmulBf16 | vhfmaBf16 | vhminF16
  | vhmaxF16 | vhminBf16 | vhmaxBf16 | vhdot2Bf16 =>
    exact ⟨_, rfl, fpUnit_checks _ _ _ _ _ s rfl⟩
  | vshfl | vshflx | vbcast | vredAdd | vredMin | vredMax | vredAnd | vredOr | vredXor | vscanAdd | vcompact =>
    exact ⟨_, rfl, crossUnit_checks ..⟩
  | tcfg | tzero | trow | tcol | tsetr | tsetc | tld | tst | tsave | tload | tdrop =>
    exact ⟨_, rfl, tileUnit_checks ..⟩
  | sldB64 | sldB32 | sstB64 | sstB32 | sldSt | sstSt | casm | claim | br | brAny | brAll | brNone | brd | call | trap | fenceAcq
  | fenceRel | fenceFull | wait | waitr | nap | refill | exitI | succ | succClr | retire | yield | jr | stkSave | stkLoad | acget
  | acset | qdrop | ld | ldB32St | ldB64St | ldp | st | stB32St | gath | batomAdd | batomMin | batomMax | batomExch | batomCas
  | barInit | barArw | barArrive | barWait | barJoin | barDrop | mma | mmas | mdist | mrel | cpy | cpy2d | mlr | mst | cpyw | cpya
  | cpyo =>
    exact ⟨_, rfl, unit_checks ..⟩
  | atomCo | atomCl | atomCm | atomLd | atomPk | atomSy => exact ⟨_, rfl, atomUnit_checks _ _ _ _ _ _ s (of_decide_eq_true hw)⟩
  | vtopk | mtopk => exact ⟨_, rfl, unitMod_checks ..⟩
  | vqnt | vscl | vi4xe | vi4xd => exact ⟨_, rfl, convertUnit_checks ..⟩
  | vcvt t l d a sr =>
    obtain ⟨ht, hs⟩ := Bool.and_eq_true_iff.mp hw
    obtain ⟨x, hx⟩ := Fmt.ofCode_listed (of_decide_eq_true ht)
    obtain ⟨y, hy⟩ := Fmt.ofCode_listed (of_decide_eq_true hs)
    refine ⟨_, rfl, ?_⟩
    simp only [hx, hy]
    exact convert_checks ..
  | vcmp c d a b t =>
    refine ⟨_, rfl, ?_⟩
    rw [if_neg (by rw [condReserved_of_wellFormed hw]; exact Bool.false_ne_true)]
    exact vectorUnit_checks ..
  | bld _ _ _ _ w | bst _ _ _ _ w =>
    refine ⟨_, rfl, ?_⟩
    rw [if_neg (by rintro rfl; exact Bool.noConfusion hw)]
    exact unit_checks ..
  | rsr _ n =>
    refine ⟨_, rfl, ?_⟩
    rw [if_pos (show srAssigned n.toNat = true from hn)]
    exact unit_checks ..
  | wsr n b =>
    refine ⟨_, rfl, ?_⟩
    rw [if_pos (show srAssigned n.toNat = true from hn), srPrivileged_and_eq_deniedTo s n b]
    exact unit_checks ..
  | tret =>
    refine ⟨_, rfl, ?_⟩
    rw [show s.deniedTo .tret = decide (¬ s.w.inh = true) by simp [State.deniedTo]]
    exact unit_checks ..
  | _ => exact Bool.noConfusion ht

/-! The hints that a target accepts (R49). -/

/-- The words of a unit break no rule of R49 for a target that accepts the kinds acc, apart from the RC hint that it may need. -/
theorem mismatchAux_eq_none (acc : List Nat) (hasImm : Bool) (seen ks : List Nat) (o : Nat) :
    mismatchAux acc hasImm seen ks o = none ↔
      (∀ k ∈ ks, k ∈ acc ∨ k = 6) ∧ ks.Nodup ∧ (∀ k ∈ ks, k ∉ seen) ∧ (1 ∈ ks → hasImm = true) := by
  induction ks generalizing seen o with
  | nil => simp [mismatchAux]
  | cons k r ih =>
    rw [mismatchAux]
    simp only [List.contains_eq_mem, decide_eq_true_eq]
    split
    · next h => simp only [reduceCtorEq, false_iff]; grind
    · next h => rw [ih]; grind

/-- Where every kind is accepted and IMM is given, the first offender is the first kind that stands before. -/
theorem mismatchAux_allKinds (seen ks : List Nat) (o : Nat) (h : ∀ k ∈ ks, k < 8) :
    mismatchAux [0, 1, 2, 3, 4, 5, 7] true seen ks o =
      ((List.range ks.length).find? fun j => seen.contains (ks.getD j 8) || (ks.take j).contains (ks.getD j 8)).map (o + 4 * ·) := by
  induction ks generalizing seen o with
  | nil => rfl
  | cons k r ih =>
    obtain ⟨hk, hr⟩ := List.forall_mem_cons.mp h
    have hacc : ¬ (¬ [0, 1, 2, 3, 4, 5, 7].contains k = true ∧ k ≠ 6) := by interval_cases k <;> decide
    rw [mismatchAux, List.length_cons, List.range_succ_eq_map, List.find?_cons, List.find?_map, ih _ _ hr]
    simp only [hacc, not_true_eq_false, and_false, or_false, false_or, List.getD_cons_zero, List.take_zero, List.contains_nil,
      Bool.or_false]
    cases seen.contains k with
    | true => rfl
    | false =>
      simp only [Function.comp_def, Option.map_map, List.getD_cons_succ, List.take_succ_cons, List.contains_cons, Nat.mul_succ,
        Bool.or_assoc, Bool.or_left_comm (seen.contains _), Bool.false_eq_true, if_false]
      congr 1
      funext j
      omega

theorem hintKind_lt (h : Hint) : hintKind h < 8 := by cases h <;> simp [hintKind]

/-- The hints that a target accepts (R49). -/
theorem mismatch_eq_none (acc : List Nat) (needRc : Bool) (hs : List Hint) :
    mismatch acc needRc hs = none ↔
      (∀ h ∈ hs, hintKind h ∈ acc ∨ hintKind h = 6) ∧ (hs.map hintKind).Nodup
        ∧ (1 ∈ hs.map hintKind → 0 ∈ hs.map hintKind) ∧ (needRc = true → 2 ∈ hs.map hintKind) := by
  rw [← List.forall_mem_map (P := fun k => k ∈ acc ∨ k = 6), mismatch]
  generalize hs.map hintKind = ks
  have haux := mismatchAux_eq_none acc (ks.contains 0) [] ks 0
  simp only [List.not_mem_nil, not_false_eq_true, implies_true, true_and, List.contains_eq_mem, decide_eq_true_eq] at haux
  simp only [List.contains_eq_mem, decide_eq_true_eq]
  rw [← and_assoc, ← and_assoc, and_assoc (a := ∀ k ∈ ks, _), ← haux]
  cases mismatchAux acc (decide (0 ∈ ks)) [] ks 0 with
  | some o => simp
  | none => simp

/-! Hint words (R47, R49). -/

theorem addHint_joins {s : State} (h : Hint) (hs : s.w.hints.length < 4) :
    addHint h s = { s with w := { s.w with hints := s.w.hints ++ [h], pc := s.w.pc + 4 } } := if_pos hs

/-- A fifth hint word ends its unit: at the first illegal word, -/
theorem addHint_fifth_illegal {s : State} (h : Hint) (hs : s.w.hints.length = 4) {x : Nat × Word} (hb : s.w.badHint = some x) :
    addHint h s = s.trap 0x01 (x.2.zeroExtend 64) := by
  unfold addHint
  rw [if_neg (by omega), hb]

/-- else at the first duplicated kind, else at itself. -/
theorem addHint_fifth_mismatch {s : State} (h : Hint) (hs : s.w.hints.length = 4) (hb : s.w.badHint = none) :
    addHint h s =
      s.trap 0x03 (BitVec.ofNat 64 (4 * ((List.range 5).find? fun j =>
        (((s.w.hints ++ [h]).map hintKind).take j).contains (((s.w.hints ++ [h]).map hintKind).getD j 8)).getD 4)) := by
  have hlen : ((s.w.hints ++ [h]).map hintKind).length = 5 := by simp [hs]
  have hks : ∀ k ∈ (s.w.hints ++ [h]).map hintKind, k < 8 := List.forall_mem_map.mpr fun x _ => hintKind_lt x
  unfold addHint
  rw [if_neg (by omega), mismatchAux_allKinds [] _ 0 hks, hlen, hb]
  simp only [List.contains_nil, Bool.false_or]
  cases (List.range 5).find? _ <;> simp

theorem execHintCp_listed {p : BitVec 3} (z : BitVec 16) (s : State) (hp : p.toNat < 4) :
    exec (.hintCp p z) s = .next (addHint (.cp p z) s) := congrArg Host.Outcome.next (if_pos hp)

/-- Settles O1: the checks by the shape of each target, the accepted hints by induction on them, hint words by their count. -/
theorem unitChecks : Obligations.UnitChecks := by
  refine ⟨fun i s ht hw hn => ?targets, mismatch_eq_none, fun s hs => ?joins, fun s i h hs hi => ?fifth⟩
  case targets =>
    obtain ⟨t, he, hc⟩ := exec_checks i s ht hw hn
    rw [he]
    exact ⟨fun x hx => congrArg _ (hc.illegal x hx), fun hb hd => congrArg _ (hc.denied hb hd),
      fun o hb hd ho => congrArg _ (hc.unaccepted o hb hd ho)⟩
  case joins =>
    have join := fun h : Hint => congrArg (Host.Outcome.next (φ := Fault) (ρ := Refusal)) (addHint_joins h hs)
    exact ⟨fun p => join (.imm p), fun p => join (.immh p), fun o => join (.rc o), fun t n => join (.rep t n), fun p => join (.mod p),
      fun p z hp => (execHintCp_listed z s hp).trans (join (.cp p z)), fun c => join (.sch c), fun k => join (.kv k)⟩
  case fifth =>
    have hadd : exec i s = .next (addHint h s) := by
      rcases hi with ⟨p, rfl, rfl⟩ | ⟨p, rfl, rfl⟩ | ⟨o, rfl, rfl⟩ | ⟨t, n, rfl, rfl⟩ | ⟨p, rfl, rfl⟩ | ⟨p, z, hp, rfl, rfl⟩
        | ⟨c, rfl, rfl⟩ | ⟨k, rfl, rfl⟩
      case inr.inr.inr.inr.inr.inl => exact execHintCp_listed z s hp
      all_goals rfl
    rw [hadd]
    cases hb : s.w.badHint with
    | some x => exact congrArg _ (addHint_fifth_illegal h hs hb)
    | none => exact congrArg _ (addHint_fifth_mismatch h hs hb)

end Sys2Proof.Machine
end

section
/-! SUPPORT. The SI forms: their immediate, and the value that each writes (R50, R115 to R117). -/

namespace Sys2Proof.Machine

/-- The number of a bit vector put above another. -/
theorem toNat_append_eq {m n : Nat} (x : BitVec m) (y : BitVec n) : (x ++ y).toNat = x.toNat * 2 ^ n + y.toNat := by
  rw [BitVec.toNat_append, ← Nat.shiftLeft_add_eq_or_of_lt y.isLt, Nat.shiftLeft_eq]

/-- The immediate of an SI form as its hints widen it (R50). -/
theorem Warp.imm_eq_siImm (w : Warp) (i : BitVec 10) : w.imm 10 i.toNat = w.siImm i := by
  unfold Warp.imm Warp.siImm
  cases w.hintImm with
  | none => simp only [signed_toNat]; rfl
  | some p =>
    cases w.hintImmh with
    | none => simp only [← toNat_append_eq, signed_toNat]; rfl
    | some h =>
      have hn : (h ++ p ++ i : BitVec 54).toNat = h.toNat * 2 ^ 32 + p.toNat * 2 ^ 10 + i.toNat := by
        rw [toNat_append_eq, toNat_append_eq]; omega
      simp only [← hn, signed_toNat]
      rfl

/-- An SI form whose immediate passes its check writes its value; any other takes the illegal-operand trap (R116, R117). -/
theorem siOp_eq {s : State} (h : s.accepts 22 [0, 1] false) (d a : BitVec 6) (i : BitVec 10) (pre : DWord → Bool)
    (f : DWord → DWord → DWord) :
    siOp d a i pre f s =
      if pre (s.w.siImm i) = true then s.computed [.s d.toNat (f (s.w.s a.toNat) (s.w.siImm i))] else s.trap 0x02 0 := by
  unfold siOp scalarUnit
  rw [← Warp.imm_eq_siImm]
  cases hp : pre (s.w.imm 10 i.toNat) with
  | true =>
    rw [if_pos rfl, unit_ok h (by simp only [(need_ok _ _).mpr hp]; rfl)]
    exact finish_computed s _
  | false => exact unit_trap h (by simp only [need, hp]; rfl)

theorem siOp_unchecked {s : State} (h : s.accepts 22 [0, 1] false) (d a : BitVec 6) (i : BitVec 10) (f : DWord → DWord → DWord) :
    siOp d a i (fun _ => true) f s = s.computed [.s d.toNat (f (s.w.s a.toNat) (s.w.siImm i))] := siOp_eq h d a i _ f

/-- An immediate lies from 0 to 63 exactly when its number is below 64 (R117). -/
theorem shiftCount_iff (x : DWord) : decide (x.toNat < 64) = true ↔ 0 ≤ x.toInt ∧ x.toInt ≤ 63 := by
  rw [decide_eq_true_eq, BitVec.toInt_eq_toNat_cond]
  split <;> omega

theorem siOp_shift {s : State} (h : s.accepts 22 [0, 1] false) (d a : BitVec 6) (i : BitVec 10) (f : DWord → DWord → DWord) :
    siOp d a i (fun I => I.toNat < 64) f s =
      if 0 ≤ (s.w.siImm i).toInt ∧ (s.w.siImm i).toInt ≤ 63
      then s.computed [.s d.toNat (f (s.w.s a.toNat) (s.w.siImm i))] else s.trap 0x02 0 := by
  rw [siOp_eq h, if_congr (shiftCount_iff _) rfl rfl]

/-! The values, in exact arithmetic. -/

theorem ofInt_toInt_add (x y : DWord) : BitVec.ofInt 64 (x.toInt + y.toInt) = x + y := by
  rw [BitVec.ofInt_add, BitVec.ofInt_toInt, BitVec.ofInt_toInt]

theorem shiftLeft_eq_ofNat (x : DWord) (n : Nat) : x <<< n = BitVec.ofNat 64 (x.toNat * 2 ^ n) := by
  apply BitVec.eq_of_toNat_eq
  rw [BitVec.toNat_shiftLeft, BitVec.toNat_ofNat, Nat.shiftLeft_eq]

theorem ushiftRight_eq_ofNat (x : DWord) (n : Nat) : x >>> n = BitVec.ofNat 64 (x.toNat / 2 ^ n) := by
  apply BitVec.eq_of_toNat_eq
  rw [BitVec.toNat_ushiftRight, BitVec.toNat_ofNat, Nat.shiftRight_eq_div_pow,
    Nat.mod_eq_of_lt ((Nat.div_le_self _ _).trans_lt x.isLt)]

theorem sshiftRight_eq_ofInt (x : DWord) (n : Nat) : x.sshiftRight n = BitVec.ofInt 64 (x.toInt / 2 ^ n) := by
  rw [← BitVec.ofInt_toInt (x := x.sshiftRight n), BitVec.toInt_sshiftRight, Int.shiftRight_eq_div_pow]
  norm_num

theorem ofBool_decide_eq_oneIf (p : Prop) [Decidable p] : ofBool (decide p) = oneIf p := by
  unfold ofBool oneIf
  split <;> simp_all

/-- The address that `adr` gives: words from the PC, modulo 2^48 (R38, R116). -/
theorem adr_value (pc : BitVec 48) (x : DWord) :
    (pc + (x * 4).truncate 48).zeroExtend 64 = BitVec.ofInt 64 (((pc.toNat : Int) + x.toInt * 4) % 2 ^ 48) := by
  apply BitVec.eq_of_toNat_eq
  have hx := BitVec.toInt_eq_toNat_cond x
  simp only [BitVec.truncate_eq_setWidth, BitVec.toNat_setWidth, BitVec.toNat_add, BitVec.toNat_mul, BitVec.toNat_ofInt,
    show (4 : DWord).toNat = 4 from rfl]
  split at hx <;> omega

/-- Settles O3: the immediate widens as R50 says, and each form's value is the one of its table. -/
theorem immediateResults : Obligations.ImmediateResults := by
  refine ⟨fun s d a i h => ?_, fun s d a i h => ?_⟩
  · simp only [siForms, List.forall_mem_cons, List.not_mem_nil, false_imp_iff, implies_true, and_true]
    refine ⟨?_, ?_, ?_, ?_, ?_, ?_, ?_, ?_⟩ <;> refine congrArg Host.Outcome.next ((siOp_unchecked h _ _ _ _).trans ?_)
    · rw [ofInt_toInt_add]
    · rfl
    · rfl
    · rfl
    · rw [ofBool_decide_eq_oneIf]
    · rw [ofBool_decide_eq_oneIf]
    · rfl
    · rw [adr_value]
  · simp only [siShifts, List.forall_mem_cons, List.not_mem_nil, false_imp_iff, implies_true, and_true]
    refine ⟨?_, ?_, ?_⟩ <;> refine congrArg Host.Outcome.next ((siOp_shift h _ _ _ _).trans ?_)
    · rw [shiftLeft_eq_ofNat]
    · rw [ushiftRight_eq_ofNat]
    · rw [sshiftRight_eq_ofInt]

end Sys2Proof.Machine
end

section
/-! SUPPORT. Waits: the ends of closing events, counters, queues and naps (R44, R99, R300 to R307). -/

namespace Sys2Proof.Machine

/-! The end of a closing event. -/

/-- A closing event whose body changed fields that the lanes left of its unit do not depend on (R268). -/
theorem finish_closed_of_ownsLeft {s t : State} (h : t.w.ownsLeft = s.w.ownsLeft) (xs : List RegWrite) (pc : BitVec 48) :
    (Eff.leaves { s := t, writes := xs, close := true, next := some pc } s.w).finish = t.closed xs pc := by
  rw [← finish_closed t xs pc]
  unfold Eff.leaves
  rw [h]

/-- A closing event that goes on behind its unit. -/
theorem finish_closed_next {s t : State} (h : t.w.ownsLeft = s.w.ownsLeft) (xs : List RegWrite) :
    (Eff.leaves { s := t, writes := xs, close := true } s.w).finish = t.closed xs (t.w.pc + 4) :=
  finish_closed_of_ownsLeft h xs (t.w.pc + 4)

/-! Parking (R44, R98). -/

theorem Warp.hold_sregs (w : Warp) : w.hold.sregs = if w.windows = [] then w.sregs else w.commitAll.sregs :=
  apply_ite Warp.sregs _ _ _

theorem Warp.hold_vregs (w : Warp) : w.hold.vregs = if w.windows = [] then w.vregs else w.commitAll.vregs :=
  apply_ite Warp.vregs _ _ _

@[simp] theorem Warp.hold_windows (w : Warp) : w.hold.windows = [] := by
  unfold Warp.hold
  split
  · assumption
  · rfl

/-- A warp that parks reads again what it read (R44). -/
theorem Warp.sview_hold {w : Warp} (h : w.view = none) : w.hold.sview = w.sview := by
  unfold Warp.hold
  split
  · rfl
  · simp only [Warp.sview, h]

theorem Warp.vview_hold {w : Warp} (h : w.view = none) : w.hold.vview = w.vview := by
  unfold Warp.hold
  split
  · rfl
  · simp only [Warp.vview, h]

theorem State.parkAt_reads {s : State} (p : Park) (h : s.w.view = none) (r : Nat) :
    (s.parkAt p).w.s r = s.w.s r ∧ (s.parkAt p).w.v r = s.w.v r := by
  constructor
  · unfold Warp.s
    rw [← Warp.sview_hold h]
    rfl
  · unfold Warp.v
    rw [← Warp.vview_hold h]
    rfl

/-! Counters (R298 to R301). -/

theorem Counter.value_eq (c : Counter) : c.value = BitVec.ofNat 64 (c.err.toNat * 65536 + c.cnt.toNat) := by
  apply BitVec.eq_of_toNat_eq
  have he := c.err.isLt
  have hc := c.cnt.isLt
  have hshift : (c.err.zeroExtend 64 <<< 16).toNat = c.err.toNat <<< 16 := by
    simp [Nat.shiftLeft_eq]
    omega
  rw [Counter.value, BitVec.toNat_or, hshift, BitVec.toNat_setWidth, Nat.mod_eq_of_lt (by omega),
    ← Nat.shiftLeft_add_eq_or_of_lt hc, Nat.shiftLeft_eq, BitVec.toNat_ofNat, Nat.mod_eq_of_lt (by omega)]

theorem Warp.ownsLeft_setQueue (w : Warp) (q : Nat) (x : List QEntry) : (w.setQueue q x).ownsLeft = w.ownsLeft := by
  unfold Warp.setQueue
  split <;> rfl

/-- `wait` and `waitr` (R300): parked above the threshold, else the value of the counter, whose errors are cleared. -/
theorem waitUnit_eq {s : State} (h : s.accepts 22 [] false) (d : BitVec 6) (n : BitVec 4) (thr : Warp → BitVec 16) :
    waitUnit d n thr s =
      if (thr s.w).toNat < (s.w.counter n.toNat).cnt.toNat then s.parkAt (.counter n (thr s.w))
      else if d = 0 then s.closed [] (s.w.pc + 4)
      else ({ s with w := s.w.setCounter n.toNat ⟨(s.w.counter n.toNat).cnt, 0⟩ }).closed
        [.s d.toNat (s.w.counter n.toNat).value] (s.w.pc + 4) := by
  unfold waitUnit
  by_cases hp : (thr s.w).toNat < (s.w.counter n.toNat).cnt.toNat
  · rw [if_pos hp]
    exact unit_enter h (if_pos hp)
  · rw [if_neg hp]
    by_cases hd : d = 0
    · rw [if_pos hd, unit_ok h ((if_neg hp).trans (if_pos hd))]
      exact finish_closed_next rfl []
    · rw [if_neg hd, unit_ok h ((if_neg hp).trans (if_neg hd))]
      exact finish_closed_next rfl _

/-! Naps (R99). -/

/-- `nap` for t cycles: nothing for 0, else the warp is parked behind it. -/
theorem exec_nap {s : State} (h : s.accepts 22 [] false) (a : BitVec 6) :
    exec (.nap a) s = .next
      (if (s.w.s a.toNat).toNat % 65536 = 0 then s.computed []
       else { s.closed [] (s.w.pc + 4) with
         w := { (s.closed [] (s.w.pc + 4)).w with park := .nap (s.tick.toNat + (s.w.s a.toNat).toNat % 65536 + 1) } }) := by
  have ht : bitsOf (s.w.s a.toNat).toNat 0 16 = (s.w.s a.toNat).toNat % 65536 := by simp [bitsOf]
  refine congrArg Host.Outcome.next ?_
  by_cases h0 : bitsOf (s.w.s a.toNat).toNat 0 16 = 0
  · rw [← ht, if_pos h0, unit_ok h (if_pos h0)]
    exact finish_computed s []
  · rw [← ht, if_neg h0, unit_enter h (if_neg h0), finish_closed_next rfl []]

/-- A nap of the running warp ends. -/
theorem exec_napExpiry {s : State} {u : Nat} (hp : s.w.park = .nap u) (hl : s.w.life ≠ .empty) :
    ∃ t, exec (.napExpiry s.w.place) s = .next t ∧ t.w = { s.w with park := .none } ∧ t.mem = s.mem := by
  refine ⟨_, rfl, ?_, rfl⟩
  simp only [State.mapWarps, if_neg hl, hp, if_true]

/-- Settles O16: the body of each unit, its end, and what parking leaves. -/
theorem waits : Obligations.Waits := by
  refine ⟨fun s d b n k h => ⟨?wait, ?waitr, fun p => ?park⟩, fun s d b n q h => ⟨?acget, ?acset, ?qdrop⟩,
    fun s a u h => ⟨exec_nap h a, exec_napExpiry⟩⟩
  case wait =>
    rw [← Counter.value_eq, BitVec.ofNat_toNat]
    exact congrArg Host.Outcome.next (waitUnit_eq h d n _)
  case waitr =>
    rw [← Counter.value_eq, BitVec.ofNat_toNat]
    exact congrArg Host.Outcome.next (waitUnit_eq h d n _)
  case park =>
    exact ⟨rfl, s.w.hold_windows, rfl, rfl, rfl, fun hv => s.parkAt_reads p hv, s.w.hold_sregs, s.w.hold_vregs, rfl⟩
  case acget =>
    rw [← Counter.value_eq]
    exact congrArg Host.Outcome.next ((unit_ok h rfl).trans (finish_computed s _))
  case acset =>
    have herr : BitVec.ofNat 3 ((s.w.s b.toNat).toNat / 65536) = ((s.w.s b.toNat) >>> 16).truncate 3 := by
      apply BitVec.eq_of_toNat_eq
      simp [Nat.shiftRight_eq_div_pow]
    rw [herr]
    exact congrArg Host.Outcome.next ((unit_ok h rfl).trans (finish_computed_of_ownsLeft rfl []))
  case qdrop =>
    exact congrArg Host.Outcome.next ((unit_ok h rfl).trans (finish_computed_of_ownsLeft (s.w.ownsLeft_setQueue _ _) _))

end Sys2Proof.Machine
end

section
/-! SUPPORT. Barrier words: the end of a phase, a change of a word with the warps that it wakes, and the barrier instructions (R219 to
R225). -/

namespace Sys2Proof.Machine

/-- Every member of a word has arrived (R220). -/
theorem members_arrived_iff (memb arr : BitVec 16) :
    memb &&& ~~~ arr = 0 ↔ ((List.range 16).all fun w => ! memb.getLsbD w || arr.getLsbD w) = true := by
  simp only [List.all_eq_true, List.mem_range, Bool.or_eq_true, Bool.not_eq_true']
  constructor
  · intro h i hi
    have hbit := congrArg (BitVec.getLsbD · i) h
    simp only [BitVec.getLsbD_and, BitVec.getLsbD_not, hi, decide_true, Bool.true_and] at hbit
    cases hm : memb.getLsbD i with
    | false => exact .inl rfl
    | true => exact .inr (by simpa [hm] using hbit)
  · intro h
    ext i hi
    rcases h i hi with hb | hb <;> rw [BitVec.getLsbD_eq_getElem hi] at hb <;> simp [hb]

theorem Barrier.settle_eq (x : Barrier) :
    x.settle =
      if x.memb = 0 then ⟨x.ph, 0, x.memb⟩
      else if (List.range 16).all (fun w => ! x.memb.getLsbD w || x.arr.getLsbD w) then ⟨x.ph + 1, 0, x.memb⟩
      else x := by
  unfold Barrier.settle
  rw [if_congr (members_arrived_iff x.memb x.arr) rfl rfl]

@[simp] theorem Group.barrier_setBarrier (g : Group) (b : Nat) (x : Barrier) : (g.setBarrier b x).barrier b = x :=
  Cells.get_set_self _ _ _ _

/-- Word b holds y, and the warps of the workgroup that wait on it are looked at again (R220). -/
def State.withBarrier (s : State) (b : BitVec 4) (y : Barrier) : State :=
  { s with
    wg := s.wg.setBarrier b.toNat y
    warps := s.warps.map fun w : Warp => if w.key = s.w.key then w.wake b y.ph else w }

theorem Warp.wake_ready {w : Warp} (h : w.park = .none) (b : BitVec 4) (ph : Word) : w.wake b ph = w := by
  unfold Warp.wake
  rw [h]

/-- A change of a word by a warp that runs wakes others alone. -/
theorem State.changeBarrier_eq {s : State} (h : s.w.park = .none) (b : BitVec 4) (f : Barrier → Barrier) :
    s.changeBarrier b f = s.withBarrier b (f (s.wg.barrier b.toNat)).settle := by
  unfold State.changeBarrier State.mapWarps State.withBarrier
  simp only [Warp.wake_ready h, ite_self]

/-- The word once the running warp has arrived (R222). -/
def State.arrivedAt (s : State) (b : BitVec 4) : Barrier :=
  (⟨(s.wg.barrier b.toNat).ph, (s.wg.barrier b.toNat).arr ||| s.myBit, (s.wg.barrier b.toNat).memb⟩ : Barrier).settle

section
variable {s : State} {b : BitVec 4} (h : s.accepts 22 [] false)
include h

/-- An instruction that changes a word and computes a register. -/
theorem unit_changes_barrier (hp : s.w.park = .none) {body : State → Except Stop Eff} {f : Barrier → Barrier} {xs : List RegWrite}
    (hb : body s = .ok { s := s.changeBarrier b f, writes := xs }) :
    unit [] false false body s = (s.withBarrier b (f (s.wg.barrier b.toNat)).settle).computed xs := by
  rw [unit_ok h hb, State.changeBarrier_eq hp]
  exact finish_computed_of_ownsLeft rfl xs

/-- A warp that is no member takes the illegal-operand trap where it arrives (R222). -/
theorem exec_arrival_denied (a : BitVec 6) (hm : s.isMember b = false) :
    exec (.barArrive a b) s = .next (s.trap 0x02 0) ∧ exec (.barArw a b) s = .next (s.trap 0x02 0) := by
  have hneed : need (s.isMember b) = .error (.trap 0x02 0) := by rw [hm]; rfl
  exact ⟨congrArg Host.Outcome.next (unit_trap h (by simp only [hneed]; rfl)),
    congrArg Host.Outcome.next (unit_trap h (by simp only [hneed]; rfl))⟩

/-- An arrival is a release: it waits for the warp's strong stores (R292). -/
theorem exec_arrival_waits (a : BitVec 6) (hm : s.isMember b = true) (hs : s.strongHeld = true) :
    exec (.barArrive a b) s = .next s.retry ∧ exec (.barArw a b) s = .next s.retry := by
  have hneed := (need_ok (s.isMember b) 0).mpr hm
  have hready : ready (¬ s.strongHeld) s = .error (.enter s.retry) := by simp [ready, hs]
  exact ⟨congrArg Host.Outcome.next (unit_enter h (by simp only [hneed, hready]; rfl)),
    congrArg Host.Outcome.next (unit_enter h (by simp only [hneed, hready]; rfl))⟩

theorem exec_barArrive (hp : s.w.park = .none) (a : BitVec 6) (hm : s.isMember b = true) (hs : s.strongHeld = false) :
    exec (.barArrive a b) s = .next
      ((s.withBarrier b (s.arrivedAt b)).computed [.s a.toNat ((s.wg.barrier b.toNat).ph.zeroExtend 64)]) := by
  have hneed := (need_ok (s.isMember b) 0).mpr hm
  have hready : ready (¬ s.strongHeld) s = .ok () := (ready_ok _ _).mpr (by simp [hs])
  refine congrArg Host.Outcome.next (unit_changes_barrier h hp (f := fun x => { x with arr := x.arr ||| s.myBit }) ?_)
  simp only [hneed, hready]
  rfl

theorem exec_barWait (a : BitVec 6) :
    exec (.barWait a b) s = .next
      (if (s.wg.barrier b.toNat).ph = (s.w.s a.toNat).truncate 32 then s.parkAt (.barrier b ((s.w.s a.toNat).truncate 32))
       else s.closed [] (s.w.pc + 4)) := by
  refine congrArg Host.Outcome.next ?_
  by_cases ht : (s.wg.barrier b.toNat).ph = (s.w.s a.toNat).truncate 32
  · rw [if_pos ht]
    exact unit_enter h (if_neg (not_not.mpr ht))
  · rw [if_neg ht, unit_ok h (if_pos ht)]
    exact finish_closed_next rfl []

theorem exec_barInit (hp : s.w.park = .none) (a : BitVec 6) :
    exec (.barInit a b) s = .next ((s.withBarrier b (⟨(s.wg.barrier b.toNat).ph,
      (s.wg.barrier b.toNat).arr &&& ((s.w.s a.toNat).truncate 16 &&& s.wg.live),
      (s.w.s a.toNat).truncate 16 &&& s.wg.live⟩ : Barrier).settle).computed []) :=
  congrArg Host.Outcome.next (unit_changes_barrier h hp
    (f := fun x => { x with
      memb := (s.w.s a.toNat).truncate 16 &&& s.wg.live, arr := x.arr &&& ((s.w.s a.toNat).truncate 16 &&& s.wg.live) }) rfl)

theorem exec_barJoin :
    exec (.barJoin b) s = .next (({ s with wg := s.wg.setBarrier b.toNat ⟨(s.wg.barrier b.toNat).ph, (s.wg.barrier b.toNat).arr,
      (s.wg.barrier b.toNat).memb ||| s.myBit⟩ }).computed []) :=
  congrArg Host.Outcome.next ((unit_ok h rfl).trans (finish_computed_of_ownsLeft rfl []))

theorem exec_barDrop (hp : s.w.park = .none) :
    exec (.barDrop b) s = .next ((s.withBarrier b (⟨(s.wg.barrier b.toNat).ph,
      (s.wg.barrier b.toNat).arr &&& ~~~ s.myBit, (s.wg.barrier b.toNat).memb &&& ~~~ s.myBit⟩ : Barrier).settle).computed []) :=
  congrArg Host.Outcome.next (unit_changes_barrier h hp
    (f := fun x => { x with memb := x.memb &&& ~~~ s.myBit, arr := x.arr &&& ~~~ s.myBit }) rfl)

/-- The state in which the unit of `bar.arw` has run, before the phase that it waits for is looked at. -/
def State.arwRan (s : State) (a : BitVec 6) (b : BitVec 4) : State :=
  (s.withBarrier b (s.arrivedAt b)).closed [.s a.toNat ((s.wg.barrier b.toNat).ph.zeroExtend 64)] (s.w.pc + 4)

/-- The state in which `bar.arw` waits for its phase, its arrival done (R222). -/
def State.arwWaits (s : State) (a : BitVec 6) (b : BitVec 4) : State :=
  { s.arwRan a b with
    w := { (s.arwRan a b).w with
      pc := s.w.unitPc, park := .barrierArw b (s.wg.barrier b.toNat).ph (decide (s.w.hints.length = 1)) } }

/-- `bar.arw` of a member goes on where its arrival completes the phase, and waits where it does not. -/
theorem exec_barArw (hp : s.w.park = .none) (a : BitVec 6) (hm : s.isMember b = true) (hs : s.strongHeld = false) :
    exec (.barArw a b) s = .next
      (if (s.arrivedAt b).ph ≠ (s.wg.barrier b.toNat).ph then s.arwRan a b else s.arwWaits a b) := by
  have hneed := (need_ok (s.isMember b) 0).mpr hm
  have hready : ready (¬ s.strongHeld) s = .ok () := (ready_ok _ _).mpr (by simp [hs])
  have harr : s.arrive b = s.withBarrier b (s.arrivedAt b) := State.changeBarrier_eq hp b _
  have hword : (s.withBarrier b (s.arrivedAt b)).wg.barrier b.toNat = s.arrivedAt b := Group.barrier_setBarrier _ _ _
  have hend := finish_closed_next (s := s) (t := s.withBarrier b (s.arrivedAt b)) rfl
    [.s a.toNat ((s.wg.barrier b.toNat).ph.zeroExtend 64)]
  refine congrArg Host.Outcome.next ?_
  by_cases hph : (s.arrivedAt b).ph ≠ (s.wg.barrier b.toNat).ph
  · rw [if_pos hph]
    refine (unit_ok h ?_).trans hend
    simp only [hneed, hready, harr, hword, if_pos hph]
    rfl
  · rw [if_neg hph]
    refine unit_enter h ?_
    simp only [hneed, hready, harr, hword, if_neg hph, hend]
    rfl

end

/-- A register that the closing event wrote reads as written (R41): s0, `fm` and `em` alone are cut (R108). -/
theorem State.closed_s_same (s : State) {r : Nat} (v : DWord) (pc : BitVec 48) (h0 : r ≠ 0) (h55 : r ≠ 55) (h56 : r ≠ 56) :
    (s.closed [.s r v] pc).w.s r = v := by
  have hview : (s.w.commitAll.apply [.s r v]).view = none := Warp.apply_view _ _ rfl
  refine (State.done_s _ _ _ _ hview).trans ?_
  change (s.w.commitAll.setS r v).s r = v
  rw [Warp.s_setS, if_neg h0, if_pos rfl, if_neg h55, if_neg h56]

/-- Settles O17: the phase by the members that have arrived, each instruction by the word that it leaves. -/
theorem barriers : Obligations.Barriers := by
  refine ⟨Barrier.settle_eq, fun s a b h hp => ?_⟩
  intro x me tok upd init arrived
  have member : s.isMember b = true ↔ x.memb &&& me ≠ 0 := decide_eq_true_iff
  refine ⟨exec_barInit h hp a, exec_barJoin h, exec_barDrop h hp,
    fun hm => exec_arrival_denied h a (Bool.eq_false_iff.mpr fun hx => member.mp hx hm),
    fun hm hs => exec_arrival_waits h a (member.mpr hm) hs,
    fun hm hs => exec_barArrive h hp a (member.mpr hm) hs,
    exec_barWait h a,
    fun hm hs hph => (exec_barArw h hp a (member.mpr hm) hs).trans (congrArg _ (if_pos hph)),
    fun hm hs hph => ⟨s.arwWaits a b, (exec_barArw h hp a (member.mpr hm) hs).trans (congrArg _ (if_neg (not_not.mpr hph))),
      rfl, rfl, rfl, fun h0 h55 h56 => ?_⟩⟩
  exact (s.withBarrier b (s.arrivedAt b)).closed_s_same _ (s.w.pc + 4) (mt (BitVec.toNat_inj (y := 0)).mp h0)
    (mt (BitVec.toNat_inj (y := 55)).mp h55) (mt (BitVec.toNat_inj (y := 56)).mp h56)

end Sys2Proof.Machine
end

section
/-! SUPPORT. Trap entry and return: the early end of the running warp's launch, the software trap and `tret` (R197, R404, R407 to
R409). -/

namespace Sys2Proof.Machine

/-! What a commit depends on. -/

theorem Warp.apply_withCls (w : Warp) (xs : List RegWrite) (c : BitVec 3) :
    ({ w with cls := c }).apply xs = { w.apply xs with cls := c } := by
  induction xs generalizing w with
  | nil => rfl
  | cons x r ih =>
    have h1 : ({ w with cls := c }).apply1 x = { w.apply1 x with cls := c } := by
      cases x with
      | s q v => by_cases hq : q = 0 <;> simp [Warp.apply1, Warp.setS, Warp.keptS, hq]
      | v q m y => rfl
    rw [Warp.apply_cons, Warp.apply_cons, h1, ih]

theorem Warp.commitAll_withCls (w : Warp) (c : BitVec 3) : ({ w with cls := c }).commitAll = { w.commitAll with cls := c } :=
  congrArg (fun x : Warp => { x with windows := [], view := none }) (w.apply_withCls _ c)

/-- The scalar registers after some results depend on those before and on the occupied lanes alone (R108). -/
theorem Warp.apply_sregs_congr {w u : Warp} (hs : w.sregs = u.sregs) (ho : w.occ = u.occ) (xs : List RegWrite) :
    (w.apply xs).sregs = (u.apply xs).sregs := by
  induction xs generalizing w u with
  | nil => exact hs
  | cons x r ih =>
    refine ih ?_ (by simpa using ho)
    cases x with
    | s q v => by_cases hq : q = 0 <;> simp [Warp.apply1, Warp.setS, Warp.keptS, hq, hs, ho]
    | v q m y => exact hs

theorem Warp.commitAll_s_congr {w u : Warp} (hs : w.sregs = u.sregs) (ho : w.occ = u.occ) (hw : w.windows = u.windows) (r : Nat) :
    w.commitAll.s r = u.commitAll.s r := by
  have h : w.commitAll.sregs = u.commitAll.sregs := by
    rw [Warp.commitAll, Warp.commitAll, hw]
    exact Warp.apply_sregs_congr hs ho _
  unfold Warp.s Warp.sview
  rw [Warp.commitAll_view, Warp.commitAll_view, h]

/-! The early end of the running warp's launch (R404). -/

/-- A warp that runs, or that already stops, stops, and keeps what its handler saved. -/
theorem Warp.stop_stops {w : Warp} (hl : w.life = .run ∨ w.life = .stopping) (hp : w.inProgress = false) :
    w.stop.life = .stopping ∧ w.stop.inProgress = false ∧ w.stop.inh = w.inh ∧ w.stop.epc = w.epc := by
  unfold Warp.stop
  rw [if_neg (by rcases hl with h | h <;> simp [h, hp])]
  simpa [Warp.inProgress] using hp

@[simp] theorem Warp.stop_key (w : Warp) : w.stop.key = w.key := by
  unfold Warp.stop
  split <;> simp

/-- Freeing workgroups of other keys leaves the running warp and its launch. -/
theorem State.freeGroups_keeps (ks : List GroupKey) (s : State) (h : s.w.key ∉ ks) :
    (ks.foldl (fun s k => s.freeGroup k) s).w = s.w ∧ (ks.foldl (fun s k => s.freeGroup k) s).lc = s.lc := by
  induction ks generalizing s with
  | nil => exact ⟨rfl, rfl⟩
  | cons k r ih =>
    obtain ⟨hk, hr⟩ := not_or.mp (mt List.mem_cons.mpr h)
    have hw : (s.freeGroup k).w = s.w := if_neg fun c => hk c.1
    obtain ⟨iw, il⟩ := ih (s.freeGroup k) (by rwa [hw])
    exact ⟨iw.trans hw, il⟩

/-- What the early end of a launch leaves of the running warp, whose workgroup has not retired, and of its launch. -/
theorem State.endLaunch_keeps (ld : BitVec 2) (q : BitVec 6) (seq : Word) (status : BitVec 8) (s : State) (hg : s.groupRuns)
    (hl : s.w.life ≠ .empty) :
    ((s.endLaunch ld q seq status).w = s.w ∨ (s.endLaunch ld q seq status).w = s.w.stop)
      ∧ (s.endLaunch ld q seq status).lc.ending.getD status = s.lc.ending.getD status := by
  unfold State.endLaunch
  extract_lets mine gs keys done cut s1 s2
  have hw : s2.w = s.w ∨ s2.w = s.w.stop := by
    rw [show s2.w = if keys.contains s.w.key then s.w.stop else s.w from if_neg hl]
    split <;> simp
  have hkey : s2.w.key ∉ done := by
    rw [show s2.w.key = s.w.key by rcases hw with h | h <;> simp [h]]
    intro hmem
    obtain ⟨g, hmem, hk⟩ := List.mem_map.mp hmem
    obtain ⟨hgs, hdone⟩ := List.mem_filter.mp hmem
    have hret : g.allRetired = true := (of_decide_eq_true hdone).2
    rw [hg g (List.mem_filter.mp hgs).1 hk] at hret
    cases hret
  have hend : s2.lc.ending.getD status = s.lc.ending.getD status := by
    change (if s.lc.order = 0 then s.lc else if _ then _ else s.lc).ending.getD status = _
    split
    · rfl
    · split
      · next h =>
        obtain ⟨-, -, -, hnone, -⟩ := h
        rw [Option.isNone_iff_eq_none.mp hnone]
        rfl
      · rfl
  obtain ⟨hw', hl'⟩ := State.freeGroups_keeps done
    { s2 with
      wg := if mine s2.wg ∧ s2.wg.saved then Group.none else s2.wg
      groups := s2.groups.filter fun g => ¬ (mine g ∧ g.saved) } hkey
  rw [hw', hl']
  exact ⟨hw, hend⟩

/-- The launch of a warp that runs ends early: the warp stops, its handler's registers stand, and the first status stays. -/
theorem State.endOwn_stops (status : BitVec 8) {s : State} (hl : s.w.life = .run) (hp : s.w.inProgress = false) (hg : s.groupRuns) :
    (s.endOwn status).w.life = .stopping ∧ (s.endOwn status).w.inh = s.w.inh ∧ (s.endOwn status).w.epc = s.w.epc
      ∧ (s.endOwn status).lc.ending = some (s.lc.ending.getD status) := by
  obtain ⟨hw, hend⟩ := State.endLaunch_keeps s.lc.ld s.lc.record.queue s.lc.seq status s hg (by rw [hl]; exact Life.noConfusion)
  obtain ⟨hlife, hprog, hinh, hepc⟩ := Warp.stop_stops (.inl hl) hp
  have hstop : (s.endOwn status).w = s.w.stop ∨ (s.endOwn status).w = s.w.stop.stop :=
    hw.imp (congrArg Warp.stop) (congrArg Warp.stop)
  refine ⟨?_, ?_, ?_, congrArg some hend⟩
  all_goals
    rcases hstop with h | h <;> rw [h]
  · exact hlife
  · exact (Warp.stop_stops (.inr hlife) hprog).1
  · exact hinh
  · exact (Warp.stop_stops (.inr hlife) hprog).2.2.1.trans hinh
  · exact hepc
  · exact (Warp.stop_stops (.inr hlife) hprog).2.2.2.trans hepc

/-! The software trap and trap entry (R407, R408). -/

theorem exec_trap {s : State} (h : s.accepts 22 [] false) (n : BitVec 6) :
    exec (.trap n) s =
      .next (({ s with w := { s.w with cls := s.classAfter } }).trapEntry 0x0A (n.zeroExtend 64) (s.w.pc + 4)) :=
  congrArg Host.Outcome.next (unit_enter h rfl)

theorem exec_trap_enters {s : State} (h : s.accepts 22 [] false) (n : BitVec 6) (hi : s.w.inh = false) (ht : s.w.tvec ≠ 0) :
    exec (.trap n) s = .next { s with w := { s.w.commitAll with
      hints := [], badHint := none, latch := none, park := .none, left := s.w.left.filter fun x => ! x.inh
      cls := s.classAfter, issued := s.w.issued + 1, tcause := 0x0A, tval := n.zeroExtend 64
      epc := s.w.pc + 4, inh := true, pre := false, rst := false, abort := false, dh := s.w.depth, crpcSaved := s.w.crpc
      pc := s.w.tvec } } := by
  rw [exec_trap h n, State.trapEntry_enters _ _ _ (by exact hi) (by exact ht), Warp.commitAll_withCls]
  simp [Warp.dropHints]

/-- Without a handler, or inside one, the software trap ends the launch of its warp. -/
theorem exec_trap_ends {s : State} (h : s.accepts 22 [] false) (n : BitVec 6) (hi : s.w.inh = true ∨ s.w.tvec = 0)
    (hl : s.w.life = .run) (hp : s.w.inProgress = false) (hg : s.groupRuns) :
    ∃ t, exec (.trap n) s = .next t ∧ t.w.life = .stopping ∧ t.w.inh = s.w.inh ∧ t.w.epc = s.w.epc
      ∧ t.lc.ending = some (s.lc.ending.getD 0x09) ∧ ∀ x, t.byteAt x = s.byteAt x := by
  have hstops := State.endOwn_stops stFaulted (s := { s with w := { s.w with cls := s.classAfter } }) hl hp hg
  obtain ⟨hlife, hinh, hepc, hend⟩ := hstops
  refine ⟨_, (exec_trap h n).trans (congrArg _ (State.trapEntry_ends _ _ _ hi)), hlife, hinh, hepc, hend, fun x => ?_⟩
  unfold State.byteAt
  rw [State.endOwn_mem]

/-- What a trap of a unit leaves where a handler takes it (R55, R407). -/
theorem State.trap_enters (s : State) (c : BitVec 8) (v : DWord) (hi : s.w.inh = false) (ht : s.w.tvec ≠ 0) :
    let t := s.trap c v
    t.w.tcause = c ∧ t.w.tval = v ∧ t.w.epc = s.w.pc - BitVec.ofNat 48 (4 * s.w.hints.length) ∧ t.w.pc = s.w.tvec
    ∧ t.w.inh = true ∧ t.w.hints = [] ∧ t.w.windows = [] ∧ t.w.dh = s.w.depth ∧ t.w.crpcSaved = s.w.crpc
    ∧ (∀ r, t.w.s r = s.w.commitAll.s r) ∧ (∀ r, t.w.v r = s.w.commitAll.v r) ∧ t.w.stack = s.w.stack ∧ t.w.fstat = s.w.fstat
    ∧ t.mem = s.mem ∧ t.warps = s.warps ∧ t.wg = s.wg ∧ t.lc = s.lc := by
  rw [State.trap, State.trapEntry_enters _ _ _ hi ht]
  exact ⟨rfl, rfl, rfl, rfl, rfl, rfl, rfl, rfl, rfl, fun r => rfl, fun r => rfl, s.w.commitAll_stack, s.w.commitAll_fstat, rfl, rfl,
    rfl, rfl⟩

/-! The return from a handler (R197, R409). -/

/-- With every entry on chip, what lies above Dh is dropped. -/
theorem State.discardAbove_on_chip {s : State} (hd : s.w.dh ≤ s.w.depth) (hs : s.w.stack.length = s.w.depth) :
    s.discardAbove = .ok { s with w := { s.w with stack := s.w.stack.drop (s.w.depth - s.w.dh), depth := s.w.dh } } := by
  have hneed : min 32 s.w.dh - (s.w.stack.drop (s.w.depth - s.w.dh)).length = 0 := by rw [List.length_drop, hs]; omega
  unfold State.discardAbove
  simp only [hneed, List.range_zero, List.map_nil, State.read32, List.isEmpty_nil, if_true]
  change Except.ok _ = _
  simp [Nat.min_eq_left hd]

/-- The warp that goes on behind `tret`, before its windows commit. -/
def Warp.returned (w : Warp) : Warp :=
  { w with
    stack := w.stack.drop (w.depth - w.dh), depth := w.dh, crpc := w.crpcSaved, dh := 0, abort := false, rst := false, pre := false
    inh := false, latch := none, left := w.left.filter fun x => ¬ x.inh ∧ (x.pc = w.epc ∨ x.lanes &&& w.em = 0) }

theorem exec_tret_returns {s : State} (h : s.accepts 22 [] false) (hi : s.w.inh = true) (ha : s.w.abort = false)
    (hv : s.w.pre = false ∨ s.w.rst = true) (harw : s.w.arw = none) (hd : s.w.dh ≤ s.w.depth)
    (hs : s.w.stack.length = s.w.depth) :
    exec .tret s = .next
      (Eff.leaves { s := { s with w := s.w.returned }, close := true, next := some s.w.epc } s.w).finish := by
  have hpriv : decide (¬ s.w.inh) = false := by simp [hi]
  have hvac : ¬ (s.w.pre ∧ ¬ s.w.rst) := by rcases hv with h | h <;> simp [h]
  change Host.Outcome.next (unit [] false (decide (¬ s.w.inh)) _ s) = _
  rw [hpriv]
  refine congrArg _ (unit_ok h ?_)
  simp only [ha, Bool.false_eq_true, if_false, if_neg hvac, State.discardAbove_on_chip hd hs, harw, Warp.returned]
  rfl

/-- `tret` in a handler with ABORT set ends the launch of its warp. -/
theorem exec_tret_aborts {s : State} (h : s.accepts 22 [] false) (hi : s.w.inh = true) (ha : s.w.abort = true) :
    exec .tret s = .next (s.endOwn stFaulted) := by
  have hpriv : decide (¬ s.w.inh) = false := by simp [hi]
  change Host.Outcome.next (unit [] false (decide (¬ s.w.inh)) _ s) = _
  rw [hpriv]
  refine congrArg _ (unit_enter h ?_)
  simp only [ha, if_true]
  rfl

/-- A closing event without results commits, and no more. -/
theorem finish_close_s (t : State) (pc : BitVec 48) (r : Nat) :
    (Eff.finish { s := t, close := true, next := some pc }).w.s r = t.w.commitAll.s r := rfl

/-- The return closes the windows and goes on at EPC with the saved reconvergence state. -/
theorem State.returned_finish (s : State) :
    let t := (Eff.leaves { s := { s with w := s.w.returned }, close := true, next := some s.w.epc } s.w).finish
    t.w.pc = s.w.epc ∧ t.w.inh = false ∧ t.w.pre = false ∧ t.w.rst = false ∧ t.w.abort = false ∧ t.w.depth = s.w.dh
      ∧ t.w.stack = s.w.stack.drop (s.w.depth - s.w.dh) ∧ t.w.crpc = s.w.crpcSaved ∧ t.w.dh = 0 ∧ t.w.windows = []
      ∧ t.w.hints = [] ∧ (∀ r, t.w.s r = s.w.commitAll.s r) ∧ t.mem = s.mem := by
  refine ⟨rfl, ?_, ?_, ?_, ?_, ?_, ?_, ?_, ?_, rfl, rfl,
    fun r => (finish_close_s _ _ r).trans (Warp.commitAll_s_congr (by rfl) (by rfl) (by rfl) r), rfl⟩
  all_goals simp [Eff.finish, Eff.leaves, Warp.results, Warp.dropHints, Warp.returned]

/-- Settles O8: a trap enters the handler or ends the launch; `tret` returns or ends it. -/
theorem traps : Obligations.Traps := by
  refine ⟨fun s n h => ⟨exec_trap_enters h n, exec_trap_ends h n⟩, State.trap_enters, fun s h hi => ⟨?_, ?_⟩⟩
  · intro ha hv harw hd _ hs
    exact ⟨_, exec_tret_returns h hi ha hv harw hd hs, s.returned_finish⟩
  · intro ha hl hp hg
    obtain ⟨hlife, -, -, hend⟩ := State.endOwn_stops stFaulted hl hp hg
    exact ⟨_, exec_tret_aborts h hi ha, hlife, hend⟩

end Sys2Proof.Machine
end

section
/-! SUPPORT. The step: the word that it fetches, the end of a unit, and the events that are due (R57, R100, R242, R421). -/

namespace Sys2Proof.Machine

/-- Every instruction answers a next state. -/
theorem exec_next (i : Instr) (s : State) : ∃ t, exec i s = .next t := by
  cases i <;> exact ⟨_, rfl⟩

/-! The word that a step fetches (R57 step 1). -/

/-- A read that is served at once is held back by nothing. -/
theorem State.Serves.linkReady {s : State} {ag : Agent} {l : Loc} {h : Nat} (hs : s.Serves ag l h) (write : Bool) :
    s.linkReady ag write [l] = .ok () := by
  have hw : s.waitsFor ag write l = none := by simp only [State.waitsFor, hs.home, hs.reaches]
  simp [State.linkReady, State.waiting, hw]

/-- Four bytes of memory, read as a word (R5, R33). -/
theorem State.peek_word (s : State) (a : Nat) :
    BitVec.ofNat 32 (s.peek a 4) = wordOf (s.byteAt a) (s.byteAt (a + 1)) (s.byteAt (a + 2)) (s.byteAt (a + 3)) := by
  apply BitVec.eq_of_toNat_eq
  rw [State.peek_eq_valueAt, BitVec.toNat_ofNat, toNat_wordOf]
  simp only [State.valueAt, Nat.add_assoc, Nat.reduceAdd]
  omega

theorem State.fetchWord_served {s s1 : State} {l : Loc} {h : Nat} (hx : s.xlate (s.w.pc.zeroExtend 64) .exec = (s1, .ok l))
    (hs : s1.Serves (s1.me none) l h) (hi : s1.Intact l.pa) :
    s.fetchWord =
      .ok (s1, wordOf (s1.byteAt l.pa) (s1.byteAt (l.pa + 1)) (s1.byteAt (l.pa + 2)) (s1.byteAt (l.pa + 3))) := by
  have hl : s1.locOk l.pa 4 false = true := by simp only [State.locOk, hs.home, hi.online]
  simp only [State.fetchWord, hx, hl, hs.linkReady false, State.readLoc_served s1 _ l 4 h hs hi, State.peek_word]
  rfl

/-- A step of the selected warp runs the instruction that its word decodes to. -/
theorem step_fetched {s s1 : State} {x : Word} {i : Instr} {t : State} (hsel : s.sel = true) (ha : s.w.arrived = false)
    (hf : s.fetchWord = .ok (s1, x)) (hd : decode x = .ok i) (ht : exec i s1 = .next t) :
    step s = .next (s1.endUnit (wordCost s1.w.rep.1 x) (s1.failedClaim x) t) := by
  have hr : runWord x s1 = .next t := by rw [runWord, hd, ← ht]
  rw [step, if_pos hsel, if_neg (ne_true_of_eq_false ha), State.runNext, hf]
  simp only [hr]

/-! The end of a unit (R101, R242, R421). -/

theorem State.coreDone_issueQ (s : State) (p : Place) : ∀ q ∈ (s.coreDone p).issueQ, sameCore p q = false := fun q hq => by
  simpa using (List.mem_filter.mp hq).2

theorem State.charge_spent (s : State) (p : Place) (cost : Nat) :
    ((s.charge p cost).clusterOf (clusterAt p)).c = (s.clusterOf (clusterAt p)).c
      ∧ ((s.charge p cost).clusterOf (clusterAt p)).spent = (s.clusterOf (clusterAt p)).spent + cost := by
  simp [State.charge]

/-- The end of a unit takes the warp out of selection, and its core out of the cycle when it issued or its claim failed. -/
theorem State.endUnit_ends {s t : State} (cost : Nat) (claim : Bool) (hg : unitGoesOn s t = false) :
    let u := s.endUnit cost claim t
    u.sel = false ∧ u.mem = t.mem
      ∧ (t.w.life ≠ .empty → t.w.place = s.w.place →
          u.w = if notIssued s t = true ∧ claim = true then t.w else { t.w with waitCount := 0, withheld := 0 })
      ∧ (notIssued s t = true → u.clusters = t.clusters)
      ∧ (notIssued s t = false ∨ claim = true → ∀ p ∈ u.issueQ, sameCore s.w.place p = false)
      ∧ (notIssued s t = false →
          (u.clusterOf (clusterAt s.w.place)).c = (t.clusterOf (clusterAt s.w.place)).c
            ∧ (u.clusterOf (clusterAt s.w.place)).spent = (t.clusterOf (clusterAt s.w.place)).spent + cost) := by
  have hreset : t.w.life ≠ .empty → t.w.place = s.w.place →
      (if t.w.life = .empty then t.w else if t.w.place = s.w.place then t.w.resetCounts else t.w) = t.w.resetCounts :=
    fun hl hp => by rw [if_neg hl, if_pos hp]
  simp only [State.endUnit, hg, Bool.false_eq_true, if_false]
  cases hn : notIssued s t with
  | false =>
    simp only [Bool.false_eq_true, false_and, if_false]
    exact ⟨rfl, rfl, hreset, nofun, fun _ => State.coreDone_issueQ _ _, fun _ => State.charge_spent _ _ _⟩
  | true =>
    cases claim with
    | false =>
      simp only [Bool.false_eq_true, and_false, if_false, if_true]
      exact ⟨rfl, rfl, hreset, fun _ => rfl, nofun, nofun⟩
    | true =>
      simp only [and_self, if_true]
      exact ⟨rfl, rfl, fun _ _ => rfl, fun _ => rfl, fun _ => State.coreDone_issueQ _ _, nofun⟩

/-! Events, and the steps that go on. -/

/-- The event that is due runs, and comes again if it waits. -/
theorem step_event {s t : State} {i : Instr} {rest : List (Nat × Instr)} (hsel : s.sel = false) (hag : s.agenda = (0, i) :: rest)
    (hw : i.isWord = false) (hal : s.alive i = true)
    (ht : exec i { s with agenda := rest, again := false } = .next t) : step s = .next (t.settle i) := by
  rw [step, if_neg (ne_true_of_eq_false hsel)]
  simp only [hag, hw, ht, Bool.false_eq_true, if_false]
  exact if_neg (not_not.mpr hal)

theorem State.runNext_next (s : State) : ∃ t, s.runNext = .next t := by
  unfold State.runNext
  split
  · exact ⟨_, rfl⟩
  · next s1 x _ =>
    have hr : ∃ t, runWord x s1 = .next t := by
      unfold runWord
      split
      · exact exec_next _ s1
      · exact ⟨_, rfl⟩
    obtain ⟨t, ht⟩ := hr
    exact ⟨_, by rw [ht]⟩

/-- A step faults only where the input holds an instruction of a word among the events. -/
theorem State.safe_of_events {s : State} (h : ∀ x ∈ s.agenda, x.2.isWord = false) : s.safe := by
  unfold State.safe step
  split
  · split
    · exact ⟨_, rfl⟩
    · exact s.runNext_next
  · split
    · next i r hag =>
      have hw : i.isWord = false := h (0, i) (by simp [hag])
      obtain ⟨t, ht⟩ := exec_next i { s with agenda := r, again := false }
      simp only [hw, ht, Bool.false_eq_true, if_false]
      split
      · exact ⟨_, rfl⟩
      · exact ⟨_, rfl⟩
    · split
      · exact ⟨_, rfl⟩
      · exact ⟨_, rfl⟩
      · exact ⟨_, rfl⟩
      · split
        · exact ⟨_, rfl⟩
        · exact ⟨_, rfl⟩

/-- Settles O55: the word that the fetch reads runs and ends its unit; an event that is due runs; no step stops. -/
theorem stepRunsDecoded : Obligations.StepRunsDecoded := by
  refine ⟨fun s s1 l h i => ⟨?_, ?_⟩, exec_next, fun s => State.safe_of_events⟩
  · intro hsel ha hx hs hi x hd
    obtain ⟨t, ht⟩ := exec_next i s1
    have hstep := step_fetched hsel ha (State.fetchWord_served hx hs hi) hd ht
    refine ⟨t, ht, fun hg => ?_, fun hg => ⟨_, hstep, State.endUnit_ends _ _ hg⟩⟩
    rw [hstep, State.endUnit, if_pos hg]
  · intro rest hsel hag hw hp
    obtain ⟨t, ht⟩ := exec_next i { s with agenda := rest, again := false }
    have hal : s.alive i = true := by simp only [State.alive, hp]
    exact ⟨t, ht, step_event hsel hag hw hal ht⟩

end Sys2Proof.Machine
end

section
/-! SUPPORT. Reset and start: what the custom CSRs read at daylight, and the registers of a warp that starts (R77, R395, R430, R436). -/

namespace Sys2Proof.Machine

/-- A queue of the module at daylight holds no launch, and every field of it reads 0 (R395). -/
theorem State.reset_queueWord (ld q : Nat) : State.reset.queueWord ld q = 0 := by
  have hq : State.reset.queueOf ld q = Queue.reset := rfl
  have hd : State.reset.depthOf ld q = 0 := rfl
  unfold State.queueWord
  simp only [hq, hd]
  rfl

/-- What vxgov reads at daylight (R430). -/
theorem govWord_reset : govWord Column.reset = 0x4000_0080_0000_0005 := by decide

/-- The scalar registers of a warp that starts hold the launch's argument pointer and shape (Table 1 of R77). -/
theorem State.startWarp_s (s : State) (p : Place) (i : Nat) (g : Group) (tvec ptr : BitVec 48) (n : Nat) :
    (s.startWarp p i g tvec ptr).s n =
      if n = 1 then s.lc.record.argp else if n = 2 then s.lc.record.shape0 else if n = 3 then s.lc.record.shape1
      else if n = 4 then s.lc.record.shape2 else 0 := by
  have hbase : ∀ w : Warp, w.sview = [] → w.s n = 0 := fun w h => by rw [Warp.s, h]; exact ite_self _
  unfold State.startWarp
  simp only [Warp.s_setS]
  rw [hbase _ rfl]
  grind

/-- Settles O57: reset reads register by register; a warp that starts differs from a fresh slot in what its launch gives it. -/
theorem resetValues : Obligations.ResetValues := by
  refine ⟨⟨reset_wf, fun a => rfl, rfl, rfl, rfl, rfl, fun h _ => ?csrs⟩, fun s p i g tvec ptr => ?start⟩
  case csrs =>
    have hq : State.reset.csrRead h .hs 0x5D1 = .ok (some (State.reset.queueWord h.ld.toNat 0)) := rfl
    have hg : State.reset.csrRead h .hs 0x5D8 = .ok (some (govWord Column.reset)) := rfl
    rw [hq, State.reset_queueWord, hg, govWord_reset]
    exact ⟨rfl, rfl, rfl, rfl, rfl, rfl, rfl, rfl, rfl, rfl, rfl⟩
  case start =>
    have hqueue : ∀ n, (s.startWarp p i g tvec ptr).queue n = [] := fun n => by
      unfold Warp.queue
      split <;> rfl
    exact ⟨s.startWarp_s p i g tvec ptr, fun n l => Vec.at_zero l, rfl, rfl, rfl, rfl, rfl, rfl, rfl, rfl, rfl, rfl,
      fun n => ⟨rfl, rfl, hqueue n⟩, rfl, rfl⟩

end Sys2Proof.Machine
end

section
/-! SUPPORT. Items: the take of a warp that starts (R74, R77, R419). -/

namespace Sys2Proof.Machine

/-- A restored warp that starts while an item of its launch is left. -/
def restoredStart : State :=
  { State.reset with w := { Warp.fresh Place.zero with rst := true }
                     lc := { Launch.none with record := { Record.zero with n := 1 } } }

/-- A restored warp starts without a take (R419). -/
theorem execStartTake_restored {s : State} (h : s.w.rst = true) : execStartTake s = .next { s with w := s.begin s.w } :=
  congrArg Host.Outcome.next (if_pos h)

/-- Refutes O12 by its clause on the start take, which says of every warp that it takes items: `restoredStart` runs on with RST set,
and takes none of the one item that is left (R419). -/
theorem not_itemsAreTaken : ¬ Obligations.ItemsAreTaken := by
  rintro ⟨-, hstart, -⟩
  obtain ⟨t, ht, hic, -⟩ := hstart restoredStart (by decide)
  obtain rfl : { restoredStart with w := restoredStart.begin restoredStart.w } = t :=
    Host.Outcome.next.inj ((execStartTake_restored rfl).symm.trans ht)
  exact absurd hic (by decide)

end Sys2Proof.Machine
end

section
/-! SUPPORT. Successors: the record of `succ`, and the warps of a workgroup that goes on as its recorded stage (R77, R93, R94). -/

namespace Sys2Proof.Machine

/-- A run of writes of lanes and the reads after it. -/
theorem Cells.get_foldl_set {α : Type} [DecidableEq α] (d : α) (f : Nat → α) (ls : List Nat) (c : Cells α) (k : Nat) :
    (ls.foldl (fun c l => c.set d l (f l)) c).get d k = if k ∈ ls then f k else c.get d k := by
  induction ls generalizing c with
  | nil => simp
  | cons l r ih =>
    rw [List.foldl_cons, ih, Cells.get_set]
    by_cases hr : k ∈ r <;> by_cases hl : k = l <;> simp [hr, hl]

theorem mem_lanes {l : Nat} : l ∈ lanes ↔ l < 64 := List.mem_range

/-- `succ` of a stage that the kernel has records it; of any other it is an illegal operand (R93). -/
theorem exec_succ {s : State} (h : s.accepts 22 [] false) (n : BitVec 3) :
    exec (.succ n) s = .next
      (if s.kernel.stages.getLsbD n.toNat = true then ({ s with wg := { s.wg with succ := some n } }).computed []
       else s.trap 0x02 0) := by
  refine congrArg Host.Outcome.next ?_
  cases hk : s.kernel.stages.getLsbD n.toNat
  · exact unit_trap h (by simp [need, hk, bind, Except.bind])
  · refine (unit_ok h (e := { s := { s with wg := { s.wg with succ := some n } } }) ?_).trans (finish_computed_of_ownsLeft rfl [])
    simp [need, hk, bind, Except.bind]

theorem exec_succClr {s : State} (h : s.accepts 22 [] false) :
    exec .succClr s = .next (({ s with wg := { s.wg with succ := none } }).computed []) :=
  congrArg Host.Outcome.next ((unit_ok h rfl).trans (finish_computed_of_ownsLeft rfl []))

/-- The workgroup as it goes on as stage n, with fresh barrier words (R94). -/
def Group.nextStage (g : Group) (n : BitVec 3) : Group := { g with stage := n, succ := Option.none, barriers := [], retired := 0 }

/-- A fresh warp of the successor stage g in the slot of w, its lanes occupied (R77). -/
def State.stageWarp (s : State) (g : Group) (w : Warp) : Warp :=
  (s.startWarp w.place w.idx.toNat g (s.queueOf s.lc.ld.toNat s.lc.record.queue.toNat).tvec w.saveptr).succLanes w.idx.toNat

/-- The slot of w as the successor stage g starts it: its tiles stay, and a launch that is being pre-empted pre-empts it (R94, R95). -/
def State.successorWarp (s : State) (g : Group) (w : Warp) : Warp :=
  { s.stageWarp g w with tiles := w.tiles, dirty := w.dirty, preempt := s.lc.preempted }

/-- The lanes of a successor warp are all occupied, by items of its stage alone, of age 0 (Table 1 of R77). -/
theorem Warp.succLanes_item (w : Warp) (idx : BitVec 4) {l : Nat} (hl : l < 64) :
    ((w.succLanes idx.toNat).item.get 0 l).toNat = 64 * idx.toNat + l := by
  have hi := idx.isLt
  unfold Warp.succLanes
  rw [Warp.setS_item, Cells.get_foldl_set, if_pos (mem_lanes.mpr hl), BitVec.toNat_ofNat]
  omega

/-- Of its registers, only `em` differs from those that the start gave it. -/
theorem Warp.succLanes_s (w : Warp) (idx n : Nat) :
    (w.succLanes idx).s n = if n = 0 then 0 else if n = 56 then BitVec.allOnes 64 else w.s n := by
  have hocc : BitVec.allOnes 64 &&& BitVec.allOnes 64 = BitVec.allOnes 64 := BitVec.and_self
  rw [Warp.succLanes, Warp.s_setS, if_neg (show ¬ 56 = 55 by decide), if_pos rfl, hocc]
  rfl

theorem State.successorWarp_s (s : State) (g : Group) (w : Warp) (n : Nat) :
    (s.successorWarp g w).s n =
      if n = 56 then BitVec.allOnes 64 else if n = 1 then s.lc.record.argp else if n = 2 then s.lc.record.shape0
      else if n = 3 then s.lc.record.shape1 else if n = 4 then s.lc.record.shape2 else 0 := by
  change (s.stageWarp g w).s n = _
  rw [State.stageWarp, Warp.succLanes_s, State.startWarp_s]
  grind

/-- What a slot of the workgroup starts the successor stage with (Table 1 of R77). -/
theorem State.successorWarp_starts (s : State) (g : Group) (w : Warp) :
    let t := s.successorWarp g w
    t.life = .run ∧ t.place = w.place ∧ t.tiles = w.tiles ∧ t.pc = s.kernel.base + s.kernel.entries.getD g.stage.toNat 0
      ∧ t.occ = BitVec.allOnes 64 ∧ t.em = BitVec.allOnes 64 ∧ t.s 1 = s.lc.record.argp ∧ t.vregs = [] ∧ t.depth = 0 ∧ t.inh = false
      ∧ ∀ l < 64, (t.item.get 0 l).toNat = 64 * w.idx.toNat + l ∧ t.age.get 0 l = 0 := by
  have hitem : ∀ l < 64, ((s.stageWarp g w).item.get 0 l).toNat = 64 * w.idx.toNat + l := fun l hl =>
    Warp.succLanes_item _ w.idx hl
  have h1 := s.successorWarp_s g w 1
  have h56 := s.successorWarp_s g w 56
  exact ⟨rfl, rfl, rfl, rfl, rfl, h56, h1, rfl, rfl, rfl, fun l hl => ⟨hitem l hl, rfl⟩⟩

/-- A change of every warp, as the running warp finds it. -/
theorem State.mapWarps_w {s : State} (f : Warp → Warp) (h : s.w.life ≠ .empty) : (s.mapWarps f).w = f s.w := if_neg h

theorem execSuccessorStart_none {s : State} (h : s.wg.succ = none) : execSuccessorStart s = .next s := by
  unfold execSuccessorStart
  rw [h]

/-- When every warp has retired, the recorded stage starts on the slots of the workgroup (R94). -/
theorem execSuccessorStart_starts {s : State} {n : BitVec 3} (h : s.wg.succ = some n) (hr : s.wg.allRetired = true)
    (he : s.lc.ending = none) :
    execSuccessorStart s = .next (({ s with wg := s.wg.nextStage n }).mapWarps fun w =>
      if w.key = s.wg.key then s.successorWarp (s.wg.nextStage n) w else w) := by
  unfold execSuccessorStart
  simp only [h, hr, he]
  rfl

/-- Settles O15: the bodies of the two units, and the slot of the running warp once its workgroup has retired. -/
theorem successors : Obligations.Successors := by
  refine ⟨fun s n h => ⟨exec_succ h n, exec_succClr h⟩, fun s n => ⟨execSuccessorStart_none, fun h hr he hk hl => ?_⟩⟩
  refine ⟨_, execSuccessorStart_starts h hr he, rfl, rfl, rfl, rfl, rfl, rfl, ?_⟩
  have hlive : s.w.life ≠ .empty := by rw [hl]; exact Life.noConfusion
  rw [State.mapWarps_w _ (by exact hlive), if_pos hk]
  obtain ⟨hlife, hplace, htiles, hpc, hocc, hem, hargp, hv, hdepth, hinh, hitems⟩ :=
    s.successorWarp_starts (s.wg.nextStage n) s.w
  exact ⟨hlife, hplace, htiles, hpc, hocc, hem, hargp, hv, hdepth, hinh, rfl, hitems⟩

end Sys2Proof.Machine
end

section
/-! SUPPORT. Retirement: `retire`, a quiet warp that retires, and the workgroup that it leaves (R88 to R92, R288). -/

namespace Sys2Proof.Machine

/-- The warp after `retire`: out of its handler, without items, paths and reports, and retiring (R90, R91). -/
theorem State.beginRetire_leaves (s : State) :
    let t := s.beginRetire
    t.w.life = .retiring ∧ t.w.depth = 0 ∧ t.w.stack = [] ∧ t.w.crpc = 1 ∧ t.w.windows = [] ∧ t.w.hints = [] ∧ t.w.occ = s.w.occ
      ∧ t.w.inh = s.w.inh ∧ t.w.reports = s.w.reports ∧ (∀ r, t.w.s r = s.w.commitAll.s r) ∧ t.lc = s.lc ∧ t.mem = s.mem :=
  ⟨rfl, rfl, rfl, rfl, rfl, rfl, s.w.commitAll_occ, s.w.commitAll_inh, s.w.commitAll_reports, fun _ => rfl, rfl, rfl⟩

/-- A commit leaves a warp without open windows as it is, but for what it read when it parked. -/
theorem Warp.commitAll_closed {w : Warp} (h : w.windows = []) (hv : w.view = none) : w.commitAll = w := by
  unfold Warp.commitAll
  rw [h]
  cases w
  simp_all [Warp.apply]

/-- The warp that `retire` leaves, before it begins to retire. -/
def Warp.abandoned (w : Warp) : Warp :=
  ({ w.commitAll with
    abort := false, rst := false, pre := false, inh := false, dh := 0, occ := 0
    reports := if w.inh then [] else w.reports, pc := w.pc } : Warp).setS 56 0

theorem exec_retire {s : State} (h : s.accepts 22 [] false) (hr : s.w.inh = true ∨ s.w.reports = []) :
    exec .retire s = .next ({ s with w := s.w.abandoned }).beginRetire :=
  congrArg Host.Outcome.next (unit_enter h (if_neg fun c => hr.elim (by simpa using c.1) c.2))

/-- A write of a scalar register leaves every other one (R13). -/
theorem Warp.s_setS_ne (w : Warp) (r : Nat) (v : DWord) {q : Nat} (h : q ≠ r) : (w.setS r v).s q = w.s q :=
  (scalarRegisterRules.1 w r v).2.2 q h

theorem Warp.abandoned_s (w : Warp) (r : Nat) (hr : r ≠ 56) : w.abandoned.s r = w.commitAll.s r := Warp.s_setS_ne _ _ _ hr

@[simp] theorem Warp.abandoned_occ (w : Warp) : w.abandoned.occ = 0 := Warp.setS_occ _ _ _
@[simp] theorem Warp.abandoned_inh (w : Warp) : w.abandoned.inh = false := Warp.setS_inh _ _ _

theorem Warp.abandoned_em (w : Warp) : w.abandoned.em = 0 := by
  unfold Warp.em
  rw [Warp.abandoned, Warp.s_setS]
  simp

theorem Warp.abandoned_closed (w : Warp) : w.abandoned.commitAll = w.abandoned :=
  Warp.commitAll_closed (by simp [Warp.abandoned]) (Warp.apply1_view _ (.s 56 0) rfl)

theorem Warp.abandoned_reports (w : Warp) (hr : w.inh = true ∨ w.reports = []) : w.abandoned.reports = [] := by
  rw [Warp.abandoned, Warp.setS_reports]
  rcases hr with h | h <;> simp [h]

/-! The barrier words of a warp that retires (R88 step 4). -/

/-- A wake changes whether its warp is parked and where it goes on, and no more. -/
theorem Warp.wake_keeps (w : Warp) (b : BitVec 4) (ph : Word) :
    (w.wake b ph).life = w.life ∧ (w.wake b ph).key = w.key ∧ (w.wake b ph).idx = w.idx
      ∧ ∀ q, (w.wake b ph).queue q = w.queue q := by
  unfold Warp.wake
  repeat' split
  all_goals exact ⟨rfl, rfl, rfl, fun q => rfl⟩

theorem Barrier.settle_memb (x : Barrier) : x.settle.memb = x.memb := by
  unfold Barrier.settle
  repeat' split
  all_goals rfl

theorem Group.barrier_setBarrier_ne (g : Group) {b c : Nat} (x : Barrier) (h : c ≠ b) : (g.setBarrier b x).barrier c = g.barrier c :=
  Cells.get_set_ne _ _ _ h

/-- t is s after drops of barrier words by the running warp: what they leave, and that no word takes the warp in again. -/
structure State.Drops (s t : State) : Prop where
  life : t.w.life = s.w.life
  key : t.w.key = s.w.key
  idx : t.w.idx = s.w.idx
  queue : ∀ q, t.w.queue q = s.w.queue q
  lc : t.lc = s.lc
  mem : t.mem = s.mem
  warps : t.wg.warps = s.wg.warps
  succ : t.wg.succ = s.wg.succ
  abuf : t.wg.abuf = s.wg.abuf
  wbuf : t.wg.wbuf = s.wg.wbuf
  retired : t.wg.retired = s.wg.retired
  out : ∀ b, (s.wg.barrier b).memb.getLsbD s.w.idx.toNat = false → (t.wg.barrier b).memb.getLsbD s.w.idx.toNat = false

theorem State.Drops.trans {s t u : State} (h : s.Drops t) (k : t.Drops u) : s.Drops u where
  life := k.life.trans h.life
  key := k.key.trans h.key
  idx := k.idx.trans h.idx
  queue q := (k.queue q).trans (h.queue q)
  lc := k.lc.trans h.lc
  mem := k.mem.trans h.mem
  warps := k.warps.trans h.warps
  succ := k.succ.trans h.succ
  abuf := k.abuf.trans h.abuf
  wbuf := k.wbuf.trans h.wbuf
  retired := k.retired.trans h.retired
  out b hb := h.idx ▸ k.out b (h.idx.symm ▸ h.out b hb)

theorem State.myBit_getLsbD (s : State) (k : Nat) : s.myBit.getLsbD k = decide (k = s.w.idx.toNat) := by
  have hi := s.w.idx.isLt
  change (BitVec.ofNat 16 (1 <<< s.w.idx.toNat)).getLsbD k = _
  rw [BitVec.getLsbD_ofNat, Nat.one_shiftLeft, Nat.testBit_two_pow, ← Bool.decide_and]
  refine decide_eq_decide.mpr ?_
  omega

/-- The word that a warp has dropped has no bit of it left (R222). -/
theorem State.drop_memb (s : State) (b : BitVec 4) : ((s.drop b).wg.barrier b.toNat).memb.getLsbD s.w.idx.toNat = false := by
  have hw : (s.drop b).wg.barrier b.toNat = Barrier.settle _ := Group.barrier_setBarrier _ _ _
  rw [hw, Barrier.settle_memb]
  simp [State.myBit_getLsbD]

theorem State.drop_drops (s : State) (b : BitVec 4) : s.Drops (s.drop b) := by
  have hw : (s.drop b).w = s.w ∨ ∃ ph, (s.drop b).w = s.w.wake b ph := by
    unfold State.drop State.changeBarrier State.mapWarps
    dsimp only
    split
    · exact .inl rfl
    · exact .inr ⟨_, if_pos rfl⟩
  have hkeeps : (s.drop b).w.life = s.w.life ∧ (s.drop b).w.key = s.w.key ∧ (s.drop b).w.idx = s.w.idx
      ∧ ∀ q, (s.drop b).w.queue q = s.w.queue q := by
    rcases hw with h | ⟨ph, h⟩ <;> rw [h]
    · exact ⟨rfl, rfl, rfl, fun q => rfl⟩
    · exact s.w.wake_keeps b ph
  obtain ⟨hlife, hkey, hidx, hqueue⟩ := hkeeps
  refine ⟨hlife, hkey, hidx, hqueue, rfl, rfl, rfl, rfl, rfl, rfl, rfl, fun c hc => ?_⟩
  by_cases h : c = b.toNat
  · rw [h]
    exact s.drop_memb b
  · rw [show (s.drop b).wg.barrier c = s.wg.barrier c from Group.barrier_setBarrier_ne _ _ h]
    exact hc

/-- Every word of a list is dropped. -/
theorem State.drops_all (bs : List Nat) (hb : ∀ b ∈ bs, b < 16) (s : State) :
    let t := bs.foldl (fun s b => s.drop (BitVec.ofNat 4 b)) s
    s.Drops t ∧ ∀ b ∈ bs, (t.wg.barrier b).memb.getLsbD s.w.idx.toNat = false := by
  induction bs generalizing s with
  | nil => exact ⟨⟨rfl, rfl, rfl, fun _ => rfl, rfl, rfl, rfl, rfl, rfl, rfl, rfl, fun _ h => h⟩, by simp⟩
  | cons b r ih =>
    have h1 := s.drop_drops (BitVec.ofNat 4 b)
    obtain ⟨h2, hout⟩ := ih (fun c hc => hb c (List.mem_cons_of_mem _ hc)) (s.drop (BitVec.ofNat 4 b))
    refine ⟨h1.trans h2, fun c hc => ?_⟩
    rw [← h1.idx]
    rcases List.mem_cons.mp hc with rfl | hc
    · refine h2.out c ?_
      have := s.drop_memb (BitVec.ofNat 4 c)
      rwa [BitVec.toNat_ofNat, Nat.mod_eq_of_lt (hb c hc), ← h1.idx] at this
    · exact hout c hc

/-! The retirement of a quiet warp (R88, R92, R288). -/

/-- The running warp has dropped every barrier word, and its stream queues are empty. -/
def State.dropped (s : State) : State :=
  (List.range 16).foldl (fun s b => s.drop (BitVec.ofNat 4 b)) { s with w := { s.w with q0 := [], q1 := [], q2 := [], q3 := [] } }

/-- The running warp once it has retired, before its workgroup frees what it holds. -/
def State.retired (s : State) : State :=
  { s.dropped with
    w := { s.dropped.w with life := .retired, latch := none }
    wg := { s.dropped.wg with retired := s.dropped.wg.retired ||| s.dropped.myBit } }

theorem execWarpRetirement_stays {s : State}
    (h : s.quiet s.w = false ∨ s.strongHeld = true ∨ (s.w.life ≠ .retiring ∧ s.w.life ≠ .stopping)) :
    execWarpRetirement s = .next s := by
  refine congrArg Host.Outcome.next (if_neg fun c => ?_)
  obtain ⟨hlife, hquiet, hheld⟩ := c
  rcases h with h | h | h
  · simp [h] at hquiet
  · exact hheld h
  · exact hlife.elim h.1 h.2

theorem execWarpRetirement_retires {s : State} (hq : s.quiet s.w = true) (hs : s.strongHeld = false)
    (hl : s.w.life = .retiring ∨ s.w.life = .stopping) :
    execWarpRetirement s = .next (if s.retired.wg.allRetired ∧ (s.retired.wg.succ.isNone ∨ s.retired.lc.ending.isSome)
      then (s.retired.freeGroup s.retired.w.key).complete else s.retired) :=
  congrArg Host.Outcome.next (if_pos ⟨hl, hq, by simp [hs]⟩)

/-- What the retirement of a warp leaves (R88 steps 2 to 5). -/
theorem State.retired_leaves (s : State) :
    let t := s.retired
    t.w.life = .retired ∧ t.w.q0 = [] ∧ t.w.q1 = [] ∧ t.w.q2 = [] ∧ t.w.q3 = [] ∧ t.w.key = s.w.key
      ∧ t.wg.retired = s.wg.retired ||| s.myBit ∧ (∀ b < 16, (t.wg.barrier b).memb.getLsbD s.w.idx.toNat = false)
      ∧ t.wg.abuf = s.wg.abuf ∧ t.wg.wbuf = s.wg.wbuf ∧ t.wg.warps = s.wg.warps ∧ t.wg.succ = s.wg.succ ∧ t.lc = s.lc
      ∧ t.mem = s.mem := by
  have hdrops := State.drops_all (List.range 16) (fun b hb => List.mem_range.mp hb)
    { s with w := { s.w with q0 := [], q1 := [], q2 := [], q3 := [] } }
  change _ ∧ ∀ b ∈ List.range 16, (s.dropped.wg.barrier b).memb.getLsbD s.w.idx.toNat = false at hdrops
  unfold State.retired
  change State.Drops _ s.dropped ∧ _ at hdrops
  generalize s.dropped = u at hdrops ⊢
  obtain ⟨h, hout⟩ := hdrops
  have hbit : u.myBit = s.myBit := by rw [State.myBit, h.idx]; rfl
  refine ⟨rfl, h.queue 0, h.queue 1, h.queue 2, h.queue 3, h.key, ?_, fun b hb => hout b (List.mem_range.mpr hb),
    h.abuf, h.wbuf, h.warps, h.succ, h.lc, h.mem⟩
  change u.wg.retired ||| u.myBit = _
  rw [hbit, h.retired]

/-- A workgroup has retired exactly when no warp of it is live (R222). -/
theorem Group.allRetired_iff (g : Group) : g.allRetired = true ↔ ∀ k < 16, g.live.getLsbD k = false := by
  rw [Group.allRetired, decide_eq_true_iff]
  constructor
  · intro h k _
    rw [h]
    exact BitVec.getLsbD_zero
  · intro h
    exact BitVec.eq_of_getLsbD_eq fun k hk => (h k hk).trans (BitVec.getLsbD_zero).symm

/-- The retirement of a warp takes it, and no other, out of those that are live. -/
theorem State.live_retired (s : State) {k : Nat} (hk : k < 16) :
    s.retired.wg.live.getLsbD k = (s.wg.live.getLsbD k && ! decide (k = s.w.idx.toNat)) := by
  obtain ⟨-, -, -, -, -, -, hret, -, -, -, hwarps, -⟩ := s.retired_leaves
  rw [Group.live, Group.live, hwarps, hret]
  simp only [BitVec.getLsbD_and, BitVec.getLsbD_not, BitVec.getLsbD_or, State.myBit_getLsbD, hk, decide_true, Bool.true_and]
  cases (BitVec.ofNat 16 (2 ^ s.wg.warps - 1)).getLsbD k <;> simp

/-- Of what is there, all is left but what has the key k, when the first is cleared and the others are filtered. -/
theorem mem_freed_iff {α : Type} (key : α → GroupKey) (p : α → Prop) [DecidablePred p] (k : GroupKey) {x gone : α} (hg : ¬ p gone)
    (xs : List α) (y : α) :
    y ∈ ((if key x = k ∧ p x then gone else x) :: xs.filter fun z => key z ≠ k).filter (fun z => p z) ↔
      y ∈ (x :: xs).filter (fun z => p z) ∧ key y ≠ k := by
  simp only [List.mem_filter, List.mem_cons, decide_eq_true_eq]
  grind

/-- What a workgroup that frees its slots leaves (R92). -/
theorem State.freeGroup_leaves (s : State) (k : GroupKey) :
    (∀ w ∈ (s.freeGroup k).allWarps, w.key ≠ k) ∧ (∀ g ∈ (s.freeGroup k).allGroups, g.key ≠ k)
    ∧ (∀ w ∈ s.allWarps, w.key ≠ k → w ∈ (s.freeGroup k).allWarps)
    ∧ (∀ g ∈ s.allGroups, g.key ≠ k → g ∈ (s.freeGroup k).allGroups) ∧ (s.freeGroup k).mem = s.mem := by
  have hw : ∀ w, w ∈ (s.freeGroup k).allWarps ↔ w ∈ s.allWarps ∧ w.key ≠ k :=
    mem_freed_iff Warp.key (fun w => w.life ≠ .empty) k (by simp) s.warps
  have hg : ∀ g, g ∈ (s.freeGroup k).allGroups ↔ g ∈ s.allGroups ∧ g.key ≠ k :=
    mem_freed_iff Group.key (fun g => g.warps ≠ 0) k (by simp [Group.none]) s.groups
  exact ⟨fun w h => ((hw w).mp h).2, fun g h => ((hg g).mp h).2, fun w h hk => (hw w).mpr ⟨h, hk⟩,
    fun g h hk => (hg g).mpr ⟨h, hk⟩, rfl⟩

/-- Settles O14: what `retire` leaves, the warps of the workgroup that are still live, and what a freed workgroup leaves. -/
theorem retirement : Obligations.Retirement := by
  refine ⟨fun s h hr => ?retire, fun s => ⟨execWarpRetirement_stays, fun hq hs hl hk => ?others, fun hq hs hl hk => ?last,
    s.freeGroup_leaves⟩⟩
  case retire =>
    obtain ⟨hlife, hdepth, hstack, hcrpc, hwin, hhints, hocc, hinh, hrep, hs, hlc, hmem⟩ :=
      ({ s with w := s.w.abandoned } : State).beginRetire_leaves
    replace hs : ∀ r, _ = s.w.abandoned.s r := fun r => (hs r).trans (by rw [Warp.abandoned_closed])
    exact ⟨_, exec_retire h hr, hlife, hocc.trans (s.w.abandoned_occ), (hs 56).trans s.w.abandoned_em, hdepth, hstack, hcrpc,
      hinh.trans s.w.abandoned_inh, hrep.trans (s.w.abandoned_reports hr), hwin, hhints,
      fun r hr => (hs r).trans (s.w.abandoned_s r hr), hlc, hmem⟩
  case others =>
    obtain ⟨k, hk, hne, hlive⟩ := hk
    obtain ⟨hlife, h0, h1, h2, h3, -, hret, hout, habuf, hwbuf, -, -, -, hmem⟩ := s.retired_leaves
    have hnot : ¬ s.retired.wg.allRetired = true := fun h => by
      have := (Group.allRetired_iff _).mp h k hk
      rw [s.live_retired hk, hlive] at this
      simp [hne] at this
    exact ⟨_, (execWarpRetirement_retires hq hs hl).trans (congrArg _ (if_neg fun c => hnot c.1)), hlife, h0, h1, h2, h3, hret, hout,
      habuf, hwbuf, hmem⟩
  case last =>
    obtain ⟨hlife, -, -, -, -, hkey, hret, -, -, -, -, hsucc, hlc, hmem⟩ := s.retired_leaves
    have hall : s.retired.wg.allRetired = true := (Group.allRetired_iff _).mpr fun k hk' => by
      rw [s.live_retired hk']
      by_cases h : k = s.w.idx.toNat
      · simp [h]
      · simp [hk k hk' h]
    refine ⟨s.retired, hlife, hkey, hret, hmem, (execWarpRetirement_retires hq hs hl).trans (congrArg _ ?_)⟩
    simp only [hall, hsucc, hlc, hkey, true_and, Option.isNone_iff_eq_none, Option.isSome_iff_ne_none]

end Sys2Proof.Machine
end

section
/-! SUPPORT. Pops of the reconvergence stack: the entries that a pop removes, and the path that goes on (R85, R187). -/

namespace Sys2Proof.Machine

/-- Nothing is read for no address. -/
theorem State.read32_nil (s : State) : s.read32 [] = .ok (s, []) := rfl

/-- A pop removes the top entry, and what is read back joins the chip below (R191). -/
theorem Pops.pop_of {c : Pops} {s1 : State} {e : Entry} {rest : List Entry} {back : List Nat} (hs : c.stack = e :: rest)
    (hr : c.s.read32 (if 32 < c.depth then [c.s.w.spillAddr (c.depth - 33)] else []) = .ok (s1, back)) :
    c.pop = .ok (⟨s1, rest ++ back.map entryOf, c.depth - 1⟩, e) := by
  unfold Pops.pop
  rw [hr, hs]
  rfl

/-- An entry whose path has lanes among occ, or that was pushed with none, ends the skip; so does the last one above Dh. -/
theorem popSkip_stops {occ : Mask} {c c1 : Pops} {e : Entry} (fuel : Nat) (hp : c.pop = .ok (c1, e))
    (h : ¬ (e.mask ≠ 0 ∧ e.mask &&& occ = 0 ∧ c.s.w.dh < c1.depth)) : popSkip occ fuel c = .ok (c1, e) := by
  cases fuel with
  | zero => exact hp
  | succ f =>
    unfold popSkip
    rw [hp]
    exact if_neg h

theorem popSkip_skips {occ : Mask} {c c1 : Pops} {e : Entry} (fuel : Nat) (hp : c.pop = .ok (c1, e))
    (h : e.mask ≠ 0 ∧ e.mask &&& occ = 0 ∧ c.s.w.dh < c1.depth) : popSkip occ (fuel + 1) c = popSkip occ fuel c1 := by
  rw [popSkip, hp]
  exact if_pos h

/-- A path that does not stand at its reconvergence PC ends the pops; so does the last one above Dh. -/
theorem popChain_stops {occ : Mask} {c c1 : Pops} {e : Entry} (fuel : Nat) (hp : popSkip occ c.depth c = .ok (c1, e))
    (h : ¬ (c.s.w.dh < c1.depth ∧ e.pc = e.rpc)) : popChain occ fuel c = .ok (c1, e) := by
  cases fuel with
  | zero => rw [popChain, hp]; rfl
  | succ f =>
    rw [popChain, hp]
    exact if_neg h

theorem popChain_goes_on {occ : Mask} {c c1 : Pops} {e : Entry} (fuel : Nat) (hp : popSkip occ c.depth c = .ok (c1, e))
    (h : c.s.w.dh < c1.depth ∧ e.pc = e.rpc) : popChain occ (fuel + 1) c = popChain occ fuel c1 := by
  rw [popChain, hp]
  exact if_pos h

/-- The pop of the top entry on a stack that lies on chip. -/
theorem Pops.pop_on_chip (s : State) (x : Entry) (es : List Entry) (d : Nat) (hd : d < 32) :
    (⟨s, x :: es, d + 1⟩ : Pops).pop = .ok (⟨s, es, d⟩, x) := by
  have h := Pops.pop_of (c := ⟨s, x :: es, d + 1⟩) rfl (by rw [if_neg (by simpa using hd)]; exact s.read32_nil)
  simpa using h

/-- On chip, the pops remove the entries whose lanes have exited and those that stand at their own reconvergence PC, down to the
first other one above Dh, or the last one (R85, R187). -/
theorem popChain_on_chip (occ : Mask) (s : State) (e : Entry) (rest : List Entry) (hdh : s.w.dh ≤ rest.length)
    (he : ¬ (e.mask ≠ 0 ∧ e.mask &&& occ = 0)) (hstop : e.pc ≠ e.rpc ∨ rest.length = s.w.dh) (pre : List Entry)
    (hpre : ∀ x ∈ pre, (x.mask ≠ 0 ∧ x.mask &&& occ = 0) ∨ x.pc = x.rpc) (hd : pre.length + rest.length < 32) (fuel : Nat)
    (hf : pre.length ≤ fuel) :
    popChain occ fuel ⟨s, pre ++ e :: rest, pre.length + rest.length + 1⟩ = .ok (⟨s, rest, rest.length⟩, e) := by
  induction pre generalizing fuel with
  | nil =>
    have hp := Pops.pop_on_chip s e rest rest.length (by simpa using hd)
    simp only [List.length_nil, Nat.zero_add, List.nil_append]
    refine popChain_stops fuel (popSkip_stops _ hp fun h => he ⟨h.1, h.2.1⟩) fun h => ?_
    exact hstop.elim (fun hne => hne h.2) (fun heq => absurd h.1 (by simp [heq]))
  | cons x pre ih =>
    obtain ⟨hx, hpre⟩ := List.forall_mem_cons.mp hpre
    simp only [List.length_cons] at hd hf
    have hn : pre.length + 1 + rest.length = pre.length + rest.length + 1 := by omega
    have hp := Pops.pop_on_chip s x (pre ++ e :: rest) (pre.length + rest.length + 1) (by omega)
    have habove : s.w.dh < pre.length + rest.length + 1 := by omega
    simp only [List.length_cons, List.cons_append, hn]
    by_cases hgone : x.mask ≠ 0 ∧ x.mask &&& occ = 0
    · have hskip := popSkip_skips (occ := occ) (pre.length + rest.length + 1) hp ⟨hgone.1, hgone.2, habove⟩
      rw [← ih hpre (by omega) fuel (by omega)]
      cases fuel <;> rw [popChain, hskip, popChain]
    · obtain ⟨f, rfl⟩ : ∃ f, fuel = f + 1 := ⟨fuel - 1, by omega⟩
      have hskip := popSkip_stops (occ := occ) (pre.length + rest.length + 1 + 1) hp fun h => hgone ⟨h.1, h.2.1⟩
      rw [popChain_goes_on f hskip ⟨habove, hx.resolve_left hgone⟩]
      exact ih hpre (by omega) f (by omega)

/-! The path that goes on. -/

/-- The path of an entry that becomes the current one (R187). -/
theorem Warp.enter_path (w : Warp) (e : Entry) :
    (w.enter e).pc = e.pc ∧ (w.enter e).em = (e.mask &&& w.occ) ∧ (w.enter e).fm = e.fm ∧ (w.enter e).crpc = e.rpc
      ∧ (w.enter e).pathCount = 0 := by
  have hs : ∀ r, (w.enter e).s r = ((w.setS 56 (e.mask &&& w.occ)).setS 55 (e.fm.zeroExtend 64)).s r := fun _ => rfl
  refine ⟨rfl, ?_, ?_, rfl, rfl⟩
  · unfold Warp.em
    rw [hs, Warp.s_setS, Warp.s_setS]
    simp [BitVec.and_assoc]
  · unfold Warp.fm
    rw [hs, Warp.s_setS]
    simpa using (BitVec.and_allOnes : e.fm &&& BitVec.allOnes 19 = e.fm)

/-- What it leaves of the warp. -/
theorem Warp.enter_keeps (w : Warp) (e : Entry) :
    (w.enter e).occ = w.occ ∧ (w.enter e).stack = w.stack ∧ (w.enter e).depth = w.depth ∧ (w.enter e).windows = w.windows
      ∧ (w.enter e).hints = w.hints ∧ (w.view = none → (w.enter e).view = none) := by
  have hv : w.view = none → (w.enter e).view = none := fun h =>
    Warp.apply1_view _ (.s 55 _) (Warp.apply1_view _ (.s 56 _) h)
  simpa [Warp.enter] using hv

/-- The warp after a pop: the windows have committed, and the path of the entry goes on. -/
theorem popPath_of {occ : Mask} {s : State} {c : Pops} {e : Entry}
    (h : popChain occ s.w.depth ⟨s, s.w.stack, s.w.depth⟩ = .ok (c, e)) :
    popPath occ s =
      .ok { c.s with w := ({ c.s.w.commitAll with stack := c.stack, depth := c.depth, occ := occ } : Warp).enter e } := by
  unfold popPath
  rw [h]
  rfl

end Sys2Proof.Machine
end

section
/-! SUPPORT. Items: the take of items, the lanes that receive them, and `exit.i` (R74, R79, R84 to R87, R91). -/

namespace Sys2Proof.Machine

/-! The take of items (R74, R317). -/

/-- The items that a take of n gives: the first, and how many. -/
theorem State.itemTake_gives (s : State) (n : Nat) :
    (s.itemTake n).2 = (s.lc.ic.toNat, min n (s.lc.record.n.toNat - s.lc.ic.toNat)) := by
  have hmin : (if s.lc.record.n.toNat - s.lc.ic.toNat < n then s.lc.record.n.toNat - s.lc.ic.toNat else n) =
      min n (s.lc.record.n.toNat - s.lc.ic.toNat) := by
    split <;> omega
  rw [← hmin]
  rfl

/-- A take moves the item counter past what it gives, and is a send of the running warp. -/
theorem State.itemTake_leaves (s : State) (n : Nat) :
    let t := (s.itemTake n).1
    t.w = { s.w with tag := t.w.tag, sent := t.w.sent } ∧ t.lc = { s.lc with ic := t.lc.ic } ∧ t.wg = s.wg ∧ t.mem = s.mem
      ∧ (s.lc.ic.toNat ≤ s.lc.record.n.toNat →
          t.lc.ic.toNat = s.lc.ic.toNat + min n (s.lc.record.n.toNat - s.lc.ic.toNat)) := by
  refine ⟨rfl, rfl, rfl, rfl, fun h => ?_⟩
  have hic : (s.itemTake n).1.lc.ic = BitVec.ofNat 48 ((s.itemTake n).2.1 + (s.itemTake n).2.2) := rfl
  have hn := s.lc.record.n.isLt
  rw [hic, s.itemTake_gives n, BitVec.toNat_ofNat]
  exact Nat.mod_eq_of_lt (by dsimp only; omega)

/-! The lanes that receive items (R79). -/

theorem Warp.giveItems_eq (w : Warp) (ls : List Nat) (base : Nat) :
    w.giveItems ls base = { w with
      occ := (w.giveItems ls base).occ, item := (w.giveItems ls base).item, age := (w.giveItems ls base).age } := by
  induction ls generalizing w base with
  | nil => rfl
  | cons l r ih =>
    rw [Warp.giveItems, ih]
    rfl

theorem Warp.giveItem_occ (w : Warp) (l i k : Nat) (hk : k < 64) :
    (w.giveItem l i).occ.getLsbD k = (w.occ.getLsbD k || decide (k = l)) := by
  change (w.occ ||| BitVec.ofNat 64 (1 <<< l)).getLsbD k = _
  rw [BitVec.getLsbD_or, BitVec.getLsbD_ofNat, Nat.one_shiftLeft, Nat.testBit_two_pow, ← Bool.decide_and]
  refine congrArg _ (decide_eq_decide.mpr ?_)
  omega

/-- The lanes that receive items are occupied. -/
theorem Warp.giveItems_occ (w : Warp) (ls : List Nat) (base k : Nat) (hk : k < 64) :
    (w.giveItems ls base).occ.getLsbD k = (w.occ.getLsbD k || decide (k ∈ ls)) := by
  induction ls generalizing w base with
  | nil => simp [Warp.giveItems]
  | cons l r ih => simp [Warp.giveItems, ih, Warp.giveItem_occ _ _ _ _ hk, Bool.or_assoc]

theorem Warp.giveItems_item_ne (w : Warp) (ls : List Nat) (base k : Nat) (hk : k ∉ ls) :
    (w.giveItems ls base).item.get 0 k = w.item.get 0 k := by
  induction ls generalizing w base with
  | nil => rfl
  | cons l r ih =>
    rw [List.mem_cons, not_or] at hk
    rw [Warp.giveItems, ih _ _ hk.2]
    exact Cells.get_set_ne _ _ _ hk.1

/-- Each lane receives the item of its place in the list. -/
theorem Warp.giveItems_item (w : Warp) (ls : List Nat) (base : Nat) (hn : ls.Nodup) (k : Nat) (hk : k < ls.length) :
    (w.giveItems ls base).item.get 0 ls[k] = BitVec.ofNat 48 (base + k) := by
  induction ls generalizing w base k with
  | nil => simp at hk
  | cons l r ih =>
    obtain ⟨hl, hr⟩ := List.nodup_cons.mp hn
    cases k with
    | zero =>
      rw [Warp.giveItems, List.getElem_cons_zero, Warp.giveItems_item_ne _ _ _ _ hl]
      exact Cells.get_set_self _ _ _ _
    | succ k =>
      rw [Warp.giveItems, List.getElem_cons_succ, ih _ _ hr k (by simpa using hk)]
      congr 1
      omega

/-- The lanes from 0 upward. -/
theorem take_lanes {n : Nat} (h : n ≤ 64) : lanes.take n = List.range n := by
  rw [lanes, List.take_range, Nat.min_eq_left h]

/-- A part of a warp that no write of a vector register changes stays when the `.ilive` registers are zeroed. -/
theorem State.zeroLive_of {β : Type} (f : Warp → β) (h : ∀ w r m x, f (Warp.setV w r m x) = f w) (s : State) (m : Mask) (w : Warp) :
    f (s.zeroLive m w) = f w := by
  unfold State.zeroLive
  induction s.ilive generalizing w with
  | nil => rfl
  | cons r rs ih => exact (ih _).trans (h w r m Vec.zero)

/-! The end of a closing event, field by field (R44). -/

theorem finish_closing {e : Eff} (he : e.close = true) (hl : e.la = 0) (w0 : Warp) :
    let u := (e.leaves w0).finish
    u.w.occ = e.s.w.occ ∧ u.w.item = e.s.w.item ∧ u.w.depth = e.s.w.depth ∧ u.w.stack = e.s.w.stack ∧ u.w.crpc = e.s.w.crpc
      ∧ u.w.pathCount = e.s.w.pathCount ∧ u.w.windows = [] ∧ u.w.hints = [] ∧ u.w.pc = e.next.getD (e.s.w.pc + 4)
      ∧ (∀ r, u.w.s r = (e.s.w.commitAll.apply e.writes).s r) ∧ u.lc = e.s.lc ∧ u.wg = e.s.wg ∧ u.mem = e.s.mem := by
  obtain ⟨t, xs, la, load, close, next⟩ := e
  obtain rfl : close = true := he
  obtain rfl : la = 0 := hl
  have hs : ∀ l r, ((({ t.w with left := l } : Warp).commitAll).apply xs).s r = (t.w.commitAll.apply xs).s r := fun l r => by
    have hc : ({ t.w with left := l } : Warp).commitAll = { t.w.commitAll with left := l } :=
      congrArg (fun x : Warp => { x with windows := [], view := none }) (t.w.apply_withLeft _ l)
    rw [hc, Warp.apply_withLeft]
    rfl
  refine ⟨?_, ?_, ?_, ?_, ?_, ?_, ?_, rfl, rfl, fun r => hs _ r, rfl, rfl, rfl⟩
  all_goals simp [Eff.finish, Eff.leaves, Warp.results, Warp.dropHints]

/-! `exit.i` (R84 to R87, R91). -/

/-- The warp has left the lanes of EM, and occ stays. -/
def State.exited (s : State) (occ : Mask) : State :=
  { s with w := { ({ s.w.commitAll with occ := occ } : Warp).setS 56 0 with pc := s.w.pc, hints := s.w.hints } }

theorem State.exited_leaves (s : State) (occ : Mask) :
    let t := s.exited occ
    t.w.occ = occ ∧ t.w.em = 0 ∧ t.w.stack = s.w.stack ∧ t.w.depth = s.w.depth ∧ t.w.windows = [] ∧ t.w.view = none
      ∧ t.w.reports = s.w.reports ∧ (∀ r, r ≠ 56 → t.w.s r = s.w.commitAll.s r) := by
  have hs : ∀ r, (s.exited occ).w.s r = (({ s.w.commitAll with occ := occ } : Warp).setS 56 0).s r := fun _ => rfl
  have hv : (({ s.w.commitAll with occ := occ } : Warp).apply1 (.s 56 0)).view = none := Warp.apply1_view _ _ rfl
  refine ⟨?_, ?_, ?_, ?_, ?_, hv, ?_, fun r hr => (hs r).trans (Warp.s_setS_ne _ _ _ hr)⟩
  rotate_left
  · rw [Warp.em, hs, Warp.s_setS]
    simp
  all_goals simp [State.exited]

theorem exec_exitI_inHandler {s : State} (h : s.accepts 22 [] false) (hi : s.w.inh = true) :
    exec .exitI s = .next (s.trap 0x02 0) :=
  congrArg Host.Outcome.next (unit_trap h (by simp [need, hi, bind, Except.bind]))

/-- The body of `exit.i` outside a handler. -/
theorem exec_exitI {s : State} (h : s.accepts 22 [] false) (hi : s.w.inh = false) {r : Except Stop Eff}
    (hr : (if s.w.occ &&& ~~~ s.w.em = 0 then exitAll s else exitPath (s.w.occ &&& ~~~ s.w.em) s) = r) :
    exec .exitI s = .next (unit [] false false (fun _ => r) s) := by
  refine congrArg Host.Outcome.next ?_
  unfold unit
  rw [unitMod_runs h, unitMod_runs h, ← hr]
  simp only [need, hi, decide_true, Bool.false_eq_true, not_false_eq_true, bind, Except.bind, if_true]

/-- With lanes left and no path above Dh, the warp goes on with EM 0 (R85). -/
theorem exec_exitI_goes_on {s : State} (h : s.accepts 22 [] false) (hi : s.w.inh = false) (ho : s.w.occ &&& ~~~ s.w.em ≠ 0)
    (hd : s.w.depth ≤ s.w.dh) :
    exec .exitI s = .next (Eff.leaves { s := s.exited (s.w.occ &&& ~~~ s.w.em), close := true } s.w).finish := by
  rw [exec_exitI h hi ((if_neg ho).trans (if_neg (Nat.not_lt.mpr hd)))]
  exact congrArg _ (unit_ok h rfl)

/-- With no lane left and no item, the warp begins to retire (R87, R91). -/
theorem exec_exitI_retires {s : State} (h : s.accepts 22 [] false) (hi : s.w.inh = false) (ho : s.w.occ &&& ~~~ s.w.em = 0)
    (hic : s.lc.ic = s.lc.record.n) (hr : s.w.reports = []) :
    exec .exitI s = .next ((s.exited 0).itemTake 64).1.beginRetire := by
  have htake : ((s.exited 0).itemTake 64).2.2 = 0 := by
    rw [State.itemTake_gives]
    simp [State.exited, hic]
  have hall : exitAll s = .error (.enter ((s.exited 0).itemTake 64).1.beginRetire) := by
    unfold exitAll
    rw [if_neg (not_not.mpr hic)]
    exact (if_pos htake).trans (if_neg (not_not.mpr hr))
  rw [exec_exitI h hi ((if_pos ho).trans hall)]
  exact congrArg _ (unit_enter h rfl)

/-- The state once the running warp, whose lanes have all exited, has taken its new items (R84). -/
def State.taken (s : State) : State := ((s.exited 0).itemTake 64).1

/-- The warp that restarts with n new items from base on (R84): no path waits, and its `.ilive` registers are zeroed. -/
def State.restarted (s : State) (base n : Nat) : Warp :=
  s.zeroLive (lowLanes n)
    (({ s.w with depth := 0, stack := [], crpc := noneRpc, pathCount := 0 } : Warp).giveItems (lanes.take n) base)

/-- The unit's end as the warp restarts: its new lanes are what it writes to EM. -/
def State.restartEff (s : State) (w : Warp) : Eff :=
  { s := { s.taken with w := w }, writes := [.s 56 w.occ], close := true, next := some (s.entryOfStage s.wg.stage.toNat) }

/-- With no lane left, the warp restarts at its stage entry with new items (R84, R87). -/
theorem exec_exitI_restarts {s : State} (h : s.accepts 22 [] false) (hi : s.w.inh = false) (ho : s.w.occ &&& ~~~ s.w.em = 0)
    (hic : s.lc.ic.toNat < s.lc.record.n.toNat) (hp : ∀ r ∈ s.ilive, s.pendingLanes r = false) :
    let w := s.taken.restarted s.lc.ic.toNat (min 64 (s.lc.record.n.toNat - s.lc.ic.toNat))
    exec .exitI s = .next ((s.restartEff w).leaves s.w).finish := by
  intro w
  have hne : s.lc.ic ≠ s.lc.record.n := fun h => by rw [h] at hic; exact Nat.lt_irrefl _ hic
  have hready : s.notPending s.ilive = .ok () := (ready_ok _ _).mpr (List.all_eq_true.mpr fun r hr => by simp [hp r hr])
  have hgives : ((s.exited 0).itemTake 64).2 = (s.lc.ic.toNat, min 64 (s.lc.record.n.toNat - s.lc.ic.toNat)) :=
    (s.exited 0).itemTake_gives 64
  have htake : ((s.exited 0).itemTake 64).2.2 ≠ 0 := by
    rw [hgives]
    dsimp only
    omega
  have hw : s.taken.restarted ((s.exited 0).itemTake 64).2.1 ((s.exited 0).itemTake 64).2.2 = w := by rw [hgives]
  have hall : exitAll s = .ok (s.restartEff w) := by
    unfold exitAll
    rw [if_pos hne, hready, ← hw]
    exact if_neg htake
  rw [exec_exitI h hi ((if_pos ho).trans hall)]
  exact congrArg _ (unit_ok h rfl)

/-- What the items of a restart leave of the warp. -/
theorem State.restarted_leaves (s : State) (base n : Nat) (hocc : s.w.occ = 0) (hn : n ≤ 64) :
    let w := s.restarted base n
    (∀ l < 64, w.occ.getLsbD l = decide (l < n)) ∧ (∀ l < n, w.item.get 0 l = BitVec.ofNat 48 (base + l))
      ∧ w.depth = 0 ∧ w.stack = [] ∧ w.crpc = 1 := by
  have hz : ∀ {β : Type} (f : Warp → β), (∀ w r m x, f (Warp.setV w r m x) = f w) → f (s.restarted base n) =
      f (({ s.w with depth := 0, stack := [], crpc := noneRpc, pathCount := 0 } : Warp).giveItems (lanes.take n) base) :=
    fun f h => s.zeroLive_of f h _ _
  refine ⟨fun l hl => ?_, fun l hl => ?_, ?_, ?_, ?_⟩
  · rw [hz Warp.occ fun _ _ _ _ => rfl, Warp.giveItems_occ _ _ _ _ hl, take_lanes hn]
    simp [hocc]
  · have hlen : l < (List.range n).length := by rwa [List.length_range]
    have := Warp.giveItems_item ({ s.w with depth := 0, stack := [], crpc := noneRpc, pathCount := 0 } : Warp) (List.range n) base
      List.nodup_range l hlen
    rwa [List.getElem_range, ← take_lanes hn, ← hz Warp.item fun _ _ _ _ => rfl] at this
  · rw [hz Warp.depth fun _ _ _ _ => rfl, Warp.giveItems_eq]
  · rw [hz Warp.stack fun _ _ _ _ => rfl, Warp.giveItems_eq]
  · rw [hz Warp.crpc fun _ _ _ _ => rfl, Warp.giveItems_eq]
    rfl

/-- The unit's end as w goes on with the path that it has entered: its PC is the next one, its hints stay until the unit closes. -/
def State.pathEff (s : State) (w : Warp) : Eff :=
  { s := { s with w := { w with pc := s.w.pc, hints := s.w.hints } }, close := true, next := some w.pc }

/-- The warp that is left with a path above Dh goes on with it, when lanes of the path stay occupied (R85). -/
theorem exec_exitI_path {s : State} {e : Entry} {rest : List Entry} (h : s.accepts 22 [] false) (hi : s.w.inh = false)
    (ho : s.w.occ &&& ~~~ s.w.em ≠ 0) (hd : s.w.dh < s.w.depth) (hc : s.w.depth ≤ 32) (hs : s.w.stack = e :: rest)
    (he : e.mask &&& (s.w.occ &&& ~~~ s.w.em) ≠ 0) (hpc : e.pc ≠ e.rpc) :
    let w := ({ s.w.commitAll with stack := rest, depth := s.w.depth - 1, occ := s.w.occ &&& ~~~ s.w.em } : Warp).enter e
    exec .exitI s = .next ((s.pathEff w).leaves s.w).finish := by
  intro w
  have hpop : (⟨s, s.w.stack, s.w.depth⟩ : Pops).pop = .ok (⟨s, rest, s.w.depth - 1⟩, e) := by
    have := Pops.pop_of (c := ⟨s, s.w.stack, s.w.depth⟩) hs
      (by rw [if_neg (Nat.not_lt.mpr hc)]; exact s.read32_nil)
    simpa using this
  have hchain := popChain_stops (c := ⟨s, s.w.stack, s.w.depth⟩) s.w.depth (popSkip_stops s.w.depth hpop fun g => he g.2.1)
    fun g => hpc g.2
  have hpath : exitPath (s.w.occ &&& ~~~ s.w.em) s = .ok (s.pathEff w) := by
    unfold exitPath
    rw [if_pos hd, popPath_of hchain]
    rfl
  rw [exec_exitI h hi ((if_neg ho).trans hpath)]
  exact congrArg _ (unit_ok h rfl)

/-- Settles O13: `exit.i` pops the paths, restarts the warp or begins its retirement, by what its lanes and items leave. -/
theorem exitEndsItems : Obligations.ExitEndsItems := by
  intro s h
  refine ⟨exec_exitI_inHandler h, fun hi ho hd => ?_, fun hi ho hic hp => ?_, fun hi ho hic hr => ?_,
    fun e rest hi ho hd hc hs he hpc => ?_⟩
  · obtain ⟨hocc, hem, hstack, -, hwin, hview, -, hregs⟩ := s.exited_leaves (s.w.occ &&& ~~~ s.w.em)
    obtain ⟨focc, -, -, fstack, -, -, fwin, -, fpc, fregs, flc, -, fmem⟩ :=
      finish_closing (e := { s := s.exited (s.w.occ &&& ~~~ s.w.em), close := true }) rfl rfl s.w
    rw [Warp.commitAll_closed hwin hview] at fregs
    exact ⟨_, exec_exitI_goes_on h hi ho hd, focc.trans hocc, (congrArg _ (fregs 56)).trans hem, fpc, fwin, fstack.trans hstack, flc,
      fun r hr => (fregs r).trans (hregs r hr), fmem⟩
  · intro take
    obtain ⟨-, -, -, -, hcount⟩ := (s.exited 0).itemTake_leaves 64
    have hic' : s.taken.lc.ic.toNat = s.lc.ic.toNat + take := hcount hic.le
    obtain ⟨hocc, hitem, hdepth, hstack, hcrpc⟩ :=
      s.taken.restarted_leaves s.lc.ic.toNat take (s.exited_leaves 0).1 (Nat.min_le_left _ _)
    obtain ⟨focc, fitem, fdepth, fstack, fcrpc, -, -, -, fpc, fregs, flc, -, fmem⟩ :=
      finish_closing (e := s.restartEff (s.taken.restarted s.lc.ic.toNat take)) rfl rfl s.w
    refine ⟨_, exec_exitI_restarts h hi ho hic hp, fun l hl => ?_, ?_, fun l hl => ?_, (congrArg (·.ic.toNat) flc).trans hic', fpc,
      fdepth.trans hdepth, fstack.trans hstack, fcrpc.trans hcrpc, fmem⟩
    · exact (congrArg (·.getLsbD l) focc).trans (hocc l hl)
    · rw [focc]
      refine (fregs 56).trans ((Warp.s_setS _ 56 56 _).trans ?_)
      simp [State.restartEff]
    · rw [fitem]
      refine (hitem l hl).trans ?_
      rw [BitVec.ofNat_add, BitVec.ofNat_toNat, BitVec.setWidth_eq]
  · obtain ⟨hocc, -⟩ := s.exited_leaves 0
    obtain ⟨hlife, hd, -, -, hw, -, ho', -, -, -, -, hmem⟩ := ((s.exited 0).itemTake 64).1.beginRetire_leaves
    exact ⟨_, exec_exitI_retires h hi ho hic hr, hlife, ho'.trans hocc, hd, hw, hmem⟩
  · let w := ({ s.w.commitAll with stack := rest, depth := s.w.depth - 1, occ := s.w.occ &&& ~~~ s.w.em } : Warp)
    obtain ⟨hpc', hem, -, hrpc, -⟩ := w.enter_path e
    obtain ⟨hocc, hstack, hdepth, hwin, -, hview⟩ := w.enter_keeps e
    obtain ⟨focc, -, fdepth, fstack, fcrpc, -, -, -, fpc, fregs, -, -, fmem⟩ :=
      finish_closing (e := s.pathEff _) rfl rfl s.w
    have hclosed := Warp.commitAll_closed (w := (s.pathEff _).s.w) (hwin.trans rfl) (hview rfl)
    refine ⟨_, exec_exitI_path h hi ho hd hc hs (by rwa [← BitVec.and_assoc]) hpc, focc.trans hocc, ?_, fpc.trans hpc',
      fcrpc.trans hrpc, fstack.trans hstack, fdepth.trans hdepth, fmem⟩
    rw [focc]
    exact (fregs 56).trans ((congrArg (·.s 56) hclosed).trans (hem.trans (congrArg _ hocc.symm)))

end Sys2Proof.Machine
end

section
/-! SUPPORT. Power: the cycle of a cluster, the governor, `vxgov`, gating, wakes and replays (R421, R425 to R434). -/

namespace Sys2Proof.Machine

/-! The cycle of a cluster (R421, R100). -/

theorem State.focus_mem (s : State) (p : Place) : (s.focus p).mem = s.mem := by
  unfold State.focus
  split
  · rfl
  · split <;> rfl

theorem readPanel_mem (l : Cells (Option Word)) (s : State) : (readPanel l s).1.mem = s.mem := by
  induction l generalizing s with
  | nil => rfl
  | cons x r ih =>
    obtain ⟨k, v⟩ := x
    have h := ih s.pick.2
    simp only [readPanel, State.pick]
    split
    · exact h
    · exact h

theorem State.passPart_mem (s : State) (e : MxEntry) (part : Nat × Mask × List Vec) : (s.passPart e part).mem = s.mem := by
  unfold State.passPart
  split
  · next o _ =>
    split
    · split
      · rfl
      · split
        · rfl
        · exact (State.focus_mem _ _).trans ((readPanel_mem o.old _).trans (State.focus_mem _ _))
    · rfl
  · rfl

theorem State.grant_mem (c : Cluster) (e : MxEntry) (s : State) : (s.grant c e).mem = s.mem := by
  unfold State.grant
  exact foldl_mem _ (fun t p => t.passPart_mem e p) e.parts _

theorem State.arbiterGrant_mem (c : Cluster) (s : State) : (s.arbiterGrant c).mem = s.mem := by
  unfold State.arbiterGrant
  split
  · rfl
  · split
    · exact State.grant_mem c _ s
    · rfl

/-- A table without entries gives the arbiter nothing to grant (R244). -/
theorem State.arbiterGrant_of_empty {c : Cluster} {s : State} (h : (s.clusterOf c).entries = []) : s.arbiterGrant c = s := by
  unfold State.arbiterGrant State.selectEntry
  rw [h]
  rfl

theorem mem_insertWarp {le : Warp → Warp → Bool} {x w : Warp} {ws : List Warp} : w ∈ insertWarp le x ws ↔ w = x ∨ w ∈ ws := by
  induction ws with
  | nil => simp [insertWarp]
  | cons y r ih =>
    unfold insertWarp
    split
    · simp
    · rw [List.mem_cons, ih, List.mem_cons]
      exact or_left_comm

theorem mem_sortWarps {le : Warp → Warp → Bool} {w : Warp} {ws : List Warp} : w ∈ sortWarps le ws ↔ w ∈ ws := by
  induction ws with
  | nil => rfl
  | cons x r ih =>
    change w ∈ insertWarp le x (sortWarps le r) ↔ _
    rw [mem_insertWarp, ih, List.mem_cons]

/-- The issue order of a core holds the places of its ready warps only (R100). -/
theorem mem_coreOrder {ws : List Warp} {p : Place} (h : p ∈ coreOrder ws) : ∃ w ∈ ws, w.place = p := by
  obtain ⟨w, hw, rfl⟩ := List.mem_map.mp h
  refine ⟨w, ?_, rfl⟩
  simp only [List.mem_append, mem_sortWarps, List.mem_filter] at hw
  rcases hw with (hw | hw) | hw <;> exact hw.1

theorem Warp.parts_of_candidate {w : Warp} (h : w.candidate = true) :
    w.life = .run ∧ w.park = .none ∧ w.fence = none ∧ w.blocked = false := by
  simp only [Warp.candidate, Bool.and_eq_true, decide_eq_true_eq, Option.isNone_iff_eq_none, Bool.not_eq_true] at h
  obtain ⟨⟨⟨⟨hlife, hpark⟩, hfence⟩, -⟩, hblocked⟩ := h
  exact ⟨hlife, hpark, hfence, hblocked⟩

/-- In a cycle the allowance of a powered cluster that has not begun it is refilled; the table is empty, so nothing is granted. -/
theorem State.refillGrant_of_empty {c : Cluster} {s : State} (hg : (s.clusterOf c).gate = .on) (hb : (s.clusterOf c).begun = false)
    (he : (s.clusterOf c).entries = []) :
    ∃ x, s.refillGrant c = s.setCluster c x ∧ x.gate = .on ∧ x.changing = (s.clusterOf c).changing ∧ x.spent = 0
      ∧ x.c = min ((s.colOf c.ld.toNat c.col.toNat).cap.toNat : Int)
          ((s.clusterOf c).c - (s.clusterOf c).spent + refillOf (s.colOf c.ld.toNat c.col.toNat)) := by
  unfold State.refillGrant
  rw [if_neg (by simp [hg, hb]), State.arbiterGrant_of_empty (by simpa using he)]
  exact ⟨_, rfl, hg, rfl, rfl, rfl⟩

theorem State.refillGrant_mem (c : Cluster) (s : State) : (s.refillGrant c).mem = s.mem := by
  unfold State.refillGrant
  dsimp only
  by_cases h : (s.clusterOf c).gate ≠ .on ∨ (s.clusterOf c).begun = true
  · rw [if_pos h]
  · rw [if_neg h, State.arbiterGrant_mem]
    rfl

theorem State.allowanceCycle_mem (c : Cluster) (s : State) : (s.allowanceCycle c).mem = s.mem := by
  unfold State.allowanceCycle
  dsimp only
  by_cases h : ((s.refillGrant c).clusterOf c).gate ≠ .on
  · rw [if_pos h]
  · rw [if_neg h]
    exact s.refillGrant_mem c

theorem State.allowanceCycle_off {c : Cluster} {s : State} (hg : (s.clusterOf c).gate ≠ .on) : s.allowanceCycle c = s := by
  have h : s.refillGrant c = s := if_pos (.inl hg)
  unfold State.allowanceCycle
  rw [h]
  exact if_pos hg

/-- What the cycle of a powered cluster leaves, once its first steps have left x (R421, R100). -/
theorem State.allowanceCycle_on {c : Cluster} {s : State} {x : ClusterState} (hr : s.refillGrant c = s.setCluster c x)
    (hg : x.gate = .on) :
    let t := s.allowanceCycle c
    t.clusterOf c = { x with begun := false }
      ∧ ∀ p ∈ t.issueQ, clusterAt p = c → x.changing = false ∧ ∃ w ∈ s.allWarps, w.place = p ∧ w.candidate = true := by
  unfold State.allowanceCycle
  rw [hr]
  dsimp only
  rw [if_neg (by simp [hg])]
  refine ⟨?_, fun p hp hc => ?_⟩
  · change ((s.setCluster c x).setCluster c _).clusterOf c = _
    simp
  · simp only [List.mem_append, List.mem_filter, List.mem_flatMap, List.mem_map] at hp
    obtain ⟨-, hp⟩ | ⟨ws, ⟨i, -, rfl⟩, hp⟩ := hp
    · simp [hc] at hp
    · obtain ⟨w, hw, rfl⟩ := mem_coreOrder hp
      obtain ⟨⟨hw, -⟩, -⟩ := by simpa only [List.mem_filter] using hw
      by_cases hx : x.changing = true
      · simp [hx] at hw
      · rw [if_neg (by simpa using hx)] at hw
        obtain ⟨hw, hcand⟩ := List.mem_filter.mp hw
        exact ⟨by simpa using hx, w, (List.mem_filter.mp hw).1, rfl, hcand⟩

/-! The governor (R425 to R427). -/

/-- The level that an evaluation gives, as conditions on the level, the temperature and the power (R425). -/
theorem nextLevel_eq {lv : Nat} (h : lv < 4) (floor temp power : Nat) :
    let up := (lv = 0 ∧ (88 ≤ temp ∨ 3600 < power)) ∨ (lv = 1 ∧ 96 ≤ temp) ∨ (lv = 2 ∧ 104 ≤ temp)
    let down := (lv = 1 ∧ temp < 85 ∧ power ≤ 3600) ∨ (lv = 2 ∧ temp < 93) ∨ (lv = 3 ∧ temp < 101)
    nextLevel lv floor temp power =
      if up then lv + 1 else if down ∧ floor < lv then lv - 1 else if lv < floor then lv + 1 else lv := by
  unfold nextLevel
  obtain rfl | rfl | rfl | rfl : lv = 0 ∨ lv = 1 ∨ lv = 2 ∨ lv = 3 := by omega
  all_goals simp [enters, leaves]

theorem nextLevel_lt {lv floor : Nat} (h : lv < 4) (hf : floor < 4) (temp power : Nat) : nextLevel lv floor temp power < 4 := by
  unfold nextLevel
  repeat' split
  all_goals omega

/-- A cluster that begins to quiesce changes nothing but the clusters. -/
theorem State.checkRate_leaves (c : Cluster) (s : State) : ∃ cs, s.checkRate c = { s with clusters := cs } := by
  unfold State.checkRate
  split <;> exact ⟨_, rfl⟩

theorem State.checkRates_leaves (ld : BitVec 2) (col : BitVec 6) (s : State) :
    ∃ cs, s.checkRates ld col = { s with clusters := cs } := by
  obtain ⟨cs, h⟩ := s.checkRate_leaves ⟨ld, col, 0⟩
  obtain ⟨ds, h'⟩ := (s.checkRate ⟨ld, col, 0⟩).checkRate_leaves ⟨ld, col, 1⟩
  exact ⟨ds, h'.trans (by rw [h])⟩

/-- So does the write of a rate's field (R430). -/
theorem State.clearCap_leaves (c : Cluster) (new : BitVec 2) (s : State) : ∃ cs, s.clearCap c new = { s with clusters := cs } := by
  unfold State.clearCap
  split <;> exact ⟨_, rfl⟩

theorem Warp.throttleReport_eq (w : Warp) (v : DWord) : w.throttleReport v = { w with reports := (w.throttleReport v).reports } := by
  unfold Warp.throttleReport
  split <;> rfl

/-- A warp that runs on a column whose level changes finds the level before in THROTTLE (R427). -/
theorem Warp.throttle_leaves (w : Warp) (old new : BitVec 2) :
    (w.throttle old new).thrPrev = old ∧ (w.throttle old new).thrChg = true ∧ (w.throttle old new).pc = w.pc := by
  unfold Warp.throttle
  dsimp only
  split
  · rw [Warp.throttleReport_eq]
    exact ⟨rfl, rfl, rfl⟩
  · exact ⟨rfl, rfl, rfl⟩

/-- What a level change does to each warp: those that have started on the column find it (R427). -/
def Warp.atLevel (ld : BitVec 2) (col : BitVec 6) (old new : BitVec 2) (w : Warp) : Warp :=
  if w.place.ld = ld ∧ w.place.col = col ∧ w.life ≠ .start then w.throttle old new else w

theorem State.setLevel_leaves (ld : BitVec 2) (col : BitVec 6) (new : BitVec 2) (s : State) :
    let x := s.colOf ld.toNat col.toNat
    ∃ cs, s.setLevel ld col new =
      { (s.setCol ld.toNat col.toNat { x with level := new }).mapWarps (Warp.atLevel ld col x.level new) with clusters := cs } :=
  State.checkRates_leaves ld col _

/-- An evaluation leaves a column x at its level, or changes it (R425). -/
theorem State.evaluate_keeps {ld : BitVec 2} {col : BitVec 6} {s : State} {x : Column} (hx : s.colOf ld.toNat col.toNat = x)
    (h : nextLevel x.level.toNat x.floor.toNat x.temp s.power = x.level.toNat) : s.evaluate ld col = s := by
  subst hx
  exact if_pos (by rw [h, BitVec.ofNat_toNat, BitVec.setWidth_eq])

theorem State.evaluate_changes {ld : BitVec 2} {col : BitVec 6} {s : State} {x : Column} {lv : Nat}
    (hx : s.colOf ld.toNat col.toNat = x) (h : nextLevel x.level.toNat x.floor.toNat x.temp s.power = lv) (hlv : lv < 4)
    (hne : lv ≠ x.level.toNat) : s.evaluate ld col = s.setLevel ld col (BitVec.ofNat 2 lv) := by
  subst hx h
  refine if_neg fun he => hne ?_
  have := congrArg BitVec.toNat he
  rwa [BitVec.toNat_ofNat, Nat.mod_eq_of_lt hlv] at this

/-- An evaluation below 115 °C (R425, R427). -/
theorem exec_governorEvaluation (s : State) (ld : BitVec 2) (n : BitVec 6) (temp power : Nat) (ht : temp < 115) :
    let x := s.colOf ld.toNat n.toNat
    let new := nextLevel x.level.toNat x.floor.toNat temp power
    ∃ t, exec (.governorEvaluation ld n temp power) s = .next t ∧ t.mem = s.mem
      ∧ (t.colOf ld.toNat n.toNat).level.toNat = new ∧ (t.colOf ld.toNat n.toNat).temp = temp ∧ t.power = power
      ∧ (new = x.level.toNat → t.w = s.w ∧ t.warps = s.warps ∧ t.clusters = s.clusters)
      ∧ (s.w.life = .start → t.w = s.w)
      ∧ (new ≠ x.level.toNat → t.w = if s.w.life = .empty then s.w else s.w.atLevel ld n x.level (BitVec.ofNat 2 new)) := by
  intro x new
  have hnew : new < 4 := nextLevel_lt x.level.isLt x.floor.isLt temp power
  let u := ({ s with power := power } : State).setCol ld.toNat n.toNat { x with temp := temp }
  have hu : u.colOf ld.toNat n.toNat = { x with temp := temp } := State.colOf_setCol ..
  have hexec : exec (.governorEvaluation ld n temp power) s = .next (u.evaluate ld n) :=
    congrArg Host.Outcome.next (if_neg (Nat.not_le.mpr ht))
  refine ⟨_, hexec, ?_⟩
  by_cases hsame : new = x.level.toNat
  · rw [State.evaluate_keeps hu hsame]
    exact ⟨rfl, by rw [hu]; exact hsame.symm, by rw [hu], rfl, fun _ => ⟨rfl, rfl, rfl⟩, fun _ => rfl, fun h => absurd hsame h⟩
  · rw [State.evaluate_changes (lv := new) hu rfl hnew hsame]
    obtain ⟨cs, hcs⟩ := u.setLevel_leaves ld n (BitVec.ofNat 2 new)
    have hcol : (u.setLevel ld n (BitVec.ofNat 2 new)).colOf ld.toNat n.toNat =
        { x with temp := temp, level := BitVec.ofNat 2 new } := by
      rw [hcs, hu]
      exact State.colOf_setCol ..
    have hw : (u.setLevel ld n (BitVec.ofNat 2 new)).w =
        if s.w.life = .empty then s.w else s.w.atLevel ld n x.level (BitVec.ofNat 2 new) := by
      rw [hcs, hu]
      rfl
    refine ⟨by rw [hcs]; rfl, ?_, by rw [hcol], by rw [hcs]; rfl, fun h => absurd h hsame, fun hstart => ?_, fun _ => hw⟩
    · rw [hcol]
      exact (BitVec.toNat_ofNat ..).trans (Nat.mod_eq_of_lt hnew)
    · simp [hw, Warp.atLevel, hstart]

/-! `vxgov` (R430). -/

theorem exec_vxgovWrite_runs {s : State} {h : HartId} (hu : s.hartUp h = true) (ha : s.acked (.hart h) = true) (mode : HartMode)
    (v : BitVec 64) :
    exec (.vxgovWrite h mode v) s = .next (match csrTrap mode with | none => s.writeGov h v | some c => s.hartExc h c) :=
  congrArg Host.Outcome.next (State.asHart_runs hu ha _)

theorem bitsOf_toNat (v : BitVec 64) (lo n : Nat) : bitsOf v.toNat lo n = (v.extractLsb' lo n).toNat := by
  rw [BitVec.extractLsb'_toNat, Nat.shiftRight_eq_div_pow, bitsOf]

/-- What the write of both rates leaves: all but the clusters. -/
theorem State.govRates_leaves (u : State) (ld : BitVec 2) (col : BitVec 6) (a b : BitVec 2) :
    ∃ cs, ((u.clearCap ⟨ld, col, 0⟩ a).clearCap ⟨ld, col, 1⟩ b).checkRates ld col = { u with clusters := cs } := by
  obtain ⟨cs, hcs⟩ := u.clearCap_leaves ⟨ld, col, 0⟩ a
  obtain ⟨ds, hds⟩ := (u.clearCap ⟨ld, col, 0⟩ a).clearCap_leaves ⟨ld, col, 1⟩ b
  obtain ⟨es, hes⟩ := ((u.clearCap ⟨ld, col, 0⟩ a).clearCap ⟨ld, col, 1⟩ b).checkRates_leaves ld col
  exact ⟨es, hes.trans (by rw [hds, hcs])⟩

/-- The fields of vxgov that a write sets in its column; memory stays (R430). -/
theorem State.writeGov_leaves (s : State) (h : HartId) (v : BitVec 64) :
    let old := s.colOf h.ld.toNat h.col.toNat
    let t := s.writeGov h v
    t.mem = s.mem ∧ t.colOf h.ld.toNat h.col.toNat = { old with
      cap := v.extractLsb' 48 16, budget := BitVec.ofNat 16 (max 64 (v.extractLsb' 32 16).toNat), floor := v.extractLsb' 28 2
      clk0 := if v.extractLsb' 0 2 = 3 then old.clk0 else v.extractLsb' 0 2
      clk1 := if v.extractLsb' 2 2 = 3 then old.clk1 else v.extractLsb' 2 2 } := by
  unfold State.writeGov
  simp only [bitsOf_toNat, BitVec.ofNat_toNat, BitVec.setWidth_eq, clkField]
  obtain ⟨cs, hcs⟩ := State.govRates_leaves (s.setCol h.ld.toNat h.col.toNat _) h.ld h.col (v.extractLsb' 0 2) (v.extractLsb' 2 2)
  rw [hcs]
  exact ⟨rfl, State.colOf_setCol ..⟩

/-! Gating, wakes and replays (R431 to R434). -/

theorem State.clusterOf_checkRate (c : Cluster) (s : State) :
    ((s.checkRate c).clusterOf c).replays = (s.clusterOf c).replays
      ∧ ((s.checkRate c).clusterOf c).replayCap = (s.clusterOf c).replayCap := by
  unfold State.checkRate
  split
  · simp
  · exact ⟨rfl, rfl⟩

/-- A cluster that has been idle for 50 µs gates: its counter and the lines of its L1s are lost (R431). -/
theorem exec_clusterGating {s : State} {c : Cluster} (hg : (s.clusterOf c).gate = .on) (hi : s.clusterIdle c = true)
    (ht : (s.clusterOf c).idle + 50 * Config.cyclesPerUs ≤ s.tick.toNat) :
    ∃ t, exec (.clusterGating c) s = .next t ∧ t.clusterOf c = { s.clusterOf c with gate := .gated, c := 0, spent := 0 }
      ∧ t.mem = s.mem
      ∧ ∀ y ∈ t.copies, y.ld = c.ld → y.col = c.col → y.holder ≠ 0 → (y.holder - 1) % 8 / 4 ≠ c.cl.toNat := by
  refine ⟨_, congrArg Host.Outcome.next (if_pos ⟨hg, hi, ht⟩), State.clusterOf_setCluster .., rfl,
    fun y hy hld hcol hholder hcl => ?_⟩
  have hkept := (List.mem_filter.mp hy).2
  simp [hld, hcol, hholder, hcl] at hkept

theorem exec_clusterGating_waits {s : State} {c : Cluster} (h : (s.clusterOf c).gate ≠ .on ∨ s.clusterIdle c = false
      ∨ s.tick.toNat < (s.clusterOf c).idle + 50 * Config.cyclesPerUs) : exec (.clusterGating c) s = .next s := by
  refine congrArg Host.Outcome.next (if_neg fun ⟨hg, hi, ht⟩ => ?_)
  rcases h with h | h | h
  · exact h hg
  · simp [h] at hi
  · exact absurd ht (Nat.not_le.mpr h)

/-- With no other wake requested, a wake that ends leaves the other clusters as they are (R432). -/
theorem State.startWakes_of_empty {s : State} {ld : Nat} (h : (s.ldOf ld).wakes = []) : s.startWakes ld = s := by
  unfold State.startWakes
  simp [h]

theorem exec_wakeEnd {s : State} {c : Cluster} (hg : (s.clusterOf c).gate = .waking) (hw : (s.ldOf c.ld.toNat).wakes = []) :
    exec (.wakeEnd c) s = .next (s.setCluster c
      { s.clusterOf c with gate := .on, c := 0, spent := 0, begun := false, idle := s.tick.toNat }) :=
  congrArg Host.Outcome.next ((if_pos hg).trans (State.startWakes_of_empty (by simpa using hw)))

/-- A replay counts; more than 256 within 1 ms cap the cluster (R434). -/
theorem exec_timingErrorReplay {s : State} {c : Cluster} (hr : (s.clusterOf c).rate = 2) (hg : (s.clusterOf c).gate = .on) :
    let recent := ((s.clusterOf c).replays.filter fun t => s.tick.toNat < t + 1000 * Config.cyclesPerUs) ++ [s.tick.toNat]
    ∃ t, exec (.timingErrorReplay c) s = .next t ∧ t.mem = s.mem ∧ t.w = s.w ∧ (t.clusterOf c).replays = recent
      ∧ (t.clusterOf c).replayCap = ((s.clusterOf c).replayCap || decide (256 < recent.length)) := by
  intro recent
  let u := s.setCluster c { s.clusterOf c with
    replays := recent, replayCap := (s.clusterOf c).replayCap || decide (256 < recent.length) }
  have hu : u.clusterOf c = _ := State.clusterOf_setCluster ..
  obtain ⟨hreplays, hcap⟩ := u.clusterOf_checkRate c
  obtain ⟨cs, hcs⟩ := u.checkRate_leaves c
  exact ⟨u.checkRate c, congrArg Host.Outcome.next (if_pos ⟨hr, hg⟩), by rw [hcs]; rfl, by rw [hcs]; rfl, by rw [hreplays, hu],
    by rw [hcap, hu]⟩

/-- Settles O50: the cycle of a cluster, the governor, `vxgov`, gating, wakes and replays, event by event. -/
theorem powerEvents : Obligations.PowerEvents := by
  refine ⟨fun s c => ⟨fun hg => congrArg _ (State.allowanceCycle_off hg),
      fun hg => ⟨_, rfl, s.allowanceCycle_mem c, fun he hb => ?_⟩⟩,
    fun s ld n temp power c => ⟨rfl, fun ht => congrArg _ (if_pos ht), fun ht => ?_⟩, fun s h mode v c => ?_⟩
  · obtain ⟨x, hr, hon, hchanging, hspent, hc⟩ := State.refillGrant_of_empty hg hb he
    obtain ⟨hx, hq⟩ := State.allowanceCycle_on hr hon
    rw [refillOf_eq] at hc
    refine ⟨by rw [hx]; exact hc, by rw [hx]; exact hspent, fun p hp hpc => ?_⟩
    obtain ⟨hstill, w, hw, hplace, hcand⟩ := hq p hp hpc
    exact ⟨hchanging ▸ hstill, w, hw, hplace, Warp.parts_of_candidate hcand⟩
  · obtain ⟨t, hexec, hmem, hlevel, htemp, hpower, hsame, hstart, hother⟩ := exec_governorEvaluation s ld n temp power ht
    rw [nextLevel_eq (s.colOf ld.toNat n.toNat).level.isLt] at hlevel hsame hother
    refine ⟨t, hexec, hmem, hlevel, htemp, hpower, hsame, hstart, fun hne hrun hld hcol => ?_⟩
    rw [hother hne, if_neg (by simp [hrun]), Warp.atLevel, if_pos ⟨hld, hcol, by simp [hrun]⟩]
    exact Warp.throttle_leaves ..
  · refine ⟨fun hu => ?_, fun hu ha => ?_, fun hm hr => ?_, fun hm hr => ?_, fun hm hr => ?_, exec_clusterGating,
      exec_clusterGating_waits, fun hg => congrArg _ (if_neg hg), exec_wakeEnd, fun hn => congrArg _ (if_neg ?_), fun hr hg => ?_⟩
    · exact congrArg Host.Outcome.next (State.asHart_down hu _)
    · exact congrArg Host.Outcome.next (State.asHart_waits hu ha _)
    · rw [exec_vxgovWrite_runs hr.1 hr.2]
      rcases hm with rfl | rfl <;> rfl
    · rw [exec_vxgovWrite_runs hr.1 hr.2, hm]
      rfl
    · obtain ⟨hmem, hcol⟩ := s.writeGov_leaves h v
      refine ⟨_, exec_vxgovWrite_runs hr.1 hr.2 mode v, ?_⟩
      rcases hm with rfl | rfl <;> exact ⟨hmem, hcol⟩
    · exact fun h => hn.elim (fun hrate => hrate h.1) fun hgate => hgate h.2
    · exact exec_timingErrorReplay hr hg

end Sys2Proof.Machine
end

section
/-! SUPPORT. What the memory accesses of a unit leave of its warp: a property that neither the marks of lost and corrected accesses nor
a stop or the end of a workgroup can change lasts through translations, loads and stores. -/

namespace Sys2Proof.Machine

/-- A property of a warp that no memory access of its unit changes: it does not depend on what an access can mark (R316, R335, R382),
and it outlives the stop of a launch and the end of a workgroup (R404, R438). -/
structure Warp.Lasting (P : Warp → Prop) : Prop where
  mstat : ∀ w m, P w → P { w with mstat := m }
  reports : ∀ w r, P w → P { w with reports := r }
  lostPort : ∀ w p, P w → P { w with lostPort := p }
  lostLoad : ∀ w p, P w → P { w with lostLoad := p }
  stop : ∀ w, P w → P w.stop
  freed : ∀ w, P w → P { w with life := .empty }

/-! Parts of an access that leave the warp as it is. -/

theorem State.recall_w (s : State) (pa : Nat) : (s.recall pa).w = s.w := by
  unfold State.recall
  split <;> rfl

theorem State.markBad_w (s : State) (line : Nat) : (s.markBad line).w = s.w := by
  unfold State.markBad
  split
  · rfl
  · exact s.poisonLine_w line

theorem State.postError_w (s : State) (ld k st i : Nat) : (s.postError ld k st i).w = s.w := by
  unfold State.postError
  dsimp only
  split <;> rfl

theorem State.oldOrNew_w (s : State) (v : Via) (pa now : Nat) : (s.oldOrNew v pa now).1.w = s.w := by
  unfold State.oldOrNew
  split
  · split <;> rfl
  · rfl

theorem State.setAD_w (s : State) (a pte : Nat) (acc : Access) : (s.setAD a pte acc).w = s.w := by
  have key (want : Nat) : (if want = pte then s else ((s.evictHart a).poke a (bytesOf 8 want)).clearFlips a 8).w = s.w := by
    split
    · rfl
    · exact s.recall_w a
  exact key _

theorem State.cacheXlate_w (s : State) (v : Via) (e : TlbEntry) : (s.cacheXlate v e).w = s.w := by
  unfold State.cacheXlate
  dsimp only
  split <;> split <;> rfl

/-- The steps of a course that ends well. -/
theorem exists_of_bind_ok {ε α β : Type} {x : Except ε α} {f : α → Except ε β} {b : β} (e : x >>= f = .ok b) :
    ∃ a, x = .ok a ∧ f a = .ok b := by
  cases x with
  | error x => cases e
  | ok a => exact ⟨a, rfl, e⟩

section
variable {P : Warp → Prop} (hP : Warp.Lasting P) {s t : State}

theorem State.of_foldl {α : Type} {f : State → α → State} (hf : ∀ s a, P s.w → P (f s a).w) (l : List α) (h : P s.w) :
    P (l.foldl f s).w :=
  List.foldlRecOn (motive := fun t : State => P t.w) l f h fun t ht a _ => hf t a ht

theorem State.of_mapWarps {f : Warp → Warp} (hf : P s.w → P (f s.w)) (h : P s.w) : P (s.mapWarps f).w := by
  change P (if s.w.life = .empty then s.w else f s.w)
  split
  · exact h
  · exact hf h

include hP

/-! Reads at a home (R328, R334). -/

theorem Warp.Lasting.markCorr (o : Owner) (h : P s.w) : P (s.markCorr o).w := by
  have hmark : ∀ p : Warp → Bool, P (s.mapWarps fun w => if p w then { w with mstat := w.mstat ||| 8 } else w).w := fun p => by
    refine State.of_mapWarps (fun _ => ?_) h
    split
    · exact hP.mstat _ _ h
    · exact h
  unfold State.markCorr
  split
  · exact hmark fun w => decide (w.key = _ ∧ w.idx = _)
  · exact hmark _
  · exact h

theorem Warp.Lasting.serve (o : Owner) (pa : Nat) (h : P s.w) : P (s.serve o pa).w := by
  rw [← s.recall_w pa] at h
  unfold State.serve State.checkLine
  split
  · exact h
  · split
    · exact h
    · split
      · exact hP.markCorr o h
      · exact (congrArg P (State.poisonLine_w _ _)).mpr h

theorem Warp.Lasting.devRead {ld stall pa n : Nat} {x : Option Nat} (e : s.devRead ld stall pa n = (t, x)) (h : P s.w) : P t.w := by
  unfold State.devRead at e
  dsimp only at e
  split at e <;> cases e
  · rw [State.reportPoison, State.postError_w, State.markBad_w]
    exact hP.serve _ _ h
  · exact hP.serve _ _ h

/-! Translation (R343 to R353). -/

/-! `recordFor`, and what begins with a match on it, is unfolded as a function, before it is applied: to compare the application with
its body, the kernel would evaluate the bounds of the stall's record in unary. -/

theorem Warp.Lasting.recordFor {v : Via} {x : Option (Nat × Nat × Nat × Nat)} (e : s.recordFor v = (t, x)) (h : P s.w) : P t.w := by
  generalize hf : @State.recordFor = f at e
  delta State.recordFor at hf
  subst hf
  beta_reduce at e
  split at e
  · cases e
    exact h
  · split at e
    · next hd =>
      cases e
      exact hP.devRead hd h
    · next hd =>
      cases e
      exact (congrArg P (State.oldOrNew_w ..)).mpr (hP.devRead hd h)

theorem Warp.Lasting.pteAt {v : Via} {a : Nat} {x : Option Nat} (e : s.pteAt v a = (t, x)) (h : P s.w) : P t.w := by
  unfold State.pteAt at e
  split at e
  · split at e
    · exact hP.devRead e h
    · cases e
      exact h
  · cases e
    exact h

theorem Warp.Lasting.walk {v : Via} {look : State → Nat → State × Except XFault Nat}
    (hlook : ∀ {s a t x}, look s a = (t, x) → P s.w → P t.w) {stage : BitVec 2} {gpa va need : Nat} {idx : Nat → Nat}
    {level table : Nat} {x : Except XFault Found} (e : Machine.walk v look stage gpa va need idx level table s = (t, x)) (h : P s.w) : P t.w := by
  induction level using Nat.strong_induction_on generalizing table s x with
  | _ level ih =>
    unfold Machine.walk at e
    dsimp only at e
    split at e
    · next hl =>
      cases e
      exact hlook hl h
    · next s1 a hl =>
      split at e
      · next hp =>
        cases e
        exact hP.pteAt hp (hlook hl h)
      · next s2 now hp =>
        have h3 : P (s2.oldOrNew v a now).1.w := (congrArg P (State.oldOrNew_w ..)).mpr (hP.pteAt hp (hlook hl h))
        split at e
        · cases e
          exact h3
        · split at e
          · next hw =>
            cases e
            exact ih _ (Nat.lt_succ_self _) hw h3
          · exact ih _ (Nat.lt_succ_self _) e h3
        · cases e
          exact h3

theorem Warp.Lasting.gStage {v : Via} {g gpa need : Nat} {x : Except XFault Found} (e : s.gStage v g gpa need = (t, x)) (h : P s.w) :
    P t.w := by
  have hlook {s t : State} {a : Nat} {x : Except XFault Nat} (e : (s, Except.ok a) = (t, x)) (hs : P s.w) : P t.w := by
    cases e
    exact hs
  unfold State.gStage at e
  dsimp only at e
  split at e
  · split at e <;> cases e <;> exact h
  · split at e
    all_goals
      split at e
      · cases e
        exact h
      · exact hP.walk hlook e h

theorem Warp.Lasting.finalFrame {v : Via} {f : Found} {va : Nat} {x : Except XFault (Nat × Option Nat)}
    (e : s.finalFrame v f va = (t, x)) (h : P s.w) : P t.w := by
  unfold State.finalFrame at e
  dsimp only at e
  split at e
  · split at e
    · cases e
      exact h
    · split at e
      · next hp =>
        cases e
        exact hP.pteAt hp h
      · next hp =>
        split at e <;> cases e <;> exact (congrArg P (State.oldOrNew_w ..)).mpr (hP.pteAt hp h)
  · cases e
    exact h

theorem Warp.Lasting.firstStage {v : Via} {r : Nat × Nat × Nat × Nat} {va need : Nat} {x : Except XFault Found}
    (e : s.firstStage v r va need = (t, x)) (h : P s.w) : P t.w := by
  have hlook : ∀ {s : State} {a : Nat} {t : State} {x : Except XFault Nat},
      (if bitsOf r.2.1 60 4 = 0 then (s, .ok a) else
        match s.gStage v r.2.1 a 1 with
        | (s1, .ok f) => (s1.setAD f.at_ f.pte .read, .ok f.addr)
        | (s1, .error e) => (s1, .error e)) = (t, x) → P s.w → P t.w := fun e hs => by
    split at e
    · cases e
      exact hs
    · split at e
      · next hg =>
        cases e
        exact (congrArg P (State.setAD_w ..)).mpr (hP.gStage hg hs)
      · next hg =>
        cases e
        exact hP.gStage hg hs
  unfold State.firstStage at e
  dsimp only at e
  split at e
  · split at e <;> cases e <;> exact h
  · split at e
    all_goals
      split at e
      · cases e
        exact h
      · exact hP.walk hlook e h

theorem Warp.Lasting.secondStage {v : Via} {g : Nat} {f : Found} {need : Nat} {upd : Bool} {x : Except XFault Found}
    (e : s.secondStage v g f need upd = (t, x)) (h : P s.w) : P t.w := by
  unfold State.secondStage at e
  split at e
  · split at e
    · next hg => exact hP.gStage e ((congrArg P (State.setAD_w ..)).mpr (hP.gStage hg h))
    · exact hP.gStage e h
  · exact hP.gStage e h

theorem Warp.Lasting.walkBoth {v : Via} {r : Nat × Nat × Nat × Nat} {va : Nat} {acc : Access} {x : Except XFault Loc}
    (e : s.walkBoth v r va acc = (t, x)) (h : P s.w) : P t.w := by
  unfold State.walkBoth at e
  dsimp only at e
  split at e
  · next hf =>
    cases e
    exact hP.firstStage hf h
  · next hf =>
    have h1 := hP.firstStage hf h
    split at e
    · next hg =>
      cases e
      exact hP.secondStage hg h1
    · next hg =>
      have hframe : ∀ {c : Bool} {u s3 : State} {f : Found} {va : Nat} {y} {z}, P u.w →
          (if c = true then u.finalFrame v f va else (u, .ok z)) = (s3, y) → P s3.w := fun hu e => by
        split at e
        · exact hP.finalFrame e hu
        · cases e
          exact hu
      split at e
      · next hn =>
        cases e
        exact hframe (hP.secondStage hg h1) hn
      · next hn =>
        have h3 := hframe (hP.secondStage hg h1) hn
        have hw := congrArg (fun y : State × Except XFault Loc => y.1.w) e
        simp only [apply_ite (fun y : State × Except XFault Loc => y.1.w), apply_ite State.w, State.setAD_w, State.cacheXlate_w,
          ite_self] at hw
        exact hw ▸ h3

theorem Warp.Lasting.walkTables {v : Via} {r : Nat × Nat × Nat × Nat} {va : Nat} {acc : Access} {x : Except XFault Loc}
    (e : s.walkTables v r va acc = (t, x)) (h : P s.w) : P t.w := by
  unfold State.walkTables at e
  split at e
  · next hw =>
    have h1 := hP.walkBoth hw h
    cases e
    exact h1
  · next hw =>
    have h1 := hP.walkBoth hw h
    cases e
    exact h1
  · exact hP.walkBoth e h

theorem Warp.Lasting.byTables {v : Via} {va : Nat} {acc : Access} {x : Except XFault Loc} (e : s.byTables v va acc = (t, x))
    (h : P s.w) : P t.w := by
  generalize hf : @State.byTables = f at e
  delta State.byTables at hf
  subst hf
  beta_reduce at e
  split at e
  · next hr =>
    have h1 := hP.recordFor hr h
    cases e
    exact h1
  · next hr =>
    have h1 := hP.recordFor hr h
    split at e
    · exact hP.walkTables e h1
    · split at e
      next hp =>
      cases hp
      split at e
      · cases e
        exact h1
      · exact hP.walkTables e h1

theorem Warp.Lasting.handle {v : Via} {va : Nat} {acc : Access} {x : Except XFault (Nat × Nat × Nat)} (e : s.handle v va acc = (t, x))
    (h : P s.w) : P t.w := by
  generalize hf : @State.handle = f at e
  delta State.handle at hf
  subst hf
  beta_reduce at e
  split at e
  · next hr =>
    have h1 := hP.recordFor hr h
    cases e
    exact h1
  · next hr =>
    have h1 := hP.recordFor hr h
    extract_lets at e
    split at e
    · cases e
      exact h1
    · split at e
      · next hp =>
        cases e
        exact hP.pteAt hp h1
      · next hp =>
        cases e
        exact (congrArg P (State.oldOrNew_w ..)).mpr (hP.pteAt hp h1)

theorem Warp.Lasting.translate {v : Via} {va : DWord} {acc : Access} {x : Except XFault Loc} (e : s.translate v va acc = (t, x))
    (h : P s.w) : P t.w := by
  unfold State.translate at e
  dsimp only at e
  split at e
  · split at e
    · next hh =>
      cases e
      exact hP.handle hh h
    · next hh =>
      have h1 := hP.handle hh h
      split at e
      · cases e
        exact h1
      · split at e
        · cases e
          exact h1
        · split at e
          · next hb =>
            cases e
            exact hP.byTables hb h1
          · next hb =>
            cases e
            exact hP.byTables hb h1
  · exact hP.byTables e h

theorem Warp.Lasting.locate {va : DWord} {n : Nat} {acc : Access} {ctrl : Bool} {f : Found1} (e : s.locate va n acc ctrl = (t, f))
    (h : P s.w) : P t.w := by
  unfold State.locate at e
  split at e
  all_goals
    next hx =>
    cases e
    exact hP.translate hx h

theorem Warp.Lasting.locateAll {acc : Access} {n : Nat} {ctrl : Bool} {as : List (Nat × DWord)} {fs : List (Nat × DWord × Found1)}
    (e : State.locateAll acc n ctrl as s = (t, fs)) (h : P s.w) : P t.w := by
  induction as generalizing s t fs with
  | nil =>
    cases e
    exact h
  | cons a r ih =>
    obtain ⟨s1, f, hf⟩ : ∃ s1 f, s.locate a.2 n acc ctrl = (s1, f) := ⟨_, _, rfl⟩
    obtain ⟨s2, fs', hfs⟩ : ∃ s2 fs', State.locateAll acc n ctrl r s1 = (s2, fs') := ⟨_, _, rfl⟩
    rw [State.locateAll, hf] at e
    dsimp only at e
    rw [hfs] at e
    cases e
    exact ih hfs (hP.locate hf h)

theorem Warp.Lasting.memCheck {as : List (Nat × DWord)} {n : Nat} {acc : Access} {ctrl : Bool} {fs : List (Nat × DWord × Found1)}
    (e : s.memCheck as n acc ctrl = .ok (t, fs)) (h : P s.w) : P t.w := by
  obtain ⟨-, hl, -⟩ := (State.memCheckBy_ok ..).mp e
  exact hP.locateAll hl h

theorem Warp.Lasting.spillCheck {acc : Access} {is : List Nat} {xs : List (Nat × DWord × Loc)} (e : s.spillCheck acc is = .ok (t, xs))
    (h : P s.w) : P t.w := by
  unfold State.spillCheck at e
  obtain ⟨-, -, e⟩ := exists_of_bind_ok e
  obtain ⟨⟨s1, fs⟩, hm, e⟩ := exists_of_bind_ok e
  have h1 := hP.memCheck hm h
  dsimp only at e
  split at e
  · cases e
  · cases e
    exact h1

/-! Loads (R294, R328, R377). -/

omit hP in
theorem State.accept_w (s : State) (ag : Agent) (line : Nat) : (s.accept ag line).w = s.w := by
  unfold State.accept
  dsimp only
  repeat' split
  all_goals rfl

omit hP in
theorem State.sendHeld_w (s : State) (p : Nat) : (s.sendHeld p).w = s.w := by
  unfold State.sendHeld
  dsimp only
  split <;> rfl

theorem Warp.Lasting.readLoc {ag : Agent} {l : Loc} {n : Nat} {x : Except Lost Nat} (e : s.readLoc ag l n = (t, x)) (h : P s.w) :
    P t.w := by
  unfold State.readLoc at e
  split at e
  · split at e
    · cases e
      exact h
    · have h1 := hP.serve ag.owner l.pa (s.accept_w ag (l.pa / 64) ▸ h)
      dsimp only at e
      split at e
      · cases e
        exact (congrArg P (State.markBad_w ..)).mpr h1
      · cases e
        exact h1
  · split at e <;> cases e <;> exact h
  · split at e
    · cases e
      exact h
    · split at e
      · cases e
        exact h
      · cases e
        exact (congrArg P (State.sendHeld_w ..)).mpr h

theorem Warp.Lasting.reportNow (c : BitVec 8) (v : DWord) (h : P s.w) : P (s.reportNow c v).w := by
  unfold State.reportNow
  split
  · exact h
  · exact hP.reports _ _ h

theorem Warp.Lasting.note (e : Lost) (h : P s.w) : P (e.note s).w := by
  cases e with
  | port n => exact hP.lostLoad _ _ h
  | _ => exact h

theorem Warp.Lasting.readAll {ag : Agent} {n : Nat} {ls : List (Nat × DWord × Loc)} {x : List (Nat × Nat) × List Loc}
    (e : State.readAll ag n ls s = .ok (t, x)) (h : P s.w) : P t.w := by
  induction ls generalizing s x with
  | nil =>
    cases e
    exact h
  | cons l r ih =>
    unfold State.readAll at e
    split at e
    · next hr =>
      obtain ⟨⟨s2, y⟩, hs, e⟩ := exists_of_bind_ok e
      cases e
      exact ih hs (hP.readLoc hr h)
    · cases e
    · next _ hr =>
      obtain ⟨⟨s2, y⟩, hs, e⟩ := exists_of_bind_ok e
      cases e
      exact ih hs (hP.note _ (hP.reportNow _ _ (hP.readLoc hr h)))

omit hP in
theorem State.allocate_w (s : State) (p : Place) (l : Loc) (a b : BitVec 16) (policy : Nat) : (s.allocate p l a b policy).w = s.w := by
  unfold State.allocate
  dsimp only
  repeat' split
  all_goals rfl

omit hP in
theorem State.fill_w (s : State) (p : Place) (n span policy : Nat) (ls : List Loc) : (s.fill p n span policy ls).w = s.w := by
  unfold State.fill
  refine List.foldlRecOn (motive := fun x : State × List Nat => x.1.w = s.w) ls _ rfl fun x hx l _ => ?_
  dsimp only
  split
  · exact hx
  · exact (State.allocate_w ..).trans hx

theorem Warp.Lasting.loadAll {n : Nat} {ls : List (Nat × DWord × Loc)} {xs : List (Nat × Nat)}
    (e : s.loadAll none n ls = .ok (t, xs)) (h : P s.w) : P t.w := by
  unfold State.loadAll at e
  obtain ⟨-, -, e⟩ := exists_of_bind_ok e
  obtain ⟨-, -, e⟩ := exists_of_bind_ok e
  obtain ⟨⟨s1, ys, got⟩, hr, e⟩ := exists_of_bind_ok e
  cases e
  exact (congrArg P (State.fill_w ..)).mpr (hP.readAll hr h)

/-! Stores (R268, R335, R382). -/

theorem Warp.Lasting.freeGroup (k : GroupKey) (h : P s.w) : P (s.freeGroup k).w := by
  unfold State.freeGroup
  dsimp only
  split
  · exact hP.freed _ h
  · exact h

theorem Warp.Lasting.endLaunch (ld : BitVec 2) (q : BitVec 6) (seq : Word) (status : BitVec 8) (h : P s.w) :
    P (s.endLaunch ld q seq status).w := by
  have hstop : ∀ c : Bool, P (if c then s.w.stop else s.w) := fun c => by
    cases c
    · exact h
    · exact hP.stop _ h
  exact State.of_foldl (fun s k hs => hP.freeGroup k hs) _ (State.of_mapWarps (fun _ => hstop _) h)

theorem Warp.Lasting.beginStallEnd (ld stall : Nat) (poison : Bool) (h : P s.w) : P (s.beginStallEnd ld stall poison).w := by
  unfold State.beginStallEnd
  dsimp only
  split
  · exact h
  · refine State.of_foldl (fun s x hs => hP.endLaunch _ _ _ _ hs) _ (State.of_foldl (fun s q hs => ?_) _ h)
    split <;> exact hs

theorem Warp.Lasting.consumePoison (l : Loc) (h : P s.w) : P (s.consumePoison l).w :=
  hP.beginStallEnd _ _ _ ((congrArg P (State.postError_w ..)).mpr h)

theorem Warp.Lasting.dropStore (va : DWord) (l : Loc) (e : Lost) (h : P s.w) : P (s.dropStore va l e).w := by
  have h1 : P ((s.setMstat 2).countDrop s.w.place.ld.toNat e).w := by
    unfold State.countDrop
    split <;> exact hP.mstat _ _ h
  unfold State.dropStore
  dsimp only
  split
  · exact hP.lostPort _ _ h1
  · exact hP.consumePoison _ (hP.reportNow _ _ h1)
  · exact h1

omit hP in
theorem State.ctrlWrite_w (s : State) (who : Option Waiter) (ld off : Nat) (v : DWord) : (s.ctrlWrite who ld off v).w = s.w := by
  unfold State.ctrlWrite State.writeRgnctl State.waitOn
  dsimp only
  repeat' split
  all_goals rfl

omit hP in
theorem State.writeLoc_w (s : State) (ag : Agent) (l : Loc) (bs : List Byte) (full : Bool) : (s.writeLoc ag l bs full).1.w = s.w := by
  have hwrite : (((s.accept ag (l.pa / 64)).evictHart l.pa).poke l.pa bs).w = s.w := (State.recall_w ..).trans (State.accept_w ..)
  unfold State.writeLoc
  split
  · split
    · rfl
    · dsimp only
      split
      · exact State.accept_w ..
      · split
        · exact State.accept_w ..
        · split
          · exact (State.clearPoison_w ..).trans hwrite
          · exact hwrite
  · split
    · rfl
    · exact State.ctrlWrite_w ..
  · split <;> rfl

theorem Warp.Lasting.writeAll (ag : Agent) (full gone : List Nat) (ws : List (DWord × Loc × List Byte)) (h : P s.w) :
    P (State.writeAll ag full gone ws s).w := by
  induction ws generalizing gone s with
  | nil => exact h
  | cons x r ih =>
    obtain ⟨va, l, bs⟩ := x
    have h1 := State.writeLoc_w s ag l bs (full.contains (l.pa / 64))
    unfold State.writeAll
    split
    · next hw =>
      rw [hw] at h1
      refine ih _ ?_
      split
      · exact (congrArg P ((State.buffer_w ..).trans h1)).mpr h
      · exact (congrArg P h1).mpr h
    · next hw =>
      rw [hw] at h1
      have h2 := (congrArg P h1).mpr h
      split
      · exact ih _ h2
      · exact ih _ (hP.dropStore _ _ _ h2)

theorem Warp.Lasting.storeAll {ws : List (Nat × DWord × Loc × List Byte)} (e : s.storeAll none [] ws = .ok t) (h : P s.w) : P t.w := by
  unfold State.storeAll at e
  obtain ⟨-, -, e⟩ := exists_of_bind_ok e
  obtain ⟨s0, hn, e⟩ := exists_of_bind_ok e
  cases hn
  cases e
  exact hP.writeAll _ _ _ _ h

end

end Sys2Proof.Machine
end

section
/-! SUPPORT. Swaps of paths: the fair swap of a unit that is next and of `yield`, and the pop at arrival (R85, R187, R195, R196). -/

namespace Sys2Proof.Machine

/-! The path of a warp, which its accesses of the spill area leave. -/

/-- The warp w is still on the path of v: no window is open, nor a hint that v has not. -/
structure Warp.OnPath (v w : Warp) : Prop where
  occ : w.occ = v.occ
  crpc : w.crpc = v.crpc
  sregs : w.sregs = v.sregs
  windows : w.windows = []
  view : w.view = none
  hints : v.hints = [] → w.hints = []

theorem Warp.OnPath.refl {v : Warp} (hw : v.windows = []) (hv : v.view = none) : v.OnPath v := ⟨rfl, rfl, rfl, hw, hv, id⟩

theorem Warp.OnPath.stop {v w : Warp} (h : v.OnPath w) : v.OnPath w.stop := by
  obtain ⟨hocc, hcrpc, hsregs, hwin, hview, hhints⟩ := h
  unfold Warp.stop
  split
  · exact ⟨hocc, hcrpc, hsregs, hwin, hview, hhints⟩
  · rw [Warp.commitAll_closed hwin hview]
    exact ⟨hocc, hcrpc, hsregs, hwin, hview, fun _ => rfl⟩

theorem Warp.OnPath.lasting (v : Warp) : Warp.Lasting v.OnPath where
  mstat := fun _ _ h => ⟨h.occ, h.crpc, h.sregs, h.windows, h.view, h.hints⟩
  reports := fun _ _ h => ⟨h.occ, h.crpc, h.sregs, h.windows, h.view, h.hints⟩
  lostPort := fun _ _ h => ⟨h.occ, h.crpc, h.sregs, h.windows, h.view, h.hints⟩
  lostLoad := fun _ _ h => ⟨h.occ, h.crpc, h.sregs, h.windows, h.view, h.hints⟩
  stop := fun _ h => h.stop
  freed := fun _ h => ⟨h.occ, h.crpc, h.sregs, h.windows, h.view, h.hints⟩

/-! The entries of a swap (R195). -/

theorem Entry.dead_eq (e : Entry) (occ : Mask) : e.dead occ = (e.k && decide (e.mask ≠ 0 ∧ e.mask &&& occ = 0)) := by
  rw [Entry.dead, Bool.decide_and, Bool.and_assoc]

/-- With an entry that waits, the lowest one runs: the dead siblings below it leave, and so does the entry (R195). -/
theorem swapList_runs {occ : Mask} {pre post : List (Entry × Nat)} {e : Entry × Nat} (he : (e.1.k && ! e.1.dead occ) = true)
    (hpre : ∀ x ∈ pre, (x.1.k && ! x.1.dead occ) = false) :
    swapList occ (pre ++ e :: post) = (some e, pre.filter (fun x => ! x.1.dead occ) ++ post) := by
  have hfind : (pre ++ e :: post).findIdx? (fun e => e.1.k && decide ¬ e.1.dead occ) = some pre.length := by
    rw [List.findIdx?_append, List.findIdx?_eq_none_iff.mpr (by simpa using hpre)]
    simp_all [List.findIdx?_cons]
  unfold swapList
  rw [hfind]
  simp

/-- With none, the dead siblings leave (R195). -/
theorem swapList_none {occ : Mask} {es : List (Entry × Nat)} (h : ∀ x ∈ es, (x.1.k && ! x.1.dead occ) = false) :
    swapList occ es = (none, es.filter fun x => ! x.1.dead occ) := by
  have hfind : es.findIdx? (fun e => e.1.k && decide ¬ e.1.dead occ) = none := by
    exact List.findIdx?_eq_none_iff.mpr (by simpa using h)
  unfold swapList
  rw [hfind]
  simp

/-- What a swap of w makes of the entries es, from index 0 up: the entry that runs, if one waits from index Dh up, and all that then
wait, each with the index that it had (R195). -/
def Warp.Goes (w : Warp) (pc : BitVec 48) (es : List Entry) (run : Option Entry) (all : List (Entry × Nat)) : Prop :=
  let low := es.zipIdx.take w.dh
  let high := es.zipIdx.drop w.dh
  (∃ pre e post, high = pre ++ e :: post ∧ (e.1.k && ! e.1.dead w.occ) = true ∧ (∀ x ∈ pre, (x.1.k && ! x.1.dead w.occ) = false)
    ∧ run = some e.1
    ∧ all = low ++ pre.filter (fun x => ! x.1.dead w.occ) ++ post ++ [((⟨pc, w.em, w.crpc, w.fm, true⟩ : Entry), w.depth)])
  ∨ ((∀ x ∈ high, (x.1.k && ! x.1.dead w.occ) = false) ∧ run = none ∧ all = low ++ high.filter fun x => ! x.1.dead w.occ)

/-- The entries that a swap writes, with their indices: those below the chip whose index changes, and those that leave the chip
(R195). -/
def swapOut (d : Nat) (all : List (Entry × Nat)) : List (Nat × Entry) :=
  (((all.take (all.length - 32)).zipIdx).filter fun x => decide (x.1.2 ≠ x.2 ∨ d - 32 ≤ x.2)).map fun x => (x.2, x.1.1)

theorem Warp.swap_of_goes {w : Warp} {pc : BitVec 48} {back : List Entry} {run : Option Entry} {all : List (Entry × Nat)}
    (h : w.Goes pc (back ++ w.stack.reverse) run all) : w.swap pc back = ⟨run, all.map Prod.fst, swapOut w.depth all⟩ := by
  unfold Warp.swap Warp.chip
  dsimp only
  obtain ⟨pre, e, post, hhigh, he, hpre, rfl, rfl⟩ | ⟨hhigh, rfl, rfl⟩ := h
  · rw [hhigh, swapList_runs he hpre]
    simp [swapOut, Warp.spilled]
  · rw [swapList_none hhigh]
    simp [swapOut, Warp.spilled]

/-- A swap leaves no more entries than there were. -/
theorem Warp.Goes.length_le {w : Warp} {pc : BitVec 48} {es : List Entry} {run : Option Entry} {all : List (Entry × Nat)}
    (h : w.Goes pc es run all) : all.length ≤ es.length := by
  have hparts : (es.zipIdx.take w.dh).length + (es.zipIdx.drop w.dh).length = es.length := by
    rw [← List.length_append, List.take_append_drop, List.length_zipIdx]
  obtain ⟨pre, e, post, hhigh, -, -, -, rfl⟩ | ⟨-, -, rfl⟩ := h
  · have hfilter := List.length_filter_le (fun x : Entry × Nat => ! x.1.dead w.occ) pre
    rw [hhigh] at hparts
    simp only [List.length_append, List.length_cons, List.length_nil] at hparts ⊢
    omega
  · have hfilter := List.length_filter_le (fun x : Entry × Nat => ! x.1.dead w.occ) (es.zipIdx.drop w.dh)
    rw [List.length_append]
    omega

/-! The course of a swap (R195). -/

/-- The state as a swap x ends: what waits, and the path that goes on. -/
def State.swapped (s : State) (pc : BitVec 48) (x : Swap) : State :=
  let w := { s.w with stack := (x.all.drop (x.all.length - 32)).reverse, depth := x.all.length, pathCount := 0 }
  { s with w := match x.run with | some e => w.enter e | none => { w with pc := pc } }

theorem State.fairSwap_of {s s1 s2 s3 s4 sx : State} {rs ws : List (Nat × DWord × Loc)} {xs : List (Nat × Nat)} {pc : BitVec 48}
    {x : Swap} (hread : s.spillCheck .read (List.range s.w.spilled) = .ok (s1, rs)) (hback : s1.loadAll none 32 rs = .ok (sx, xs))
    (hx : s.w.swap pc (xs.map fun x => entryOf x.2) = x) (hwrite : s1.spillCheck .write (x.out.map Prod.fst) = .ok (s2, ws))
    (hagain : s2.loadAll none 32 rs = .ok (s3, xs))
    (hstore : s3.storeAll none []
      (ws.filterMap fun w => (x.out.find? fun e => e.1 = w.1).map fun e => (w.1, w.2.1, w.2.2, e.2.bytes)) = .ok s4) :
    s.fairSwap pc = .ok (s4.swapped pc x) := by
  subst hx
  unfold State.fairSwap
  simp only [hread, hback, hwrite, hagain, hstore, bind, Except.bind]
  rfl

/-- The path on which w goes on after a swap of v: that of the entry, or, with none, its own, from pc on (R195). -/
def Warp.Took (v : Warp) (pc : BitVec 48) (run : Option Entry) (w : Warp) : Prop :=
  match run with
  | some e => w.pc = e.pc ∧ w.em = (e.mask &&& v.occ) ∧ w.fm = e.fm ∧ w.crpc = e.rpc
  | none => w.pc = pc ∧ w.em = v.em ∧ w.fm = v.fm ∧ w.crpc = v.crpc

/-- What the end of a swap leaves of a warp on the path of v. -/
theorem State.swapped_leaves {v : Warp} {s : State} (hv : v.view = none) (h : v.OnPath s.w) (pc : BitVec 48) (x : Swap) :
    let t := s.swapped pc x
    t.mem = s.mem ∧ t.w.stack = (x.all.drop (x.all.length - 32)).reverse ∧ t.w.depth = x.all.length ∧ t.w.pathCount = 0
      ∧ t.w.windows = [] ∧ t.w.view = none ∧ (v.hints = [] → t.w.hints = []) ∧ v.Took pc x.run t.w := by
  have hs : ∀ r, s.w.s r = v.s r := fun r => by simp [Warp.s, Warp.sview, h.view, hv, h.sregs]
  obtain ⟨run, all, out⟩ := x
  cases run with
  | none => exact ⟨rfl, rfl, rfl, rfl, h.windows, h.view, h.hints, rfl, hs 56, congrArg (BitVec.truncate 19) (hs 55), h.crpc⟩
  | some e =>
    let w := ({ s.w with stack := (all.drop (all.length - 32)).reverse, depth := all.length, pathCount := 0 } : Warp)
    obtain ⟨hpc, hem, hfm, hcrpc, hcount⟩ := w.enter_path e
    obtain ⟨-, hstack, hdepth, hwin, hhints, hview⟩ := w.enter_keeps e
    exact ⟨rfl, hstack, hdepth, hcount, hwin.trans h.windows, hview h.view, fun hv => hhints.trans (h.hints hv), hpc,
      hem.trans (congrArg _ h.occ), hfm, hcrpc⟩

/-! Courses without accesses. -/

theorem State.spillCheck_nil {s : State} (h : s.slotsFree 0 = true) (acc : Access) : s.spillCheck acc [] = .ok (s, []) := by
  have hslots : s.slotsReady (linesOf []) = .ok () := (s.slotsReady_ok 0).mpr h
  unfold State.spillCheck
  simp only [List.map_nil, hslots]
  rfl

theorem State.loadAll_nil (s : State) (n : Nat) : s.loadAll none n [] = .ok (s, []) := rfl

theorem State.storeAll_nil (s : State) : s.storeAll none [] [] = .ok s := rfl

/-- What a swap of s on the path that goes on at pc leaves, with the bytes of memory mem: every entry that waits, those on chip, and
the path that goes on (R195). -/
def State.Swaps (s : State) (pc : BitVec 48) (run : Option Entry) (all : List (Entry × Nat)) (mem : Cells Byte) (t : State) : Prop :=
  t.mem = mem ∧ t.w.stack = ((all.drop (all.length - 32)).map Prod.fst).reverse ∧ t.w.depth = all.length ∧ t.w.pathCount = 0
    ∧ t.w.windows = [] ∧ t.w.view = none ∧ (s.w.hints = [] → t.w.hints = []) ∧ s.w.Took pc run t.w

/-- A swap whose reads and writes all succeed (R195). -/
theorem State.fairSwap_swaps {s s1 s2 s3 s4 sx : State} {rs ws : List (Nat × DWord × Loc)} {xs : List (Nat × Nat)} {pc : BitVec 48}
    {run : Option Entry} {all : List (Entry × Nat)} (hw : s.w.windows = []) (hv : s.w.view = none)
    (hread : s.spillCheck .read (List.range (s.w.depth - 32)) = .ok (s1, rs)) (hback : s1.loadAll none 32 rs = .ok (sx, xs))
    (hgoes : s.w.Goes pc ((xs.map fun x => entryOf x.2) ++ s.w.stack.reverse) run all)
    (hwrite : s1.spillCheck .write ((swapOut s.w.depth all).map Prod.fst) = .ok (s2, ws))
    (hagain : s2.loadAll none 32 rs = .ok (s3, xs))
    (hstore : s3.storeAll none [] (ws.filterMap fun w =>
      ((swapOut s.w.depth all).find? fun e => e.1 = w.1).map fun e => (w.1, w.2.1, w.2.2, e.2.bytes)) = .ok s4) :
    ∃ t, s.fairSwap pc = .ok t ∧ s.Swaps pc run all s4.mem t := by
  have hpath : s.w.OnPath s4.w :=
    have hlast := Warp.OnPath.lasting s.w
    hlast.storeAll hstore (hlast.loadAll hagain (hlast.spillCheck hwrite (hlast.spillCheck hread (.refl hw hv))))
  obtain ⟨hmem, hstack, hdepth, hcount, hwin, hview, hhints, htook⟩ :=
    State.swapped_leaves hv hpath pc ⟨run, all.map Prod.fst, swapOut s.w.depth all⟩
  refine ⟨_, State.fairSwap_of hread hback (Warp.swap_of_goes hgoes) hwrite hagain hstore, hmem, ?_, ?_, hcount, hwin, hview, hhints,
    htook⟩
  · rw [hstack, List.map_drop, List.length_map]
  · rw [hdepth, List.length_map]

/-- A swap of a stack that lies on chip reads and writes nothing (R191, R195). -/
theorem State.fairSwap_on_chip {s : State} {pc : BitVec 48} {run : Option Entry} {all : List (Entry × Nat)} (hw : s.w.windows = [])
    (hv : s.w.view = none) (hd : s.w.depth ≤ 32) (hl : s.w.stack.length = s.w.depth) (hf : s.slotsFree 0 = true)
    (hgoes : s.w.Goes pc s.w.stack.reverse run all) : ∃ t, s.fairSwap pc = .ok t ∧ s.Swaps pc run all s.mem t := by
  have hall : all.length - 32 = 0 := by
    have := hgoes.length_le
    rw [List.length_reverse] at this
    omega
  have hout : swapOut s.w.depth all = [] := by
    rw [swapOut, hall]
    rfl
  have hin : List.range (s.w.depth - 32) = [] := by
    rw [Nat.sub_eq_zero_of_le hd]
    rfl
  exact State.fairSwap_swaps (ws := []) hw hv (by rw [hin]; exact State.spillCheck_nil hf .read) (s.loadAll_nil 32) hgoes
    (by rw [hout]; exact State.spillCheck_nil hf .write) (s.loadAll_nil 32) s.storeAll_nil

/-! Who swaps (R195, R196). -/

/-- A fair swap of the unit that is next. -/
theorem exec_fairSwap {s t : State} (h : ({ s with w := s.w.commitAll.dropHints } : State).fairSwap s.w.pc = .ok t) :
    exec .fairSwap s = .next t.nextEvent := by
  refine congrArg Host.Outcome.next ?_
  dsimp only
  rw [h]
  rfl

/-- A `yield` outside a handler, with entries above Dh. -/
theorem exec_yield {s t : State} (h : s.accepts 22 [] false) (hi : s.w.inh = false) (hd : s.w.dh < s.w.depth)
    (hs : ({ s with w := s.w.commitAll } : State).fairSwap (s.w.pc + 4) = .ok t) :
    exec .yield s = .next (Eff.leaves { s := t, close := true, next := some t.w.pc } s.w).finish := by
  refine congrArg Host.Outcome.next (unit_ok h ?_)
  have hpc : ({ s.w.commitAll with pc := s.w.pc } : Warp) = s.w.commitAll := by
    conv => lhs; rw [← s.w.commitAll_pc]
  rw [if_neg (by simp [hi]; omega)]
  dsimp only
  rw [hpc, hs]
  rfl

theorem Warp.Took.congr {v w u : Warp} {pc : BitVec 48} {run : Option Entry} (h : v.Took pc run w) (hpc : u.pc = w.pc)
    (hs : ∀ r, u.s r = w.s r) (hcrpc : u.crpc = w.crpc) : v.Took pc run u := by
  have hem : u.em = w.em := hs 56
  have hfm : u.fm = w.fm := congrArg (BitVec.truncate 19) (hs 55)
  cases run <;> simpa only [Warp.Took, hpc, hem, hfm, hcrpc] using h

/-- The state from which an instruction swaps paths, and where its own path goes on: behind `yield`, which keeps its hints while it
swaps, or at the unit. -/
def State.SwapsFrom (s s0 : State) (ins : Instr) (pc : BitVec 48) : Prop :=
  (ins = .yield ∧ s.accepts 22 [] false ∧ s.w.inh = false ∧ s.w.dh < s.w.depth ∧ pc = s.w.pc + 4 ∧ s0 = { s with w := s.w.commitAll })
    ∨ (ins = .fairSwap ∧ pc = s.w.pc ∧ s0 = { s with w := s.w.commitAll.dropHints })

/-- That state is s with its windows committed. -/
theorem State.SwapsFrom.committed {s s0 : State} {ins : Instr} {pc : BitVec 48} (h : s.SwapsFrom s0 ins pc) :
    s0 = { s with w := s0.w } ∧ (s0.w = s.w.commitAll ∨ s0.w = s.w.commitAll.dropHints) := by
  obtain ⟨-, -, -, -, -, rfl⟩ | ⟨-, -, rfl⟩ := h
  · exact ⟨rfl, .inl rfl⟩
  · exact ⟨rfl, .inr rfl⟩

/-- What an instruction leaves that swaps paths. -/
theorem State.SwapsFrom.ends {s s0 t : State} {ins : Instr} {pc : BitVec 48} {run : Option Entry} {all : List (Entry × Nat)}
    {mem : Cells Byte} (h : s.SwapsFrom s0 ins pc) (hs : s0.fairSwap pc = .ok t) (ht : s0.Swaps pc run all mem t) :
    ∃ u, exec ins s = .next u ∧ u.mem = mem ∧ u.w.stack = ((all.drop (all.length - 32)).map Prod.fst).reverse
      ∧ u.w.depth = all.length ∧ u.w.pathCount = 0 ∧ u.w.windows = [] ∧ u.w.hints = [] ∧ s0.w.Took pc run u.w := by
  obtain ⟨hmem, hstack, hdepth, hcount, hwin, hview, hhints, htook⟩ := ht
  obtain ⟨rfl, ha, hi, hd, rfl, rfl⟩ | ⟨rfl, rfl, rfl⟩ := h
  · obtain ⟨-, -, fdepth, fstack, fcrpc, fcount, fwin, fhints, fpc, fregs, -, -, fmem⟩ :=
      finish_closing (e := { s := t, close := true, next := some t.w.pc }) rfl rfl s.w
    have hregs := fregs
    simp only [Warp.commitAll_closed hwin hview, Warp.apply_nil] at hregs
    exact ⟨_, exec_yield ha hi hd hs, fmem.trans hmem, fstack.trans hstack, fdepth.trans hdepth, fcount.trans hcount, fwin, fhints,
      htook.congr fpc hregs fcrpc⟩
  · exact ⟨_, exec_fairSwap hs, hmem, hstack, hdepth, hcount, hwin, hhints rfl, htook.congr rfl (fun _ => rfl) rfl⟩

/-- A commit leaves what a swap of paths is about. -/
theorem Warp.committed_path {v w : Warp} (h : w = v.commitAll ∨ w = v.commitAll.dropHints) :
    w.windows = [] ∧ w.view = none ∧ w.dh = v.dh ∧ w.depth = v.depth ∧ w.stack = v.stack ∧ w.occ = v.occ ∧ w.crpc = v.crpc
      ∧ w.em = v.commitAll.em ∧ w.fm = v.commitAll.fm ∧ w.place = v.place ∧ w.key = v.key ∧ w.idx = v.idx := by
  obtain rfl | rfl := h
  · simp
  · have hem : v.commitAll.dropHints.em = v.commitAll.em := rfl
    have hfm : v.commitAll.dropHints.fm = v.commitAll.fm := rfl
    rw [hem, hfm]
    simp [Warp.dropHints]

theorem State.slotsFree_withW {s : State} {w : Warp} (hp : w.place = s.w.place) (hk : w.key = s.w.key) (hi : w.idx = s.w.idx)
    (n : Nat) : ({ s with w := w } : State).slotsFree n = s.slotsFree n := by
  have howner : ({ s with w := w } : State).owner = s.owner := by simp only [State.owner, hk, hi]
  unfold State.slotsFree State.ownHeld
  simp only [howner, hp]
  rfl

/-! The pop at arrival (R85, R187). -/

theorem Warp.Lasting.read32 {P : Warp → Prop} (hP : Warp.Lasting P) {s t : State} {as : List DWord} {xs : List Nat}
    (e : s.read32 as = .ok (t, xs)) (h : P s.w) : P t.w := by
  unfold State.read32 at e
  split at e
  · cases e
    exact h
  · obtain ⟨-, -, e⟩ := exists_of_bind_ok e
    obtain ⟨⟨s1, fs⟩, hm, e⟩ := exists_of_bind_ok e
    have h1 := hP.memCheck hm h
    dsimp only at e
    split at e
    · cases e
    · obtain ⟨⟨s2, ys⟩, hl, e⟩ := exists_of_bind_ok e
      cases e
      exact hP.loadAll hl h1

theorem exec_popAtArrival {s : State} {c : Pops} {e : Entry} (ha : s.w.arrived = true)
    (hc : popChain s.w.occ s.w.depth ⟨{ s with w := s.w.commitAll.dropHints }, s.w.stack, s.w.depth⟩ = .ok (c, e))
    (hpath : s.w.commitAll.dropHints.OnPath c.s.w) :
    ∃ t, exec .popAtArrival s = .next t ∧ t.w.pc = e.pc ∧ t.w.em = (e.mask &&& s.w.occ) ∧ t.w.fm = e.fm ∧ t.w.crpc = e.rpc
      ∧ t.w.stack = c.stack ∧ t.w.depth = c.depth ∧ t.w.windows = [] ∧ t.w.hints = [] ∧ t.mem = c.s.mem := by
  obtain ⟨-, -, -, hdepth, hstack, hocc, -⟩ := Warp.committed_path (v := s.w) (.inr rfl)
  have hpop := popPath_of (s := { s with w := s.w.commitAll.dropHints }) (occ := s.w.occ) (by rw [← hdepth, ← hstack] at hc; exact hc)
  let w := ({ c.s.w.commitAll with stack := c.stack, depth := c.depth, occ := s.w.occ } : Warp)
  have hexec : exec .popAtArrival s = .next (State.nextEvent { c.s with w := w.enter e }) := by
    refine congrArg Host.Outcome.next ((if_pos ha).trans ?_)
    unfold State.popArrival
    dsimp only
    rw [hocc, hpop]
    rfl
  obtain ⟨hpc, hem, hfm, hcrpc, -⟩ := w.enter_path e
  obtain ⟨-, hstack', hdepth', hwin, hhints, -⟩ := w.enter_keeps e
  exact ⟨_, hexec, hpc, hem, hfm, hcrpc, hstack', hdepth', hwin, hhints.trans (c.s.w.commitAll_hints.trans (hpath.hints rfl)), rfl⟩

/-- An entry whose path has lanes left and stands elsewhere than its reconvergence PC is the only one popped (R187). -/
theorem exec_popAtArrival_pops_one {s s1 : State} {e : Entry} {rest : List Entry} {back : List Nat} (hd : s.w.dh < s.w.depth)
    (hpc : s.w.pc = s.w.crpc) (hs : s.w.stack = e :: rest) (he : e.mask &&& s.w.occ ≠ 0) (hne : e.pc ≠ e.rpc)
    (hr : ({ s with w := s.w.commitAll.dropHints } : State).read32
      (if 32 < s.w.depth then [s.w.spillAddr (s.w.depth - 33)] else []) = .ok (s1, back)) :
    ∃ t, exec .popAtArrival s = .next t ∧ t.w.pc = e.pc ∧ t.w.em = (e.mask &&& s.w.occ) ∧ t.w.fm = e.fm ∧ t.w.crpc = e.rpc
      ∧ t.w.stack = rest ++ back.map entryOf ∧ t.w.depth = s.w.depth - 1 ∧ t.w.windows = [] ∧ t.w.hints = [] ∧ t.mem = s1.mem := by
  obtain ⟨hwin, hview, -⟩ := Warp.committed_path (v := s.w) (.inr rfl)
  have hspill : ∀ i, s.w.commitAll.dropHints.spillAddr i = s.w.spillAddr i := by simp [Warp.spillAddr, Warp.dropHints]
  have hpop := Pops.pop_of (c := ⟨{ s with w := s.w.commitAll.dropHints }, s.w.stack, s.w.depth⟩) hs
    (by dsimp only; rw [hspill]; exact hr)
  have hchain := popChain_stops (c := ⟨{ s with w := s.w.commitAll.dropHints }, s.w.stack, s.w.depth⟩) s.w.depth
    (popSkip_stops s.w.depth hpop fun h => he h.2.1) fun h => hne h.2
  exact exec_popAtArrival (by simp [Warp.arrived, hd, hpc]) hchain ((Warp.OnPath.lasting _).read32 hr (.refl hwin hview))

/-- On chip, the pops end at the first entry that neither has only exited lanes nor stands at its reconvergence PC, or at the last one
above Dh (R85, R187). -/
theorem exec_popAtArrival_on_chip {s : State} {pre : List Entry} {e : Entry} {rest : List Entry} (hd : s.w.depth ≤ 32)
    (hl : s.w.stack.length = s.w.depth) (hpc : s.w.pc = s.w.crpc) (hs : s.w.stack = pre ++ e :: rest) (hdh : s.w.dh ≤ rest.length)
    (hpre : ∀ x ∈ pre, (x.mask ≠ 0 ∧ x.mask &&& s.w.occ = 0) ∨ x.pc = x.rpc) (he : ¬ (e.mask ≠ 0 ∧ e.mask &&& s.w.occ = 0))
    (hstop : e.pc ≠ e.rpc ∨ rest.length = s.w.dh) :
    ∃ t, exec .popAtArrival s = .next t ∧ t.w.pc = e.pc ∧ t.w.em = (e.mask &&& s.w.occ) ∧ t.w.fm = e.fm ∧ t.w.crpc = e.rpc
      ∧ t.w.stack = rest ∧ t.w.depth = rest.length ∧ t.w.windows = [] ∧ t.w.hints = [] ∧ t.mem = s.mem := by
  obtain ⟨hwin, hview, hdh', -⟩ := Warp.committed_path (v := s.w) (.inr rfl)
  have hlen : s.w.depth = pre.length + rest.length + 1 := by
    rw [hs] at hl
    simp only [List.length_append, List.length_cons] at hl
    omega
  have hchain := popChain_on_chip s.w.occ { s with w := s.w.commitAll.dropHints } e rest (hdh'.trans_le hdh) he
    (hdh' ▸ hstop) pre hpre (by omega) s.w.depth (by omega)
  have harrived : s.w.arrived = true := by
    simp only [Warp.arrived, hpc, hlen, decide_true, Bool.and_true, decide_eq_true_eq]
    omega
  exact exec_popAtArrival harrived (by rw [hs, hlen]; rw [hlen] at hchain; exact hchain) (.refl hwin hview)

/-- Settles O9: what `yield`, a fair swap and a pop at arrival make of the stack and of the path. -/
theorem pathSwaps : Obligations.PathSwaps := by
  refine ⟨fun s h hn => ?_, fun s s0 ins pc hcase => ?_, fun s => ⟨fun ha => ?_, fun e rest s1 back hd hpc hs he hne hr => ?_,
    fun pre e rest hd hl hpc hs hdh => ?_⟩⟩
  · refine congrArg Host.Outcome.next ((unit_ok h (e := { s := s, close := true }) (if_pos hn)).trans ?_)
    exact finish_closed_next rfl []
  · intro d dead waits cur goes ends
    have hfrom : s.SwapsFrom s0 ins pc := hcase
    obtain ⟨hs0, hw0⟩ := hfrom.committed
    obtain ⟨hwin, hview, hdh, hdepth, hstack, hocc, hcrpc, hem, hfm, hplace, hkey, hidx⟩ := Warp.committed_path hw0
    have hgoes {es run all} (h : goes es run all) : s0.w.Goes pc es run all := by
      unfold Warp.Goes
      simp only [hdh, hocc, hem, hfm, hcrpc, hdepth, Entry.dead_eq]
      exact h
    have hends {run all mem t} (hs : s0.fairSwap pc = .ok t) (ht : s0.Swaps pc run all mem t) : ends run all mem := by
      obtain ⟨u, hexec, hmem, hstack', hdepth', hcount, hwin', hhints, htook⟩ := hfrom.ends hs ht
      refine ⟨u, hexec, hmem, hstack', hdepth', hcount, hwin', hhints, ?_⟩
      cases run <;> simpa only [Warp.Took, hocc, hem, hfm, hcrpc] using htook
    refine ⟨fun run all hd hl hf hg => ?_, fun s1 s2 s3 s4 sx rs ws xs run all hread hback hg => ?_⟩
    · have hfree : s0.slotsFree 0 = true := by
        rw [hs0, State.slotsFree_withW hplace hkey hidx]
        exact hf
      have hmem : s0.mem = s.mem := by rw [hs0]
      obtain ⟨t, hs, ht⟩ := State.fairSwap_on_chip hwin hview (hdepth.trans_le hd) (by rw [hstack, hdepth, hl]) hfree
        (hgoes (by rw [hstack]; exact hg))
      exact hmem ▸ hends hs ht
    · intro out hwrite hagain hstore
      have hout : swapOut s0.w.depth all = out := by
        rw [hdepth]
        rfl
      obtain ⟨t, hs, ht⟩ := State.fairSwap_swaps hwin hview (by rw [hdepth]; exact hread) hback (hgoes (by rw [hstack]; exact hg))
        (by rw [hout]; exact hwrite) hagain (by rw [hout]; exact hstore)
      exact hends hs ht
  · exact congrArg Host.Outcome.next (if_neg (by simp [ha]))
  · exact exec_popAtArrival_pops_one hd hpc hs he hne hr
  · intro gone hpre hgone hstop
    exact exec_popAtArrival_on_chip hd hl hpc hs hdh (by simpa [gone] using hpre) (by simpa [gone] using hgone) hstop

end Sys2Proof.Machine
end

section
/-! SUPPORT. The SR forms: the value that each writes (R112 to R114). -/

namespace Sys2Proof.Machine

/-- An SR form writes its value (R112). -/
theorem srOp_eq {s : State} (h : s.accepts 22 [] false) (d a b : BitVec 6) (f : DWord → DWord → DWord → DWord) :
    srOp d a b f s = s.computed [.s d.toNat (f (s.w.s a.toNat) (s.w.s b.toNat) (s.w.s d.toNat))] := by
  unfold srOp scalarUnit
  rw [unit_ok h rfl]
  exact finish_computed s _

/-! Sums, products and quotients. -/

theorem ofNat_toNat_add {n : Nat} (x y : BitVec n) : BitVec.ofNat n (x.toNat + y.toNat) = x + y := by
  rw [BitVec.ofNat_add, BitVec.ofNat_toNat, BitVec.ofNat_toNat, BitVec.setWidth_eq, BitVec.setWidth_eq]

theorem ofNat_toNat_mul {n : Nat} (x y : BitVec n) : BitVec.ofNat n (x.toNat * y.toNat) = x * y :=
  BitVec.eq_of_toNat_eq (by rw [BitVec.toNat_ofNat, BitVec.toNat_mul])

theorem ofInt_toNat_sub {n : Nat} (x y : BitVec n) : BitVec.ofInt n ((x.toNat : Int) - y.toNat) = x - y := by
  apply BitVec.eq_of_toInt_eq
  rw [BitVec.toInt_ofInt, BitVec.toInt_sub, BitVec.toInt_eq_toNat_bmod, BitVec.toInt_eq_toNat_bmod, Int.bmod_sub_bmod, Int.sub_bmod_bmod]

/-- The quotient that does not fit wraps (R113). -/
theorem divSigned_eq (x y : DWord) :
    divSigned x y =
      if y = 0 then BitVec.allOnes 64 else if x.toInt = -2 ^ 63 ∧ y.toInt = -1 then 0x8000_0000_0000_0000
      else BitVec.ofInt 64 (x.toInt.tdiv y.toInt) := by
  unfold divSigned
  refine if_congr Iff.rfl rfl ?_
  split
  · next h => rw [h.1, h.2]; decide
  · rfl

theorem remSigned_eq (x y : DWord) :
    remSigned x y =
      if y = 0 then x else if x.toInt = -2 ^ 63 ∧ y.toInt = -1 then 0
      else BitVec.ofInt 64 (x.toInt - y.toInt * x.toInt.tdiv y.toInt) := by
  unfold remSigned
  refine if_congr Iff.rfl rfl ?_
  split
  · next h => rw [h.1, h.2]; decide
  · rw [Int.tmod_def]

theorem remNat_eq (x y : DWord) :
    remNat x y = if y = 0 then x else BitVec.ofNat 64 (x.toNat - y.toNat * (x.toNat / y.toNat)) := by
  unfold remNat
  rw [Nat.mod_eq_sub]

/-! Choices. -/

theorem ofInt_min {n : Nat} (x y : BitVec n) : BitVec.ofInt n (min x.toInt y.toInt) = if x.toInt ≤ y.toInt then x else y := by
  rw [min_def]
  split <;> exact BitVec.ofInt_toInt

theorem ofInt_max {n : Nat} (x y : BitVec n) : BitVec.ofInt n (max x.toInt y.toInt) = if x.toInt ≤ y.toInt then y else x := by
  rw [max_def]
  split <;> exact BitVec.ofInt_toInt

theorem ofNat_min {n : Nat} (x y : BitVec n) : BitVec.ofNat n (min x.toNat y.toNat) = if x.toNat ≤ y.toNat then x else y := by
  rw [min_def]
  split <;> simp

theorem ofNat_max {n : Nat} (x y : BitVec n) : BitVec.ofNat n (max x.toNat y.toNat) = if x.toNat ≤ y.toNat then y else x := by
  rw [max_def]
  split <;> simp

/-! Rotations and fields. -/

/-- A rotation by less than the width puts the bits that leave at the top back at the bottom (R113). -/
theorem rotateLeft_eq_ofNat {n : Nat} (x : BitVec n) {k : Nat} (hk : k < n) :
    x.rotateLeft k = BitVec.ofNat n (x.toNat * 2 ^ k) ||| BitVec.ofNat n (x.toNat / 2 ^ (n - k)) := by
  rw [BitVec.rotateLeft_eq_rotateLeftAux_of_lt hk, BitVec.rotateLeftAux]
  congr 1 <;> apply BitVec.eq_of_toNat_eq
  · rw [BitVec.toNat_shiftLeft, BitVec.toNat_ofNat, Nat.shiftLeft_eq]
  · rw [BitVec.toNat_ushiftRight, BitVec.toNat_ofNat, Nat.shiftRight_eq_div_pow,
      Nat.mod_eq_of_lt ((Nat.div_le_self _ _).trans_lt x.isLt)]

/-- Where the field that B names begins and ends (R114). -/
theorem fieldMask_eq (b : DWord) :
    fieldMask b = (fieldLow b, BitVec.ofNat 64 (2 ^ (fieldLow b + fieldWidth b) - 2 ^ fieldLow b)) := by
  have hlo : bitsOf b.toNat 0 6 = fieldLow b := by simp [bitsOf, fieldLow]
  have hw : bitsOf b.toNat 8 7 = b.toNat / 256 % 128 := by simp [bitsOf]
  have hlt : fieldLow b < 64 := Nat.mod_lt _ (by decide)
  unfold fieldMask
  rw [hlo, hw]
  dsimp only
  congr 4
  unfold fieldWidth
  rw [min_def]
  split <;> split <;> split <;> omega

/-- Bit i of the mask of a field. -/
theorem getLsbD_fieldMask (b : DWord) (i : Nat) :
    (fieldMask b).2.getLsbD i = decide (fieldLow b ≤ i ∧ i < fieldLow b + fieldWidth b) := by
  have hle : fieldLow b + fieldWidth b ≤ 64 := by
    have : fieldLow b < 64 := Nat.mod_lt _ (by decide)
    unfold fieldWidth
    omega
  have hm : 2 ^ (fieldLow b + fieldWidth b) - 2 ^ fieldLow b = 2 ^ fieldLow b * (2 ^ fieldWidth b - 1) := by
    rw [Nat.mul_sub, ← Nat.pow_add, Nat.mul_one]
  rw [fieldMask_eq, hm, BitVec.getLsbD_ofNat, Nat.testBit_two_pow_mul, Nat.testBit_two_pow_sub_one, Bool.eq_iff_iff]
  simp only [Bool.and_eq_true, decide_eq_true_eq]
  omega

theorem bitField_eq (a b : DWord) : bitField a b = BitVec.ofNat 64 (a.toNat / 2 ^ fieldLow b % 2 ^ fieldWidth b) := by
  apply BitVec.eq_of_getLsbD_eq
  intro i hi
  have hlow : (fieldMask b).1 = fieldLow b := by rw [fieldMask_eq]
  rw [bitField, hlow, BitVec.getLsbD_ushiftRight, BitVec.getLsbD_and, getLsbD_fieldMask, BitVec.getLsbD_ofNat, Nat.testBit_mod_two_pow,
    Nat.testBit_div_two_pow, BitVec.testBit_toNat, decide_eq_true hi, Nat.add_comm i]
  simp [Bool.and_comm]

/-- The field of the old D gives way to the low bits of A (R114). -/
theorem bitInsert_eq (a b d : DWord) :
    bitInsert a b d =
      BitVec.ofNat 64 (d.toNat - d.toNat / 2 ^ fieldLow b % 2 ^ fieldWidth b * 2 ^ fieldLow b
        + a.toNat % 2 ^ fieldWidth b * 2 ^ fieldLow b) := by
  have hlow : (fieldMask b).1 = fieldLow b := by rw [fieldMask_eq]
  have hmask := getLsbD_fieldMask b
  revert hlow hmask
  rw [bitInsert]
  generalize fieldMask b = m, fieldLow b = lo, fieldWidth b = n
  intro hlow hmask
  have hparts : d.toNat - d.toNat / 2 ^ lo % 2 ^ n * 2 ^ lo + a.toNat % 2 ^ n * 2 ^ lo =
      2 ^ lo * (2 ^ n * (d.toNat / 2 ^ lo / 2 ^ n) + a.toNat % 2 ^ n) + d.toNat % 2 ^ lo := by
    have h1 := Nat.div_add_mod d.toNat (2 ^ lo)
    have h2 := Nat.div_add_mod (d.toNat / 2 ^ lo) (2 ^ n)
    have h3 : 2 ^ lo * (2 ^ n * (d.toNat / 2 ^ lo / 2 ^ n)) + d.toNat / 2 ^ lo % 2 ^ n * 2 ^ lo + d.toNat % 2 ^ lo = d.toNat := by
      rw [Nat.mul_comm _ (2 ^ lo), ← Nat.mul_add, h2, h1]
    rw [Nat.mul_add, Nat.mul_comm (2 ^ lo) (a.toNat % 2 ^ n)]
    omega
  rw [hparts]
  apply BitVec.eq_of_getLsbD_eq
  intro i hi
  rw [BitVec.getLsbD_ofNat, Nat.testBit_two_pow_mul_add _ (Nat.mod_lt _ (Nat.two_pow_pos lo)),
    Nat.testBit_two_pow_mul_add _ (Nat.mod_lt _ (Nat.two_pow_pos n)), Nat.testBit_mod_two_pow, Nat.testBit_mod_two_pow,
    Nat.testBit_div_two_pow, Nat.testBit_div_two_pow]
  simp only [BitVec.getLsbD_or, BitVec.getLsbD_and, BitVec.getLsbD_not, BitVec.getLsbD_shiftLeft, hmask, hlow, BitVec.testBit_toNat,
    decide_eq_true hi, Bool.true_and]
  by_cases h1 : i < lo
  · simp [h1]
  · by_cases h2 : i < lo + n
    · simp [h1, h2, show lo ≤ i by omega, show i - lo < n by omega]
    · simp [h1, h2, show ¬ i - lo < n by omega, show i - lo - n + n + lo = i by omega]

/-! Counts of bits. -/

theorem leadingZeros_eq {n x : Nat} (h0 : x ≠ 0) (hx : x < 2 ^ n) : leadingZeros n x = n - 1 - x.log2 := by
  have hlog : x.log2 < n := (Nat.log2_lt h0).mpr hx
  have hfirst : (List.range n).find? (fun i => x.testBit (n - 1 - i)) = some (n - 1 - x.log2) := by
    refine List.find?_range_eq_some.mpr ⟨?_, List.mem_range.mpr (by omega), fun j hj => ?_⟩
    · rw [show n - 1 - (n - 1 - x.log2) = x.log2 by omega]
      exact Nat.testBit_log2 h0
    · have hlt : x < 2 ^ (n - 1 - j) := (Nat.log2_lt h0).mp (by omega)
      rw [Nat.testBit_lt_two_pow hlt]
      rfl
  rw [leadingZeros, hfirst, Option.getD_some]

/-- The lowest 1 bit alone remains of a number and its negation. -/
theorem and_neg_eq_twoPow {n k : Nat} {x : BitVec n} (hk : x.getLsbD k = true) (hlow : ∀ j < k, x.getLsbD j = false) :
    x &&& (0 - x) = BitVec.twoPow n k := by
  have hkn : k < n := BitVec.lt_of_getLsbD hk
  apply BitVec.eq_of_getLsbD_eq
  intro i hi
  rw [zero_sub, BitVec.getLsbD_and, BitVec.getLsbD_neg, BitVec.getLsbD_twoPow, decide_eq_true hi, decide_eq_true hkn,
    Bool.true_and, Bool.true_and]
  rcases Nat.lt_trichotomy i k with h | rfl | h
  · simp [hlow i h, Nat.ne_of_gt h]
  · have : ¬ ∃ j < i, x.getLsbD j = true := fun ⟨j, hj, hx⟩ => by rw [hlow j hj] at hx; cases hx
    simp [hk, this]
  · have : ∃ j < i, x.getLsbD j = true := ⟨k, h, hk⟩
    simp [this, Nat.ne_of_lt h]

theorem trailingZeros_eq {n : Nat} {x : BitVec n} (h0 : x ≠ 0) : trailingZeros n x.toNat = (x &&& (0 - x)).toNat.log2 := by
  unfold trailingZeros
  cases hf : (List.range n).find? fun i => x.toNat.testBit i with
  | none =>
    refine absurd (BitVec.eq_of_getLsbD_eq fun i hi => ?_) h0
    simpa [BitVec.testBit_toNat] using List.find?_eq_none.mp hf i (List.mem_range.mpr hi)
  | some k =>
    obtain ⟨hk, hn, hlow⟩ := List.find?_range_eq_some.mp hf
    have hlt : k < n := List.mem_range.mp hn
    rw [and_neg_eq_twoPow hk fun j hj => by simpa [BitVec.testBit_toNat] using hlow j hj, BitVec.toNat_twoPow,
      Nat.mod_eq_of_lt (Nat.pow_lt_pow_right (by decide) hlt), Nat.log2_two_pow, Option.getD_some]

theorem sum_map_toNat_eq_countP (p : Nat → Bool) (l : List Nat) : (l.map fun i => (p i).toNat).sum = l.countP p := by
  induction l with
  | nil => rfl
  | cons a r ih => cases h : p a <;> simp [h, ih, Nat.add_comm]

theorem popCount_eq {n : Nat} (x : BitVec n) : popCount x.toNat n = ((List.range n).map fun i => (x.getLsbD i).toNat).sum :=
  (sum_map_toNat_eq_countP _ _).symm

/-- A sign extension reads the low bits alone (R113). -/
theorem ofInt_signed {n m k : Nat} (x : BitVec n) : BitVec.ofInt m (signed k x.toNat) = (x.truncate k).signExtend m := by
  have hk : signed k x.toNat = (x.truncate k).toInt := by
    rw [← signed_toNat, BitVec.truncate_eq_setWidth, BitVec.toNat_setWidth]
    unfold signed
    rw [Nat.mod_mod]
  rw [hk]
  rfl

/-! The forms. -/

/-- Settles O2: each form writes the value of its function, and the functions are those of the tables. -/
theorem scalarResults : Obligations.ScalarResults := by
  intro s d a b h
  constructor
  · simp only [srForms, List.forall_mem_cons, List.not_mem_nil, false_imp_iff, implies_true, and_true]
    refine ⟨?add, ?sub, ?mul, ?mulh, ?mulhn, ?div, ?divn, ?rem, ?remn, ?and, ?or, ?xor, ?andn, ?shl, ?shr, ?sar, ?rol, ?min, ?max,
      ?minn, ?maxn, ?bfx, ?bfi, ?cmpEq, ?cmpNe, ?cmpLt, ?cmpLe, ?cmpLtn, ?cmpLen, ?sel⟩ <;>
      refine congrArg Host.Outcome.next ((srOp_eq h _ _ _ _).trans (congrArg (fun v => s.computed [.s d.toNat v]) ?_))
    case add => exact (ofNat_toNat_add _ _).symm
    case sub => exact (ofInt_toNat_sub _ _).symm
    case mul => exact (ofNat_toNat_mul _ _).symm
    case div => exact divSigned_eq _ _
    case rem => exact remSigned_eq _ _
    case remn => exact remNat_eq _ _
    case shl => exact shiftLeft_eq_ofNat _ _
    case shr => exact ushiftRight_eq_ofNat _ _
    case sar => exact sshiftRight_eq_ofInt _ _
    case rol => exact rotateLeft_eq_ofNat _ (Nat.mod_lt _ (Nat.zero_lt_succ 63))
    case min => exact (ofInt_min _ _).symm
    case max => exact (ofInt_max _ _).symm
    case minn => exact (ofNat_min _ _).symm
    case maxn => exact (ofNat_max _ _).symm
    case bfx => exact bitField_eq _ _
    case bfi => exact bitInsert_eq _ _ _
    case cmpEq => exact (ofBool_decide_eq_oneIf _).trans (if_congr BitVec.toNat_inj.symm rfl rfl)
    case cmpNe => exact (ofBool_decide_eq_oneIf _).trans (if_congr (not_congr BitVec.toNat_inj.symm) rfl rfl)
    case cmpLt | cmpLe | cmpLtn | cmpLen => exact ofBool_decide_eq_oneIf _
    case sel => exact (ite_not ..).trans (if_congr (BitVec.toNat_inj (y := 0#64)).symm rfl rfl)
    all_goals rfl
  · simp only [srForms1, List.forall_mem_cons, List.not_mem_nil, false_imp_iff, implies_true, and_true]
    refine ⟨?clz, ?ctz, ?popc, ?sextB, ?sextH, ?sextW, ?mov⟩ <;>
      refine congrArg Host.Outcome.next ((srOp_eq h _ _ _ _).trans (congrArg (fun v => s.computed [.s d.toNat v]) ?_))
    case clz =>
      split
      · next h0 => rw [h0]; decide
      · next h0 => rw [leadingZeros_eq (fun hn => h0 (BitVec.eq_of_toNat_eq hn)) (BitVec.isLt _)]
    case ctz =>
      split
      · next h0 => rw [h0]; decide
      · next h0 => rw [trailingZeros_eq h0]
    case popc => rw [popCount_eq]
    case sextB | sextH | sextW => exact ofInt_signed _
    case mov => rfl

end Sys2Proof.Machine
end

section
/-! SUPPORT. A start and its steps (R428, R444, R445), and what writes to RGNCTL and to the custom CSRs leave (R337, R338, R342,
R436). -/

namespace Sys2Proof.Machine

/-! Several LDs or ports that change one after another. -/

theorem State.foldl_setLd (f : Nat → LdState → LdState) {ns : List Nat} (hn : ns.Nodup) (s : State) :
    ∃ ls, ns.foldl (fun t n => t.setLd n (f n (t.ldOf n))) s = { s with lds := ls }
      ∧ ∀ k, Cells.get LdState.reset ls k = if k ∈ ns then f k (s.ldOf k) else s.ldOf k := by
  induction ns generalizing s with
  | nil => exact ⟨s.lds, rfl, fun k => rfl⟩
  | cons n r ih =>
    obtain ⟨hnr, hr⟩ := List.nodup_cons.mp hn
    obtain ⟨ls, hls, hget⟩ := ih hr (s.setLd n (f n (s.ldOf n)))
    refine ⟨ls, hls, fun k => ?_⟩
    rw [hget]
    by_cases hk : k = n
    · subst hk
      rw [if_neg hnr, if_pos List.mem_cons_self, State.ldOf_setLd]
    · rw [State.ldOf_setLd_ne _ _ hk]
      exact if_congr (by simp [hk]) rfl rfl

/-- The state t differs from s in its LDs alone, and in none of them in DAY or in the homes of its lines. -/
def State.SameDays (s t : State) : Prop :=
  ∃ ls, t = { s with lds := ls } ∧ ∀ n, (t.ldOf n).day = (s.ldOf n).day ∧ (t.ldOf n).homes = (s.ldOf n).homes

theorem State.SameDays.refl (s : State) : s.SameDays s := ⟨s.lds, rfl, fun _ => ⟨rfl, rfl⟩⟩

theorem State.SameDays.trans {s t u : State} (h : s.SameDays t) (k : t.SameDays u) : s.SameDays u := by
  obtain ⟨l1, h1, hd1⟩ := h
  obtain ⟨l2, h2, hd2⟩ := k
  exact ⟨l2, by rw [h2, h1], fun n => ⟨(hd2 n).1.trans (hd1 n).1, (hd2 n).2.trans (hd1 n).2⟩⟩

theorem State.SameDays.setLd (s : State) {n : Nat} {x : LdState} (hday : x.day = (s.ldOf n).day) (hhomes : x.homes = (s.ldOf n).homes) :
    s.SameDays (s.setLd n x) := by
  refine ⟨_, rfl, fun k => ?_⟩
  by_cases hk : k = n
  · subst hk
    rw [State.ldOf_setLd]
    exact ⟨hday, hhomes⟩
  · rw [State.ldOf_setLd_ne _ _ hk]
    exact ⟨rfl, rfl⟩

theorem State.SameDays.foldl {f : State → Nat → State} (hf : ∀ (s : State) n, s.SameDays (f s n)) (ns : List Nat) (s : State) :
    s.SameDays (ns.foldl f s) :=
  List.foldlRecOn (motive := fun t : State => s.SameDays t) ns f (.refl s) fun t ht n _ => ht.trans (hf t n)

/-- Ports that begin to train. -/
theorem State.foldl_train (ns : List Nat) (s : State) :
    ∃ ps, ns.foldl (fun t n => t.train n) s = { s with ports := ps }
      ∧ ∀ n, n ∈ ns ∨ (s.portOf n).state = .training → (Cells.get Port.reset ps n).state = .training := by
  induction ns generalizing s with
  | nil => exact ⟨s.ports, rfl, fun n hn => hn.resolve_left List.not_mem_nil⟩
  | cons m r ih =>
    obtain ⟨ps, hps, ht⟩ := ih (s.train m)
    refine ⟨ps, hps, fun n hn => ht n ?_⟩
    by_cases hm : n = m
    · subst hm
      exact .inr (congrArg Port.state (State.portOf_setPort ..))
    · exact hn.imp (fun h => (List.mem_cons.mp h).resolve_left hm)
        fun h => (congrArg Port.state (State.portOf_setPort_ne s _ hm)).trans h

/-! First light (R444, R445). -/

/-- An LD of which nothing is up: no column is mapped, and DAY is clear. -/
def LdState.dark : LdState := { LdState.reset with day := false, cols := 0, homes := 0 }

/-- LD0 at the end of step 5: the slice of one column serves its region 0 (R445). -/
def LdState.firstLit (first : Nat) : LdState := { LdState.dark with homes := 1, failed0 := BitVec.ofNat 25 (2 ^ first - 1) }

/-- Nothing of an LD is up when a start begins. -/
theorem State.ldOf_powered (s : State) {ld : Nat} (h : ld < 4) : s.powered.ldOf ld = LdState.dark :=
  (Cells.get_foldl_set LdState.reset (fun _ => LdState.dark) (List.range 4) [] ld).trans (if_pos (List.mem_range.mpr h))

theorem exec_firstLight_stops {s : State} {inp : StartInput} {n : Nat} (h : firstStop inp = some n) (hn : n ≤ 5) :
    exec (.firstLight inp) s = .next ({ s.powered with images := if n = 1 then [] else (imagesOf inp).getD [] }.stopStart n) := by
  show execFirstLight inp s = _
  simp only [execFirstLight, h, if_pos hn]

theorem exec_firstLight_lights {s : State} {inp : StartInput} (h : ∀ n, firstStop inp = some n → 5 < n) :
    exec (.firstLight inp) s = .next (s.lit { inp with retired := inp.retired ++ (List.range 4).flatMap s.failedPcs }) := by
  show execFirstLight inp s = _
  unfold execFirstLight
  cases hf : firstStop inp with
  | none => rfl
  | some n => simp only [if_neg (Nat.not_le.mpr (h n hf))]

/-- No hart of a start that stops runs. -/
theorem State.hartUp_stopStart_powered (s : State) (im : List Nat) (n : Nat) (h : HartId) :
    ({ s.powered with images := im }.stopStart n).hartUp h = false := by
  have hld : ({ s.powered with images := im }.stopStart n).ldOf h.ld.toNat = _ := s.ldOf_powered h.ld.isLt
  simp [State.hartUp, hld, LdState.dark]

theorem State.ldOf_lit_zero (s : State) (inp : StartInput) :
    (s.lit inp).ldOf 0 = LdState.firstLit ((firstColumn inp).getD 0) := by
  show (s.powered.setLd 0 { s.powered.ldOf 0 with homes := 1, failed0 := _ }).ldOf 0 = _
  rw [State.ldOf_setLd, s.ldOf_powered (Nat.zero_lt_succ 3)]
  rfl

theorem State.ldOf_lit_ne (s : State) (inp : StartInput) {ld : Nat} (h0 : ld ≠ 0) (h : ld < 4) :
    (s.lit inp).ldOf ld = LdState.dark := by
  show (s.powered.setLd 0 { s.powered.ldOf 0 with homes := 1, failed0 := _ }).ldOf ld = _
  rw [State.ldOf_setLd_ne _ _ h0, s.ldOf_powered h]

/-- One hart runs at the end of step 5 (R445). -/
theorem State.hartUp_lit (s : State) (inp : StartInput) (h : HartId) :
    (s.lit inp).hartUp h = decide (h.ld = 0 ∧ h.col = 0) := by
  have hcol : (s.lit inp).colOf h.ld.toNat h.col.toNat = Column.reset := rfl
  have hld : h.ld = 0 ↔ h.ld.toNat = 0 := BitVec.toNat_inj.symm
  have hc : h.col = 0 ↔ h.col.toNat = 0 := BitVec.toNat_inj.symm
  unfold State.hartUp
  simp only [hcol, hld, hc]
  by_cases h0 : h.ld.toNat = 0
  · rw [h0, State.ldOf_lit_zero]
    generalize h.col.toNat = c
    cases c <;> simp [LdState.firstLit, LdState.dark, LdState.reset, Column.reset]
  · simp [State.ldOf_lit_ne s inp h0 h.ld.isLt, LdState.dark, h0]

/-- Region 0 of LD0 is the only memory at the end of step 5 (R444). -/
theorem State.online_lit (s : State) (inp : StartInput) (a : Nat) : (s.lit inp).online a = decide (a < 2 ^ 30) := by
  have hphase : decide ((s.lit inp).phase = .daylight) = false := rfl
  unfold State.online
  rw [hphase, Bool.false_or]
  by_cases ha : a < 2 ^ 30
  · have h0 : a / 2 ^ 38 = 0 := Nat.div_eq_of_lt (by omega)
    have hr : a % 2 ^ 38 / 2 ^ 30 = 0 := Nat.div_eq_of_lt ((Nat.mod_le _ _).trans_lt ha)
    have hpair (first : Nat) : (LdState.firstLit first).pairRetired (0 % 32) = false := by
      have hretired : (LdState.firstLit first).retiredPcs = 0 := rfl
      simp [LdState.pairRetired, hretired]
    have hrgn : (s.lit inp).rgn 0 0 = 4 := by
      unfold State.rgn
      rw [State.ldOf_lit_zero, hpair]
      rfl
    rw [h0, hr, hrgn, decide_eq_true ha]
    rfl
  · rw [decide_eq_false ha, Bool.and_false]

/-! The later steps (R444). -/

section
variable {s : State} {inp : StartInput} {k : Nat} (hp : s.phase = .starting k) (hs : s.start = some inp)
include hp hs

theorem State.advance_early (ht : s.tick.toNat < endOfStep inp (k + 1)) : s.advance = s := by
  simp only [State.advance, hp, hs, if_pos ht]

theorem State.advance_stops (ht : endOfStep inp (k + 1) ≤ s.tick.toNat) (hf : firstStop inp = some (k + 1)) :
    s.advance = s.stopStart (k + 1) := by
  simp only [State.advance, hp, hs, if_neg (Nat.not_lt.mpr ht), if_pos hf]

theorem State.advance_ends (ht : endOfStep inp (k + 1) ≤ s.tick.toNat) (hf : firstStop inp ≠ some (k + 1)) :
    s.advance = s.endStep inp (k + 1) := by
  simp only [State.advance, hp, hs, if_neg (Nat.not_lt.mpr ht), if_neg hf]

end

/-- A lack of capacity is reported and raises REPLACE; DAY and the homes of an LD do not change (R443). -/
theorem State.sameDays_raiseShort (s : State) (ld : Nat) : s.SameDays (s.raiseShort ld) := by
  have herror (t : State) (kind stall info : Nat) : t.SameDays (t.postError ld kind stall info) := by
    unfold State.postError
    dsimp only
    split <;> exact .setLd t rfl rfl
  unfold State.raiseShort
  split
  · exact (State.SameDays.setLd s (x := { s.ldOf ld with replace := true }) rfl rfl).trans (herror _ _ _ _)
  · exact .refl s

/-- Daylight (R444) sets DAY in every LD, and its columns are the homes of its lines; memory stays. -/
theorem State.daylight_leaves (s : State) (inp : StartInput) :
    (s.daylight inp).mem = s.mem ∧ (s.daylight inp).tick = s.tick ∧ (s.daylight inp).phase = .daylight
      ∧ ∀ ld < 4, ((s.daylight inp).ldOf ld).day = true ∧ ((s.daylight inp).ldOf ld).homes = (s.ldOf ld).cols := by
  obtain ⟨l1, h1, hget⟩ := State.foldl_setLd
    (fun ld l => { l with day := true, homes := l.cols, retiredPcs := retiredAt inp ld }) List.nodup_range s (ns := List.range 4)
  obtain ⟨l2, h2, hkeep⟩ := State.SameDays.foldl State.sameDays_raiseShort (List.range 4) { s with lds := l1 }
  have he : s.daylight inp =
      { s with lds := l2, phase := .daylight, start := none, dayCaps := (List.range 4).map fun ld => capWord (l2.get LdState.reset ld) } := by
    unfold State.daylight
    dsimp only
    rw [h1, h2]
    rfl
  rw [he]
  refine ⟨rfl, rfl, rfl, fun ld hld => ?_⟩
  have hl := (hget ld).trans (if_pos (List.mem_range.mpr hld))
  rw [h2] at hkeep
  exact ⟨(hkeep ld).1.trans (congrArg LdState.day hl), (hkeep ld).2.trans (congrArg LdState.homes hl)⟩

/-- What the end of step 6, 7 or 8 leaves. -/
theorem State.endStep_leaves (s : State) (inp : StartInput) {k : Nat} (h5 : 5 ≤ k) (h8 : k < 8) :
    let t := s.endStep inp (k + 1)
    t.mem = s.mem ∧ t.tick = s.tick ∧ t.phase = (if k = 7 then .daylight else .starting (k + 1))
      ∧ (k = 6 → ∀ n ∈ allPorts, (t.portOf n).state = .training)
      ∧ (k = 7 → ∀ ld < 4, (t.ldOf ld).day = true ∧ (t.ldOf ld).homes = (s.ldOf ld).cols) := by
  obtain rfl | rfl | rfl : k = 5 ∨ k = 6 ∨ k = 7 := by omega
  · obtain ⟨ls, hls, -⟩ := State.foldl_setLd (fun ld l => l.mapped inp ld) List.nodup_range s (ns := List.range 4)
    have he : s.endStep inp 6 = { s with lds := ls, phase := .starting 6 } := by
      show ({ (List.range 4).foldl _ s with phase := _ } : State) = _
      rw [hls]
    dsimp only
    rw [he]
    exact ⟨rfl, rfl, rfl, fun h => absurd h (by decide), fun h => absurd h (by decide)⟩
  · obtain ⟨ps, hps, htrain⟩ := State.foldl_train allPorts s
    have he : s.endStep inp 7 = { s with ports := ps, phase := .starting 7 } := by
      show ({ allPorts.foldl _ s with phase := _ } : State) = _
      rw [hps]
    dsimp only
    rw [he]
    exact ⟨rfl, rfl, rfl, fun _ n hn => htrain n (.inl hn), fun h => absurd h (by decide)⟩
  · obtain ⟨hmem, htick, hphase, hday⟩ := s.daylight_leaves inp
    exact ⟨hmem, htick, hphase, fun h => absurd h (by decide), fun _ => hday⟩

/-! Attestation and the passing of a cycle. -/

theorem exec_attestationRequest_up {s : State} (h : s.phase = .daylight ∧ (s.portOf 32).state = .up) (nonce : BitVec 256) :
    ∃ m a b, exec (.attestationRequest nonce) s = .next { s with mgmt := s.mgmt ++ [.attestation nonce m a b] } :=
  ⟨_, _, _, congrArg Host.Outcome.next (if_pos h)⟩

theorem exec_attestationRequest_ignored {s : State} (h : ¬ (s.phase = .daylight ∧ (s.portOf 32).state = .up)) (nonce : BitVec 256) :
    exec (.attestationRequest nonce) s = .next s := congrArg Host.Outcome.next (if_neg h)

theorem Warp.tickPath_pc (w : Warp) : w.tickPath.pc = w.pc := by
  unfold Warp.tickPath
  split <;> rfl

/-- A tick (R128, R194). -/
theorem exec_tick (s : State) :
    ∃ t, exec .tick s = .next t ∧ t.tick = s.tick + 1 ∧ t.mem = s.mem ∧ t.w = if s.w.life = .empty then s.w else s.w.tickPath :=
  ⟨_, rfl, rfl, rfl, rfl⟩

/-! RGNCTL (R337, R338). -/

theorem exec_rgnctlWrite_ignored {k : BitVec 8} {v : BitVec 64} (h : 240 ≤ k.toNat ∨ 2 ≤ v.toNat % 4) (ld : BitVec 2) (s : State) :
    exec (.rgnctlWrite ld k v) s = .next s := by
  have hv : bitsOf v.toNat 0 2 = v.toNat % 4 := by simp [bitsOf]
  exact congrArg Host.Outcome.next (if_pos (by rwa [hv]))

/-- What a write of an accepted mode to the RGNCTL of a region of no retired pseudo-channel leaves: ONL is the bit written, and the
region is scrubbed where it comes online after its mode changed. -/
theorem State.writeRgnctl_eq {s : State} {ld k : Nat} {v : DWord} (hk : k < 240) (hv : v.toNat % 4 < 2)
    (hr : (s.ldOf ld).pairRetired (k % 32) = false) :
    ∃ m c cs, m < 4 ∧ ((s.ldOf ld).modeChanged.get false k = true → c = true)
      ∧ s.writeRgnctl none ld k v =
        (if v.getLsbD 2 = true ∧ (s.rgn ld k).getLsbD 2 = false ∧ c = true then s.scrub ld k else s).setLd ld
          { s.ldOf ld with
            rgnctl := (s.ldOf ld).rgnctl.set 4 k (BitVec.ofNat 3 (m + if v.getLsbD 2 = true then 4 else 0)), modeChanged := cs } := by
  have hbits : bitsOf v.toNat 0 2 = v.toNat % 4 := by simp [bitsOf]
  have hnone (t : State) (ids : List Nat) : t.waitOn none ids = t := rfl
  have hlds (c : Prop) [Decidable c] : (if c then s.scrub ld k else s).ldOf ld = s.ldOf ld := by split <;> rfl
  unfold State.writeRgnctl
  rw [if_neg (by omega)]
  dsimp only
  simp only [hr, hnone, ite_self, hlds, Bool.false_eq_true, if_false, not_false_eq_true, decide_true, Bool.and_true, Bool.not_eq_true]
  refine ⟨_, _, _, ?_, ?_, rfl⟩
  · split <;> exact Nat.mod_lt _ (Nat.zero_lt_succ 3)
  · intro h
    rw [h, Bool.true_or]

theorem exec_rgnctlWrite {s : State} {ld : BitVec 2} {k : BitVec 8} {v : BitVec 64} (hk : k.toNat < 240) (hv : v.toNat % 4 < 2)
    (hr : (s.ldOf ld.toNat).pairRetired (k.toNat % 32) = false) :
    ∃ t, exec (.rgnctlWrite ld k v) s = .next t ∧ (t.rgn ld.toNat k.toNat).getLsbD 2 = v.getLsbD 2
      ∧ ((s.rgn ld.toNat k.toNat).getLsbD 2 = false → v.getLsbD 2 = true → (s.ldOf ld.toNat).modeChanged.get false k.toNat = true →
          t.mem = (s.scrub ld.toNat k.toNat).mem)
      ∧ ((s.rgn ld.toNat k.toNat).getLsbD 2 = true → t.mem = s.mem) := by
  obtain ⟨m, c, cs, hm, hc, he⟩ := State.writeRgnctl_eq hk hv hr
  refine ⟨_, congrArg Host.Outcome.next he, ?_, fun hoff hon hchanged => ?_, fun hon => ?_⟩
  · have hbit : ∀ b : Bool, (BitVec.ofNat 3 (m + if b = true then 4 else 0)).getLsbD 2 = b := by
      interval_cases m <;> decide
    have hretired (x : Cells (BitVec 3)) (y : Cells Bool) :
        ({ s.ldOf ld.toNat with rgnctl := x, modeChanged := y } : LdState).pairRetired (k.toNat % 32) = false := hr
    unfold State.rgn
    rw [State.ldOf_setLd, hretired]
    exact (congrArg (BitVec.getLsbD · 2) (Cells.get_set_self _ _ _ _)).trans (hbit _)
  · rw [if_pos ⟨hon, hoff, hc hchanged⟩]
    rfl
  · rw [if_neg (fun h => by rw [h.2.1] at hon; cases hon)]
    rfl

/-! Custom CSRs (R342, R436). -/

theorem State.csrRead_virtual {mode : HartMode} (h : mode = .vs ∨ mode = .vu) (s : State) (x : HartId) {csr : Nat} (hc : csr ≠ 0xF14) :
    s.csrRead x mode csr = .error .virtualInstruction := by
  unfold State.csrRead
  rcases h with rfl | rfl <;> simp [hc, csrTrap]

theorem State.csrRead_user (s : State) (x : HartId) (csr : Nat) : s.csrRead x .u csr = .error .illegalInstruction := by
  unfold State.csrRead
  by_cases hc : csr = 0xF14 <;> simp [hc, csrTrap]

theorem exec_csrWrite_down {s : State} {h : HartId} (hu : s.hartUp h = false) (mode : HartMode) (csr : BitVec 12) (v : BitVec 64) :
    exec (.csrWrite h mode csr v) s = .next s := congrArg Host.Outcome.next (State.asHart_down hu _)

theorem exec_csrWrite_waits {s : State} {h : HartId} (hu : s.hartUp h = true) (ha : s.acked (.hart h) = false) (mode : HartMode)
    (csr : BitVec 12) (v : BitVec 64) : exec (.csrWrite h mode csr v) s = .next { s with again := true } :=
  congrArg Host.Outcome.next (State.asHart_waits hu ha _)

theorem exec_csrWrite_allowed {s : State} {h : HartId} (hu : s.hartUp h = true) (ha : s.acked (.hart h) = true) {mode : HartMode}
    (hm : csrTrap mode = none) (csr : BitVec 12) (v : BitVec 64) :
    exec (.csrWrite h mode csr v) s = .next (s.csrWrite h csr.toNat v) := by
  show Host.Outcome.next (s.custom h mode _) = _
  rw [State.custom, State.asHart_runs hu ha, hm]

theorem exec_csrWrite_refused {s : State} {h : HartId} (hu : s.hartUp h = true) (ha : s.acked (.hart h) = true) {mode : HartMode}
    {c : HartCause} (hm : csrTrap mode = some c) (csr : BitVec 12) (v : BitVec 64) :
    exec (.csrWrite h mode csr v) s = .next (s.hartExc h c) := by
  show Host.Outcome.next (s.custom h mode _) = _
  rw [State.custom, State.asHart_runs hu ha, hm]

/-- The low n bits of a value. -/
theorem fieldOf_zero (n : Nat) (v : DWord) : fieldOf n 0 v = v.truncate n := by
  rw [fieldOf, Nat.pow_zero, Nat.div_one, BitVec.ofNat_toNat]

/-- Settles O52: first light and its steps by what each changes of the LDs and the ports, the registers by the branch of their
number. -/
theorem startAndControlRegisters : Obligations.StartAndControlRegisters := by
  refine ⟨fun s inp nonce => ⟨?stops, ?lights, ?steps, ⟨_, rfl, rfl, rfl, rfl, rfl⟩, ?attests, ?quiet, ?tick⟩,
    fun s ld k v h mode csr => ⟨?ignored, ?rgnctl, ?down, ?readVirtual, ?readUser, ?waits, ?writeVirtual, ?writeUser, ?writes⟩⟩
  case stops =>
    intro n hn hf
    refine ⟨_, exec_firstLight_stops hf hn, rfl, rfl, rfl, fun ld hld => ?_, fun h => Phase.noConfusion h, fun k hk => ?_⟩
    · have hl : ({ s.powered with images := if n = 1 then [] else (imagesOf inp).getD [] }.stopStart n).ldOf ld = LdState.dark :=
        s.ldOf_powered hld
      rw [hl]
      exact ⟨rfl, rfl⟩
    · cases hk
      exact ⟨rfl, s.hartUp_stopStart_powered _ n⟩
  case lights =>
    intro hf
    refine ⟨_, exec_firstLight_lights hf, rfl, rfl, rfl, fun ld hld => ?_, fun _ => ⟨rfl, s.online_lit _, s.hartUp_lit _⟩,
      fun k hk => Phase.noConfusion hk⟩
    by_cases h0 : ld = 0
    · subst h0
      rw [State.ldOf_lit_zero]
      exact ⟨rfl, rfl⟩
    · rw [State.ldOf_lit_ne s _ h0 hld]
      exact ⟨rfl, rfl⟩
  case steps =>
    intro k h5 h8 hp hs
    have hdue : (if k = 5 then inp.ends.1 else if k = 6 then inp.ends.2.1 else inp.ends.2.2) = endOfStep inp (k + 1) := by
      simp [endOfStep]
    dsimp only
    rw [hdue]
    refine ⟨State.advance_early hp hs, State.advance_stops hp hs, fun ht hf => ?_⟩
    rw [State.advance_ends hp hs ht hf]
    exact s.endStep_leaves inp h5 h8
  case attests =>
    intro hp hu
    obtain ⟨m, a, b, he⟩ := exec_attestationRequest_up ⟨hp, hu⟩ nonce
    exact ⟨_, m, a, b, he, rfl, rfl, rfl⟩
  case quiet => exact fun h => exec_attestationRequest_ignored (by tauto) nonce
  case tick =>
    obtain ⟨t, he, htick, hmem, hw⟩ := exec_tick s
    refine ⟨t, he, htick, hmem, ?_, fun hrun hpark hinh hdh => ?_⟩
    · rw [hw]
      split
      · rfl
      · exact s.w.tickPath_pc
    · rw [hw, if_neg (by rw [hrun]; decide), Warp.tickPath, if_pos ⟨hrun, hpark, by rw [hinh]; decide, hdh⟩]
  case ignored => exact fun hk => exec_rgnctlWrite_ignored hk ld s
  case rgnctl =>
    intro hk hv hr
    obtain ⟨t, he, honl, hscrub, hkeep⟩ := exec_rgnctlWrite hk hv hr
    refine ⟨t, he, honl, fun hoff hon hchanged a => ?_, hkeep⟩
    rw [State.byteAt, hscrub hoff hon hchanged]
    exact s.byteAt_scrub ld.toNat k.toNat a
  case down => exact fun hu => exec_csrWrite_down hu mode csr v
  case readVirtual =>
    intro hm
    by_cases hc : csr = 0xF14
    · exact .inr hc
    · exact .inl (State.csrRead_virtual hm s h fun e => hc (BitVec.eq_of_toNat_eq e))
  case readUser =>
    rintro rfl
    exact s.csrRead_user h _
  case waits => exact fun hu ha => exec_csrWrite_waits hu ha mode csr v
  case writeVirtual =>
    rintro (rfl | rfl) hu ha <;> exact exec_csrWrite_refused hu ha rfl csr v
  case writeUser =>
    rintro rfl hu ha
    exact exec_csrWrite_refused hu ha rfl csr v
  case writes =>
    intro hm hu ha
    have hgo : exec (.csrWrite h mode csr v) s = .next (s.csrWrite h csr.toNat v) := by
      rcases hm with rfl | rfl <;> exact exec_csrWrite_allowed hu ha rfl csr v
    dsimp only
    rw [hgo]
    refine ⟨?stalltab, ?arena, ?arenan, ?pool, ?pooltop, ?poolcap, ?ualdrop, ?edgedrop, ?qsel, ?err, ?stall, ?pkg, ?readOnly⟩
    case readOnly => rintro (rfl | rfl | rfl | rfl) <;> rfl
    all_goals
      rintro rfl
      refine congrArg Host.Outcome.next ?_
    case stalltab =>
      exact congrArg (fun x => s.setLd h.ld.toNat { s.ldOf h.ld.toNat with stalltab := x }) (and_shiftLeft_allOnes (v.truncate 56) 16)
    case arena => exact congrArg (fun x => { s with vxarena := x }) (and_shiftLeft_allOnes (v.truncate 56) 12)
    case pool =>
      exact congrArg (fun x => s.setLd h.ld.toNat { s.ldOf h.ld.toNat with vxpool := x }) (and_shiftLeft_allOnes (v.truncate 56) 3)
    case qsel =>
      exact congrArg (fun x => s.setCol h.ld.toNat h.col.toNat { s.colOf h.ld.toNat h.col.toNat with vxqsel := x }) (fieldOf_zero 6 v)
    case stall =>
      exact congrArg (fun x => s.setCol h.ld.toNat h.col.toNat { s.colOf h.ld.toNat h.col.toNat with vxstall := x }) (fieldOf_zero 10 v)
    all_goals rfl

end Sys2Proof.Machine
end

section
/-! SUPPORT. Translation: what of the state it can change, and that it keeps the place of a byte in its page (R340 to R353). -/

namespace Sys2Proof.Machine

/-! What a translation changes. -/

/-- The state t differs from s in nothing but what a translation changes: the bytes that harts write back and the A and D bits that it
sets, the errors that it meets, and what caches keep of it (R334, R343 to R350). -/
structure State.Translates (s t : State) : Prop where
  only : t = { s with
    mem := t.mem, poison := t.poison, hartLines := t.hartLines, flips := t.flips, lds := t.lds, tlb := t.tlb, walkWords := t.walkWords
    fresh := t.fresh }

theorem State.Translates.trans {s t u : State} (h : s.Translates t) (k : t.Translates u) : s.Translates u :=
  ⟨k.only.trans (congrArg (fun x : State => { x with
    mem := u.mem, poison := u.poison, hartLines := u.hartLines, flips := u.flips, lds := u.lds, tlb := u.tlb, walkWords := u.walkWords
    fresh := u.fresh }) h.only)⟩

section
variable {s t : State} (h : s.Translates t)
include h

theorem State.Translates.w : t.w = s.w := by rw [h.only]
theorem State.Translates.wg : t.wg = s.wg := by rw [h.only]
theorem State.Translates.lc : t.lc = s.lc := by rw [h.only]

/-- The warp acts as the same agent before and after a translation. -/
theorem State.Translates.me (scope : Option (BitVec 3)) : t.me scope = s.me scope := by
  simp only [State.me, State.owner, h.w, h.wg]

end

/-! The device's own reads, and what a walk keeps. -/

theorem State.translates_recall (s : State) (pa : Nat) : s.Translates (s.recall pa) := by
  unfold State.recall
  split <;> exact ⟨rfl⟩

theorem State.translates_poisonLine (s : State) (line : Nat) : s.Translates (s.poisonLine line) := by
  unfold State.poisonLine
  dsimp only
  repeat' split
  all_goals exact ⟨rfl⟩

theorem State.translates_countMem (s : State) (ld lo : Nat) : s.Translates (s.countMem ld lo) := ⟨rfl⟩

theorem State.translates_markBad (s : State) (line : Nat) : s.Translates (s.markBad line) := by
  unfold State.markBad
  split
  · exact ⟨rfl⟩
  · exact (s.translates_poisonLine line).trans ⟨rfl⟩

theorem State.translates_postError (s : State) (ld k st i : Nat) : s.Translates (s.postError ld k st i) := by
  unfold State.postError
  dsimp only
  split <;> exact ⟨rfl⟩

theorem State.translates_serve (s : State) (pa : Nat) : s.Translates (s.serve .device pa) := by
  refine (s.translates_recall pa).trans ?_
  unfold State.serve State.checkLine
  split
  · exact ⟨rfl⟩
  · split
    · exact ⟨rfl⟩
    · split
      · exact ⟨rfl⟩
      · have hf : (s.recall pa).Translates { s.recall pa with flips := (s.recall pa).flips.filter fun c => c.1 / 64 ≠ pa / 64 } := ⟨rfl⟩
        exact (hf.trans (State.translates_poisonLine _ (pa / 64))).trans (State.translates_countMem _ _ _)

theorem State.translates_setAD (s : State) (a pte : Nat) (acc : Access) : s.Translates (s.setAD a pte acc) := by
  have key (want : Nat) : s.Translates (if want = pte then s else ((s.evictHart a).poke a (bytesOf 8 want)).clearFlips a 8) := by
    split
    · exact ⟨rfl⟩
    · exact (s.translates_recall a).trans ⟨rfl⟩
  exact key _

theorem State.translates_oldOrNew (s : State) (v : Via) (pa now : Nat) : s.Translates (s.oldOrNew v pa now).1 := by
  unfold State.oldOrNew
  split
  · split <;> exact ⟨rfl⟩
  · exact ⟨rfl⟩

theorem State.translates_cacheXlate (s : State) (v : Via) (e : TlbEntry) : s.Translates (s.cacheXlate v e) := by
  unfold State.cacheXlate
  dsimp only
  split <;> split <;> exact ⟨rfl⟩

section
variable {s t : State}

theorem State.Translates.devRead {ld stall pa n : Nat} {x : Option Nat} (e : s.devRead ld stall pa n = (t, x)) : s.Translates t := by
  unfold State.devRead at e
  dsimp only at e
  split at e <;> cases e
  · exact ((s.translates_serve pa).trans (State.translates_markBad _ _)).trans (State.translates_postError _ _ _ _ _)
  · exact s.translates_serve pa

theorem State.Translates.pteAt {v : Via} {a : Nat} {x : Option Nat} (e : s.pteAt v a = (t, x)) : s.Translates t := by
  unfold State.pteAt at e
  split at e
  · split at e
    · exact .devRead e
    · cases e
      exact ⟨rfl⟩
  · cases e
    exact ⟨rfl⟩

/-! `recordFor`, and what begins with a match on it, is unfolded as a function, before it is applied: to compare the application with
its body, the kernel would evaluate the bounds of the stall's record in unary. -/

theorem State.Translates.recordFor {v : Via} {x : Option (Nat × Nat × Nat × Nat)} (e : s.recordFor v = (t, x)) : s.Translates t := by
  generalize hf : @State.recordFor = f at e
  delta State.recordFor at hf
  subst hf
  beta_reduce at e
  split at e
  · cases e
    exact ⟨rfl⟩
  · split at e
    · next hd =>
      cases e
      exact .devRead hd
    · next hd =>
      cases e
      exact ((State.Translates.devRead hd).trans (State.translates_oldOrNew _ _ _ _)).trans ⟨rfl⟩

/-! The two stages (R344 to R348). -/

/-- A leaf gives the low bits of the address (R345). -/
theorem leafAddr_offset (pte level va : Nat) : leafAddr pte level va % 4096 = va % 4096 := by
  unfold leafAddr
  dsimp only
  split
  · omega
  · have hdvd : 4096 ∣ 2 ^ (12 + 9 * level) := ⟨2 ^ (9 * level), by rw [Nat.pow_add]⟩
    rw [Nat.add_mod, Nat.mul_mod, Nat.mod_eq_zero_of_dvd hdvd, Nat.mul_zero, Nat.zero_mod, Nat.zero_add, Nat.mod_mod,
      Nat.mod_mod_of_dvd _ hdvd]

/-- A stage that leads from s to t, changes what a translation may change, and, when it finds an address, leaves the place in the
page of the address a. -/
def State.FindsPage (s t : State) (x : Except XFault Found) (a : Nat) : Prop :=
  s.Translates t ∧ ∀ f, x = .ok f → f.addr % 4096 = a % 4096

theorem State.FindsPage.error {s t : State} (h : s.Translates t) (e : XFault) (a : Nat) : s.FindsPage t (.error e) a :=
  ⟨h, fun _ hf => by cases hf⟩

theorem State.FindsPage.ok {s t : State} (h : s.Translates t) {f : Found} {a : Nat} (ha : f.addr % 4096 = a % 4096) :
    s.FindsPage t (.ok f) a := ⟨h, fun _ hf => by cases hf; exact ha⟩

theorem State.FindsPage.after {s t u : State} (h : s.Translates t) {x : Except XFault Found} {a : Nat} (k : t.FindsPage u x a) :
    s.FindsPage u x a := ⟨h.trans k.1, k.2⟩

theorem State.FindsPage.walk {v : Via} {look : State → Nat → State × Except XFault Nat}
    (hlook : ∀ {s a t x}, look s a = (t, x) → s.Translates t) {stage : BitVec 2} {gpa va need : Nat} {idx : Nat → Nat}
    {level table : Nat} {x : Except XFault Found} (e : Machine.walk v look stage gpa va need idx level table s = (t, x)) :
    s.FindsPage t x va := by
  induction level using Nat.strong_induction_on generalizing table s t x with
  | _ level ih =>
    unfold Machine.walk at e
    dsimp only at e
    split at e
    · next hl =>
      cases e
      exact .error (hlook hl) _ _
    · next s1 a hl =>
      split at e
      · next hp =>
        cases e
        exact .error ((hlook hl).trans (.pteAt hp)) _ _
      · next s2 now hp =>
        have h3 : s.Translates (s2.oldOrNew v a now).1 := ((hlook hl).trans (.pteAt hp)).trans (s2.translates_oldOrNew v a now)
        split at e
        · cases e
          exact .ok h3 (leafAddr_offset _ _ _)
        · have hrest {u : State} {y : Except XFault Found} {table : Nat}
              (hw : Machine.walk v look stage gpa va need idx _ table ((s2.oldOrNew v a now).1.keepWord v a (s2.oldOrNew v a now).2) = (u, y)) :
              s.FindsPage u y va := .after (h3.trans ⟨rfl⟩) (ih _ (Nat.lt_succ_self _) hw)
          split at e
          · next hw =>
            cases e
            obtain ⟨h4, ha⟩ := hrest hw
            exact .ok h4 (ha _ rfl :)
          · exact hrest e
        · cases e
          exact .error h3 _ _

theorem State.FindsPage.gStage {v : Via} {g gpa need : Nat} {x : Except XFault Found} (e : s.gStage v g gpa need = (t, x)) :
    s.FindsPage t x gpa := by
  have hlook {s t : State} {a : Nat} {x : Except XFault Nat} (e : (s, Except.ok a) = (t, x)) : s.Translates t := by
    cases e
    exact ⟨rfl⟩
  unfold State.gStage at e
  dsimp only at e
  split at e
  · split at e
    · cases e
      exact .ok ⟨rfl⟩ rfl
    · cases e
      exact .error ⟨rfl⟩ _ _
  · split at e
    all_goals
      split at e
      · cases e
        exact .error ⟨rfl⟩ _ _
      · exact .walk hlook e

theorem State.FindsPage.firstStage {v : Via} {r : Nat × Nat × Nat × Nat} {va need : Nat} {x : Except XFault Found}
    (e : s.firstStage v r va need = (t, x)) : s.FindsPage t x va := by
  have hlook : ∀ {s : State} {a : Nat} {t : State} {x : Except XFault Nat},
      (if bitsOf r.2.1 60 4 = 0 then (s, .ok a) else
        match s.gStage v r.2.1 a 1 with
        | (s1, .ok f) => (s1.setAD f.at_ f.pte .read, .ok f.addr)
        | (s1, .error e) => (s1, .error e)) = (t, x) → s.Translates t := fun e => by
    split at e
    · cases e
      exact ⟨rfl⟩
    · split at e
      · next hg =>
        cases e
        exact (State.FindsPage.gStage hg).1.trans (State.translates_setAD _ _ _ _)
      · next hg =>
        cases e
        exact (State.FindsPage.gStage hg).1
  unfold State.firstStage at e
  dsimp only at e
  split at e
  · split at e
    · cases e
      exact .error ⟨rfl⟩ _ _
    · cases e
      exact .ok ⟨rfl⟩ rfl
  · split at e
    all_goals
      split at e
      · cases e
        exact .error ⟨rfl⟩ _ _
      · exact .walk hlook e

theorem State.FindsPage.secondStage {v : Via} {g : Nat} {f : Found} {need : Nat} {upd : Bool} {x : Except XFault Found}
    (e : s.secondStage v g f need upd = (t, x)) : s.FindsPage t x f.addr := by
  unfold State.secondStage at e
  split at e
  · split at e
    · next hg => exact .after ((State.FindsPage.gStage hg).1.trans (State.translates_setAD _ _ _ _)) (.gStage e)
    · next hne =>
      obtain ⟨u, y, hu⟩ : ∃ u y, s.gStage v g f.named 2 = (u, y) := ⟨_, _, rfl⟩
      cases y with
      | ok y => exact absurd hu (hne u y)
      | error y =>
        rw [hu] at e
        cases e
        exact .error (State.FindsPage.gStage hu).1 _ _
  · exact .gStage e

/-- The frame that a final leaf gives keeps the place in the page (R347). -/
theorem State.Translates.finalFrame {v : Via} {f : Found} {va : Nat} {x : Except XFault (Nat × Option Nat)}
    (e : s.finalFrame v f va = (t, x)) (hf : f.addr % 4096 = va % 4096) :
    s.Translates t ∧ ∀ y, x = .ok y → y.1 % 4096 = va % 4096 := by
  unfold State.finalFrame at e
  dsimp only at e
  split at e
  · split at e
    · cases e
      exact ⟨⟨rfl⟩, fun _ h => by cases h⟩
    · split at e
      · next hp =>
        cases e
        exact ⟨.pteAt hp, fun _ h => by cases h⟩
      · next hp =>
        split at e <;> cases e
        · refine ⟨((State.Translates.pteAt hp).trans (State.translates_oldOrNew _ _ _ _)).trans ⟨rfl⟩, fun _ h => ?_⟩
          cases h
          dsimp only
          omega
        · exact ⟨(State.Translates.pteAt hp).trans (State.translates_oldOrNew _ _ _ _), fun _ h => by cases h⟩
  · cases e
    exact ⟨⟨rfl⟩, fun _ h => by cases h; exact hf⟩

/-! Translations. -/

/-- A translation that leads from s to t, changes what a translation may change, and, when it finds a location, leaves the place in
the page of the address a. -/
def State.MapsPage (s t : State) (x : Except XFault Loc) (a : Nat) : Prop :=
  s.Translates t ∧ ∀ l, x = .ok l → l.pa % 4096 = a % 4096

theorem State.MapsPage.error {s t : State} (h : s.Translates t) (e : XFault) (a : Nat) : s.MapsPage t (.error e) a :=
  ⟨h, fun _ hl => by cases hl⟩

theorem State.MapsPage.ok {s t : State} (h : s.Translates t) {l : Loc} {a : Nat} (ha : l.pa % 4096 = a % 4096) :
    s.MapsPage t (.ok l) a := ⟨h, fun _ hl => by cases hl; exact ha⟩

theorem State.MapsPage.after {s t u : State} (h : s.Translates t) {x : Except XFault Loc} {a : Nat} (k : t.MapsPage u x a) :
    s.MapsPage u x a := ⟨h.trans k.1, k.2⟩

theorem State.MapsPage.walkBoth {v : Via} {r : Nat × Nat × Nat × Nat} {va : Nat} {acc : Access} {x : Except XFault Loc}
    (e : s.walkBoth v r va acc = (t, x)) : s.MapsPage t x va := by
  unfold State.walkBoth at e
  dsimp only at e
  split at e
  · next hf =>
    cases e
    exact .error (State.FindsPage.firstStage hf).1 _ _
  · next f hf =>
    obtain ⟨h1, ha1⟩ := State.FindsPage.firstStage hf
    have hva := ha1 _ rfl
    split at e
    · next hg =>
      cases e
      exact .error (h1.trans (State.FindsPage.secondStage hg).1) _ _
    · next g hg =>
      obtain ⟨h2, ha2⟩ := State.FindsPage.secondStage hg
      have hgva : g.addr % 4096 = va % 4096 := (ha2 _ rfl).trans hva
      obtain ⟨fin, hfin, hfinva⟩ : ∃ fin, (if bitsOf r.2.1 60 4 = 0 then f else g) = fin ∧ fin.addr % 4096 = va % 4096 :=
        ⟨_, rfl, by split <;> assumption⟩
      rw [hfin] at e
      have hframe : ∀ {c : Prop} [Decidable c] {u s3 : State} {y : Except XFault (Nat × Option Nat)},
          (if c then u.finalFrame v fin va else (u, .ok (f.addr, none))) = (s3, y) →
          u.Translates s3 ∧ ∀ z, y = .ok z → z.1 % 4096 = va % 4096 := fun e => by
        split at e
        · exact State.Translates.finalFrame e hfinva
        · cases e
          exact ⟨⟨rfl⟩, fun _ h => by cases h; exact hva⟩
      split at e
      · next hn =>
        cases e
        exact .error ((h1.trans h2).trans (hframe hn).1) _ _
      · next s3 pa arena hn =>
        obtain ⟨h3, ha3⟩ := hframe hn
        have h13 := (h1.trans h2).trans h3
        have hAD {c : Prop} [Decidable c] {u : State} {a pte : Nat} {acc : Access} :
            u.Translates (if c then u.setAD a pte acc else u) := by
          split
          · exact u.translates_setAD a pte acc
          · exact ⟨rfl⟩
        have hcache {c : Prop} [Decidable c] {u : State} {y : TlbEntry} : u.Translates (if c then u.cacheXlate v y else u) := by
          split
          · exact u.translates_cacheXlate v y
          · exact ⟨rfl⟩
        split at e
        · cases e
          exact .error h13 _ _
        · split at e
          · cases e
            exact .error ((h13.trans hAD).trans hAD) _ _
          · cases e
            exact .ok (((h13.trans hAD).trans hAD).trans hcache) (ha3 _ rfl)

theorem State.MapsPage.walkTables {v : Via} {r : Nat × Nat × Nat × Nat} {va : Nat} {acc : Access} {x : Except XFault Loc}
    (e : s.walkTables v r va acc = (t, x)) : s.MapsPage t x va := by
  unfold State.walkTables at e
  split at e
  · next hw =>
    cases e
    exact .error ((State.MapsPage.walkBoth hw).1.trans ⟨rfl⟩) _ _
  · next hw =>
    cases e
    exact .error ((State.MapsPage.walkBoth hw).1.trans ⟨rfl⟩) _ _
  · exact .walkBoth e

theorem State.MapsPage.byTables {v : Via} {va : Nat} {acc : Access} {x : Except XFault Loc} (e : s.byTables v va acc = (t, x)) :
    s.MapsPage t x va := by
  generalize hf : @State.byTables = f at e
  delta State.byTables at hf
  subst hf
  beta_reduce at e
  split at e
  · next hr =>
    cases e
    exact .error ((State.Translates.recordFor hr).trans ⟨rfl⟩) _ _
  · next hr =>
    have h1 := State.Translates.recordFor hr
    split at e
    · exact .after h1 (.walkTables e)
    · split at e
      next hp =>
      cases hp
      split at e
      · cases e
        refine .ok (h1.trans ⟨rfl⟩) ?_
        dsimp only
        omega
      · exact .after (h1.trans ⟨rfl⟩) (.walkTables e)

/-- What a handle grants lies at the same place in a page (R352). -/
theorem handleOk_offset {a b o : Nat} {acc : Access} {x : Nat × Nat × Nat} (h : handleOk a b o acc = .ok x) :
    x.2.2 % 4096 = o % 4096 := by
  unfold handleOk at h
  split at h
  · cases h
  · next hn =>
    have hb : b % 4096 = 0 := by
      by_contra hne
      exact hn (.inr (.inr (.inr (.inr (by simpa [bitsOf] using hne)))))
    cases h
    dsimp only
    omega

theorem State.Translates.handle {v : Via} {va : Nat} {acc : Access} {x : Except XFault (Nat × Nat × Nat)}
    (e : s.handle v va acc = (t, x)) : s.Translates t ∧ ∀ y, x = .ok y → y.2.2 % 4096 = va % 4096 := by
  generalize hf : @State.handle = f at e
  delta State.handle at hf
  subst hf
  beta_reduce at e
  split at e
  · next hr =>
    cases e
    exact ⟨(State.Translates.recordFor hr).trans ⟨rfl⟩, fun _ h => by cases h⟩
  · next hr =>
    have h1 := State.Translates.recordFor hr
    extract_lets at e
    split at e
    · cases e
      exact ⟨h1, fun _ h => by cases h⟩
    · split at e
      · next hp =>
        cases e
        exact ⟨h1.trans (.pteAt hp), fun _ h => by cases h⟩
      · next hp =>
        cases e
        refine ⟨((h1.trans (.pteAt hp)).trans (State.translates_oldOrNew _ _ _ _)).trans ⟨rfl⟩, fun _ h => ?_⟩
        rw [handleOk_offset h]
        omega

theorem State.MapsPage.translate {v : Via} {va : DWord} {acc : Access} {x : Except XFault Loc} (e : s.translate v va acc = (t, x)) :
    s.MapsPage t x va.toNat := by
  unfold State.translate at e
  dsimp only at e
  split at e
  · split at e
    · next hh =>
      cases e
      exact .error (State.Translates.handle hh).1 _ _
    · next hh =>
      obtain ⟨h1, ha⟩ := State.Translates.handle hh
      split at e
      · cases e
        exact .error h1 _ _
      · split at e
        · cases e
          exact .error h1 _ _
        · split at e
          · next hb =>
            cases e
            obtain ⟨h2, hl⟩ := State.MapsPage.byTables hb
            exact .ok (h1.trans h2) ((hl _ rfl).trans (ha _ rfl))
          · next hb =>
            cases e
            exact .error (h1.trans (State.MapsPage.byTables hb).1) _ _
  · exact .byTables e

/-- A translation of the running warp changes nothing else, and leaves the place in the page. -/
theorem State.MapsPage.xlate {va : DWord} {acc : Access} {x : Except XFault Loc} (e : s.xlate va acc = (t, x)) :
    s.MapsPage t x va.toNat := .translate e

end

end Sys2Proof.Machine
end

section
/-! SUPPORT. Scalar loads and stores (R118, R119, R297, R317). -/

namespace Sys2Proof.Machine

/-! The end of a unit that leaves its address, its handler and its path as they were. -/

/-- The lanes left of a unit are told by its address, its handler and its path alone (R268). -/
theorem finish_la_of_ownsLeft {s t : State} (h : t.w.ownsLeft = s.w.ownsLeft) (la : Nat) (load : LoadKind) (xs : List RegWrite) :
    (Eff.leaves { s := t, writes := xs, la := la, load := load } s.w).finish = t.done (t.w.ran la load xs) (t.w.pc + 4) := by
  rw [← finish_la t la load xs]
  unfold Eff.leaves
  rw [h]

/-- The warp after a unit is told by the warp and its launch alone. -/
theorem State.done_w_congr {s t : State} (hw : t.w = s.w) (hlc : t.lc = s.lc) (w : Warp) (pc : BitVec 48) :
    (t.done w pc).w = (s.done w pc).w := by
  simp only [State.done, State.classAfter, hw, hlc]

theorem State.byteAt_congr {s t : State} (h : s.mem = t.mem) (a : Nat) : s.byteAt a = t.byteAt a := by
  simp only [State.byteAt, h]

/-! What a load brings into the caches, and a tagged send, leave. -/

/-- A request allocates in caches and changes nothing else (R322, R323). -/
theorem State.allocate_eq (s : State) (p : Place) (l : Loc) (a b : BitVec 16) (policy : Nat) :
    ∃ cs, s.allocate p l a b policy = { s with copies := cs } := by
  unfold State.allocate
  dsimp only
  repeat' split
  all_goals exact ⟨_, rfl⟩

theorem State.fill_eq (s : State) (p : Place) (n span policy : Nat) (ls : List Loc) :
    ∃ cs, s.fill p n span policy ls = { s with copies := cs } := by
  unfold State.fill
  refine List.foldlRecOn (motive := fun x : State × List Nat => ∃ cs, x.1 = { s with copies := cs }) ls _ ⟨_, rfl⟩ fun x hx l _ => ?_
  dsimp only
  split
  · exact hx
  · obtain ⟨cs, hcs⟩ := hx
    obtain ⟨ds, hds⟩ := x.1.allocate_eq p l (touchedWords n (l.pa / 64) ls) (BitVec.ofNat 16 span ||| touchedWords n (l.pa / 64) ls) policy
    exact ⟨ds, hds.trans (by rw [hcs])⟩

/-! An access that translates and is served at once. -/

/-- The memory of the agent serves every scope of its accesses alike. -/
theorem State.Serves.anyScope {s : State} {l : Loc} {h : Nat} (hs : s.Serves (s.me none) l h) (scope : Option (BitVec 3)) :
    s.Serves (s.me scope) l h := ⟨hs.home, hs.up, hs.linked, hs.free, hs.turn, hs.fresh, hs.unlocked⟩

section
variable {s s1 : State} {va : DWord} {acc : Access} {n : Nat} {l : Loc} (h : s.Reaches va acc n s1 l)
include h

theorem State.Reaches.translates : s.Translates s1 := (State.MapsPage.xlate h.maps).1

/-- The place of the address in its page is kept, and so an aligned access of a power of two lies within a line. -/
theorem State.Reaches.in_line (hn : n = 4 ∨ n = 8) : l.pa % 64 + n ≤ 64 := by
  have hpage := (State.MapsPage.xlate h.maps).2 l rfl
  have hal := h.aligned
  rcases hn with rfl | rfl <;> omega

theorem State.Reaches.plain (scope : Option (BitVec 3)) : ∃ ld, s1.PlainLine (s1.me scope) l ld :=
  h.serves.imp fun _ hs => ⟨hs.anyScope scope, h.intact⟩

theorem State.Reaches.memReady : s.memReady 1 = .ok () := (s.memReady_ok 1).mpr h.room

theorem State.Reaches.memCheck (ctrl : Bool) : s.memCheck [(0, va)] n acc ctrl = .ok (s1, [(0, va, .loc l)]) := by
  obtain ⟨ld, hp⟩ := h.plain none
  have hloc : s1.locOk l.pa n ctrl = true := by simp only [State.locOk, hp.serves.home, h.intact.online]
  refine (State.memCheckBy_ok _ _ _ _ _ _ _ _).mpr ⟨?_, ?_, ?_⟩
  · simpa using h.aligned
  · simp only [State.locateAll, State.locate, h.maps, hloc, if_true]
  · simp

end

/-- A line that is intact stops no read (R335). -/
theorem State.PlainLine.badLane {s : State} {ag : Agent} {l : Loc} {ld : Nat} (hp : s.PlainLine ag l ld) (n t : Nat) (va : DWord) :
    s.badLane ag n [(t, va, l)] = .ok () := by
  simp [State.badLane, hp.readLoc]

/-- What a load of n bytes at l leaves: its line in the caches, and a tagged send of a strong one (R297, R317, R322). -/
def State.loaded (s : State) (scope : Option (BitVec 3)) (n : Nat) (l : Loc) : State :=
  let t := s.fill s.w.place n s.w.cp.1 s.w.cp.2 [l]
  if scope.isSome then t.send [s.valueAt l.pa n] else t

theorem State.Reaches.scalarRead {s s1 : State} {va : DWord} {n : Nat} {l : Loc} (h : s.Reaches va .read n s1 l)
    (scope : Option (BitVec 3)) (ctrl : Bool) :
    s.scalarRead va n scope ctrl = .ok (s1.loaded scope n l, s1.valueAt l.pa n) := by
  obtain ⟨ld, hp⟩ := h.plain scope
  have hread : State.readAll (s1.me scope) n [(0, va, l)] s1 = .ok (s1, [(0, s1.valueAt l.pa n)], [l]) :=
    State.readAll_plain _ n _ s1 fun x hx => by
      cases List.mem_singleton.mp hx
      exact ⟨⟨ld, hp.serves⟩, hp.intact⟩
  have hload : s1.loadAll scope n [(0, va, l)] = .ok (s1.loaded scope n l, [(0, s1.valueAt l.pa n)]) := by
    unfold State.loadAll
    rw [List.map_singleton, hp.serves.linkReady false, hp.badLane n 0 va, hread]
    rfl
  unfold State.scalarRead
  rw [h.memReady, h.memCheck ctrl]
  exact (congrArg (fun e => e >>= fun x : State × List (Nat × Nat) => Except.ok (x.1, (x.2.map Prod.snd).headD 0)) hload)

/-- What a load leaves of memory, the launch and the warp, the translation before it included. -/
theorem State.Reaches.loaded {s s1 : State} {va : DWord} {n : Nat} {l : Loc} (h : s.Reaches va .read n s1 l)
    (scope : Option (BitVec 3)) :
    (s1.loaded scope n l).mem = s1.mem ∧ (s1.loaded scope n l).lc = s.lc
      ∧ (s1.loaded scope n l).w = (if scope.isSome then s.send [s1.valueAt l.pa n] else s).w := by
  obtain ⟨cs, hcs⟩ := s1.fill_eq s1.w.place n s1.w.cp.1 s1.w.cp.2 [l]
  unfold State.loaded
  rw [hcs]
  have ht := h.translates
  cases scope with
  | none => exact ⟨rfl, ht.lc, ht.w⟩
  | some sc => exact ⟨rfl, ht.lc, by simp only [Option.isSome_some, if_true, State.send, ht.w]⟩

/-- A scalar load ends with its register written by its lookahead; memory stands as its translation left it. -/
theorem State.Reaches.load_unit {s s1 : State} {va : State → DWord} {n : Nat} {l : Loc} (h : s.Reaches (va s) .read n s1 l)
    {acc : List Nat} (ha : s.accepts 22 acc false) {la : BitVec 4} {d : BitVec 6} (hd : ¬ (la ≠ 0 ∧ (d = 55 ∨ d = 56)))
    (scope : Option (BitVec 3)) (ctrl : Bool) :
    let s2 := if scope.isSome then s.send [s1.valueAt l.pa n] else s
    ∃ t, unit acc false false (fun s => do
          need (¬ (la ≠ 0 ∧ (d = 55 ∨ d = 56)))
          let (s1, x) ← s.scalarRead (va s) n scope ctrl
          .ok { s := s1, writes := [.s d.toNat (BitVec.ofNat 64 x)], la := la.toNat, load := .memory }) s = t
      ∧ (∀ x, t.byteAt x = s1.byteAt x)
      ∧ t.w = (s2.done (s2.w.ran la.toNat .memory [.s d.toNat (BitVec.ofNat 64 (s1.valueAt l.pa n))]) (s.w.pc + 4)).w := by
  obtain ⟨hmem, hlc, hw⟩ := h.loaded scope
  have hown : (s1.loaded scope n l).w.ownsLeft = s.w.ownsLeft ∧ (s1.loaded scope n l).w.pc = s.w.pc := by
    rw [hw]
    cases scope <;> exact ⟨rfl, rfl⟩
  have hlc2 : (if scope.isSome then s.send [s1.valueAt l.pa n] else s).lc = s.lc := by cases scope <;> rfl
  refine ⟨_, (unit_ok ha ?_).trans (finish_la_of_ownsLeft hown.1 la.toNat .memory [.s d.toNat (BitVec.ofNat 64 (s1.valueAt l.pa n))]),
    fun x => State.byteAt_congr hmem x, ?_⟩
  · rw [(need_ok _ _).mpr (decide_eq_true hd), h.scalarRead scope ctrl]
    rfl
  · rw [hown.2, ← hw]
    exact State.done_w_congr hw (hlc.trans hlc2.symm) _ _

/-! Stores. -/

/-- No port holds a narrow strong store of the warp, or the store is not narrow itself: nothing goes before it (R277). -/
theorem State.narrowReady_ok {s : State} {scope : Option (BitVec 3)} (h : ∀ sc, scope = some sc → s.NoneAhead sc) :
    s.narrowReady scope = .ok s := by
  cases scope with
  | none => rfl
  | some sc =>
    by_cases hsc : sc.toNat ≤ 3
    · have hnone : (s.ports.filter fun x => x.2.held.any fun h => h.owner = s.owner && narrow h.scope) = [] := by
        refine List.filter_eq_nil_iff.mpr fun x hx hany => ?_
        obtain ⟨y, hy, hown⟩ := List.any_eq_true.mp hany
        obtain ⟨howner, hnarrow⟩ := Bool.and_eq_true_iff.mp hown
        obtain ⟨c, hc, hc3⟩ := (Option.any_eq_true _ _).mp hnarrow
        have hmem : y ∈ s.ownHeld := List.mem_flatMap.mpr ⟨x, hx, List.mem_filter.mpr ⟨hy, howner⟩⟩
        have := h sc rfl hsc y hmem c hc
        have := of_decide_eq_true hc3
        omega
      unfold State.narrowReady
      simp only [hnone]
      split <;> rfl
    · unfold State.narrowReady
      dsimp only
      exact if_pos (by simpa [narrow] using hsc)

/-- What a store of n bytes at l leaves: its bytes, and its line in the write buffers or a tagged send of a strong one
(R297, R317, R321). -/
def State.stored (s : State) (scope : Option (BitVec 3)) (n v : Nat) (l : Loc) : State :=
  let t := s.poke l.pa (bytesOf n v)
  if scope.isSome then t.send [0] else t.buffer l n

theorem State.Reaches.scalarWrite {s s1 : State} {va : DWord} {n : Nat} {l : Loc} (h : s.Reaches va .write n s1 l)
    (hn : n = 4 ∨ n = 8) (scope : Option (BitVec 3)) (hahead : ∀ sc, scope = some sc → s1.NoneAhead sc) (v : Nat) (ctrl : Bool) :
    s.scalarWrite va n v scope ctrl = .ok (s1.stored scope n v l) := by
  obtain ⟨ld, hp⟩ := h.plain scope
  have hlow : l.pa < 1099511627776 := (paKind_mem hp.serves.home).1
  have htrim : trimAll [] [(0, va, l, bytesOf n v)] = [(va, l, bytesOf n v)] := by
    simp [trimAll, Nat.not_le.mpr hlow]
  have hwrite (full : List Nat) : State.writeAll (s1.me scope) full [] [(va, l, bytesOf n v)] s1 =
      if (s1.me scope).scope.isNone then (s1.poke l.pa (bytesOf n v)).buffer l n else s1.poke l.pa (bytesOf n v) := by
    simp only [State.writeAll, hp.writeLoc (bytesOf n v) _ (by rw [length_bytesOf]; exact h.in_line hn), length_bytesOf]
  have hstore : s1.storeAll scope [] [(0, va, l, bytesOf n v)] = .ok (s1.stored scope n v l) := by
    unfold State.storeAll
    rw [List.map_singleton, hp.serves.linkReady true, State.narrowReady_ok hahead, htrim]
    cases scope with
    | none => exact congrArg Except.ok (hwrite _)
    | some sc => exact congrArg (fun t : State => Except.ok (t.send [0])) (hwrite _)
  unfold State.scalarWrite
  rw [h.memReady, h.memCheck ctrl]
  exact hstore

/-- A weak scalar store stores its bytes, passes the write buffers and goes on (R118, R321). -/
theorem State.Reaches.store_unit {s s1 : State} {d a i : BitVec 6} {n : Nat} {l : Loc}
    (h : s.Reaches (s.w.s a.toNat + s.w.imm 6 i.toNat * BitVec.ofNat 64 n) .write n s1 l) (hn : n = 4 ∨ n = 8)
    (ha : s.accepts 22 [0, 5] false) :
    scalarStore d a i n s = ((s1.poke l.pa (bytesOf n (s.w.s d.toNat).toNat)).buffer l n).done (s.w.ran 0 .none []) (s.w.pc + 4) := by
  have hw : (s1.stored none n (s.w.s d.toNat).toNat l).w = s.w := (State.buffer_w l n _).trans h.translates.w
  unfold scalarStore
  rw [unit_ok ha (by rw [h.scalarWrite hn none nofun]; rfl)]
  refine (finish_la_of_ownsLeft (congrArg Warp.ownsLeft hw) 0 .none []).trans ?_
  rw [hw]
  rfl

/-! A resume command changes nothing of the running warp but what it waits for (R357). -/

theorem State.devWrite_w (s : State) (ld stall a : Nat) (bs : List Byte) : (s.devWrite ld stall a bs).w = s.w := by
  unfold State.devWrite
  split
  · exact (State.translates_postError _ _ _ _ _).w
  · split
    · rfl
    · exact (State.translates_recall s _).w

/-- `dropCommand` is unfolded as a function, before it is applied: to compare the application with its body, the kernel would evaluate
the bounds of the stall's record in unary. -/
theorem State.w_of_dropCommand {s t : State} {ld stall : Nat} (e : s.dropCommand ld stall = t) : t.w = s.w := by
  generalize hf : @State.dropCommand = f at e
  delta State.dropCommand at hf
  subst hf
  beta_reduce at e
  split at e
  · exact e ▸ State.devWrite_w _ _ _ _ _
  · rw [e]

theorem State.dropCommand_w (s : State) (ld stall : Nat) : (s.dropCommand ld stall).w = s.w := State.w_of_dropCommand rfl

theorem State.resumeWarp_w (s : State) (ld stall : Nat) (abort : Bool) (fnum : BitVec 16) (p : Place) :
    ∃ k, (s.resumeWarp ld stall abort fnum p).w = { s.w with park := k } := by
  unfold State.resumeWarp
  split
  · unfold State.mapWarps
    dsimp only
    repeat' split
    all_goals exact ⟨_, rfl⟩
  · exact ⟨s.w.park, s.dropCommand_w ld stall⟩

theorem State.command_w (s : State) (ld stall v : Nat) : ∃ k, (s.command ld stall v).w = { s.w with park := k } := by
  unfold State.command
  dsimp only
  split
  · exact ⟨s.w.park, s.dropCommand_w ld stall⟩
  · exact s.resumeWarp_w _ _ _ _ _

theorem State.strong8_w (s : State) (pa v : Nat) : ∃ k, (s.strong8 pa v).w = { s.w with park := k } := by
  unfold State.strong8
  split
  · exact s.command_w _ _ _
  · exact ⟨s.w.park, rfl⟩

/-- A strong store reaches its bytes, and of device scope or wider the resume command that they make (R357). -/
theorem exec_sstSt_reaches {s s1 : State} {l : Loc} {d a : BitVec 6} {sc : BitVec 3} (ha : s.accepts 22 [5] false)
    (h : s.Reaches (s.w.s a.toNat) .write 8 s1 l) (hahead : s1.NoneAhead sc) :
    let v := (s.w.s d.toNat).toNat
    let s2 := (s1.poke l.pa (bytesOf 8 v)).send [0]
    let s3 := if 4 ≤ sc.toNat then s2.strong8 l.pa v else s2
    exec (.sstSt d a sc) s = .next (s3.done (s3.w.ran 0 .none []) (s3.w.pc + 4)) := by
  intro v s2 s3
  obtain ⟨ld, hp⟩ := h.plain (some sc)
  have happ : s1.applied (s.me (some sc)) l (bytesOf 8 (s.w.s d.toNat).toNat) = true := by
    rw [← h.translates.me]
    exact hp.applied _ (by rw [length_bytesOf]; exact h.in_line (.inr rfl))
  have hwrite := h.scalarWrite (.inr rfl) (some sc) (fun c hc => by cases hc; exact hahead) (s.w.s d.toNat).toNat (decide (sc = 6))
  obtain ⟨k, hk⟩ : ∃ k, s3.w = { s2.w with park := k } := by
    by_cases hsc : 4 ≤ sc.toNat
    · rw [show s3 = s2.strong8 l.pa v from if_pos hsc]
      exact s2.strong8_w l.pa v
    · rw [show s3 = s2 from if_neg hsc]
      exact ⟨_, rfl⟩
  have hown : s3.w.ownsLeft = s.w.ownsLeft := by
    rw [hk, ← h.translates.w]
    rfl
  change Host.Outcome.next _ = _
  congr 1
  rw [unit_ok (e := { s := s3 }) ha (by simp only [hwrite, h.maps, happ, and_true]; rfl)]
  exact finish_la_of_ownsLeft hown 0 .none []

/-! Misaligned accesses (R118, R294). -/

theorem State.memCheck_misaligned {s : State} {va : DWord} {n : Nat} (h : va.toNat % n ≠ 0) (acc : Access) (ctrl : Bool) :
    s.memCheck [(0, va)] n acc ctrl = .error (.trap 0x04 va) := by
  simp [State.memCheck, State.memCheckBy, h]

theorem scalarLoad_misaligned {s : State} {la : BitVec 4} {d a i : BitVec 6} {n : Nat} (ha : s.accepts 22 [0, 5] false)
    (hd : ¬ (la ≠ 0 ∧ (d = 55 ∨ d = 56))) (hr : s.mayIssue 1)
    (h : (s.w.s a.toNat + s.w.imm 6 i.toNat * BitVec.ofNat 64 n).toNat % n ≠ 0) :
    scalarLoad la d a i n s = s.trap 0x04 (s.w.s a.toNat + s.w.imm 6 i.toNat * BitVec.ofNat 64 n) := by
  refine unit_trap ha ?_
  rw [(need_ok _ _).mpr (decide_eq_true hd), State.scalarRead, (s.memReady_ok 1).mpr hr, State.memCheck_misaligned h]
  rfl

theorem scalarStore_misaligned {s : State} {d a i : BitVec 6} {n : Nat} (ha : s.accepts 22 [0, 5] false) (hr : s.mayIssue 1)
    (h : (s.w.s a.toNat + s.w.imm 6 i.toNat * BitVec.ofNat 64 n).toNat % n ≠ 0) :
    scalarStore d a i n s = s.trap 0x04 (s.w.s a.toNat + s.w.imm 6 i.toNat * BitVec.ofNat 64 n) := by
  refine unit_trap ha ?_
  rw [State.scalarWrite, (s.memReady_ok 1).mpr hr, State.memCheck_misaligned h]
  rfl

/-- Settles O5: a translation changes no part of the warp, and its line serves the access at once. -/
theorem scalarAccesses : Obligations.ScalarAccesses := by
  refine ⟨fun s s1 l la d a i n ins hi ha hd h => ?_, fun s s1 l d a i n ins hi ha h => ?_,
    fun s la d a i n ins hi ha hd hfull hfree hmis => ?_, fun s s1 l la d a sc ha => ⟨fun hd h => ?_, fun h hahead => ?_⟩⟩
  · obtain ⟨t, ht, hrest⟩ := h.load_unit (va := fun s => s.w.s a.toNat + s.w.imm 6 i.toNat * BitVec.ofNat 64 n) ha hd none false
    rcases hi with ⟨rfl, rfl⟩ | ⟨rfl, rfl⟩ <;> exact ⟨t, congrArg _ ht, hrest⟩
  · rcases hi with ⟨rfl, rfl⟩ | ⟨rfl, rfl⟩
    · exact congrArg _ (h.store_unit (.inr rfl) ha)
    · exact congrArg _ (h.store_unit (.inl rfl) ha)
  · rcases hi with ⟨rfl, rfl⟩ | ⟨rfl, rfl⟩ | ⟨rfl, rfl⟩ | ⟨rfl, rfl⟩
    · exact congrArg _ (scalarLoad_misaligned ha (hd (.inl rfl)) ⟨hfull, hfree⟩ hmis)
    · exact congrArg _ (scalarLoad_misaligned ha (hd (.inr rfl)) ⟨hfull, hfree⟩ hmis)
    · exact congrArg _ (scalarStore_misaligned ha ⟨hfull, hfree⟩ hmis)
    · exact congrArg _ (scalarStore_misaligned ha ⟨hfull, hfree⟩ hmis)
  · obtain ⟨t, ht, hrest⟩ := h.load_unit (va := fun s => s.w.s a.toNat) ha hd (some sc) (decide (sc = 6))
    exact ⟨t, congrArg _ ht, hrest⟩
  · exact exec_sstSt_reaches ha h hahead

end Sys2Proof.Machine
end

section
/-! SUPPORT. What units over registers leave unchanged (R41 to R44, R112 to R146). -/

namespace Sys2Proof.Machine

/-! Registers after a unit. -/

/-- A write of one scalar register is seen in no other, and in no vector register. -/
theorem Warp.s_ran_scalar (w : Warp) {d r : Nat} (v : DWord) (h : r ≠ d) : (w.ran 0 .none [.s d v]).s r = w.tickWindows.s r := by
  refine (Warp.s_setS w.tickWindows d r v).trans ?_
  by_cases hr : r = 0
  · rw [if_pos hr, hr, Warp.s_zero]
  · rw [if_neg hr, if_neg h]

theorem Warp.v_ran_scalar (w : Warp) (d r : Nat) (v : DWord) : (w.ran 0 .none [.s d v]).v r = w.tickWindows.v r :=
  Warp.v_setS w.tickWindows d r v

theorem State.computed_s (s : State) (xs : List RegWrite) (r : Nat) : (s.computed xs).w.s r = (s.w.ran 0 .none xs).s r :=
  State.done_s _ _ _ _ (Warp.results_view _ _ _ _ rfl)

theorem State.computed_v (s : State) (xs : List RegWrite) (r : Nat) : (s.computed xs).w.v r = (s.w.ran 0 .none xs).v r :=
  State.done_v _ _ _ _ (Warp.results_view _ _ _ _ rfl)

theorem State.closed_s (s : State) (xs : List RegWrite) (pc : BitVec 48) (r : Nat) :
    (s.closed xs pc).w.s r = (s.w.commitAll.apply xs).s r :=
  State.done_s _ _ _ _ (Warp.apply_view _ _ rfl)

theorem State.closed_v (s : State) (xs : List RegWrite) (pc : BitVec 48) (r : Nat) :
    (s.closed xs pc).w.v r = (s.w.commitAll.apply xs).v r :=
  State.done_v _ _ _ _ (Warp.apply_view _ _ rfl)

/-! Units that compute a scalar register. -/

/-- What a unit that computes a scalar register leaves of the state s in t: w is the warp with the windows committed that end with
the unit, kept the scalar registers that it does not write. -/
def State.ScalarFrame (s t : State) (w : Warp) (kept : Nat → Prop) : Prop :=
  t.mem = s.mem ∧ t.warps = s.warps ∧ t.wg = s.wg ∧ t.lc = s.lc ∧ t.ops = s.ops ∧ t.lds = s.lds
    ∧ (∀ r, kept r → t.w.s r = w.s r) ∧ (∀ r, t.w.v r = w.v r)
    ∧ t.w.occ = s.w.occ ∧ t.w.item = s.w.item ∧ t.w.age = s.w.age ∧ t.w.stack = s.w.stack ∧ t.w.depth = s.w.depth
    ∧ t.w.crpc = s.w.crpc ∧ t.w.fstat = s.w.fstat ∧ t.w.mstat = s.w.mstat ∧ t.w.counters = s.w.counters ∧ t.w.tiles = s.w.tiles
    ∧ (∀ q, t.w.queue q = s.w.queue q) ∧ t.w.grp = s.w.grp ∧ t.w.tvec = s.w.tvec ∧ t.w.tcause = s.w.tcause ∧ t.w.epc = s.w.epc
    ∧ t.w.tval = s.w.tval ∧ t.w.inh = s.w.inh ∧ t.w.reports = s.w.reports

theorem State.scalarFrame_computed (s : State) (d : Nat) (v : DWord) :
    s.ScalarFrame (s.computed [.s d v]) s.w.tickWindows fun r => r ≠ d := by
  refine ⟨rfl, rfl, rfl, rfl, rfl, rfl, fun r hr => ?_, fun r => ?_, ?_⟩
  · rw [State.computed_s, Warp.s_ran_scalar _ _ hr]
  · rw [State.computed_v, Warp.v_ran_scalar]
  · simp [State.computed, State.done, Warp.ran, Warp.queue]

theorem State.scalarFrame_closed (s : State) (pc : BitVec 48) : s.ScalarFrame (s.closed [] pc) s.w.commitAll fun _ => True := by
  refine ⟨rfl, rfl, rfl, rfl, rfl, rfl, fun r _ => s.closed_s [] pc r, fun r => s.closed_v [] pc r, ?_⟩
  simp [State.closed, State.done, Warp.queue]

theorem exec_br {s : State} (h : s.accepts 22 [] false) (o : BitVec 20) :
    exec (.br o) s = .next (s.closed [] (target s.w.pc 20 o.toNat)) :=
  congrArg Host.Outcome.next ((unit_ok h rfl).trans (finish_closed s [] _))

/-- The SR forms and the SI forms that are no shifts compute one scalar register. -/
theorem exec_scalar_computes {s : State} {d a b : BitVec 6} {i : BitVec 10} {ins : Instr}
    (h : (s.accepts 22 [] false ∧ (ins ∈ (srForms d a b).map Prod.fst ∨ ins ∈ (srForms1 d a).map Prod.fst))
      ∨ (s.accepts 22 [0, 1] false ∧ ins ∈ (siForms d a i).map Prod.fst)) :
    ∃ v, exec ins s = .next (s.computed [.s d.toNat v]) := by
  rcases h with ⟨ha, h | h⟩ | ⟨ha, h⟩
  all_goals obtain ⟨x, hx, rfl⟩ := List.mem_map.mp h
  · exact ⟨_, (scalarResults s d a b ha).1 x hx⟩
  · exact ⟨_, (scalarResults s d a b ha).2 x hx⟩
  · exact ⟨_, immediateResults.1 s d a i ha x hx⟩

/-! Warps with the same registers. -/

/-- Two warps hold the same registers, those that a parked unit read included, and the same occupied lanes. -/
structure Warp.RegsAs (w u : Warp) : Prop where
  sregs : w.sregs = u.sregs
  vregs : w.vregs = u.vregs
  view : w.view = u.view
  occ : w.occ = u.occ

section
variable {w u : Warp} (h : w.RegsAs u)
include h

theorem Warp.RegsAs.s (r : Nat) : w.s r = u.s r := by simp only [Warp.s, Warp.sview, h.sregs, h.view]
theorem Warp.RegsAs.v (r : Nat) : w.v r = u.v r := by simp only [Warp.v, Warp.vview, h.vregs, h.view]

theorem Warp.RegsAs.apply1 (x : RegWrite) : (w.apply1 x).RegsAs (u.apply1 x) := by
  cases x with
  | s r v =>
    unfold Warp.apply1 Warp.setS
    dsimp only
    split
    · exact h
    · exact ⟨by simp only [Warp.keptS, h.sregs, h.occ], h.vregs, by simp only [Warp.keptS, h.view, h.occ], h.occ⟩
  | v r m x => exact ⟨h.sregs, by simp only [Warp.apply1, Warp.setV, h.vregs], by simp only [Warp.apply1, Warp.setV, h.view], h.occ⟩

end

theorem Warp.RegsAs.apply {w u : Warp} (h : w.RegsAs u) (xs : List RegWrite) : (w.apply xs).RegsAs (u.apply xs) := by
  induction xs generalizing w u with
  | nil => exact h
  | cons x xs ih => exact ih (h.apply1 x)

theorem Warp.RegsAs.tickWindows {w u : Warp} (h : w.RegsAs u) (hwin : w.windows = u.windows) : w.tickWindows.RegsAs u.tickWindows := by
  have ha := h.apply ((u.windows.filter fun x => x.left ≤ 1).flatMap Window.writes)
  rw [Warp.tickWindows, Warp.tickWindows, hwin]
  exact ⟨ha.sregs, ha.vregs, rfl, ha.occ⟩

/-! Units over vector registers. -/

/-- What a unit reads from its queues changes the queues alone (R306). -/
theorem Warp.popped_eq (w : Warp) (fs : List Nat) (n : Nat) :
    ∃ a b c d, w.popped fs n = { w with q0 := a, q1 := b, q2 := c, q3 := d } := by
  unfold Warp.popped
  refine List.foldlRecOn (motive := fun u : Warp => ∃ a b c d, u = { w with q0 := a, q1 := b, q2 := c, q3 := d }) _ _
    ⟨_, _, _, _, rfl⟩ fun u hu q _ => ?_
  obtain ⟨a, b, c, d, rfl⟩ := hu
  unfold Warp.setQueue
  split <;> exact ⟨_, _, _, _, rfl⟩

/-- Queues that hold a complete entry for each repetition hold nothing back (R306). -/
theorem State.popCheck_ok {s : State} {fs : List Nat} {n : Nat}
    (h : ∀ q ∈ queuesOf fs, n ≤ (s.w.queue q).length ∧ ∀ e ∈ (s.w.queue q).take n, e.value.isSome) :
    s.popCheck fs n = .ok () := by
  have hlen : ((queuesOf fs).find? fun q => (s.w.queue q).length < n) = none :=
    List.find?_eq_none.mpr fun q hq => by simpa using (h q hq).1
  have hvalue : ((queuesOf fs).any fun q => ((s.w.queue q).take n).any fun e => e.value.isNone) = false := by
    simp only [List.any_eq_false, Bool.not_eq_true, Option.isNone_eq_false_iff]
    exact fun q hq e he => (h q hq).2 e he
  unfold State.popCheck
  rw [hlen, hvalue]
  rfl

/-- A unit over vector registers that is ready computes the results of its repetitions. -/
theorem vectorUnit_ready {acc : List Nat} {runs : List (Nat × Nat)} {srcs : List Nat} {s : State} (h : s.VectorReady acc runs srcs)
    (la : Nat) {pre : State → Except Stop Unit} (hpre : pre s = .ok ()) (body : State → Nat → Warp → List RegWrite × BitVec 8) :
    vectorUnit acc la runs srcs pre body s = s.vectorDone la srcs (repeatUnit (body s) s.w.rep.1 0 s.w) := by
  have hpending : s.notPending (s.unitRegs runs srcs) = .ok () :=
    (ready_ok _ _).mpr (List.all_eq_true.mpr fun r hr => by simp [h.settled r hr])
  obtain ⟨q0, q1, q2, q3, hq⟩ := s.w.popped_eq srcs s.w.rep.1
  unfold vectorUnit
  rw [unit_ok h.accepts (by rw [(need_ok _ _).mpr h.allotted, hpre, hpending, State.popCheck_ok h.queued]; rfl)]
  unfold State.vectorDone
  rw [hq]
  exact finish_la_of_ownsLeft rfl la .none _

/-- The body of a unit whose repetition i writes register d + i * t in the lanes of EM. -/
def WritesLanes (d t : Nat) (body : Nat → Warp → List RegWrite × BitVec 8) : Prop :=
  ∀ i w, ∃ y, (body i w).1 = [.v (d + i * t) w.em y]

theorem repeatUnit_writesLanes {d t : Nat} {body : Nat → Warp → List RegWrite × BitVec 8} (hb : WritesLanes d t body) (k i : Nat)
    (w : Warp) : ∀ x ∈ (repeatUnit body k i w).1, ∃ j < i + k, ∃ y, x = .v (d + j * t) w.em y := by
  induction k generalizing i w with
  | zero => exact nofun
  | succ k ih =>
    intro x hx
    obtain ⟨y, hy⟩ := hb i w
    have hem : (w.apply (body i w).1).em = w.em := by
      rw [hy]
      exact Warp.s_setV ..
    rcases List.mem_append.mp (show x ∈ (body i w).1 ++ (repeatUnit body k (i + 1) (w.apply (body i w).1)).1 from hx) with hx | hx
    · rw [hy] at hx
      exact ⟨i, by omega, y, List.mem_singleton.mp hx⟩
    · obtain ⟨j, hj, z, hz⟩ := ih (i + 1) _ x hx
      exact ⟨j, by omega, z, by rw [hz, hem]⟩

/-- Writes of lanes of vector registers are seen in no scalar register. -/
theorem Warp.s_apply_lanes {w : Warp} {xs : List RegWrite} (h : ∀ x ∈ xs, ∃ q m y, x = .v q m y) (r : Nat) :
    (w.apply xs).s r = w.s r := by
  induction xs generalizing w with
  | nil => rfl
  | cons x xs ih =>
    obtain ⟨q, m, y, rfl⟩ := h _ List.mem_cons_self
    exact (ih fun x hx => h x (List.mem_cons_of_mem _ hx)).trans (Warp.s_setV ..)

/-- Nor in a register or lane that none of them writes. -/
theorem Warp.at_apply_lanes {w : Warp} {xs : List RegWrite} {r l : Nat} (hl : l < 64)
    (h : ∀ x ∈ xs, ∃ q m y, x = .v q m y ∧ (r ≠ q ∨ m.getLsbD l = false)) : ((w.apply xs).v r).at l = (w.v r).at l := by
  induction xs generalizing w with
  | nil => rfl
  | cons x xs ih =>
    obtain ⟨q, m, y, rfl, hq⟩ := h _ List.mem_cons_self
    refine (ih fun x hx => h x (List.mem_cons_of_mem _ hx)).trans ((Warp.at_setV _ _ _ _ _ _ hl).trans (if_neg ?_))
    rintro ⟨rfl, hm⟩
    exact hq.elim (fun h => h rfl) fun h => by rw [h] at hm; cases hm

/-- What a unit over vector registers with lookahead 0 leaves of the state s in t, which writes the registers from d on that its
repetitions name, in the lanes of EM. -/
def State.LaneFrame (s t : State) (d : Nat) : Prop :=
  t.mem = s.mem ∧ t.warps = s.warps ∧ t.wg = s.wg ∧ t.lc = s.lc ∧ t.ops = s.ops ∧ t.lds = s.lds
    ∧ (∀ r, t.w.s r = s.w.tickWindows.s r)
    ∧ (∀ r l, l < 64 → (∀ k < s.w.rep.1, r ≠ d + k * s.w.rep.2) ∨ s.w.em.getLsbD l = false →
        (t.w.v r).at l = (s.w.tickWindows.v r).at l)
    ∧ t.w.occ = s.w.occ ∧ t.w.item = s.w.item ∧ t.w.stack = s.w.stack ∧ t.w.depth = s.w.depth ∧ t.w.mstat = s.w.mstat
    ∧ t.w.counters = s.w.counters ∧ t.w.tiles = s.w.tiles ∧ t.w.tvec = s.w.tvec ∧ t.w.epc = s.w.epc ∧ t.w.inh = s.w.inh
    ∧ t.w.fstat ||| s.w.fstat = t.w.fstat

/-- The queues that it read and the flags that it raised aside, the unit ends with its writes. -/
theorem State.laneFrame_done (s : State) {u : Warp} {f : BitVec 8}
    (hu : ∃ q0 q1 q2 q3, u = { s.w with q0 := q0, q1 := q1, q2 := q2, q3 := q3, fstat := s.w.fstat ||| f }) {d : Nat}
    {xs : List RegWrite} (hw : ∀ x ∈ xs, ∃ j < s.w.rep.1, ∃ y, x = .v (d + j * s.w.rep.2) s.w.em y) :
    s.LaneFrame (s.done (u.ran 0 .none xs) (s.w.pc + 4)) d := by
  have hview : (u.ran 0 .none xs).view = none := Warp.results_view _ _ _ _ rfl
  have hregs : u.tickWindows.RegsAs s.w.tickWindows := by
    obtain ⟨q0, q1, q2, q3, rfl⟩ := hu
    exact Warp.RegsAs.tickWindows ⟨rfl, rfl, rfl, rfl⟩ rfl
  refine ⟨rfl, rfl, rfl, rfl, rfl, rfl, fun q => ?_, fun q l hl hout => ?_, ?_⟩
  · rw [State.done_s _ _ _ _ hview, ← hregs.s q]
    exact Warp.s_apply_lanes (fun x hx => by obtain ⟨j, -, y, rfl⟩ := hw x hx; exact ⟨_, _, y, rfl⟩) q
  · rw [State.done_v _ _ _ _ hview, ← hregs.v q]
    refine Warp.at_apply_lanes hl fun x hx => ?_
    obtain ⟨j, hj, y, rfl⟩ := hw x hx
    exact ⟨_, _, y, rfl, hout.imp_left fun h => h j hj⟩
  · obtain ⟨q0, q1, q2, q3, rfl⟩ := hu
    simp [State.done, Warp.ran, BitVec.or_assoc, BitVec.or_comm s.w.fstat]

theorem State.laneFrame_vectorDone (s : State) (srcs : List Nat) {d : Nat} {body : Nat → Warp → List RegWrite × BitVec 8}
    (hb : WritesLanes d s.w.rep.2 body) : s.LaneFrame (s.vectorDone 0 srcs (repeatUnit body s.w.rep.1 0 s.w)) d := by
  have hw := repeatUnit_writesLanes hb s.w.rep.1 0 s.w
  rw [Nat.zero_add] at hw
  obtain ⟨q0, q1, q2, q3, hq⟩ := s.w.popped_eq srcs s.w.rep.1
  exact s.laneFrame_done ⟨q0, q1, q2, q3, by rw [hq]⟩ hw

/-! The lane forms and the FP32 forms that round. -/

theorem laneOp_frame {s : State} {d a b : BitVec 7} (h : s.VectorReady [3] [(d.toNat, 1)] [a.toNat, b.toNat])
    (f : Word → Word → Word → Word) : s.LaneFrame (laneOp d a b f s) d.toNat := by
  unfold laneOp
  rw [vectorUnit_ready h 0 rfl]
  exact s.laneFrame_vectorDone _ fun _ _ => ⟨_, rfl⟩

theorem fpUnit_frame {s : State} {d a b : BitVec 7} (h : s.VectorReady [3] [(d.toNat, 1)] [a.toNat, b.toNat])
    (hm : s.w.fm.toNat / 4096 % 8 < 6) (f : Warp → (Nat → Word) → (Nat → Word) → (Nat → Word) → Nat → Num × Bool) :
    s.LaneFrame (fpUnit d a (opV b) true (fun w r A B D => fpLanes w r (f w A B D)) s) d.toNat := by
  have hmode : needMode s = .ok () := (need_ok _ _).mpr (decide_eq_true hm)
  unfold fpUnit
  simp only [if_true]
  rw [vectorUnit_ready (acc := (opV b).acc) (srcs := a.toNat :: (opV b).fields) h 0 hmode]
  exact s.laneFrame_vectorDone _ fun _ _ => ⟨_, rfl⟩

theorem exec_viForm {d a b : BitVec 7} {ins : Instr} (h : ins ∈ (viForms d a b).map Prod.fst) :
    ∃ f, ∀ s, exec ins s = .next (laneOp d a b f s) := by
  revert ins
  simp only [viForms, laneFns, List.zip_cons_cons, List.zip_nil_left, List.map_cons, List.map_nil, List.forall_mem_cons,
    List.not_mem_nil, false_imp_iff, implies_true, and_true]
  and_intros <;> exact ⟨_, fun _ => rfl⟩

theorem exec_vfForm {d a b : BitVec 7} {ins : Instr} (h : ins ∈ (vfForms d a b).map Prod.fst) :
    ∃ f : Warp → (Nat → Word) → (Nat → Word) → (Nat → Word) → Nat → Num × Bool,
      ∀ s, exec ins s = .next (fpUnit d a (opV b) true (fun w r A B D => fpLanes w r (f w A B D)) s) := by
  revert ins
  simp only [vfForms, fpFns, List.zip_cons_cons, List.zip_nil_left, List.map_cons, List.map_nil, List.forall_mem_cons,
    List.not_mem_nil, false_imp_iff, implies_true, and_true]
  and_intros
  · exact ⟨fun w A B _ l => fpSum w [fp w (A l), fp w (B l)], fun _ => rfl⟩
  · exact ⟨fun w A B _ l => fpSum w [fp w (A l), (fp w (B l)).negate], fun _ => rfl⟩
  · exact ⟨fun w A B _ l => (fp w (A l)).mul (fp w (B l)), fun _ => rfl⟩
  · exact ⟨fun w A B D l => fpMulAdd w (fp w (A l)) (fp w (B l)) (fp w (D l)), fun _ => rfl⟩
  · exact ⟨fun w A B D l => fpMulAdd w (fp w (A l)) (fp w (B l)) (fp w (D l)).negate, fun _ => rfl⟩
  · exact ⟨fun w A B _ l => fpScaled (fp w (A l)) (fp w (B l)), fun _ => rfl⟩

/-! Scalar stores. -/

theorem State.valueAt_congr {s t : State} (h : s.mem = t.mem) (a n : Nat) : s.valueAt a n = t.valueAt a n := by
  rw [← State.peek_eq_valueAt, ← State.peek_eq_valueAt, State.peek, h]
  rfl

/-- Settles O58: a unit that computes registers ends with its writes alone, and a store pokes its bytes alone. -/
theorem frames : Obligations.Frames := by
  refine ⟨fun s d a b i o ins h => ?_, fun s d a b ins h hi => ?_, fun s s1 l d a i n ins hi ha h => ?_⟩
  · by_cases hbr : ins = .br o
    · subst hbr
      have ha : s.accepts 22 [] false := by
        rcases h with ⟨ha, -⟩ | ⟨-, h⟩
        · exact ha
        · simp [siForms] at h
      simp only [if_true, true_or, forall_true_left]
      obtain ⟨h1, h2, h3, h4, h5, h6, hs, hrest⟩ := s.scalarFrame_closed (target s.w.pc 20 o.toNat)
      exact ⟨_, exec_br ha o, h1, h2, h3, h4, h5, h6, fun r => hs r trivial, hrest⟩
    · obtain ⟨v, hv⟩ := exec_scalar_computes (s := s) (d := d) (a := a) (b := b) (i := i) (ins := ins) (by simpa [hbr] using h)
      simp only [hbr, if_false, false_or]
      exact ⟨_, hv, s.scalarFrame_computed d.toNat v⟩
  · rcases hi with hi | ⟨hi, hm⟩
    · obtain ⟨f, hf⟩ := exec_viForm hi
      exact ⟨_, hf s, laneOp_frame h f⟩
    · obtain ⟨f, hf⟩ := exec_vfForm hi
      exact ⟨_, hf s, fpUnit_frame h hm f⟩
  · have hmem (w : Warp) (pc : BitVec 48) :
        (((s1.poke l.pa (bytesOf n (s.w.s d.toNat).toNat)).buffer l n).done w pc).mem =
          (s1.poke l.pa (bytesOf n (s.w.s d.toNat).toNat)).mem := State.buffer_mem l n _
    refine ⟨_, scalarAccesses.2.1 s s1 l d a i n ins hi ha h, fun x hx => ?_, ?_, fun r => ?_, fun r => ?_⟩
    · exact (State.byteAt_congr (hmem _ _) x).trans (State.byteAt_poke_ne _ _ (by rwa [length_bytesOf]))
    · exact (State.valueAt_congr (hmem _ _) _ _).trans (State.valueAt_poke_bytesOf _ _ _ _)
    · exact State.done_s _ _ _ r (Warp.results_view _ _ _ _ rfl)
    · exact State.done_v _ _ _ r (Warp.results_view _ _ _ _ rfl)

end Sys2Proof.Machine
end

section
/-! SUPPORT. Lane forms: the second operands of the VX forms, what a form that is ready leaves, and the value that each integer form
writes (R136 to R139, R144). -/

namespace Sys2Proof.Machine

/-! The second operand of a VIX form (R137). -/

/-- A target that does not accept IMMH runs without it (R49). -/
theorem State.accepts.hintImmh {s : State} {m : Nat} {acc : List Nat} {rc : Bool} (h : s.accepts m acc rc) (h1 : 1 ∉ acc) :
    s.w.hintImmh = none := by
  obtain ⟨hacc, -⟩ := (mismatch_eq_none acc rc s.w.hints).mp h.2
  refine List.findSome?_eq_none_iff.mpr fun x hx => ?_
  cases x with
  | immh p => exact absurd (hacc _ hx) (by simp [hintKind, h1])
  | _ => rfl

theorem not_mem_vxHints (x : BitVec 1) : 1 ∉ vxHints x := by
  unfold vxHints
  split <;> decide

/-- An immediate of 6 bits without an IMMH hint (R50). -/
theorem Warp.imm_six {w : Warp} (h : w.hintImmh = none) (b : BitVec 6) :
    w.imm 6 b.toNat = match w.hintImm with
      | none => b.signExtend 64
      | some p => (p ++ b : BitVec 28).signExtend 64 := by
  unfold Warp.imm
  rw [h]
  cases w.hintImm with
  | none => simp only [signed_toNat]; rfl
  | some p => simp only [← toNat_append_eq, signed_toNat]; rfl

theorem truncate_signExtend {n k m : Nat} (x : BitVec n) (h : m ≤ k) : (x.signExtend k).truncate m = x.signExtend m := by
  apply BitVec.eq_of_getLsbD_eq
  intro i hi
  have hk : i < k := by omega
  rw [BitVec.truncate_eq_setWidth, BitVec.getLsbD_setWidth, BitVec.getLsbD_signExtend, BitVec.getLsbD_signExtend]
  simp only [hi, hk, decide_true, Bool.true_and]

theorem Warp.vixB_eq_immB {w : Warp} (h : w.hintImmh = none) (x : BitVec 1) (b : BitVec 6) : w.vixB x b = w.immB x b := by
  unfold Warp.vixB Warp.immB Warp.xImm
  rw [Warp.imm_six h]
  cases w.hintImm <;> exact if_congr Iff.rfl rfl (truncate_signExtend _ (by decide))

/-! Lane forms that are ready. -/

theorem flagsOver_zero (ls : List Nat) : flagsOver ls (fun _ => 0) = 0 := by
  induction ls with
  | nil => rfl
  | cons x r ih => exact (congrArg (fun f => List.foldl _ f r) (BitVec.or_self (x := 0#8))).trans ih

theorem laneOp_ready {s : State} {d a b : BitVec 7} (h : s.VectorReady [3] [(d.toNat, 1)] [a.toNat, b.toNat])
    (f : Word → Word → Word → Word) :
    laneOp d a b f s = s.vectorDone 0 [a.toNat, b.toNat] (repeatUnit
      (laneResult d s.w.rep.2 fun i w l => f (w.lane a i s.w.rep.2 l) (w.lane b i s.w.rep.2 l) ((w.v (d.toNat + i * s.w.rep.2)).at l))
      s.w.rep.1 0 s.w) := vectorUnit_ready h 0 rfl _

theorem laneOpX_ready {s : State} {d a : BitVec 7} {x : BitVec 1} (h : s.VectorReady (vxHints x) [(d.toNat, 1)] [a.toNat])
    (b : BitVec 6) (f : Word → Word → Word → Word) :
    laneOpX d a x b f s = s.vectorDone 0 [a.toNat] (repeatUnit
      (laneResult d s.w.rep.2 fun i w l => f (w.lane a i s.w.rep.2 l) (s.w.immB x b) ((w.v (d.toNat + i * s.w.rep.2)).at l))
      s.w.rep.1 0 s.w) := by
  rw [← Warp.vixB_eq_immB (h.accepts.hintImmh (not_mem_vxHints x))]
  exact vectorUnit_ready h 0 rfl _

theorem execVmovs_ready {s : State} {d : BitVec 7} {x : BitVec 1} (h : s.VectorReady (vxHints x) [(d.toNat, 1)] []) (b : BitVec 6) :
    exec (.vmovs d x b) s = .next (s.vectorDone 0 [] (repeatUnit (laneResult d s.w.rep.2 fun _ _ _ => s.w.immB x b) s.w.rep.1 0 s.w)) := by
  rw [← Warp.vixB_eq_immB (h.accepts.hintImmh (not_mem_vxHints x))]
  exact congrArg Host.Outcome.next (vectorUnit_ready h 0 rfl _)

theorem laneOp1_ready {s : State} {d a : BitVec 7} (h : s.VectorReady [3] [(d.toNat, 1)] [a.toNat]) (f : Word → Word) :
    laneOp1 d a f s = s.vectorDone 0 [a.toNat] (repeatUnit
      (laneResult1 d s.w.rep.2 fun i w l => (f (w.lane a i s.w.rep.2 l), 0)) s.w.rep.1 0 s.w) := by
  have hbody (i : Nat) (w : Warp) : laneResult1 d s.w.rep.2 (fun i w l => (f (w.lane a i s.w.rep.2 l), 0)) i w =
      (laneWrite (d.toNat + i * s.w.rep.2) w.em fun l => f (w.lane a i s.w.rep.2 l), 0) := Prod.ext rfl (flagsOver_zero _)
  unfold laneOp1
  rw [vectorUnit_ready h 0 rfl, funext₂ hbody]
  rfl

/-! Shifts (R138). -/

theorem shiftLeft_eq_ofNat_mul {n : Nat} (x : BitVec n) (k : Nat) : x <<< k = BitVec.ofNat n (x.toNat * 2 ^ k) :=
  BitVec.eq_of_toNat_eq (by rw [BitVec.toNat_shiftLeft, BitVec.toNat_ofNat, Nat.shiftLeft_eq])

theorem shiftRight_eq_ofNat {n : Nat} (x : BitVec n) (k : Nat) : x >>> k = BitVec.ofNat n (x.toNat / 2 ^ k) :=
  BitVec.eq_of_toNat_eq (by
    rw [BitVec.toNat_ushiftRight, BitVec.toNat_ofNat, Nat.shiftRight_eq_div_pow, Nat.mod_eq_of_lt ((Nat.div_le_self _ _).trans_lt x.isLt)])

theorem shiftRightSigned_eq_ofInt {n : Nat} (x : BitVec n) (k : Nat) : x.sshiftRight k = BitVec.ofInt n (x.toInt / 2 ^ k) := by
  rw [← BitVec.ofInt_toInt (x := x.sshiftRight k), BitVec.toInt_sshiftRight, Int.shiftRight_eq_div_pow, Nat.cast_pow, Nat.cast_ofNat]

/-! Clamped sums (R138). -/

theorem clampInt_eq {lo hi : Int} (h : lo ≤ hi) (v : Int) : clampInt lo hi v = BitVec.ofInt 32 (max lo (min hi v)) := by
  unfold clampInt
  congr 1
  split
  · omega
  · split <;> omega

theorem addSatN_eq (A B : Word) : addSatN A B = BitVec.ofNat 32 (min (2 ^ 32 - 1) (A.toNat + B.toNat)) := by
  rw [addSatN, clampInt_eq (by decide), ← BitVec.ofInt_natCast]
  congr 1
  omega

theorem subSatN_eq (A B : Word) : subSatN A B = BitVec.ofNat 32 (A.toNat - B.toNat) := by
  rw [subSatN, clampInt_eq (by decide), ← BitVec.ofInt_natCast]
  congr 1
  omega

/-! Dot products of bytes (R138). -/

theorem signed_byteOf (A : Word) (k : Nat) : signed 8 (byteOf A k) = byteInt A k := by
  have hlt : byteNat A k < 256 := Nat.mod_lt _ (by decide)
  change signed 8 (byteNat A k) = byteInt A k
  unfold signed byteInt
  rw [Nat.mod_eq_of_lt (by omega)]
  split <;> split <;> omega

theorem dot4_eq (A B D : Word) :
    dot4 A B D = BitVec.ofInt 32 (D.toInt + byteInt A 0 * byteInt B 0 + byteInt A 1 * byteInt B 1 + byteInt A 2 * byteInt B 2
      + byteInt A 3 * byteInt B 3) := by
  unfold dot4
  simp only [signed_byteOf, List.range_succ, List.range_zero, List.nil_append, List.cons_append, List.map_cons, List.map_nil,
    List.sum_cons, List.sum_nil]
  conv_lhs => rw [← BitVec.ofInt_toInt (x := D), ← BitVec.ofInt_add]
  congr 1
  ring

theorem dot4N_eq (A B D : Word) :
    dot4N A B D = BitVec.ofNat 32 (D.toNat + byteNat A 0 * byteNat B 0 + byteNat A 1 * byteNat B 1 + byteNat A 2 * byteNat B 2
      + byteNat A 3 * byteNat B 3) := by
  unfold dot4N
  rw [show byteOf = byteNat from rfl]
  simp only [List.range_succ, List.range_zero, List.nil_append, List.cons_append, List.map_cons, List.map_nil, List.sum_cons,
    List.sum_nil]
  rw [Nat.add_assoc, Nat.add_assoc, Nat.add_assoc, BitVec.ofNat_add D.toNat, BitVec.ofNat_toNat, BitVec.setWidth_eq]
  rfl

/-! Fields (R139). -/

section
variable {n lo k : Nat} {m : BitVec n} (hm : ∀ i < n, m.getLsbD i = decide (lo ≤ i ∧ i < lo + k))
include hm

/-- The bits under a mask of k ones from bit lo on, moved down, are a field. -/
theorem ushiftRight_and_ones (a : BitVec n) : (a &&& m) >>> lo = BitVec.ofNat n (a.toNat / 2 ^ lo % 2 ^ k) := by
  apply BitVec.eq_of_getLsbD_eq
  intro i hi
  rw [BitVec.getLsbD_ushiftRight, BitVec.getLsbD_and, BitVec.getLsbD_ofNat, Nat.testBit_mod_two_pow, Nat.testBit_div_two_pow,
    BitVec.testBit_toNat, decide_eq_true hi, Nat.add_comm i]
  by_cases hin : lo + i < n
  · rw [hm _ hin]
    simp [Bool.and_comm]
  · simp [BitVec.getLsbD_of_ge a (lo + i) (by omega)]

/-- A field of d gives way to the low bits of a. -/
theorem insert_under_ones (a d : BitVec n) :
    (d &&& ~~~m) ||| ((a <<< lo) &&& m) =
      BitVec.ofNat n (d.toNat - d.toNat / 2 ^ lo % 2 ^ k * 2 ^ lo + a.toNat % 2 ^ k * 2 ^ lo) := by
  have hparts : d.toNat - d.toNat / 2 ^ lo % 2 ^ k * 2 ^ lo + a.toNat % 2 ^ k * 2 ^ lo =
      2 ^ lo * (2 ^ k * (d.toNat / 2 ^ lo / 2 ^ k) + a.toNat % 2 ^ k) + d.toNat % 2 ^ lo := by
    have hsplit : 2 ^ lo * (2 ^ k * (d.toNat / 2 ^ lo / 2 ^ k) + d.toNat / 2 ^ lo % 2 ^ k) + d.toNat % 2 ^ lo = d.toNat := by
      rw [Nat.div_add_mod, Nat.div_add_mod]
    rw [Nat.mul_add] at hsplit ⊢
    rw [Nat.mul_comm _ (2 ^ lo), Nat.mul_comm _ (2 ^ lo)]
    omega
  rw [hparts]
  apply BitVec.eq_of_getLsbD_eq
  intro i hi
  rw [BitVec.getLsbD_ofNat, Nat.testBit_two_pow_mul_add _ (Nat.mod_lt _ (Nat.two_pow_pos lo)),
    Nat.testBit_two_pow_mul_add _ (Nat.mod_lt _ (Nat.two_pow_pos k)), Nat.testBit_mod_two_pow, Nat.testBit_mod_two_pow,
    Nat.testBit_div_two_pow, Nat.testBit_div_two_pow]
  simp only [BitVec.getLsbD_or, BitVec.getLsbD_and, BitVec.getLsbD_not, BitVec.getLsbD_shiftLeft, hm i hi, BitVec.testBit_toNat,
    decide_eq_true hi, Bool.true_and]
  by_cases h1 : i < lo
  · simp [h1]
  · by_cases h2 : i < lo + k
    · simp [h1, h2, show lo ≤ i by omega, show i - lo < k by omega]
    · simp [h1, h2, show ¬ i - lo < k by omega, show i - lo - k + k + lo = i by omega]

end

theorem getLsbD_laneField (b : Word) {i : Nat} (hi : i < 32) :
    (laneField b).2.getLsbD i = decide (laneLow b ≤ i ∧ i < laneLow b + laneWidth b) := by
  have htop : min (bitsOf b.toNat 0 5 + min (bitsOf b.toNat 8 6) 32) 32 = laneLow b + laneWidth b := by
    have hlo : bitsOf b.toNat 0 5 = laneLow b := by simp [bitsOf, laneLow]
    have hw : bitsOf b.toNat 8 6 = b.toNat / 256 % 64 := by simp [bitsOf]
    have : laneLow b < 32 := Nat.mod_lt _ (by decide)
    rw [hlo, hw, laneWidth]
    omega
  have hones : 2 ^ (laneLow b + laneWidth b) - 2 ^ laneLow b = 2 ^ laneLow b * (2 ^ laneWidth b - 1) := by
    rw [Nat.mul_sub, ← Nat.pow_add, Nat.mul_one]
  have hmask : (laneField b).2 = BitVec.ofNat 32 (2 ^ (laneLow b + laneWidth b) - 2 ^ laneLow b) := by
    rw [← htop]
    simp [laneField, laneLow, bitsOf]
  rw [hmask, hones, BitVec.getLsbD_ofNat, Nat.testBit_two_pow_mul, Nat.testBit_two_pow_sub_one, decide_eq_true hi, Bool.true_and,
    Bool.eq_iff_iff]
  simp only [Bool.and_eq_true, decide_eq_true_eq]
  omega

theorem laneField_low (b : Word) : (laneField b).1 = laneLow b := by simp [laneField, laneLow, bitsOf]

theorem laneExtract_eq (A B : Word) : laneExtract A B = BitVec.ofNat 32 (A.toNat / 2 ^ laneLow B % 2 ^ laneWidth B) := by
  rw [laneExtract, laneField_low]
  exact ushiftRight_and_ones (fun i hi => getLsbD_laneField B hi) A

theorem laneInsert_eq (A B D : Word) :
    laneInsert A B D = BitVec.ofNat 32
      (D.toNat - D.toNat / 2 ^ laneLow B % 2 ^ laneWidth B * 2 ^ laneLow B + A.toNat % 2 ^ laneWidth B * 2 ^ laneLow B) := by
  rw [laneInsert, laneField_low]
  exact insert_under_ones (fun i hi => getLsbD_laneField B hi) A D

/-! The functions that VI and VIX share (R138, R139). -/

/-- The functions of the table as the model computes them. -/
theorem laneFns_eq :
    laneFns = [fun A B _ => A + B, fun A B _ => A - B, fun A B _ => A * B, fun A B _ => mulHigh A B, fun A B _ => mulHighN A B,
      fun A B D => A * B + D, fun A B _ => minS A B, fun A B _ => maxS A B, fun A B _ => minN A B, fun A B _ => maxN A B,
      fun A B _ => A &&& B, fun A B _ => A ||| B, fun A B _ => A ^^^ B, fun A B _ => A &&& ~~~B, fun A B _ => A <<< amount B,
      fun A B _ => A >>> amount B, fun A B _ => A.sshiftRight (amount B), fun A B _ => A.rotateLeft (amount B),
      fun A B _ => addSat A B, fun A B _ => subSat A B, fun A B _ => addSatN A B, fun A B _ => subSatN A B,
      fun A B D => dot4 A B D, fun A B D => dot4N A B D, fun A B _ => laneExtract A B, fun A B D => laneInsert A B D] := by
  simp only [laneFns, List.cons.injEq, true_and, and_true]
  refine ⟨?add, ?sub, ?mul, ?mulh, ?mulhn, ?mad, ?min, ?max, ?minn, ?maxn, ?shl, ?shr, ?sar, ?rol, ?addsat,
    ?subsat, ?addsatn, ?subsatn, ?dot4, ?dot4n, ?bfx, ?bfi⟩ <;> funext A B D
  case add => exact ofNat_toNat_add A B
  case sub => exact ofInt_toNat_sub A B
  case mul => exact ofNat_toNat_mul A B
  case mad => rw [BitVec.ofNat_add, ofNat_toNat_mul, BitVec.ofNat_toNat, BitVec.setWidth_eq]
  case min => rw [ofInt_min, minS]; simp only [← not_le, ite_not]
  case max => rw [max_comm, ofInt_max, maxS]; simp only [← not_le, ite_not]
  case minn => rw [ofNat_min, minN]; simp only [← not_le, ite_not]
  case maxn => rw [max_comm, ofNat_max, maxN]; simp only [← not_le, ite_not]
  case shl => exact (shiftLeft_eq_ofNat_mul A _).symm
  case shr => exact (shiftRight_eq_ofNat A _).symm
  case sar => exact (shiftRightSigned_eq_ofInt A _).symm
  case rol => exact (rotateLeft_eq_ofNat A (Nat.mod_lt _ (by decide))).symm
  case addsat => exact (clampInt_eq (by decide) _).symm
  case subsat => exact (clampInt_eq (by decide) _).symm
  case addsatn => exact (addSatN_eq A B).symm
  case subsatn => exact (subSatN_eq A B).symm
  case dot4 => exact (dot4_eq A B D).symm
  case dot4n => exact (dot4N_eq A B D).symm
  case bfx => exact (laneExtract_eq A B).symm
  case bfi => exact (laneInsert_eq A B D).symm
  case mulh | mulhn => rfl

/-! The forms of one source (R138, R143, R144). -/

theorem codeUnit_ready {s : State} {d a : BitVec 7} (h : s.VectorReady [3] [(d.toNat, 1)] [a.toNat]) (f : Warp → Word → Word × BitVec 8)
    (rnd : Bool) (hrnd : rnd = true → modeOk s.w.fm = true) :
    fpUnit d a ⟨[3], [], fun _ _ _ _ => 0⟩ rnd (fun w r A _ _ => codeLanes w r fun l => f w (A l)) s =
      s.vectorDone 0 [a.toNat] (repeatUnit (laneResult1 d s.w.rep.2 fun i w l => f w (w.lane a i s.w.rep.2 l)) s.w.rep.1 0 s.w) := by
  have hpre : (if rnd then needMode s else .ok ()) = .ok () := by
    cases rnd with
    | false => rfl
    | true => exact (need_ok _ _).mpr (hrnd rfl)
  exact vectorUnit_ready (acc := [3]) (srcs := [a.toNat]) h 0 hpre _

theorem absW_eq (A : Word) : absW A = BitVec.ofNat 32 A.toInt.natAbs := by
  rw [absW, ← BitVec.ofInt_natCast]
  split
  · next h =>
    rw [Int.ofNat_natAbs_of_nonpos h.le, BitVec.ofInt_neg, BitVec.ofInt_toInt]
    exact BitVec.zero_sub A
  · next h => rw [Int.natAbs_of_nonneg (not_lt.mp h), BitVec.ofInt_toInt]

theorem clz_eq (A : Word) :
    BitVec.ofNat 32 (leadingZeros 32 A.toNat) = if A = 0 then 32 else BitVec.ofNat 32 (31 - A.toNat.log2) := by
  split
  · next h0 => rw [h0]; decide
  · next h0 => rw [leadingZeros_eq (fun hn => h0 (BitVec.eq_of_toNat_eq hn)) A.isLt]

theorem and_lowOnes (A : Word) : A &&& 0x7FFF_FFFF = BitVec.ofNat 32 (A.toNat % 2 ^ 31) := by
  apply BitVec.eq_of_toNat_eq
  rw [BitVec.toNat_and, BitVec.toNat_ofNat, show (0x7FFF_FFFF : Word).toNat = 2 ^ 31 - 1 from rfl, Nat.and_two_pow_sub_one_eq_mod]
  omega

theorem xor_signBit (A : Word) : A ^^^ 0x8000_0000 = BitVec.ofNat 32 (A.toNat + 2 ^ 31) := by
  apply BitVec.eq_of_getLsbD_eq
  intro i hi
  rw [show (0x8000_0000 : Word) = BitVec.twoPow 32 31 from rfl, BitVec.getLsbD_xor, BitVec.getLsbD_twoPow, BitVec.getLsbD_ofNat,
    decide_eq_true hi, Nat.add_comm]
  rcases Nat.lt_or_eq_of_le (Nat.le_of_lt_succ hi) with hlt | rfl
  · rw [Nat.testBit_two_pow_add_gt hlt, BitVec.testBit_toNat]
    simp [Nat.ne_of_gt hlt]
  · rw [Nat.testBit_two_pow_add_eq, BitVec.testBit_toNat]
    simp

/-- The sign, the quiet bit, the exponent and the fraction name the class by the order of the magnitudes (Table 6 of R144). -/
theorem fpClass_eq (A : Word) : fpClass A = classMask A := by
  have hlt := A.isLt
  have hsign : A.getLsbD 31 = decide (2 ^ 31 ≤ A.toNat) := by
    rw [← BitVec.testBit_toNat, Nat.testBit_eq_decide_div_mod_eq]
    exact decide_eq_decide.mpr (by omega)
  have hquiet : A.getLsbD 22 = decide (A.toNat / 2 ^ 22 % 2 = 1) := by
    rw [← BitVec.testBit_toNat, Nat.testBit_eq_decide_div_mod_eq]
  have hexp : bitsOf A.toNat 23 8 = A.toNat / 2 ^ 23 % 256 := rfl
  have hfrac : bitsOf A.toNat 0 23 = A.toNat % 2 ^ 23 := by simp [bitsOf]
  unfold fpClass classMask
  rw [hsign, hquiet, hexp, hfrac]
  generalize A.toNat = n at hlt
  dsimp only
  by_cases h9 : 0x7FC0_0000 ≤ n % 2 ^ 31
  · rw [if_pos h9, if_pos (by omega), if_pos (by simp; omega)]
    rfl
  rw [if_neg h9]
  by_cases h8 : 0x7F80_0000 < n % 2 ^ 31
  · rw [if_pos h8, if_pos (by omega), if_neg (by simp; omega)]
    rfl
  rw [if_neg h8, if_neg (show ¬ (n / 2 ^ 23 % 256 = 255 ∧ n % 2 ^ 23 ≠ 0) by omega)]
  by_cases h7 : n % 2 ^ 31 = 0x7F80_0000
  · rw [if_pos h7, if_pos (by omega)]
    split <;> rfl
  rw [if_neg h7, if_neg (by omega)]
  by_cases h6 : 0x0080_0000 ≤ n % 2 ^ 31
  · rw [if_pos h6, if_pos (by omega)]
    split <;> rfl
  rw [if_neg h6, if_neg (by omega)]
  by_cases h5 : n % 2 ^ 31 ≠ 0
  · rw [if_pos h5, if_pos (by omega)]
    split <;> rfl
  · rw [if_neg h5, if_neg (by omega)]
    split <;> rfl

/-- Settles O18: every form writes its function of each lane, and the functions are those of the tables. -/
theorem laneResults : Obligations.LaneResults := by
  refine ⟨fun s d a b h => ?vi, fun s d a x b => ⟨fun h => ?vix, fun h => execVmovs_ready h b⟩, fun s d a h => ?unary⟩
  case vi =>
    simp only [viForms, laneFns_eq, List.zip_cons_cons, List.zip_nil_left, List.forall_mem_cons, List.not_mem_nil, false_imp_iff,
      implies_true, and_true]
    and_intros <;> exact congrArg Host.Outcome.next (laneOp_ready h _)
  case vix =>
    simp only [vixForms, laneFns_eq, List.zip_cons_cons, List.zip_nil_left, List.forall_mem_cons, List.not_mem_nil, false_imp_iff,
      implies_true, and_true]
    and_intros <;> exact congrArg Host.Outcome.next (laneOpX_ready h b _)
  case unary =>
    simp only [laneForms1, List.forall_mem_cons, List.not_mem_nil, false_imp_iff, implies_true, and_true, ← absW_eq, ← clz_eq,
      ← popCount_eq, ← and_lowOnes, ← xor_signBit, ← fpClass_eq]
    refine ⟨?abs, ?clz, ?popc, ?mov, ?fabs, ?fneg, ?fclass⟩
    case fclass =>
      refine congrArg Host.Outcome.next
        ((codeUnit_ready h (fun _ A => (fpClass A, flagIf (fpClass A = 0x100) flagNV)) false nofun).trans ?_)
      simp only [flagIf, decide_eq_true_eq]
    all_goals exact congrArg Host.Outcome.next (laneOp1_ready h _)

end Sys2Proof.Machine
end

section
/-! SUPPORT. Rounded lanes: the elements of a unit rounded together, each by itself, and the FP32 forms that round (R140 to R143, R145,
R146). -/

namespace Sys2Proof.Machine

/-! Flags over elements. -/

theorem zero_or_flags (x : BitVec 8) : 0 ||| x = x := BitVec.zero_or

theorem foldl_or_flags (ls : List Nat) (f : Nat → BitVec 8) (c : BitVec 8) :
    ls.foldl (fun x l => x ||| f l) c = c ||| flagsOver ls f := by
  induction ls generalizing c with
  | nil => exact BitVec.or_zero.symm
  | cons l r ih => rw [flagsOver, List.foldl_cons, List.foldl_cons, ih, ih, zero_or_flags, BitVec.or_assoc]

theorem flagsOver_cons (l : Nat) (r : List Nat) (f : Nat → BitVec 8) : flagsOver (l :: r) f = f l ||| flagsOver r f := by
  rw [flagsOver, List.foldl_cons, foldl_or_flags, zero_or_flags]

theorem flagsOver_or (ls : List Nat) (f g : Nat → BitVec 8) :
    flagsOver ls f ||| flagsOver ls g = flagsOver ls fun l => f l ||| g l := by
  induction ls with
  | nil => exact BitVec.or_self
  | cons l r ih =>
    rw [flagsOver_cons, flagsOver_cons, flagsOver_cons, ← ih]
    ac_rfl

/-- A flag is set when any element raises it. -/
theorem flagIf_any (ls : List Nat) (p : Nat → Bool) (f : BitVec 8) : flagIf (ls.any p) f = flagsOver ls fun l => flagIf (p l) f := by
  induction ls with
  | nil => rfl
  | cons l r ih =>
    rw [flagsOver_cons, ← ih, List.any_cons]
    cases p l <;> cases r.any p <;> simp [flagIf]

/-! Elements that are rounded together (R165, R167). -/

theorem zipIdx_map_range {α : Type} (n : Nat) (g : Nat → α) : ((List.range n).map g).zipIdx = (List.range n).map fun k => (g k, k) := by
  refine List.ext_getElem (by simp) fun i h1 h2 => ?_
  simp

/-- Each element is rounded by itself, but for the threshold that its neighbours give it under RS; the flags of all join. -/
theorem roundElems_range (f : Fmt) (fm : BitVec 19) (n : Nat) (xs : Nat → Option (Num × Bool)) :
    roundElems f fm ((List.range n).map xs) =
      ((List.range n).map fun k => (xs k).map fun _ => (ieeeElem f fm n xs k).1,
        flagsOver (List.range n) fun k => (ieeeElem f fm n xs k).2) := by
  let ds := (List.range n).map fun k => f.discarded ((xs k).map Prod.fst)
  let r := fun k => (xs k).map fun x => f.round (fmMode fm) false (fmFtz fm) (if fmMode fm = 5 then rsThreshold ds k else 0) x.1
  have hall : f.roundAll (fmMode fm) false (fmFtz fm) (((List.range n).map xs).map fun x => x.map Prod.fst) =
      ((List.range n).map fun k => (r k).map Prod.fst, flagsOver (List.range n) fun k => ((r k).map Prod.snd).getD 0) := by
    have hthr (k : Nat) : (if fmMode fm = 5 then rsThreshold (if fmMode fm = 5 then
        ((List.range n).map fun k => (xs k).map Prod.fst).map f.discarded else []) k else 0) =
        if fmMode fm = 5 then rsThreshold ds k else 0 := by
      split
      · rw [List.map_map]
        rfl
      · rfl
    unfold Fmt.roundAll
    simp only [List.map_map, Function.comp_def, zipIdx_map_range, Option.map_map, List.foldl_map, r] at hthr ⊢
    simp only [hthr]
    rfl
  have hflag (k : Nat) : ((r k).map Prod.snd).getD 0 ||| f.ieeeUf (fmMode fm) ((xs k).map Prod.fst)
      ||| flagIf (((xs k).map Prod.snd).getD false) flagNV = (ieeeElem f fm n xs k).2 := by
    cases hx : xs k with
    | none => simp [r, ieeeElem, roundedElem, hx, Fmt.ieeeUf, flagIf]
    | some x =>
      simp only [r, ieeeElem, roundedElem, hx, Option.map_some, Option.getD_some]
      ac_rfl
  have hcode (k : Nat) : (r k).map Prod.fst = (xs k).map fun _ => (ieeeElem f fm n xs k).1 := by
    cases hx : xs k with
    | none => simp only [r, hx, Option.map_none]
    | some x => simp only [r, ieeeElem, roundedElem, hx, Option.map_some, ds]
  unfold roundElems
  rw [hall]
  dsimp only
  rw [List.any_map, flagIf_any, List.foldl_map]
  change (_, _ ||| flagsOver _ _ ||| _) = _
  rw [flagsOver_or, flagsOver_or]
  simp only [hcode, Function.comp_def, hflag]

theorem ieeeElem_code (f : Fmt) (fm : BitVec 19) (n : Nat) (xs : Nat → Option (Num × Bool)) (k : Nat) :
    ((xs k).map fun _ => (ieeeElem f fm n xs k).1).getD 0 = (ieeeElem f fm n xs k).1 := by
  cases hx : xs k with
  | none => simp [ieeeElem, roundedElem, hx]
  | some x => rfl

/-! Units of FP32 lanes. -/

/-- The FP32 results of the lanes of EM, lane L being element L (R142). -/
theorem fpResult_eq_fpLanes (d : BitVec 7) (t : Nat) (f : Nat → Warp → Nat → Num × Bool) :
    fpResult d t f = fun i w => fpLanes w (d.toNat + i * t) (f i w) := by
  funext i w
  symm
  unfold fpLanes
  rw [lanes, roundElems_range]
  refine Prod.ext (congrArg (fun v : Vec => [RegWrite.v (d.toNat + i * t) w.em v]) ?_) rfl
  rw [List.map_map]
  refine List.map_congr_left fun l _ => ?_
  exact congrArg (BitVec.ofNat 32) (ieeeElem_code .f32 w.fm 64 (fun l => if lane w.em l then some (f i w l) else none) l)

/-- A unit that rounds takes the illegal-operand trap at a reserved rounding code, once its registers are allotted (R140). -/
theorem vectorUnit_reservedMode {acc : List Nat} {runs : List (Nat × Nat)} {srcs : List Nat} {s : State} (h : s.VectorReady acc runs srcs)
    (la : Nat) (hm : modeOk s.w.fm = false) (body : State → Nat → Warp → List RegWrite × BitVec 8) :
    vectorUnit acc la runs srcs needMode body s = s.trap 0x02 0 := by
  have hmode : needMode s = .error (.trap 0x02 0) := by simp [needMode, need, hm]
  unfold vectorUnit
  exact unit_trap h.accepts (by rw [(need_ok _ _).mpr h.allotted, hmode]; rfl)

theorem modeOk_iff (fm : BitVec 19) : modeOk fm = true ↔ fm.toNat / 4096 % 8 < 6 := decide_eq_true_iff

theorem modeOk_eq_false_iff (fm : BitVec 19) : modeOk fm = false ↔ 6 ≤ fm.toNat / 4096 % 8 := decide_eq_false_iff_not.trans not_lt

/-- A unit over vector registers that rounds to a state of its own, or takes the trap of a reserved rounding code. -/
theorem vectorUnit_rounds {acc : List Nat} {runs : List (Nat × Nat)} {srcs : List Nat} {s : State} (h : s.VectorReady acc runs srcs)
    (la : Nat) (body : State → Nat → Warp → List RegWrite × BitVec 8) :
    vectorUnit acc la runs srcs needMode body s =
      if 6 ≤ s.w.fm.toNat / 4096 % 8 then s.trap 0x02 0 else s.vectorDone la srcs (repeatUnit (body s) s.w.rep.1 0 s.w) := by
  split
  · next hm => exact vectorUnit_reservedMode h la ((modeOk_eq_false_iff _).mpr hm) body
  · next hm => exact vectorUnit_ready h la ((need_ok _ _).mpr ((modeOk_iff _).mpr (not_le.mp hm))) body

/-! The second operand of a VFX form (R146). -/

theorem bitsOf_imm_eq_append (p : BitVec 22) (b : BitVec 6) :
    BitVec.ofNat 32 (bitsOf ((p ++ b : BitVec 28).signExtend 64).toNat 0 28 * 16) = (p ++ b : BitVec 28) ++ (0 : BitVec 4) := by
  apply BitVec.eq_of_toNat_eq
  have hlow : bitsOf ((p ++ b : BitVec 28).signExtend 64).toNat 0 28 = (p ++ b : BitVec 28).toNat := by
    rw [bitsOf, Nat.pow_zero, Nat.div_one, ← BitVec.toNat_setWidth, ← BitVec.truncate_eq_setWidth, truncate_signExtend _ (by decide),
      BitVec.signExtend_eq]
  rw [hlow, toNat_append_eq (p ++ b : BitVec 28), BitVec.toNat_ofNat]
  have := (p ++ b : BitVec 28).isLt
  exact Nat.mod_eq_of_lt (by omega)

theorem Warp.vfxB_eq_immF {w : Warp} (h : w.hintImmh = none) (x : BitVec 1) (b : BitVec 6) : w.vfxB x b = w.immF x b := by
  unfold Warp.vfxB Warp.immF
  rw [Warp.imm_six h]
  cases w.hintImm with
  | none => simp only [signed_toNat]
  | some p => exact if_congr Iff.rfl rfl (bitsOf_imm_eq_append p b)

/-! The forms that round (R143, R145, R146). -/

/-- The results of a form that rounds f of the FP32 values of its operands. -/
def roundedLanes (f : Warp → Num → Num → Num → Num × Bool) (w : Warp) (r : Nat) (A B D : Nat → Word) : List RegWrite × BitVec 8 :=
  fpLanes w r fun l => f w (fp w (A l)) (fp w (B l)) (fp w (D l))

theorem exec_vfForm_rounds {d a b : BitVec 7} (s : State) :
    ∀ f ∈ vfForms d a b, exec f.1 s = .next (fpUnit d a (opV b) true (roundedLanes f.2) s) := by
  simp only [vfForms, fpFns, List.zip_cons_cons, List.zip_nil_left, List.forall_mem_cons, List.not_mem_nil, false_imp_iff,
    implies_true, and_true]
  and_intros <;> rfl

theorem exec_vfxForm_rounds {d a : BitVec 7} {x : BitVec 1} {b : BitVec 6} (s : State) :
    ∀ f ∈ vfxForms d a x b, exec f.1 s = .next (fpUnit d a (opX x b) true (roundedLanes f.2) s) := by
  simp only [vfxForms, fpFns, List.zip_cons_cons, List.zip_nil_left, List.forall_mem_cons, List.not_mem_nil, false_imp_iff,
    implies_true, and_true]
  and_intros <;> rfl

section
variable {s : State} {d a : BitVec 7} (f : Warp → Num → Num → Num → Num × Bool)

theorem fpUnit_rounds {b : BitVec 7} (h : s.VectorReady [3] [(d.toNat, 1)] [a.toNat, b.toNat]) :
    fpUnit d a (opV b) true (roundedLanes f) s =
      if 6 ≤ s.w.fm.toNat / 4096 % 8 then s.trap 0x02 0
      else s.vectorDone 0 [a.toNat, b.toNat] (repeatUnit (fpResult d s.w.rep.2 fun i w l =>
        f w (w.f32 (w.lane a i s.w.rep.2 l)) (w.f32 (w.lane b i s.w.rep.2 l)) (w.f32 ((w.v (d.toNat + i * s.w.rep.2)).at l)))
        s.w.rep.1 0 s.w) := by
  rw [fpResult_eq_fpLanes]
  exact vectorUnit_rounds (acc := [3]) (srcs := [a.toNat, b.toNat]) h 0 _

theorem fpUnit_rounds_immediate {x : BitVec 1} (h : s.VectorReady (vxHints x) [(d.toNat, 1)] [a.toNat]) (b : BitVec 6) :
    fpUnit d a (opX x b) true (roundedLanes f) s =
      if 6 ≤ s.w.fm.toNat / 4096 % 8 then s.trap 0x02 0
      else s.vectorDone 0 [a.toNat] (repeatUnit (fpResult d s.w.rep.2 fun i w l =>
        f w (w.f32 (w.lane a i s.w.rep.2 l)) (w.f32 (s.w.immF x b)) (w.f32 ((w.v (d.toNat + i * s.w.rep.2)).at l)))
        s.w.rep.1 0 s.w) := by
  rw [← Warp.vfxB_eq_immF (h.accepts.hintImmh (not_mem_vxHints x)), fpResult_eq_fpLanes]
  exact vectorUnit_rounds (acc := vxHints x) (srcs := [a.toNat]) h 0 _

end

/-- Settles O21: each form rounds its function of each lane, as the rules of rounding have it element by element. -/
theorem floatResults : Obligations.FloatResults := fun s _ _ _ _ i6 =>
  ⟨fun h f hf => (exec_vfForm_rounds s f hf).trans (congrArg Host.Outcome.next (fpUnit_rounds f.2 h)),
    fun h f hf => (exec_vfxForm_rounds s f hf).trans (congrArg Host.Outcome.next (fpUnit_rounds_immediate f.2 h i6))⟩

end Sys2Proof.Machine
end

section
/-! SUPPORT. Choices, sign copies and integral values of FP32 lanes, and packed halves (R140, R142 to R144, R146 to R148). -/

namespace Sys2Proof.Machine

/-! Forms that read no rounding code. -/

section
variable {s : State} {d a : BitVec 7}
  (body : Warp → Nat → (Nat → Word) → (Nat → Word) → (Nat → Word) → List RegWrite × BitVec 8)

theorem fpUnit_ready {b : BitVec 7} (h : s.VectorReady [3] [(d.toNat, 1)] [a.toNat, b.toNat]) :
    fpUnit d a (opV b) false body s = s.vectorDone 0 [a.toNat, b.toNat] (repeatUnit (fun i w =>
      body w (d.toNat + i * s.w.rep.2) (w.lane a i s.w.rep.2) (w.lane b i s.w.rep.2) ((w.v (d.toNat + i * s.w.rep.2)).at))
      s.w.rep.1 0 s.w) := vectorUnit_ready (acc := [3]) (srcs := [a.toNat, b.toNat]) h 0 rfl _

theorem fpUnit_ready_immediate {x : BitVec 1} (h : s.VectorReady (vxHints x) [(d.toNat, 1)] [a.toNat]) (b : BitVec 6) :
    fpUnit d a (opX x b) false body s = s.vectorDone 0 [a.toNat] (repeatUnit (fun i w =>
      body w (d.toNat + i * s.w.rep.2) (w.lane a i s.w.rep.2) (fun _ => s.w.immF x b) ((w.v (d.toNat + i * s.w.rep.2)).at))
      s.w.rep.1 0 s.w) := by
  rw [← Warp.vfxB_eq_immF (h.accepts.hintImmh (not_mem_vxHints x))]
  exact vectorUnit_ready (acc := vxHints x) (srcs := [a.toNat]) h 0 rfl _

end

/-! The sign copy and the integral value (R143, R144). -/

theorem copySign_eq (A B : Word) : copySign A B = BitVec.ofNat 32 (A.toNat % 2 ^ 31 + B.toNat / 2 ^ 31 * 2 ^ 31) := by
  apply BitVec.eq_of_getLsbD_eq
  intro i hi
  rw [Nat.add_comm, Nat.mul_comm, BitVec.getLsbD_ofNat, Nat.testBit_two_pow_mul_add _ (Nat.mod_lt _ (Nat.two_pow_pos 31)), Nat.testBit_mod_two_pow,
    Nat.testBit_div_two_pow, decide_eq_true hi, copySign, and_lowOnes, BitVec.getLsbD_or, BitVec.getLsbD_ofNat,
    Nat.testBit_mod_two_pow, BitVec.getLsbD_and, show (0x8000_0000 : Word) = BitVec.twoPow 32 31 from rfl, BitVec.getLsbD_twoPow,
    decide_eq_true hi]
  rcases Nat.lt_or_eq_of_le (Nat.le_of_lt_succ hi) with hlt | rfl
  · simp [hlt, Nat.ne_of_gt hlt]
  · simp [BitVec.testBit_toNat]

/-- Settles O22: each form is a unit of its lanes; the choices are codes with their flag, the sign copy a word. -/
theorem floatSelections : Obligations.FloatSelections := by
  intro s d a b x i6
  refine ⟨fun h => ⟨?_, ?_, ?_⟩, fun h => ⟨?_, ?_, ?_⟩, fun h hm => ?_, fun h hm => ?_⟩
  · exact congrArg Host.Outcome.next (fpUnit_ready _ h)
  · exact congrArg Host.Outcome.next (fpUnit_ready _ h)
  · simp only [← copySign_eq]
    exact congrArg Host.Outcome.next (fpUnit_ready _ h)
  · exact congrArg Host.Outcome.next (fpUnit_ready_immediate _ h i6)
  · exact congrArg Host.Outcome.next (fpUnit_ready_immediate _ h i6)
  · simp only [← copySign_eq]
    exact congrArg Host.Outcome.next (fpUnit_ready_immediate _ h i6)
  · exact congrArg Host.Outcome.next (codeUnit_ready h (fun w A => fpIntegral (fmMode w.fm) (fp w A)) true fun _ => (modeOk_iff _).mpr hm)
  · exact congrArg Host.Outcome.next (vectorUnit_reservedMode (acc := [3]) (srcs := [a.toNat]) h 0 ((modeOk_eq_false_iff _).mpr hm) _)

/-! Packed halves (R142, R147, R148). -/

theorem Vec.ofFn_congr {f g : Nat → Word} (h : ∀ l < 64, f l = g l) : Vec.ofFn f = Vec.ofFn g :=
  List.map_congr_left fun l hl => h l (List.mem_range.mp hl)

/-- A lane joins its two elements, each rounded once. -/
theorem joinHalves_eq (f : Fmt) (fm : BitVec 19) (xs : Nat → Option (Num × Bool)) {l : Nat} (hl : l < 64) :
    joinHalves ((List.range 128).map fun k => (xs k).map fun _ => (ieeeElem f fm 128 xs k).1) l =
      BitVec.ofNat 32 ((ieeeElem f fm 128 xs (2 * l)).1 + 65536 * (ieeeElem f fm 128 xs (2 * l + 1)).1) := by
  have helem {k : Nat} (hk : k < 128) :
      (((List.range 128).map fun k => (xs k).map fun _ => (ieeeElem f fm 128 xs k).1).getD k none).getD 0 =
        (ieeeElem f fm 128 xs k).1 := by
    rw [← ieeeElem_code f fm 128 xs k]
    simp [List.getD, hk]
  unfold joinHalves
  rw [helem (by omega), helem (by omega)]

theorem exec_vhForm {d a b : BitVec 7} (s : State) :
    ∀ x ∈ vhForms d a b, exec x.1 s = .next (halfRounded d a b x.2.1 x.2.2 s) := by
  simp only [vhForms, List.forall_mem_cons, List.not_mem_nil, false_imp_iff, implies_true, and_true]
  and_intros <;> rfl

theorem needMode_ok {s : State} (hm : s.w.fm.toNat / 4096 % 8 < 6) : needMode s = .ok () :=
  (need_ok _ _).mpr ((modeOk_iff _).mpr hm)

/-- The exact dot product, with the products of both halves. -/
theorem dot2_eq (w : Warp) (A B D : Word) :
    dot2 w A B D =
      let p := fun h => (w.f16 .bf16 A h).mul (w.f16 .bf16 B h)
      let x := w.total [w.f32 D, (p 0).1, (p 1).1]
      (x.1, (p 0).2 || (p 1).2 || x.2) := by
  unfold dot2
  rfl

section
variable {s : State} {d a b : BitVec 7} (h : s.VectorReady [3] [(d.toNat, 1)] [a.toNat, b.toNat])
include h

theorem halfRounded_ready (hm : s.w.fm.toNat / 4096 % 8 < 6) (f : Fmt) (op : Warp → Num → Num → Num → Num × Bool) :
    halfRounded d a b f op s = s.vectorDone 0 [a.toNat, b.toNat] (repeatUnit (halfResult f d s.w.rep.2 fun i w l k =>
      op w (w.f16 f (w.lane a i s.w.rep.2 l) k) (w.f16 f (w.lane b i s.w.rep.2 l) k) (w.f16 f ((w.v (d.toNat + i * s.w.rep.2)).at l) k))
      s.w.rep.1 0 s.w) := by
  unfold halfRounded fpUnit
  simp only [if_true]
  rw [vectorUnit_ready (acc := (opV b).acc) (srcs := a.toNat :: (opV b).fields) h 0 (needMode_ok hm)]
  refine congrArg (fun body => s.vectorDone 0 [a.toNat, b.toNat] (repeatUnit body s.w.rep.1 0 s.w)) ?_
  funext i w
  simp only [roundElems_range]
  refine Prod.ext (congrArg (fun v : Vec => [RegWrite.v (d.toNat + i * s.w.rep.2) w.em v]) (Vec.ofFn_congr fun l hl => ?_)) rfl
  exact joinHalves_eq f w.fm _ hl

theorem fpUnit_rounds_ready (hm : s.w.fm.toNat / 4096 % 8 < 6)
    (f : Warp → (Nat → Word) → (Nat → Word) → (Nat → Word) → Nat → Num × Bool) :
    fpUnit d a (opV b) true (fun w r A B D => fpLanes w r (f w A B D)) s =
      s.vectorDone 0 [a.toNat, b.toNat] (repeatUnit (fpResult d s.w.rep.2 fun i w =>
        f w (w.lane a i s.w.rep.2) (w.lane b i s.w.rep.2) (w.v (d.toNat + i * s.w.rep.2)).at) s.w.rep.1 0 s.w) := by
  rw [fpResult_eq_fpLanes]
  exact vectorUnit_ready (acc := [3]) (srcs := [a.toNat, b.toNat]) h 0 (needMode_ok hm) _

end

/-- Settles O23: each half is an element rounded once or chosen, and the dot product an element of its lane. -/
theorem halfResults : Obligations.HalfResults := by
  intro s d a b h
  refine ⟨fun hm => ⟨fun x hx => ?_, ?_⟩, ?_, ?_, ?_, ?_⟩
  · exact (exec_vhForm s x hx).trans (congrArg Host.Outcome.next (halfRounded_ready h hm x.2.1 x.2.2))
  · simp only [← dot2_eq]
    exact congrArg Host.Outcome.next (fpUnit_rounds_ready h hm fun w A B D l => dot2 w (A l) (B l) (D l))
  all_goals exact congrArg Host.Outcome.next (fpUnit_ready _ h)

end Sys2Proof.Machine
end

section
/-! SUPPORT. Exact values: the units of a finite value, and the order of values that are no NaN (R141, R144, R151). -/

namespace Sys2Proof.Machine

/-! Units of a finite value. -/

theorem scaleUp_cast (m : Nat) {e : Int} (h : 0 ≤ e) : ((scaleUp m e : Nat) : ℚ) = m * 2 ^ e := by
  obtain ⟨n, rfl⟩ := Int.eq_ofNat_of_zero_le h
  simp [scaleUp]

/-- A value that is 0 or a multiple of 2^e. -/
def Num.OnGrid (e : Int) : Num → Prop
  | .fin _ m f _ => m = 0 ∨ e ≤ f
  | _ => True

theorem Num.units_value {e : Int} {x : Num} (h : x.OnGrid e) : (x.units e : ℚ) * 2 ^ e = x.value := by
  cases x with
  | nan => simp [Num.units, Num.value]
  | inf => simp [Num.units, Num.value]
  | fin n m f b =>
    have hm : ((scaleUp m (f - e) : Nat) : ℚ) * 2 ^ e = m * 2 ^ f := by
      rcases h with rfl | h
      · simp [scaleUp]
      · rw [scaleUp_cast m (by omega), mul_assoc, ← zpow_add₀ two_ne_zero, Int.sub_add_cancel]
    cases n <;> simp [Num.units, Num.value, hm]

/-- An exponent up to the least of a list is a grid of its values. -/
theorem onGrid_of_le_minExp {xs : List Num} {e : Int} (h : ∀ f, minExp xs = some f → e ≤ f) : ∀ x ∈ xs, x.OnGrid e := by
  induction xs with
  | nil => exact nofun
  | cons y r ih =>
    have hstep : y.OnGrid e ∧ ∀ f, minExp r = some f → e ≤ f := by
      match y with
      | .nan _ | .inf _ => exact ⟨trivial, h⟩
      | .fin _ 0 _ _ => exact ⟨.inl rfl, h⟩
      | .fin _ (m + 1) g _ =>
        rw [minExp] at h
        cases hr : minExp r with
        | none => exact ⟨.inr (h g (by rw [hr])), nofun⟩
        | some f =>
          have hle := h (min g f) (by rw [hr])
          exact ⟨.inr (hle.trans (min_le_left g f)), fun k hk => Option.some.inj hk ▸ hle.trans (min_le_right g f)⟩
    exact List.forall_mem_cons.mpr ⟨hstep.1, ih hstep.2⟩

theorem minExp_grid (xs : List Num) : ∀ x ∈ xs, x.OnGrid ((minExp xs).getD 0) :=
  onGrid_of_le_minExp fun f hf => by rw [hf, Option.getD_some]

/-! The order of values. -/

theorem Num.lt_eq_value {x y : Num} (hx : ∀ n, x ≠ .inf n) (hy : ∀ n, y ≠ .inf n) : x.lt y = decide (x.value < y.value) := by
  have hgrid := minExp_grid [x, y]
  have hlt : x.lt y = decide (x.units ((minExp [x, y]).getD 0) < y.units ((minExp [x, y]).getD 0)) := by
    cases x with
    | inf n => exact absurd rfl (hx n)
    | _ => cases y with
      | inf n => exact absurd rfl (hy n)
      | _ => rfl
  rw [hlt, ← Num.units_value (hgrid x (by simp)), ← Num.units_value (hgrid y (by simp)), decide_eq_decide]
  rw [mul_lt_mul_iff_left₀ (by positivity), Int.cast_lt]

/-- An infinity orders beside every other value by its sign alone. -/
theorem Num.lt_inf {n : Bool} {y : Num} (hy : y ≠ .inf n) : (Num.inf n).lt y = n ∧ y.lt (.inf n) = ! n := by
  cases y with
  | inf k => cases n <;> cases k <;> simp_all [Num.lt]
  | _ => exact ⟨rfl, by simp [Num.lt]⟩

theorem Num.lt_asymm {x y : Num} (h : x.lt y = true) : y.lt x = false := by
  by_cases hxy : x = y
  · subst hxy
    by_cases hx : ∃ n, x = .inf n
    · obtain ⟨n, rfl⟩ := hx
      cases n <;> exact absurd h (by decide)
    · rw [Num.lt_eq_value (not_exists.mp hx) (not_exists.mp hx)] at h
      exact absurd (of_decide_eq_true h) (lt_irrefl _)
  by_cases hx : ∃ n, x = .inf n
  · obtain ⟨n, rfl⟩ := hx
    obtain ⟨h1, h2⟩ := Num.lt_inf (Ne.symm hxy)
    rw [h2, ← h1, h, Bool.not_true]
  by_cases hy : ∃ n, y = .inf n
  · obtain ⟨n, rfl⟩ := hy
    obtain ⟨h1, h2⟩ := Num.lt_inf hxy
    rw [h2] at h
    rw [h1, ← Bool.not_eq_true', h]
  · rw [Num.lt_eq_value (not_exists.mp hx) (not_exists.mp hy), decide_eq_true_eq] at h
    rw [Num.lt_eq_value (not_exists.mp hy) (not_exists.mp hx), decide_eq_false_iff_not]
    exact not_lt_of_gt h

end Sys2Proof.Machine
end

section
/-! SUPPORT. Compares and selects: masks of lanes, and the conditions of a compare (R149 to R152). -/

namespace Sys2Proof.Machine

/-! Masks. -/

theorem getLsbD_foldl_bits (f : Nat → Bool) (ls : List Nat) (c : Mask) {l : Nat} (hl : l < 64) :
    (ls.foldl (fun (m : Mask) k => if f k then m ||| (1 <<< k) else m) c).getLsbD l = (c.getLsbD l || (decide (l ∈ ls) && f l)) := by
  induction ls generalizing c with
  | nil => simp
  | cons k r ih =>
    have hbit : (BitVec.ofNat 64 (1 <<< k)).getLsbD l = decide (k = l) := by
      rw [Nat.one_shiftLeft, BitVec.getLsbD_ofNat, Nat.testBit_two_pow, decide_eq_true hl, Bool.true_and]
    have hstep : (if f k then c ||| (1 <<< k) else c).getLsbD l = (c.getLsbD l || (decide (l = k) && f l)) := by
      by_cases hk : k = l
      · subst hk
        cases hf : f k <;> simp [BitVec.getLsbD_or, hbit]
      · cases hf : f k <;> simp [BitVec.getLsbD_or, hk, hbit, Ne.symm hk]
    rw [List.foldl_cons, ih, hstep, Bool.or_assoc, ← Bool.and_or_distrib_right]
    simp

/-- Bit l of a mask of lanes. -/
theorem getLsbD_maskOf (f : Nat → Bool) {l : Nat} (hl : l < 64) : (maskOf f).getLsbD l = f l := by
  rw [maskOf, getLsbD_foldl_bits f lanes 0 hl]
  simp [lanes, hl]

/-- Some lane of a mask. -/
theorem laneList_any (m : Mask) (p : Nat → Bool) : (laneList m).any p = (List.range 64).any fun l => m.getLsbD l && p l := by
  rw [laneList, List.any_filter]
  rfl

/-! Conditions (R151). -/

theorem condHolds_int {c : Nat} (hc : c < 6) (x y : Int) : condHolds c false (decide (x < y)) (decide (x = y)) = intCond c x y := by
  have hne : decide (x ≠ y) = ! decide (x = y) := decide_not
  have hle : decide (x ≤ y) = (decide (x < y) || decide (x = y)) := by rw [← Bool.decide_or, decide_eq_decide, le_iff_lt_or_eq]
  have hge : decide (y ≤ x) = ! decide (x < y) := by rw [← decide_not, decide_eq_decide, not_lt]
  have hgt : decide (y < x) = (! decide (x < y) && ! decide (x = y)) := by
    rw [← decide_not, ← decide_not, ← Bool.decide_and, decide_eq_decide]
    omega
  unfold intCond
  rw [hne, hle, hge, hgt]
  generalize decide (x < y) = lt, decide (x = y) = eq
  interval_cases c <;> revert lt eq <;> decide

theorem condHolds_num {c : Nat} (hc : c < 8) (x y : Num) :
    condHolds c (x.isNan || y.isNan) (x.lt y) (x.eq y) = numCond c x y := by
  have heq : x.eq y = (! x.lt y && ! y.lt x) := by simp [Num.eq]
  have hasymm := @Num.lt_asymm x y
  unfold numCond
  cases x.isNan || y.isNan with
  | true => interval_cases c <;> rfl
  | false =>
    rw [heq]
    revert hasymm
    generalize x.lt y = lt, y.lt x = gt
    interval_cases c <;> revert lt gt <;> decide

theorem decide_toInt_eq (x y : Word) : decide (x.toInt = y.toInt) = decide (x = y) := decide_eq_decide.mpr BitVec.toInt_inj

theorem decide_toNat_eq (x y : Word) : decide ((x.toNat : Int) = y.toNat) = decide (x = y) :=
  decide_eq_decide.mpr (Int.natCast_inj.trans BitVec.toNat_inj)

/-- A condition that is not reserved, on integers and on FP32 values (Table 9 of R151). -/
theorem laneCond_eq {c : BitVec 4} {t : BitVec 2} (h : condReserved c.toNat t.toNat = false) (ftz : Bool) (x y : Word) :
    laneCond c.toNat t.toNat ftz x y =
      let p := Fmt.decode .f32 ftz x.toNat
      let q := Fmt.decode .f32 ftz y.toNat
      (match t.toNat with
        | 0 => intCond c.toNat x.toInt y.toInt
        | 1 => intCond c.toNat x.toNat y.toNat
        | _ => numCond c.toNat p q,
       decide (t = 2) && (p.isSig || q.isSig || ((p.isNan || q.isNan) && decide (2 ≤ c.toNat ∧ c.toNat ≤ 5)))) := by
  have hfields : c.toNat < 8 ∧ t.toNat ≠ 3 ∧ (6 ≤ c.toNat → t.toNat = 2) := by
    simpa [condReserved, imp_iff_not_or, not_le, and_assoc] using h
  obtain ⟨h8, h3, h6⟩ := hfields
  have ht : t = 0 ∨ t = 1 ∨ t = 2 := by
    clear h h6
    revert h3 t
    decide
  rcases ht with rfl | rfl | rfl
  · have hcond := condHolds_int (not_le.mp fun hn => absurd (h6 hn) (by decide)) x.toInt y.toInt
    rw [decide_toInt_eq] at hcond
    exact Prod.ext hcond rfl
  · have hcond := condHolds_int (not_le.mp fun hn => absurd (h6 hn) (by decide)) x.toNat y.toNat
    simp only [decide_toNat_eq, Int.ofNat_lt] at hcond
    exact Prod.ext hcond rfl
  · refine Prod.ext (condHolds_num h8 _ _) ?_
    simp [laneCond, Bool.and_assoc]

/-! A unit that takes no REP hint (R51). -/

theorem State.accepts.rep {s : State} {m : Nat} {acc : List Nat} {rc : Bool} (h : s.accepts m acc rc) (h3 : 3 ∉ acc) :
    s.w.rep = (1, 0) := by
  obtain ⟨hacc, -⟩ := (mismatch_eq_none acc rc s.w.hints).mp h.2
  refine congrArg (fun o : Option (Nat × Nat) => o.getD (1, 0)) (List.findSome?_eq_none_iff.mpr fun x hx => ?_)
  cases x with
  | rep t n => exact absurd (hacc _ hx) (by simp [hintKind, h3])
  | _ => rfl

theorem repeatUnit_once (body : Nat → Warp → List RegWrite × BitVec 8) (w : Warp) : repeatUnit body 1 0 w = body 0 w :=
  Prod.ext (List.append_nil _) BitVec.or_zero

theorem vectorUnit_once {runs : List (Nat × Nat)} {srcs : List Nat} {s : State} (h : s.VectorReady [] runs srcs) (la : Nat)
    (body : State → Nat → Warp → List RegWrite × BitVec 8) :
    vectorUnit [] la runs srcs (fun _ => .ok ()) body s = s.vectorDone la srcs (body s 0 s.w) := by
  rw [vectorUnit_ready h la rfl, h.accepts.rep (List.not_mem_nil), repeatUnit_once]

/-- Settles O24: a compare writes the mask of its condition lane by lane, and a select writes the lanes of its mask. -/
theorem masksAndSelection : Obligations.MasksAndSelection := by
  refine ⟨fun s c d a b t h hwf => ?_, fun s g d a b h => ?_⟩
  · intro x y p q cond nv
    have hc := condReserved_of_wellFormed hwf
    have hlane (l : Nat) : laneCond c.toNat t.toNat (fmFtz s.w.fm) (x l) (y l) = (cond l, nv l) := laneCond_eq hc _ _ _
    refine ⟨maskOf fun l => lane s.w.em l && cond l, fun l hl => getLsbD_maskOf _ hl, ?_⟩
    refine congrArg Host.Outcome.next ((if_neg (by rw [hc]; exact Bool.false_ne_true)).trans ((vectorUnit_once h 0 _).trans ?_))
    simp only [x, y] at hlane
    simp only [hlane, laneList_any]
    rfl
  · refine ⟨maskOf fun l => lane (s.w.em &&& s.w.guard g) l && decide ((s.w.src b.toNat 0).at l ≠ 0), fun l hl => ?_, ?_⟩
    · rw [getLsbD_maskOf _ hl, lane, BitVec.getLsbD_and]
    · exact congrArg Host.Outcome.next (vectorUnit_once h 0 _)

end Sys2Proof.Machine
end

section
/-! SUPPORT. FP32 codes: the value that a code holds, and the code of a value that FP32 holds exactly (R159, R165). -/

namespace Sys2Proof.Machine

/-! Cuts of a value that lies on the grid (R165). -/

theorem cutAt_exact {q k : Int} {m u : Nat} (h : (m : ℚ) * 2 ^ k = u * 2 ^ q) :
    (cutAt q m k false).units = u ∧ (cutAt q m k false).qe = q ∧ (cutAt q m k false).exact = true := by
  unfold cutAt
  split
  · next hle =>
    refine ⟨?_, rfl, rfl⟩
    have hu : ((scaleUp m (k - q) : Nat) : ℚ) = u := by
      rw [scaleUp_cast m (by omega), zpow_sub₀ two_ne_zero, mul_div_assoc', h, mul_div_cancel_right₀ _ (zpow_ne_zero _ two_ne_zero)]
    exact_mod_cast hu
  · next hlt =>
    have hm : (m : ℚ) = ((u * 2 ^ (q - k).toNat : Nat) : ℚ) := by
      have hpow : ((2 : ℚ) ^ (q - k).toNat) = 2 ^ (q - k) := by
        rw [← zpow_natCast, Int.toNat_of_nonneg (by omega)]
      rw [Nat.cast_mul, Nat.cast_pow, Nat.cast_ofNat, hpow, zpow_sub₀ two_ne_zero, mul_div_assoc', ← h,
        mul_div_cancel_right₀ _ (zpow_ne_zero _ two_ne_zero)]
    have hm' : m = u * 2 ^ (q - k).toNat := by exact_mod_cast hm
    subst hm'
    simp [Cut.exact]

/-- The exponent of the leading bit of a value. -/
theorem log_mul_zpow {m : Nat} (hm : m ≠ 0) (k : Int) : Int.log 2 ((m : ℚ) * 2 ^ k) = k + Nat.log2 m := by
  have hpos : (0 : ℚ) < m := by exact_mod_cast Nat.pos_of_ne_zero hm
  have hlow : (2 : ℚ) ^ Nat.log2 m ≤ m := by exact_mod_cast Nat.log2_self_le hm
  have hhigh : (m : ℚ) < 2 ^ (Nat.log2 m + 1) := by exact_mod_cast Nat.lt_log2_self
  have hx : (0 : ℚ) < m * 2 ^ k := by positivity
  have hk : (0 : ℚ) < 2 ^ k := by positivity
  refine le_antisymm (Int.lt_add_one_iff.mp ((Int.lt_zpow_iff_log_lt Nat.one_lt_two hx).mp ?_))
    ((Int.zpow_le_iff_le_log Nat.one_lt_two hx).mp ?_)
  · rw [Nat.cast_ofNat, add_assoc, zpow_add₀ two_ne_zero, mul_comm]
    exact mul_lt_mul_of_pos_left (by exact_mod_cast hhigh) hk
  · rw [Nat.cast_ofNat, zpow_add₀ two_ne_zero, mul_comm]
    exact mul_le_mul_of_nonneg_right (by exact_mod_cast hlow) hk.le

/-- A significand on the grid of FP32: it has 24 bits, or fewer at the least spacing. -/
structure OnF32 (u : Nat) (q : Int) : Prop where
  pos : u ≠ 0
  bits : u < 2 ^ 24
  least : -149 ≤ q
  top : q ≤ 104
  full : 2 ^ 23 ≤ u ∨ q = -149

/-- The spacing of FP32 at a value on its grid is that of the grid (R165). -/
theorem OnF32.spacing {m u : Nat} {k q : Int} (hu : OnF32 u q) (h : (m : ℚ) * 2 ^ k = u * 2 ^ q) :
    m ≠ 0 ∧ max (k + Nat.log2 m) (-126) - 23 = q := by
  have hm : m ≠ 0 := by
    rintro rfl
    have : (u : ℚ) ≠ 0 := by exact_mod_cast hu.pos
    exact absurd (h.symm.trans (by rw [Nat.cast_zero, zero_mul])) (mul_ne_zero this (zpow_ne_zero _ two_ne_zero))
  have hlog : k + Nat.log2 m = q + Nat.log2 u := by rw [← log_mul_zpow hm, h, log_mul_zpow hu.pos]
  have hlt : Nat.log2 u < 24 := (Nat.log2_lt hu.pos).mpr hu.bits
  refine ⟨hm, ?_⟩
  rcases hu.full with hfull | hq
  · have : 23 ≤ Nat.log2 u := (Nat.le_log2 hu.pos).mpr hfull
    have := hu.least
    omega
  · omega

/-- A value on the grid of FP32 is held exactly, whatever the mode (R165). -/
theorem round_exact {m u : Nat} {k q : Int} (hu : OnF32 u q) (h : (m : ℚ) * 2 ^ k = u * 2 ^ q) (mode : Nat) (sat : Bool) (thr : Nat)
    (neg : Bool) :
    Fmt.round .f32 mode sat false thr (.fin neg m k false) = (Fmt.sign .f32 neg + (2 ^ 23 * (q + 149).toNat + u), 0) := by
  obtain ⟨hm, hq⟩ := hu.spacing h
  obtain ⟨hunits, hqe, hexact⟩ := cutAt_exact h
  have hcut : Fmt.cut .f32 m k false = cutAt q m k false := congrArg (fun e => cutAt e m k false) hq
  have hnear : (cutAt q m k false).near mode neg thr = u := by rw [Cut.near, if_pos hexact, hunits]
  have htop : Fmt.top .f32 = (2 ^ 24 - 1, 104) := by decide
  have hover : ¬ (104 < q ∨ (q = 104 ∧ 2 ^ 24 - 1 < u)) := by
    have := hu.bits
    have := hu.top
    omega
  have hcode : Fmt.encode .f32 neg u q = Fmt.sign .f32 neg + (2 ^ 23 * (q + 149).toNat + u) := by
    unfold Fmt.encode
    rw [if_neg hu.pos, show Fmt.emin .f32 - (Fmt.mant .f32 : Int) = -149 from rfl, show scaleUp 1 (Fmt.mant .f32 : Int) = 2 ^ 23 from rfl,
      sub_neg_eq_add]
  unfold Fmt.round
  simp only [if_neg hm]
  rw [if_neg (by decide)]
  unfold Fmt.roundFinite
  simp only [hcut, hnear, hqe, htop, if_neg hover, hexact, hcode]
  simp [flagIf]

/-! Words by their fields. -/

/-- The word of a sign, an exponent field and a fraction. -/
def wordOf32 (n : Bool) (e f : Nat) : Word := BitVec.ofNat 32 (n.toNat * 2 ^ 31 + e * 2 ^ 23 + f)

theorem sign_f32 (n : Bool) : Fmt.sign .f32 n = n.toNat * 2 ^ 31 := by cases n <;> rfl

/-- What a code holds, by its fields (R159). -/
theorem decode_fields {e f : Nat} (z n : Bool) (he : e < 256) (hf : f < 2 ^ 23) :
    Fmt.decode .f32 z (n.toNat * 2 ^ 31 + e * 2 ^ 23 + f) =
      if e = 255 then if f = 0 then .inf n else .nan (f < 2 ^ 22)
      else if e = 0 then .fin n (if z = true then 0 else f) (-149) false
      else .fin n (2 ^ 23 + f) (e - 150) false := by
  have hn : n.toNat ≤ 1 := Bool.toNat_le n
  have hs : bitsOf (n.toNat * 2 ^ 31 + e * 2 ^ 23 + f) (Fmt.width .f32 - 1) 1 = n.toNat := by
    simp only [bitsOf, Fmt.width]
    omega
  have hexp : bitsOf (n.toNat * 2 ^ 31 + e * 2 ^ 23 + f) (Fmt.mant .f32) (Fmt.width .f32 - 1 - Fmt.mant .f32) = e := by
    simp only [bitsOf, Fmt.width, Fmt.mant]
    omega
  have hfrac : bitsOf (n.toNat * 2 ^ 31 + e * 2 ^ 23 + f) 0 (Fmt.mant .f32) = f := by
    simp only [bitsOf, Fmt.mant]
    omega
  have hneg : decide (n.toNat = 1) = n := by cases n <;> rfl
  unfold Fmt.decode
  simp only [hs, hexp, hfrac, hneg]
  by_cases h255 : e = 255
  · have hquiet : decide (f < 2 ^ (Fmt.mant .f32 - 1)) = decide (f < 2 ^ 22) := rfl
    rw [hquiet]
    by_cases hf0 : f = 0 <;> simp [Fmt.isInt, Fmt.hasInf, Fmt.width, Fmt.mant, h255, hf0]
  · by_cases h0 : e = 0
    · simp [Fmt.isInt, Fmt.hasInf, Fmt.flushes, Fmt.width, Fmt.mant, Fmt.emin, h0]
    · have hexp : Fmt.emin .f32 + e - 1 - (Fmt.mant .f32 : Int) = e - 150 := by
        simp only [Fmt.emin, Fmt.mant]
        omega
      rw [hexp]
      simp [Fmt.isInt, Fmt.hasInf, Fmt.width, Fmt.mant, h255, h0]

/-- What the code of a value on the grid holds; a subnormal reads as zero where it is flushed (R141, R159). -/
theorem decode_code {u : Nat} {q : Int} (hu : OnF32 u q) (z neg : Bool) :
    Fmt.decode .f32 z (Fmt.sign .f32 neg + (2 ^ 23 * (q + 149).toNat + u)) =
      .fin neg (if z = true ∧ u < 2 ^ 23 then 0 else u) q false := by
  obtain ⟨hpos, hbits, hleast, htop, hfull⟩ := hu
  by_cases hnormal : 2 ^ 23 ≤ u
  · have hcode : Fmt.sign .f32 neg + (2 ^ 23 * (q + 149).toNat + u) =
        neg.toNat * 2 ^ 31 + (q + 150).toNat * 2 ^ 23 + (u - 2 ^ 23) := by
      rw [sign_f32]
      omega
    rw [hcode, decode_fields z neg (by omega) (by omega), if_neg (by omega), if_neg (by omega), if_neg (by omega),
      Nat.add_sub_cancel' hnormal, Int.toNat_of_nonneg (by omega), Int.add_sub_cancel]
  · have hq : q = -149 := by omega
    subst hq
    have hcode : Fmt.sign .f32 neg + (2 ^ 23 * (-149 + 149 : Int).toNat + u) = neg.toNat * 2 ^ 31 + 0 * 2 ^ 23 + u := by
      rw [sign_f32, show (-149 + 149 : Int).toNat = 0 from rfl, Nat.mul_zero, Nat.zero_add, Nat.zero_mul, Nat.add_zero]
    rw [hcode, decode_fields z neg (by omega) (by omega), if_neg (by omega), if_pos rfl]
    simp only [not_le.mp hnormal, and_true]

theorem toNat_wordOf32 {e f : Nat} (n : Bool) (he : e < 256) (hf : f < 2 ^ 23) :
    (wordOf32 n e f).toNat = n.toNat * 2 ^ 31 + e * 2 ^ 23 + f := by
  have hn : n.toNat ≤ 1 := Bool.toNat_le n
  rw [wordOf32, BitVec.toNat_ofNat, Nat.mod_eq_of_lt (by omega)]

/-- What a word holds, by its fields. -/
theorem decode_wordOf32 {e f : Nat} (z n : Bool) (he : e < 256) (hf : f < 2 ^ 23) :
    Fmt.decode .f32 z (wordOf32 n e f).toNat =
      if e = 255 then if f = 0 then .inf n else .nan (f < 2 ^ 22)
      else if e = 0 then .fin n (if z = true then 0 else f) (-149) false
      else .fin n (2 ^ 23 + f) (e - 150) false := by
  rw [toNat_wordOf32 n he hf, decode_fields z n he hf]

/-- The word of a value on the grid of FP32. -/
theorem word32_exact {m u : Nat} {k q : Int} (hu : OnF32 u q) (h : (m : ℚ) * 2 ^ k = u * 2 ^ q) (n : Bool) :
    word32 (.fin n m k false) = BitVec.ofNat 32 (n.toNat * 2 ^ 31 + (2 ^ 23 * (q + 149).toNat + u)) := by
  rw [word32, Fmt.code, round_exact hu h, sign_f32]

theorem decode_word32_exact {m u : Nat} {k q : Int} (hu : OnF32 u q) (h : (m : ℚ) * 2 ^ k = u * 2 ^ q) (z n : Bool) :
    Fmt.decode .f32 z (word32 (.fin n m k false)).toNat = .fin n (if z = true ∧ u < 2 ^ 23 then 0 else u) q false := by
  have hn : n.toNat ≤ 1 := Bool.toNat_le n
  have := hu.bits
  have := hu.top
  rw [word32_exact hu h, BitVec.toNat_ofNat, Nat.mod_eq_of_lt (by omega), ← sign_f32, decode_code hu]

/-- A value of 24 bits lies on the grid of FP32, with all of them where it is normal. -/
theorem exists_onF32 {m : Nat} {k : Int} (hm : m ≠ 0) (hbits : m < 2 ^ 24) (hk : -149 ≤ k) (htop : k + Nat.log2 m ≤ 127) :
    ∃ u q, OnF32 u q ∧ (m : ℚ) * 2 ^ k = u * 2 ^ q ∧ (-126 ≤ k + Nat.log2 m → 2 ^ 23 ≤ u) := by
  have hlog : Nat.log2 m < 24 := (Nat.log2_lt hm).mpr hbits
  obtain ⟨j, hj⟩ := Int.eq_ofNat_of_zero_le (show 0 ≤ k - (max (k + Nat.log2 m) (-126) - 23) by omega)
  have hlow : 2 ^ (Nat.log2 m + j) ≤ m * 2 ^ j := by
    rw [Nat.pow_add]
    exact Nat.mul_le_mul_right _ (Nat.log2_self_le hm)
  have hfull : -126 ≤ k + Nat.log2 m → 2 ^ 23 ≤ m * 2 ^ j := fun h =>
    (Nat.pow_le_pow_right (by decide) (by omega)).trans hlow
  refine ⟨m * 2 ^ j, k - j, ⟨Nat.mul_ne_zero hm (Nat.two_pow_pos j).ne', ?_, by omega, by omega, ?_⟩, ?_, hfull⟩
  · calc m * 2 ^ j < 2 ^ (Nat.log2 m + 1) * 2 ^ j := Nat.mul_lt_mul_of_pos_right Nat.lt_log2_self (Nat.two_pow_pos j)
      _ = 2 ^ (Nat.log2 m + 1 + j) := (Nat.pow_add ..).symm
      _ ≤ 2 ^ 24 := Nat.pow_le_pow_right (by decide) (by omega)
  · by_cases hn : -126 ≤ k + Nat.log2 m
    · exact .inl (hfull hn)
    · exact .inr (by omega)
  · rw [zpow_sub₀ two_ne_zero, zpow_natCast]
    push_cast
    field_simp

/-- A power of two within the normal numbers. -/
theorem word32_twoPow {k : Int} (h : -126 ≤ k) (h' : k ≤ 127) (n : Bool) :
    word32 (.fin n 1 k false) = wordOf32 n (k + 127).toNat 0 := by
  have hu : OnF32 (2 ^ 23) (k - 23) := ⟨by decide, by decide, by omega, by omega, .inl le_rfl⟩
  have hval : ((1 : Nat) : ℚ) * 2 ^ k = (2 ^ 23 : Nat) * 2 ^ (k - 23) := by
    rw [zpow_sub₀ two_ne_zero]
    norm_num
    ring
  rw [word32_exact hu hval, wordOf32]
  exact congrArg (BitVec.ofNat 32) (by omega)

/-- A power of two below the normal numbers. -/
theorem word32_twoPow_subnormal {k : Int} (h : -149 ≤ k) (h' : k < -126) (n : Bool) :
    word32 (.fin n 1 k false) = wordOf32 n 0 (2 ^ (k + 149).toNat) := by
  obtain ⟨j, hj⟩ := Int.eq_ofNat_of_zero_le (show 0 ≤ k + 149 by omega)
  have hk : k = j - 149 := by omega
  subst hk
  have hu : OnF32 (2 ^ j) (-149) :=
    ⟨(Nat.two_pow_pos j).ne', Nat.pow_lt_pow_right (by decide) (by omega), by omega, by omega, .inr rfl⟩
  have hval : ((1 : Nat) : ℚ) * 2 ^ ((j : Int) - 149) = (2 ^ j : Nat) * 2 ^ (-149 : Int) := by
    rw [sub_eq_add_neg, zpow_add₀ two_ne_zero, zpow_natCast]
    norm_num
  rw [word32_exact hu hval, wordOf32, show (-149 + 149 : Int).toNat = 0 from rfl, sub_add_cancel, Int.toNat_natCast, Nat.mul_zero,
    Nat.zero_add, Nat.zero_mul, Nat.add_zero]

theorem word32_inf (n : Bool) : word32 (.inf n) = wordOf32 n 255 0 := by cases n <;> decide
theorem word32_zero (n : Bool) (k : Int) (b : Bool) : word32 (.fin n 0 k b) = wordOf32 n 0 0 := by
  cases n <;> rfl

end Sys2Proof.Machine
end

section
/-! SUPPORT. The special functions: their units, their special inputs, the root and the quotient, and the bound of the others (R153 to
R156). -/

namespace Sys2Proof.Machine

/-! Units of VL1 (R153). -/

section
variable {s : State} {l : BitVec 4} {d a : BitVec 7}

theorem specialUnit_ready (h : s.VectorReady [3] [(d.toNat, 1)] [a.toNat]) (fn : Nat) :
    specialUnit fn l d a s = s.vectorDone l.toNat [a.toNat] (repeatUnit (specialResult fn d a s.w.rep.2) s.w.rep.1 0 s.w) :=
  vectorUnit_ready h l.toNat rfl _

theorem execVsqrt_rounds (h : s.VectorReady [3] [(d.toNat, 1)] [a.toNat]) :
    exec (.vsqrt l d a) s = .next (if 6 ≤ s.w.fm.toNat / 4096 % 8 then s.trap 0x02 0
      else s.vectorDone l.toNat [a.toNat] (repeatUnit (fpResult d s.w.rep.2 fun i w k => sqrtNum (w.f32 (w.lane a i s.w.rep.2 k)))
        s.w.rep.1 0 s.w)) := by
  rw [fpResult_eq_fpLanes]
  exact congrArg Host.Outcome.next (vectorUnit_rounds h l.toNat _)

theorem execVdiv_rounds (h : s.VectorReady [3] [(d.toNat, 1), (a.toNat, 2)] []) :
    exec (.vdiv l d a) s = .next (if 6 ≤ s.w.fm.toNat / 4096 % 8 then s.trap 0x02 0
      else s.vectorDone l.toNat [] (repeatUnit (fun i w =>
        let q := fun k => divNum (w.f32 ((w.v (a.toNat + i * s.w.rep.2)).at k)) (w.f32 ((w.v (a.toNat + i * s.w.rep.2 + 1)).at k))
        let r := fpResult d s.w.rep.2 (fun _ _ k => ((q k).1, (q k).2.1)) i w
        (r.1, r.2 ||| if (List.range 64).any (fun k => w.em.getLsbD k && (q k).2.2) then flagDZ else 0)) s.w.rep.1 0 s.w)) := by
  simp only [fpResult_eq_fpLanes, ← laneList_any]
  exact congrArg Host.Outcome.next (vectorUnit_rounds h l.toNat _)

end

/-! The root and the quotient (R154, R155). -/

theorem rootAux_spec (n : Nat) : ∀ k r, r * r ≤ n → n < (r + 2 ^ k) * (r + 2 ^ k) →
    rootAux n k r * rootAux n k r ≤ n ∧ n < (rootAux n k r + 1) * (rootAux n k r + 1) := by
  intro k
  induction k with
  | zero => exact fun r h1 h2 => ⟨h1, h2⟩
  | succ k ih =>
    intro r h1 h2
    rw [rootAux]
    split
    · next hle => exact ih _ hle (by rwa [Nat.add_assoc, ← Nat.two_mul, ← Nat.pow_succ'])
    · next hlt => exact ih _ h1 (not_le.mp hlt)

/-- The significand of a root, whose square lies below that of its successor on the other side of the radicand (R155). -/
theorem sqrtNum_pos {m : Nat} {e : Int} (hm : m ≠ 0) (hlt : m < 2 ^ 24) :
    ∃ r g more, sqrtNum (.fin false m e false) = (.fin false r g more, false) ∧ 2 ^ 60 ≤ r ∧ 2 * g ≤ e
      ∧ r * r ≤ m * 2 ^ (e - 2 * g).toNat ∧ m * 2 ^ (e - 2 * g).toNat < (r + 1) * (r + 1)
      ∧ (more = true ↔ r * r ≠ m * 2 ^ (e - 2 * g).toNat) := by
  let odd := e % 2 ≠ 0
  let n := (if odd then 2 * m else m) * 2 ^ (2 * 60)
  let r := rootAux n (60 + 16) 0
  let g := (if odd then e - 1 else e) / 2 - 60
  have hn : n = m * 2 ^ (e - 2 * g).toNat := by
    by_cases ho : e % 2 ≠ 0
    · rw [show (e - 2 * g).toNat = 121 by simp only [g, odd, if_pos ho]; omega]
      simp only [n, odd, if_pos ho]
      omega
    · rw [show (e - 2 * g).toNat = 120 by simp only [g, odd, if_neg ho]; omega]
      simp only [n, odd, if_neg ho]
  have hg : 2 * g ≤ e := by
    simp only [g]
    split <;> omega
  have hsmall : m * 2 ^ 120 ≤ n ∧ n < 2 ^ 145 := by
    simp only [n]
    split <;> omega
  obtain ⟨hlow, hhigh⟩ : r * r ≤ n ∧ n < (r + 1) * (r + 1) :=
    rootAux_spec n (60 + 16) 0 (Nat.zero_le _) (by rw [Nat.zero_add]; exact hsmall.2.trans (by decide))
  have hroot : 2 ^ 60 ≤ r := by
    by_contra hlt60
    have : (r + 1) * (r + 1) ≤ 2 ^ 60 * 2 ^ 60 := Nat.mul_le_mul (by omega) (by omega)
    omega
  have hval : sqrtNum (.fin false m e false) = (.fin false r g (decide (r * r ≠ n)), false) := by
    unfold sqrtNum root
    simp only [if_neg hm]
    rfl
  exact ⟨r, g, _, hval, hroot, hg, hn ▸ hlow, hn ▸ hhigh, by rw [decide_eq_true_eq, hn]⟩

/-! Special inputs (Table 10 of R154): what their words hold, -/

theorem decode_word_zero (z n : Bool) : Fmt.decode .f32 z (wordOf32 n 0 0).toNat = .fin n 0 (-149) false := by
  rw [decode_wordOf32 z n (by decide) (by decide), if_neg (by decide), if_pos rfl, ite_self]

theorem decode_word_inf (z n : Bool) : Fmt.decode .f32 z (wordOf32 n 255 0).toNat = .inf n := by
  rw [decode_wordOf32 z n (by decide) (by decide), if_pos rfl, if_pos rfl]

theorem decode_word_normal (z n : Bool) {e f : Nat} (h1 : 1 ≤ e) (h2 : e < 255) (hf : f < 2 ^ 23) :
    Fmt.decode .f32 z (wordOf32 n e f).toNat = .fin n (2 ^ 23 + f) (e - 150) false := by
  rw [decode_wordOf32 z n (by omega) hf, if_neg (by omega), if_neg (by omega)]

theorem decode_word_subnormal (n : Bool) {f : Nat} (hf : f < 2 ^ 23) :
    Fmt.decode .f32 false (wordOf32 n 0 f).toNat = .fin n f (-149) false := by
  rw [decode_wordOf32 false n (by decide) hf, if_neg (by decide), if_pos rfl, if_neg Bool.false_ne_true]

/-- A word that is no NaN and no zero after the flush of subnormals. -/
theorem decode_word_nonzero {z : Bool} {e f : Nat} (hf : f < 2 ^ 23) (h0 : 1 ≤ e ∨ (z = false ∧ f ≠ 0))
    (hnan : e < 255 ∨ (e = 255 ∧ f = 0)) (n : Bool) :
    Fmt.decode .f32 z (wordOf32 n e f).toNat = .inf n ∨ ∃ m k, m ≠ 0 ∧ Fmt.decode .f32 z (wordOf32 n e f).toNat = .fin n m k false := by
  obtain hlt | ⟨rfl, rfl⟩ := hnan
  · by_cases h1 : 1 ≤ e
    · exact .inr ⟨_, _, by omega, decode_word_normal z n h1 hlt hf⟩
    · obtain ⟨rfl, hf0⟩ := h0.resolve_left h1
      obtain rfl : e = 0 := by omega
      exact .inr ⟨_, _, hf0, decode_word_subnormal n hf⟩
  · exact .inl (decode_word_inf z n)

theorem decode_word_twoPow {z : Bool} {k : Int} (h : (if z = true then -126 else -149) ≤ k) (h' : k ≤ 127) (n : Bool) :
    ∃ j e, Fmt.decode .f32 z (word32 (.fin n 1 k false)).toNat = .fin n (2 ^ j) e false ∧ e + (j : Nat) = k := by
  by_cases hk : -126 ≤ k
  · rw [word32_twoPow hk h', decode_word_normal z n (by omega) (by omega) (by decide)]
    exact ⟨23, _, rfl, by omega⟩
  · obtain rfl : z = false := by
      cases z with
      | false => rfl
      | true => exact absurd h hk
    rw [if_neg Bool.false_ne_true] at h
    have hpow : 2 ^ (k + 149).toNat < 2 ^ 23 := Nat.pow_lt_pow_right (by decide) (by omega)
    rw [word32_twoPow_subnormal h (by omega), decode_word_subnormal n hpow]
    exact ⟨_, _, rfl, by omega⟩

/-! and what the functions give for them. -/

theorem specialRaw_rcp_twoPow (z n : Bool) (j : Nat) (e : Int) (b : Bool) :
    specialRaw 0 (.fin n (2 ^ j) e b) z =
      if e + j ≤ -128 then (word32 (.inf n), flagOF) else (word32 (.fin n 1 (-(e + j)) false), 0) := by
  unfold specialRaw
  simp only [if_neg (Nat.two_pow_pos j).ne', Nat.log2_two_pow, and_true, if_true]
  exact if_congr (by omega) rfl rfl

theorem specialRaw_rcp_tiny (z n : Bool) {m : Nat} {e : Int} (b : Bool) (hm : m ≠ 0) (h : e + Nat.log2 m < -128) :
    specialRaw 0 (.fin n m e b) z = (word32 (.inf n), flagOF) := by
  unfold specialRaw
  simp only [if_neg hm, h, true_or, if_true]

theorem specialRaw_rsq_twoPow (z : Bool) {j : Nat} {e : Int} (b : Bool) (h : (e + j) % 2 = 0) :
    specialRaw 1 (.fin false (2 ^ j) e b) z = (word32 (.fin false 1 (-(e + j) / 2) false), 0) := by
  unfold specialRaw
  simp [Nat.log2_two_pow, h]

theorem specialRaw_lg2_twoPow (z : Bool) (j : Nat) (e : Int) (b : Bool) :
    specialRaw 4 (.fin false (2 ^ j) e b) z = (word32 (.fin (decide (e + j < 0)) (e + j).natAbs 0 false), 0) := by
  unfold specialRaw
  simp [Nat.log2_two_pow]

/-- A negative operand of a logarithm or of a root is outside its domain. -/
theorem specialRaw_negative {z b : Bool} {m : Nat} {k : Int} (hm : m ≠ 0) :
    specialRaw 1 (.fin true m k b) z = (0x7FC0_0000, flagNV) ∧ specialRaw 4 (.fin true m k b) z = (0x7FC0_0000, flagNV) := by
  constructor <;> · unfold specialRaw; simp only [if_neg hm, if_true]

/-- The whole part of a normal word, in units of 1. -/
theorem cut_units_normal {e f : Nat} (h : e ≤ 150) :
    (Fmt.cut .i8 (2 ^ 23 + f) (e - 150) false).units = (2 ^ 23 + f) / 2 ^ (150 - e) := by
  rw [Fmt.cut, if_pos (show Fmt.isInt .i8 = true from rfl), cutAt]
  split
  · obtain rfl : e = 150 := by omega
    simp [scaleUp]
  · rw [show (0 - ((e : Int) - 150)).toNat = 150 - e by omega]

theorem cut_units_large {e f : Nat} (h : 150 ≤ e) :
    2 ^ 23 ≤ (Fmt.cut .i8 (2 ^ 23 + f) (e - 150) false).units := by
  rw [Fmt.cut, if_pos (show Fmt.isInt .i8 = true from rfl), cutAt, if_pos (by omega)]
  exact (Nat.le_add_right _ f).trans (Nat.le_mul_of_pos_right _ (Nat.two_pow_pos _))

/-- Powers from 2^128 up overflow. -/
theorem specialRaw_ex2_large (z b : Bool) {m : Nat} {k : Int} (hm : m ≠ 0) (h : 128 ≤ (Fmt.cut .i8 m k false).units) :
    specialRaw 3 (.fin false m k b) z = (word32 (.inf false), flagOF) := by
  unfold specialRaw
  simp [hm, h]

/-- Powers below 2^-150 vanish. -/
theorem specialRaw_ex2_small (z b : Bool) {m : Nat} {k : Int} (hm : m ≠ 0)
    (h : 150 < (Fmt.cut .i8 m k false).units ∨ ((Fmt.cut .i8 m k false).units = 150 ∧ (Fmt.cut .i8 m k false).exact = false)) :
    specialRaw 3 (.fin true m k b) z = (0, 0) := by
  unfold specialRaw
  simp [hm, h]

theorem specialRaw_tanh_large (z n b : Bool) {m : Nat} {k : Int} (hm : m ≠ 0)
    (h : 3 < k + Nat.log2 m ∨ (k + Nat.log2 m = 3 ∧ 9 ≤ (Fmt.cut .i8 m k false).units)) :
    specialRaw 7 (.fin n m k b) z = (word32 (.fin n 1 0 false), 0) := by
  unfold specialRaw
  simp [hm, h]

theorem log2_significand {f : Nat} (hf : f < 2 ^ 23) : Nat.log2 (2 ^ 23 + f) = 23 :=
  le_antisymm (Nat.le_of_lt_succ ((Nat.log2_lt (by omega)).mpr (by omega))) ((Nat.le_log2 (by omega)).mpr (by omega))

theorem special_word_nan (fn : Nat) (z n : Bool) {f : Nat} (hf : f < 2 ^ 23) (h0 : f ≠ 0) :
    specialRaw fn (Fmt.decode .f32 z (wordOf32 n 255 f).toNat) z = (wordOf32 false 255 (2 ^ 22), if f < 2 ^ 22 then flagNV else 0) := by
  rw [decode_wordOf32 z n (by decide) hf, if_pos rfl, if_neg h0]
  exact Prod.ext rfl (if_congr decide_eq_true_iff rfl rfl)

/-- Subnormal words up to 2^-128 have no finite reciprocal. -/
theorem rcp_word_tiny (n : Bool) {f : Nat} (h0 : f ≠ 0) (h : f ≤ 2 ^ 21) :
    specialRaw 0 (Fmt.decode .f32 false (wordOf32 n 0 f).toNat) false = (wordOf32 n 255 0, flagOF) := by
  rw [decode_word_subnormal n (by omega), ← word32_inf]
  rcases Nat.lt_or_eq_of_le h with hlt | rfl
  · have : Nat.log2 f < 21 := (Nat.log2_lt h0).mpr hlt
    exact specialRaw_rcp_tiny false n false h0 (by omega)
  · exact specialRaw_rcp_twoPow false n 21 (-149) false

/-- The reciprocal of a normal power of two. -/
theorem rcp_word_twoPow (z n : Bool) {e : Nat} (h : 1 ≤ e) (h' : e ≤ 254) :
    specialRaw 0 (Fmt.decode .f32 z (wordOf32 n e 0).toNat) z = (word32 (.fin n 1 (127 - e) false), 0) := by
  rw [decode_word_normal z n h (by omega) (by decide), Nat.add_zero, specialRaw_rcp_twoPow, if_neg (by omega)]
  congr 3
  omega

theorem rsq_word_twoPow (z : Bool) {e : Nat} (ho : e % 2 = 1) (h : e ≤ 253) :
    specialRaw 1 (Fmt.decode .f32 z (wordOf32 false e 0).toNat) z = (wordOf32 false ((381 - e) / 2) 0, 0) := by
  rw [decode_word_normal z false (by omega) (by omega) (by decide), Nat.add_zero, specialRaw_rsq_twoPow z false (by omega),
    word32_twoPow (by omega) (by omega)]
  exact congrArg (fun x => (wordOf32 false x 0, (0 : BitVec 8))) (by omega)

theorem rsq_word_subnormal {e : Nat} (ho : e % 2 = 1) (h : e ≤ 21) :
    specialRaw 1 (Fmt.decode .f32 false (wordOf32 false 0 (2 ^ e)).toNat) false = (wordOf32 false ((403 - e) / 2) 0, 0) := by
  rw [decode_word_subnormal false (Nat.pow_lt_pow_right (by decide) (by omega)), specialRaw_rsq_twoPow false false (by omega),
    word32_twoPow (by omega) (by omega)]
  exact congrArg (fun x => (wordOf32 false x 0, (0 : BitVec 8))) (by omega)

theorem lg2_word_twoPow {z : Bool} {k : Int} (h : (if z = true then -126 else -149) ≤ k) (h' : k ≤ 127) :
    specialRaw 4 (Fmt.decode .f32 z (word32 (.fin false 1 k false)).toNat) z = (word32 (.fin (decide (k < 0)) k.natAbs 0 false), 0) := by
  obtain ⟨j, e, hdecode, rfl⟩ := decode_word_twoPow h h' false
  rw [hdecode, specialRaw_lg2_twoPow]

/-- A negative word is outside the domain of a root and of a logarithm. -/
theorem negative_word {z : Bool} {e f : Nat} (hf : f < 2 ^ 23) (h0 : 1 ≤ e ∨ (z = false ∧ f ≠ 0))
    (hnan : e < 255 ∨ (e = 255 ∧ f = 0)) :
    specialRaw 1 (Fmt.decode .f32 z (wordOf32 true e f).toNat) z = (0x7FC0_0000, flagNV)
      ∧ specialRaw 4 (Fmt.decode .f32 z (wordOf32 true e f).toNat) z = (0x7FC0_0000, flagNV) := by
  obtain h | ⟨m, k, hm, h⟩ := decode_word_nonzero hf h0 hnan true
  · rw [h]
    exact ⟨rfl, rfl⟩
  · rw [h]
    exact specialRaw_negative hm

theorem ex2_word_large (z : Bool) {e f : Nat} (hf : f < 2 ^ 23) (h : 134 ≤ e) (h' : e < 255) :
    specialRaw 3 (Fmt.decode .f32 z (wordOf32 false e f).toNat) z = (wordOf32 false 255 0, flagOF) := by
  rw [decode_word_normal z false (by omega) h' hf, specialRaw_ex2_large z false (by omega), word32_inf]
  rcases Nat.le_total e 150 with hle | hle
  · rw [cut_units_normal hle, Nat.le_div_iff_mul_le (Nat.two_pow_pos _)]
    calc 128 * 2 ^ (150 - e) ≤ 128 * 2 ^ 16 := Nat.mul_le_mul_left _ (Nat.pow_le_pow_right (by decide) (by omega))
      _ ≤ 2 ^ 23 + f := by omega
  · exact le_trans (by decide) (cut_units_large hle)

theorem ex2_word_small (z : Bool) {e f : Nat} (hf : f < 2 ^ 23) (h : 0x43160000 < e * 2 ^ 23 + f) (h' : e < 255) :
    specialRaw 3 (Fmt.decode .f32 z (wordOf32 true e f).toNat) z = (0, 0) := by
  rw [decode_word_normal z true (by omega) h' hf]
  refine specialRaw_ex2_small z false (by omega) ?_
  rcases Nat.lt_or_ge e 135 with hlt | hge
  · obtain rfl : e = 134 := by omega
    rw [cut_units_normal (by decide)]
    by_cases hunits : 150 < (2 ^ 23 + f) / 2 ^ (150 - 134)
    · exact .inl hunits
    · refine .inr ⟨by omega, ?_⟩
      rw [Fmt.cut, if_pos (show Fmt.isInt .i8 = true from rfl), cutAt, if_neg (by decide), Cut.exact]
      simp
      omega
  · left
    rcases Nat.le_total e 150 with hle | hle
    · rw [cut_units_normal hle, ← Nat.add_one_le_iff, Nat.le_div_iff_mul_le (Nat.two_pow_pos _)]
      calc (150 + 1) * 2 ^ (150 - e) ≤ (150 + 1) * 2 ^ 15 := Nat.mul_le_mul_left _ (Nat.pow_le_pow_right (by decide) (by omega))
        _ ≤ 2 ^ 23 + f := by omega
    · exact lt_of_lt_of_le (by decide) (cut_units_large hle)

theorem tanh_word_large (z n : Bool) {e f : Nat} (hf : f < 2 ^ 23) (h : 0x41100000 ≤ e * 2 ^ 23 + f)
    (h' : e * 2 ^ 23 + f ≤ 0x7F800000) :
    specialRaw 7 (Fmt.decode .f32 z (wordOf32 n e f).toNat) z = (wordOf32 n 127 0, 0) := by
  have hone : word32 (.fin n 1 0 false) = wordOf32 n 127 0 := word32_twoPow (by decide) (by decide) n
  by_cases h255 : e < 255
  · rw [decode_word_normal z n (by omega) h255 hf, specialRaw_tanh_large z n false (by omega), hone]
    rw [log2_significand hf]
    rcases Nat.lt_or_ge e 131 with hlt | hge
    · obtain rfl : e = 130 := by omega
      exact .inr ⟨by omega, by rw [cut_units_normal (by decide)]; omega⟩
    · exact .inl (by omega)
  · obtain ⟨rfl, rfl⟩ : e = 255 ∧ f = 0 := by omega
    rw [decode_word_inf]
    exact Prod.ext hone rfl

/-- An integer exponent within the normal and subnormal powers. -/
theorem specialRaw_ex2_int (z n b : Bool) {m v : Nat} {q : Int} (hm : m ≠ 0) (hval : (m : ℚ) * 2 ^ q = v * 2 ^ (0 : Int))
    (hv : v ≤ if n = true then 149 else 127) :
    specialRaw 3 (.fin n m q b) z = (word32 (.fin false 1 (if n = true then -(v : Int) else v) false), 0) := by
  obtain ⟨hunits, -, hexact⟩ : (Fmt.cut .i8 m q false).units = v ∧ _ ∧ (Fmt.cut .i8 m q false).exact = true := cutAt_exact hval
  unfold specialRaw
  cases n with
  | false =>
    have : v < 128 := by simp at hv; omega
    simp [hm, hunits, hexact, not_le.mpr this]
  | true =>
    have : v ≤ 149 := hv
    simp [hm, hunits, hexact, this, show ¬ 150 < v by omega]

/-- The powers with an integer exponent that FP32 holds. -/
theorem ex2_word_int (z : Bool) {k : Int} (h : -149 ≤ k) (h' : k ≤ 127) :
    specialRaw 3 (Fmt.decode .f32 z (word32 (.fin (decide (k < 0)) k.natAbs 0 false)).toNat) z = (word32 (.fin false 1 k false), 0) := by
  by_cases h0 : k = 0
  · subst h0
    cases z <;> rfl
  have hlog : Nat.log2 k.natAbs < 8 := (Nat.log2_lt (by omega)).mpr (by omega)
  obtain ⟨u, q, hu, hval, hfull⟩ := exists_onF32 (k := 0) (show k.natAbs ≠ 0 by omega) (by omega) (by omega) (by omega)
  rw [decode_word32_exact hu hval, if_neg fun hz => absurd (hfull (by omega)) (not_le.mpr hz.2)]
  by_cases hneg : k < 0
  · rw [decide_eq_true hneg, specialRaw_ex2_int z true false hu.pos hval.symm (by rw [if_pos rfl]; omega), if_pos rfl,
      Int.ofNat_natAbs_of_nonpos hneg.le, neg_neg]
  · rw [decide_eq_false hneg, specialRaw_ex2_int z false false hu.pos hval.symm (by rw [if_neg Bool.false_ne_true]; omega),
      if_neg Bool.false_ne_true, Int.natAbs_of_nonneg (not_lt.mp hneg)]

/-! Flags and bounds of the approximate functions (R155, R156). -/

theorem specialRaw_flags (fn : Nat) (x : Num) (z : Bool) :
    (specialRaw fn x z).2 = 0 ∨ (specialRaw fn x z).2 = flagNV ∨ (specialRaw fn x z).2 = flagDZ ∨ (specialRaw fn x z).2 = flagOF := by
  unfold specialRaw
  cases x with
  | nan s => cases s <;> simp [flagIf]
  | inf n =>
    dsimp only
    repeat' split
    all_goals simp
  | fin n m e b =>
    dsimp only
    repeat' split
    all_goals simp

theorem specialRaw_no_uf_nx (fn : Nat) (x : Num) (z : Bool) : (specialRaw fn x z).2 &&& (flagUF ||| flagNX) = 0 := by
  rcases specialRaw_flags fn x z with h | h | h | h <;> rw [h] <;> rfl

/-- The free value is taken where it lies within the bound and the range, the rounded value elsewhere. -/
theorem specialApprox_bounded (fn : Nat) (a : Word) (z n : Bool) (m : Nat) (e : Int) :
    let y := specialValue fn n m e
    let w := specialApprox fn a z n m e
    let v := Fmt.decode .f32 false w.toNat
    (nearTo y v (specialBound fn m e y) = true ∧ (5 ≤ fn → v.lt (.fin true 1 0 false) = false ∧ (Num.fin false 1 0 false).lt v = false)
        ∧ (fn = 3 → v.neg? = false))
      ∨ w = BitVec.ofNat 32 (Fmt.code .f32 y) := by
  unfold specialApprox
  dsimp only
  split
  · next h =>
    obtain ⟨hnear, hrange⟩ := h
    refine .inl ⟨hnear, fun h5 => ?_, fun h3 => ?_⟩
    · rw [inRange, if_pos h5] at hrange
      simpa [and_comm] using hrange
    · rw [inRange, if_neg (by omega), if_pos h3] at hrange
      simpa using hrange
  · exact .inr rfl

theorem and_signBit (A : Word) : A &&& 0x8000_0000 = BitVec.ofNat 32 (A.toNat / 2 ^ 31 * 2 ^ 31) := by
  have h := copySign_eq 0 A
  rw [copySign, show (0 : Word).toNat % 2 ^ 31 = 0 from rfl, Nat.zero_add] at h
  exact BitVec.zero_or.symm.trans h

theorem flushResult_eq (fm : BitVec 19) (r : Word) (fl : BitVec 8) :
    flushResult fm (r, fl) =
      if fmFtz fm = true ∧ r.toNat / 2 ^ 23 % 256 = 0 ∧ r.toNat % 2 ^ 23 ≠ 0
      then (BitVec.ofNat 32 (r.toNat / 2 ^ 31 * 2 ^ 31), fl ||| flagUF ||| flagNX) else (r, fl) := by
  have hlow : bitsOf r.toNat 0 23 = r.toNat % 2 ^ 23 := by rw [bitsOf, Nat.pow_zero, Nat.div_one]
  unfold flushResult
  rw [and_signBit, hlow]
  rfl

/-- Settles O25: the units by their results, each special input by what its word holds, the bound by the choice of the free value. -/
theorem specialFunctions : Obligations.SpecialFunctions := by
  refine ⟨fun s l d a => ?units, fun z n e f k => ?special, fun n k sig m p e f y => ?exact, fun fn z n m e x fm r fl => ?bound⟩
  case units =>
    refine ⟨fun h => ⟨?_, ?_, ?_, ?_, ?_, ?_, ?_, fun hm => ?_, fun hm => ?_⟩, fun h => ⟨fun hm => ?_, fun hm => ?_⟩⟩
    iterate 7 exact congrArg Host.Outcome.next (specialUnit_ready h _)
    · rw [execVsqrt_rounds h, if_neg (not_le.mpr hm)]
    · rw [execVsqrt_rounds h, if_pos hm]
    · rw [execVdiv_rounds h, if_neg (not_le.mpr hm)]
    · rw [execVdiv_rounds h, if_pos hm]
  case special =>
    intro word code F inf nan one x
    have hnegative (hf : f < 2 ^ 23) (h0 : 1 ≤ e ∨ (z = false ∧ f ≠ 0)) (hnan : e < 255 ∨ (e = 255 ∧ f = 0)) :
        F 1 (word true e f) = (nan, flagNV) ∧ F 4 (word true e f) = (nan, flagNV) := negative_word hf h0 hnan
    have hzero (fn : Nat) : F fn (word n 0 0) = specialRaw fn (.fin n 0 (-149) false) z :=
      congrArg (fun v => specialRaw fn v z) (decode_word_zero z n)
    have hinf (fn : Nat) (n : Bool) : F fn (inf n) = specialRaw fn (.inf n) z :=
      congrArg (fun v => specialRaw fn v z) (decode_word_inf z n)
    have hone (n : Bool) : word32 (.fin n 1 0 false) = one n := word32_twoPow (by decide) (by decide) n
    refine ⟨fun hf hf0 he fn => ?nan, ?rcp0, ?rcpInf, fun hz he hf0 hf => ?rcpTiny, fun he he' => ?rcpPow, ?rcpLow, fun hz => ?rcpHigh,
      ?rsq0, ?rsqInf, fun hf h0 hnan => (hnegative hf h0 hnan).1, fun ho he => rsq_word_twoPow z ho he, fun hz ho he => ?rsqLow,
      ?ex2Neg, ?ex2Inf, ?ex20, fun hf h1 h2 => ex2_word_large z hf h1 h2, fun hf h1 h2 => ex2_word_small z hf h2 h1,
      fun h1 h2 => ex2_word_int z h1 h2, ?lg20, ?lg2Inf, fun hf h0 hnan => (hnegative hf h0 hnan).2, fun h1 h2 => lg2_word_twoPow h1 h2,
      ?sin0, ?sinInf, ?cos0, ?cosInf, ?tanh0, fun hf h1 h2 => tanh_word_large z n hf h1 h2⟩
    case nan =>
      subst he
      exact special_word_nan fn z n hf hf0
    case rcpTiny =>
      subst hz he
      exact rcp_word_tiny n hf0 hf
    case rcpPow =>
      refine (rcp_word_twoPow z n he (by omega)).trans (Prod.ext ((word32_twoPow (by omega) (by omega) n).trans ?_) rfl)
      exact congrArg (fun x => wordOf32 n x 0) (by omega)
    case rcpLow => exact (rcp_word_twoPow z n (by decide) le_rfl).trans (Prod.ext (word32_twoPow_subnormal (by decide) (by decide) n) rfl)
    case rcpHigh =>
      subst hz
      rw [show F 0 (word n 0 (2 ^ 22)) = _ from congrArg (fun v => specialRaw 0 v false) (decode_word_subnormal n (by decide)),
        specialRaw_rcp_twoPow]
      exact Prod.ext (word32_twoPow (by decide) (by decide) n) rfl
    case rsqLow =>
      subst hz
      exact rsq_word_subnormal ho he
    case rcp0 => exact (hzero 0).trans (Prod.ext (word32_inf n) rfl)
    case rsq0 => exact (hzero 1).trans (Prod.ext (word32_inf n) rfl)
    case ex20 => exact (hzero 3).trans (Prod.ext (hone false) rfl)
    case lg20 => exact (hzero 4).trans (Prod.ext (word32_inf true) rfl)
    case sin0 => exact (hzero 5).trans (Prod.ext (word32_zero n 0 false) rfl)
    case cos0 => exact (hzero 6).trans (Prod.ext (hone false) rfl)
    case tanh0 => exact (hzero 7).trans (Prod.ext (word32_zero n 0 false) rfl)
    case rcpInf => exact (hinf 0 n).trans (Prod.ext (word32_zero n 0 false) rfl)
    case rsqInf => exact hinf 1 false
    case ex2Neg => exact hinf 3 true
    case ex2Inf => exact (hinf 3 false).trans (Prod.ext (word32_inf false) rfl)
    case lg2Inf => exact (hinf 4 false).trans (Prod.ext (word32_inf false) rfl)
    case sinInf => exact hinf 5 n
    case cosInf => exact hinf 6 n
  case exact =>
    refine ⟨rfl, ?_, rfl, fun hm => ?_, sqrtNum_pos, ?_, ?_, ?_, rfl, rfl, rfl, ?_, fun hm => ?_, fun hp => ?_⟩
    · cases n <;> rfl
    · simp only [sqrtNum, if_neg hm, if_true]
    · cases y <;> rfl
    · cases sig <;> rfl
    · cases sig <;> rfl
    · simp only [divNum, if_true]
    · simp only [divNum, if_true, if_neg hm]
    · simp only [divNum, if_neg hp]
  case bound =>
    refine ⟨specialRaw_no_uf_nx fn x z, fun hm h => ?_, flushResult_eq fm r fl⟩
    have happrox := specialApprox_bounded fn (word32 (.fin n m e false)) z n m e
    rw [h]
    exact happrox

end Sys2Proof.Machine
end

section
/-! SUPPORT. Cuts of an exact value: the multiples of the spacing beside it, and which of them a mode takes (R165, R166). -/

namespace Sys2Proof.Machine

section
variable {qe e : Int} {m : Nat} {x : ℚ}

/-- A value is its units of the spacing and a rest below one unit. -/
theorem cutAt_value (qe e : Int) (m : Nat) :
    (m : ℚ) * 2 ^ e = ((cutAt qe m e false).units + (cutAt qe m e false).rest / 2 ^ (cutAt qe m e false).bits) * 2 ^ qe
      ∧ (cutAt qe m e false).rest < 2 ^ (cutAt qe m e false).bits ∧ (cutAt qe m e false).more = false := by
  unfold cutAt
  split
  · next hle =>
    refine ⟨?_, Nat.one_pos, rfl⟩
    rw [scaleUp_cast m (by omega), Nat.cast_zero, zero_div, add_zero, mul_assoc, ← zpow_add₀ two_ne_zero, Int.sub_add_cancel]
  · next hlt =>
    obtain ⟨k, hk⟩ := Int.eq_ofNat_of_zero_le (show 0 ≤ qe - e by omega)
    obtain rfl : qe = e + k := by omega
    refine ⟨?_, Nat.mod_lt _ (Nat.two_pow_pos _), rfl⟩
    rw [hk, Int.toNat_natCast, zpow_add₀ two_ne_zero, zpow_natCast]
    have hdiv : (m : ℚ) = 2 ^ k * (m / 2 ^ k : Nat) + (m % 2 ^ k : Nat) := by exact_mod_cast (Nat.div_add_mod m (2 ^ k)).symm
    field_simp
    linarith

theorem cutAt_exact_iff_rest : (cutAt qe m e false).exact = true ↔ (cutAt qe m e false).rest = 0 := by
  simp [Cut.exact, (cutAt_value qe e m).2.2]

/-- The units of a cut are the whole part of the value in units of the spacing. -/
theorem cutAt_floor (hx : x = m * 2 ^ e) : ⌊x / 2 ^ qe⌋ = ((cutAt qe m e false).units : Int) := by
  obtain ⟨hval, hrest, -⟩ := cutAt_value qe e m
  have hpos : (0 : ℚ) < 2 ^ (cutAt qe m e false).bits := by positivity
  have hlt : ((cutAt qe m e false).rest : ℚ) < 2 ^ (cutAt qe m e false).bits := by exact_mod_cast hrest
  rw [hx, hval, mul_div_cancel_right₀ _ (zpow_ne_zero _ two_ne_zero), Int.floor_eq_iff, Int.cast_natCast]
  exact ⟨le_add_of_nonneg_right (by positivity), (add_lt_add_iff_left _).mpr ((div_lt_one hpos).mpr hlt)⟩

/-- A cut is exact where the value is a multiple of the spacing. -/
theorem cutAt_exact_iff (hx : x = m * 2 ^ e) : (cutAt qe m e false).exact = true ↔ x = ⌊x / 2 ^ qe⌋ * 2 ^ qe := by
  rw [cutAt_exact_iff_rest, cutAt_floor hx, hx, (cutAt_value qe e m).1, Int.cast_natCast, mul_left_inj' (zpow_ne_zero _ two_ne_zero),
    add_eq_left, div_eq_zero_iff, or_iff_left (pow_ne_zero _ two_ne_zero), Nat.cast_eq_zero]

/-- The multiple that a mode takes is one of the two beside the value. -/
theorem Cut.near_bounds (c : Cut) (mode : Nat) (neg : Bool) (thr : Nat) :
    c.units ≤ c.near mode neg thr ∧ c.near mode neg thr ≤ c.units + 1 := by
  have := Bool.toNat_le (c.up mode neg thr)
  unfold Cut.near
  split <;> omega

/-- The multiple taken is the value only where the cut is exact. -/
theorem near_eq_iff_exact (hx : x = m * 2 ^ e) (mode : Nat) (neg : Bool) (thr : Nat) :
    ((cutAt qe m e false).near mode neg thr : ℚ) * 2 ^ qe = x ↔ (cutAt qe m e false).exact = true := by
  obtain ⟨hval, hrest, -⟩ := cutAt_value qe e m
  have hnear := (cutAt qe m e false).near_bounds mode neg thr
  have hexact : (cutAt qe m e false).exact = true → (cutAt qe m e false).near mode neg thr = (cutAt qe m e false).units :=
    fun h => by rw [Cut.near, if_pos h]
  rw [cutAt_exact_iff_rest] at hexact ⊢
  generalize cutAt qe m e false = c at *
  rw [hx, hval, mul_left_inj' (zpow_ne_zero _ two_ne_zero)]
  constructor
  · intro h
    have hscaled : (c.near mode neg thr : ℚ) * 2 ^ c.bits = c.units * 2 ^ c.bits + c.rest := by rw [h]; field_simp
    have hscaled' : c.near mode neg thr * 2 ^ c.bits = c.units * 2 ^ c.bits + c.rest := by exact_mod_cast hscaled
    obtain hunits | hunits : c.near mode neg thr = c.units ∨ c.near mode neg thr = c.units + 1 := by omega
    · rw [hunits] at hscaled'
      omega
    · rw [hunits, Nat.add_mul] at hscaled'
      omega
  · intro h
    rw [hexact h, h, Nat.cast_zero, zero_div, add_zero]

/-- Whether a mode takes the upper multiple (Table 4 of R166), by the distances to both. -/
theorem Cut.up_iff {c : Cut} {q lo hi : ℚ} (hq : 0 < q) (hval : x = (c.units + c.rest / 2 ^ c.bits) * q) (hmore : c.more = false)
    (hlo : lo = c.units * q) (hhi : hi = lo + q) {mode : Nat} (hmode : mode < 5) (neg : Bool) (thr : Nat) :
    c.up mode neg thr = true ↔
      ((mode = 0 ∧ (hi - x < x - lo ∨ (hi - x = x - lo ∧ c.units % 2 = 1))) ∨ (mode = 2 ∧ neg = false)
        ∨ (mode = 3 ∧ neg = true) ∨ (mode = 4 ∧ hi - x ≤ x - lo)) := by
  have hbits : (0 : ℚ) < 2 ^ c.bits := by positivity
  have hbelow : x - lo = (c.rest : ℚ) / 2 ^ c.bits * q := by rw [hval, hlo]; ring
  have habove : hi - x = (1 - (c.rest : ℚ) / 2 ^ c.bits) * q := by rw [hval, hhi, hlo]; ring
  have hlt : hi - x < x - lo ↔ 2 ^ c.bits < 2 * c.rest := by
    rw [hbelow, habove, mul_lt_mul_iff_left₀ hq, sub_lt_iff_lt_add, ← add_div, lt_div_iff₀ hbits, one_mul, ← two_mul]
    exact_mod_cast Iff.rfl
  have hle : hi - x ≤ x - lo ↔ 2 ^ c.bits ≤ 2 * c.rest := by
    rw [hbelow, habove, mul_le_mul_iff_left₀ hq, sub_le_iff_le_add, ← add_div, le_div_iff₀ hbits, one_mul, ← two_mul]
    exact_mod_cast Iff.rfl
  have heq : hi - x = x - lo ↔ 2 * c.rest = 2 ^ c.bits := by
    rw [eq_iff_le_not_lt, hlt, hle]
    omega
  rw [hlt, heq, hle]
  interval_cases mode <;> simp [Cut.up, hmore]

/-- The value that Table 4 of R166 selects, in units of the spacing. -/
theorem selects_near (hx : x = m * 2 ^ e) {mode : Nat} (hmode : mode < 5) {neg : Bool} {thr : Nat} {y : ℚ}
    (h : selects mode neg thr x (2 ^ qe) y) : y = (cutAt qe m e false).near mode neg thr * 2 ^ qe := by
  unfold selects at h
  dsimp only at h
  have hexact := cutAt_exact_iff (qe := qe) hx
  rw [cutAt_floor hx] at h hexact
  have hodd : ((cutAt qe m e false).units : Int) % 2 = 1 ↔ (cutAt qe m e false).units % 2 = 1 := by omega
  obtain ⟨hval, -, hmore⟩ := cutAt_value qe e m
  have hup := Cut.up_iff (by positivity) (hx.trans hval) hmore rfl rfl hmode neg thr
  simp only [hodd, Int.cast_natCast, show ¬ mode = 5 by omega, false_and, or_false] at h hexact
  obtain ⟨hlo, rfl⟩ | ⟨hne, htaken, rfl⟩ | ⟨hne, hnot, rfl⟩ := h
  · rw [Cut.near, if_pos (hexact.mpr hlo)]
  · have hinexact := Bool.eq_false_iff.mpr fun h => hne (hexact.mp h)
    rw [Cut.near, if_neg (by simp [hinexact]), hup.mpr htaken]
    simp [add_mul]
  · have hinexact := Bool.eq_false_iff.mpr fun h => hne (hexact.mp h)
    rw [Cut.near, if_neg (by simp [hinexact]), Bool.eq_false_iff.mpr fun h => hnot (hup.mp h)]
    simp

end

end Sys2Proof.Machine
end

section
/-! SUPPORT. Exact arithmetic: products, sums, choices, integral values, scalings, tininess, I4X blocks and scale codes (R141, R144,
R145, R164, R179 to R181, R204). -/

namespace Sys2Proof.Machine

/-! Products and sums (R141). -/

section
variable {a b : Num}

theorem Num.mul_nan (h : a.isNan = true ∨ b.isNan = true) : a.mul b = (.nan false, a.isSig || b.isSig) := by
  match a, b with
  | .nan s, b => rfl
  | .inf _, .nan s | .fin .., .nan s => exact Prod.ext rfl (Bool.or_comm ..)
  | .inf _, .inf _ | .inf _, .fin .. | .fin .., .inf _ | .fin .., .fin .. => exact absurd h (by simp [Num.isNan])

theorem Num.mul_inf {n : Bool} (hnan : b.isNan = false) :
    (Num.inf n).mul b = (if b.isZero = true then (.nan false, true) else (.inf (n ^^ b.neg?), false))
      ∧ b.mul (.inf n) = (if b.isZero = true then (.nan false, true) else (.inf (n ^^ b.neg?), false)) := by
  match b with
  | .nan s => exact absurd hnan (by decide +revert)
  | .inf k => exact ⟨rfl, by rw [Bool.xor_comm]; rfl⟩
  | .fin .. => exact ⟨rfl, rfl⟩

theorem Num.isNan_of_isZero (h : a.isZero = true) : a.isNan = false := by
  cases a with
  | fin => rfl
  | _ => exact absurd h Bool.false_ne_true

theorem Num.value_mul (n k : Bool) (m p : Nat) (e f : Int) :
    (Num.fin (n ^^ k) (m * p) (e + f) false).value = (Num.fin n m e false).value * (Num.fin k p f false).value := by
  simp only [Num.value, zpow_add₀ (two_ne_zero (α := ℚ)), Nat.cast_mul]
  cases n <;> cases k <;> simp <;> ring

end

section
variable {xs : List Num} {rd : Bool}

theorem any_eq_inf (n : Bool) : (xs.any fun x => x = .inf n) = decide (Num.inf n ∈ xs) := by
  simp [List.any_eq]

theorem any_isNan : xs.any Num.isNan = true ↔ ∃ s, Num.nan s ∈ xs := by
  rw [List.any_eq_true]
  constructor
  · rintro ⟨x, hx, hn⟩
    cases x with
    | nan s => exact ⟨s, hx⟩
    | _ => exact absurd hn Bool.false_ne_true
  · exact fun ⟨s, hs⟩ => ⟨_, hs, rfl⟩

theorem any_isSig_of_no_nan (h : ∀ s, Num.nan s ∉ xs) : xs.any Num.isSig = false := by
  rw [List.any_eq_false]
  intro x hx
  cases x with
  | nan s => exact absurd hx (h s)
  | _ => exact Bool.false_ne_true

theorem Num.sum_infs (h : Num.inf false ∈ xs) (h' : Num.inf true ∈ xs) : Num.sum rd xs = (.nan false, true) := by
  simp [Num.sum, any_eq_inf, h, h']

theorem Num.sum_nan (h : ¬ (Num.inf false ∈ xs ∧ Num.inf true ∈ xs)) (hn : ∃ s, Num.nan s ∈ xs) :
    Num.sum rd xs = (.nan false, xs.any Num.isSig) := by
  have := any_isNan.mpr hn
  simp [Num.sum, any_eq_inf, and_comm, h, this]

theorem Num.sum_inf {n : Bool} (h : Num.inf n ∈ xs) (h' : Num.inf (!n) ∉ xs) (hn : ∀ s, Num.nan s ∉ xs) :
    Num.sum rd xs = (.inf n, false) := by
  have hnan : xs.any Num.isNan = false := Bool.eq_false_iff.mpr fun hx => (any_isNan.mp hx).elim hn
  unfold Num.sum
  simp only [any_eq_inf, hnan, any_isSig_of_no_nan hn]
  cases n <;> simp_all

/-- The units of a list of values, summed. -/
theorem sum_units_value (e : Int) (h : ∀ x ∈ xs, x.OnGrid e) :
    (((xs.map (Num.units e)).sum : Int) : ℚ) * 2 ^ e = (xs.map Num.value).sum := by
  induction xs with
  | nil => simp
  | cons x r ih =>
    obtain ⟨hx, hr⟩ := List.forall_mem_cons.mp h
    rw [List.map_cons, List.sum_cons, List.map_cons, List.sum_cons, Int.cast_add, add_mul, Num.units_value hx, ih hr]

theorem Num.value_of_units (t e : Int) : (Num.fin (decide (t < 0)) t.natAbs e false).value = t * 2 ^ e := by
  rw [Num.value]
  rcases lt_or_ge t 0 with h | h
  · have : (t.natAbs : ℚ) = -t := by rw [← Int.cast_natCast, Int.ofNat_natAbs_of_nonpos h.le, Int.cast_neg]
    simp [h, this]
  · have : (t.natAbs : ℚ) = t := by rw [← Int.cast_natCast, Int.natAbs_of_nonneg h]
    simp [not_lt.mpr h, this]

/-- The sum of finite values is exact, and a zero sum has the sign that R141 gives it. -/
theorem Num.sum_fin (h : ∀ x ∈ xs, ∃ n m e, x = Num.fin n m e false) : ∃ n m e, Num.sum rd xs = (.fin n m e false, false)
    ∧ (Num.fin n m e false).value = (xs.map Num.value).sum
    ∧ (m = 0 → n = if (∃ x ∈ xs, x.neg? = true) ∧ ∃ x ∈ xs, x.neg? = false then rd else xs.any Num.neg?) := by
  have hnan : ∀ s, Num.nan s ∉ xs := fun s hs => by obtain ⟨n, m, e, he⟩ := h _ hs; exact nomatch he
  have hinf : ∀ n, Num.inf n ∉ xs := fun s hs => by obtain ⟨n, m, e, he⟩ := h _ hs; exact nomatch he
  have hnan' : xs.any Num.isNan = false := Bool.eq_false_iff.mpr fun hx => (any_isNan.mp hx).elim hnan
  have hsum := sum_units_value _ (minExp_grid xs)
  have hsigns : (xs.any Num.neg? = true ∧ (xs.any fun x => ¬ x.neg?) = true) ↔
      (∃ x ∈ xs, x.neg? = true) ∧ ∃ x ∈ xs, x.neg? = false := by
    simp [List.any_eq_true]
  unfold Num.sum
  simp only [any_eq_inf, hinf, hnan', any_isSig_of_no_nan hnan, hsigns, decide_false, Bool.false_eq_true, false_and, if_false]
  split
  · next ht =>
    exact ⟨_, _, _, rfl, (Num.value_of_units _ _).trans hsum, fun hm => absurd (Int.natAbs_eq_zero.mp hm) ht⟩
  · next ht =>
    rw [not_not] at ht
    rw [ht, Int.cast_zero, zero_mul] at hsum
    rw [← hsum]
    split
    · next hboth => exact ⟨_, _, _, rfl, by simp [Num.value], fun _ => rfl⟩
    · next hboth => exact ⟨_, _, _, rfl, by simp [Num.value], fun _ => rfl⟩

end

/-! The lesser and the greater (R144, R204). -/

/-- A value that is no NaN by its place in the order of R144: the infinities outside, -0 below +0. -/
def Num.key : Num → Int ×ₗ ℚ ×ₗ Bool
  | .nan _ => toLex (0, toLex (0, false))
  | .inf n => toLex (if n = true then -1 else 1, toLex (0, false))
  | .fin n m e b => toLex (0, toLex ((Num.fin n m e b).value, !n))

theorem Num.below_iff {x y : Num} (hx : x.isNan = false) (hy : y.isNan = false) : x.below y ↔ x.key < y.key := by
  match x, y with
  | .nan _, _ => exact absurd hx (by decide +revert)
  | .inf _, .nan _ | .fin .., .nan _ => exact absurd hy (by decide +revert)
  | .inf true, .inf true | .inf true, .inf false | .inf false, .inf true | .inf false, .inf false =>
    simp [Num.below, Num.key, Prod.Lex.toLex_lt_toLex]
  | .inf true, .fin .. | .inf false, .fin .. | .fin .., .inf true | .fin .., .inf false =>
    simp [Num.below, Num.key, Prod.Lex.toLex_lt_toLex]
  | .fin n m e b, .fin k p f c =>
    have hsign : n = true ∧ k = false ↔ (!n) < !k := by cases n <;> cases k <;> decide
    simp [Num.below, Num.key, Prod.Lex.toLex_lt_toLex, hsign]

theorem Num.lt_fin (n k b c : Bool) (m p : Nat) (e f : Int) :
    (Num.fin n m e b).lt (.fin k p f c) = decide ((Num.fin n m e b).value < (Num.fin k p f c).value) :=
  Num.lt_eq_value (fun _ h => nomatch h) (fun _ h => nomatch h)

/-- The choice of minimumNumber and maximumNumber goes by that order. -/
theorem Num.low_iff_below {x y : Num} (hx : x.isNan = false) (hy : y.isNan = false) :
    (x.lt y || (x.eq y && x.neg? && !y.neg?)) = true ↔ x.below y := by
  match x, y with
  | .nan _, _ => exact absurd hx (by decide +revert)
  | .inf _, .nan _ | .fin .., .nan _ => exact absurd hy (by decide +revert)
  | .inf true, .inf true | .inf true, .inf false | .inf false, .inf true | .inf false, .inf false =>
    simp [Num.below, Num.lt, Num.eq, Num.neg?]
  | .inf true, .fin .. | .inf false, .fin .. | .fin .., .inf true | .fin .., .inf false =>
    simp [Num.below, Num.lt, Num.eq, Num.neg?]
  | .fin n m e b, .fin k p f c =>
    rw [Num.eq, Num.lt_fin, Num.lt_fin]
    generalize hu : (Num.fin n m e b).value = u
    generalize hv : (Num.fin k p f c).value = v
    have heq : v ≤ u ∧ u ≤ v ↔ u = v := ⟨fun h => le_antisymm h.2 h.1, fun h => ⟨h.ge, h.le⟩⟩
    simp only [Num.below, hu, hv, Num.neg?, Bool.or_eq_true, Bool.and_eq_true, decide_eq_true_eq, not_lt, heq, Bool.not_eq_true', and_assoc]

theorem Num.minMax_nans (big : Bool) {x y : Num} (hx : x.isNan = true) (hy : y.isNan = true) :
    Num.minMax big x y = (.nan false, x.isSig || y.isSig) := by
  simp [Num.minMax, hx, hy]

theorem Num.isSig_of_not_nan {x : Num} (hx : x.isNan = false) : x.isSig = false := by
  cases x with
  | nan => exact absurd hx (by decide +revert)
  | _ => rfl

/-- A NaN leaves the other value. -/
theorem Num.minMax_nan (big : Bool) {x y : Num} (hx : x.isNan = false) (hy : y.isNan = true) :
    Num.minMax big x y = (x, y.isSig) ∧ Num.minMax big y x = (x, y.isSig) := by
  simp [Num.minMax, hx, hy, Num.isSig_of_not_nan hx]

theorem Num.minMax_values (big : Bool) {x y : Num} (hx : x.isNan = false) (hy : y.isNan = false) :
    Num.minMax big x y = (if decide (x.key < y.key) = big then y else x, false) := by
  have hlow : (x.lt y || (x.eq y && x.neg? && ! y.neg?)) = decide (x.key < y.key) := by
    rw [Bool.eq_iff_iff, Num.low_iff_below hx hy, Num.below_iff hx hy, decide_eq_true_eq]
  unfold Num.minMax
  simp only [hx, hy, Num.isSig_of_not_nan hx, Num.isSig_of_not_nan hy]
  simpa using congrArg (fun l => if l = big then y else x) hlow

theorem Num.minMax_snd (big : Bool) (x y : Num) : (Num.minMax big x y).2 = (x.isSig || y.isSig) := by
  unfold Num.minMax
  repeat' split
  all_goals rfl

theorem Num.minMax_quiet (big : Bool) (x y : Num) : (Num.minMax big x y).1.isSig = false := by
  cases hx : x.isNan <;> cases hy : y.isNan
  · rw [Num.minMax_values big hx hy]
    split
    · exact Num.isSig_of_not_nan hy
    · exact Num.isSig_of_not_nan hx
  · rw [(Num.minMax_nan big hx hy).1, Num.isSig_of_not_nan hx]
  · rw [(Num.minMax_nan big hy hx).2, Num.isSig_of_not_nan hy]
  · rw [Num.minMax_nans big hx hy]
    rfl

/-- The value that R204 leaves of a list: a NaN where all are, else a member that no other passes. -/
structure BestOf (big : Bool) (xs : List Num) (z : Num) : Prop where
  nan : z.isNan = true ↔ ∀ x ∈ xs, x.isNan = true
  mem : z.isNan = false → z ∈ xs
  top : z.isNan = false → ∀ y ∈ xs, y.isNan = false → if big = true then y.key ≤ z.key else z.key ≤ y.key

theorem bestOf_singleton (big : Bool) (x : Num) : BestOf big [x] x where
  nan := by simp
  mem := by simp
  top := by simp

theorem BestOf.snoc {big : Bool} {xs : List Num} {z : Num} (h : BestOf big xs z) (y : Num) :
    BestOf big (xs ++ [y]) (Num.minMax big z y).1 := by
  obtain ⟨hnan, hmem, htop⟩ := h
  cases hz : z.isNan <;> cases hy : y.isNan
  case false.false =>
    rw [Num.minMax_values big hz hy]
    have hnone : ¬ ∀ x ∈ xs, x.isNan = true := fun h => absurd (hnan.mpr h) (by simp [hz])
    have htop' := htop hz
    dsimp only
    split
    case isTrue hyz =>
      refine ⟨⟨fun h => absurd h (by simp [hy]), fun h => absurd (h y (by simp)) (by simp [hy])⟩, fun _ => by simp,
        fun _ x hx hxn => ?_⟩
      obtain hx | hx := List.mem_append.mp hx
      · have := htop' x hx hxn
        cases big <;> simp at hyz this ⊢ <;> order
      · rw [List.mem_singleton.mp hx]
        split <;> exact le_rfl
    case isFalse hyz =>
      refine ⟨⟨fun h => absurd h (by simp [hz]), fun h => absurd (fun x hx => h x (by simp [hx])) hnone⟩,
        fun _ => by simp [hmem hz], fun _ x hx hxn => ?_⟩
      obtain hx | hx := List.mem_append.mp hx
      · exact htop' x hx hxn
      · rw [List.mem_singleton.mp hx]
        cases big <;> simp at hyz ⊢ <;> order
  case false.true =>
    rw [(Num.minMax_nan big hz hy).1]
    refine ⟨by rw [hnan, List.forall_mem_append, List.forall_mem_singleton, hy, and_iff_left rfl],
      fun _ => by simp [hmem hz], fun _ x hx hxn => ?_⟩
    obtain hx | hx := List.mem_append.mp hx
    · exact htop hz x hx hxn
    · rw [List.mem_singleton.mp hx, hy] at hxn
      cases hxn
  case true.false =>
    rw [(Num.minMax_nan big hy hz).2]
    refine ⟨by simp [hy], fun _ => by simp, fun _ x hx hxn => ?_⟩
    obtain hx | hx := List.mem_append.mp hx
    · rw [hnan.mp hz x hx] at hxn
      cases hxn
    · rw [List.mem_singleton.mp hx]
      split <;> exact le_rfl
  case true.true =>
    rw [Num.minMax_nans big hz hy]
    refine ⟨?_, nofun, nofun⟩
    rw [List.forall_mem_append, List.forall_mem_singleton]
    exact iff_of_true rfl ⟨hnan.mp hz, hy⟩

/-- One step of the choice over a list, with its flag. -/
def bestStep (big : Bool) (a : Num × Bool) (y : Num) : Num × Bool := ((Num.minMax big a.1 y).1, a.2 || (Num.minMax big a.1 y).2)

theorem foldl_bestOf (big : Bool) (r : List Num) : ∀ (xs : List Num) (a : Num × Bool), BestOf big xs a.1 → a.2 = xs.any Num.isSig →
    (a.1.isSig = true → a.2 = true) →
    BestOf big (xs ++ r) (r.foldl (bestStep big) a).1 ∧ (r.foldl (bestStep big) a).2 = (xs ++ r).any Num.isSig := by
  induction r with
  | nil => exact fun xs a h hs _ => by simpa using ⟨h, hs⟩
  | cons y r ih =>
    intro xs a h hs hsig
    have hstep : (bestStep big a y).2 = (xs ++ [y]).any Num.isSig := by
      rw [bestStep, Num.minMax_snd, List.any_append, ← hs, List.any_cons, List.any_nil, Bool.or_false, ← Bool.or_assoc]
      cases h1 : a.1.isSig
      · rw [Bool.or_false]
      · rw [hsig h1, Bool.true_or]
    have := ih (xs ++ [y]) (bestStep big a y) (h.snoc y) hstep fun hq => by
      rw [bestStep, Num.minMax_quiet] at hq
      cases hq
    rwa [List.append_assoc] at this

theorem fpBest_eq (big : Bool) {xs : List Num} (h : xs ≠ []) :
    ∃ z, BestOf big xs z ∧ fpBest big xs = (word32 z, if xs.any Num.isSig = true then 0x01 else 0) := by
  match xs with
  | x :: r =>
    obtain ⟨hbest, hsig⟩ := foldl_bestOf big r [x] (x, x.isSig) (bestOf_singleton big x) (by simp) id
    exact ⟨_, hbest, Prod.ext rfl (congrArg (fun v => flagIf v flagNV) hsig)⟩

end Sys2Proof.Machine
end

section
/-! SUPPORT. Integral values, scalings, tininess, I4X blocks and scale codes (R141, R144, R145, R164, R179 to R181). -/

namespace Sys2Proof.Machine

/-! Integral values and scalings (R144, R145). -/

theorem cut_i8 (m : Nat) (e : Int) (b : Bool) : Fmt.cut .i8 m e b = cutAt 0 m e b := rfl

theorem fpIntegral_fin (mode : Nat) (n : Bool) (m : Nat) (e : Int) :
    fpIntegral mode (.fin n m e false) = (word32 (.fin n ((cutAt 0 m e false).near (if mode = 5 then 0 else mode) n 0) 0 false),
      flagIf (¬ (cutAt 0 m e false).exact) flagNX) := by
  rw [← cut_i8]
  rfl

/-- FP32 holds the integral values beside each of its values. -/
theorem decode_word32_integral {m : Nat} {k : Int} (hm : 0 < m) (hbits : m < 2 ^ 24) (hk : -149 ≤ k) (htop : (m : ℚ) * 2 ^ k < 2 ^ 128)
    (mode : Nat) (neg : Bool) (thr : Nat) :
    let u := (cutAt 0 m k false).near mode neg thr
    ∃ z e, Fmt.decode .f32 false (word32 (.fin neg u 0 false)).toNat = .fin neg z e false ∧ (z : ℚ) * 2 ^ e = u := by
  intro u
  have hlog : k + Nat.log2 m ≤ 127 := by
    have := (Int.lt_zpow_iff_log_lt (b := 2) Nat.one_lt_two (by positivity : (0 : ℚ) < m * 2 ^ k) (x := 128)).mp (by exact_mod_cast htop)
    rw [log_mul_zpow hm.ne'] at this
    omega
  obtain hu | hu := Nat.eq_zero_or_pos u
  · rw [hu, word32_zero, decode_word_zero]
    exact ⟨0, _, rfl, by simp⟩
  obtain ⟨v, q, hv, hval⟩ : ∃ v q, OnF32 v q ∧ (u : ℚ) * 2 ^ (0 : Int) = v * 2 ^ q := by
    by_cases h0 : 0 ≤ k
    · have hexact : (cutAt 0 m k false).exact = true := by rw [cutAt, if_pos h0]; rfl
      obtain ⟨v, q, hv, hval, -⟩ := exists_onF32 hm.ne' hbits hk hlog
      exact ⟨v, q, hv, by rw [zpow_zero, mul_one, ← hval]; simpa using (near_eq_iff_exact rfl mode neg thr).mpr hexact⟩
    · have hsmall : (cutAt 0 m k false).units < 2 ^ 23 := by
        rw [cutAt, if_neg h0]
        obtain ⟨j, hj⟩ := Int.eq_ofNat_of_zero_le (show 0 ≤ 0 - k - 1 by omega)
        rw [show (0 - k).toNat = j + 1 by omega]
        exact Nat.div_lt_of_lt_mul (hbits.trans_le (by have := Nat.two_pow_pos j; omega))
      have hnear := ((cutAt 0 m k false).near_bounds mode neg thr).2
      have hu24 : u < 2 ^ 24 := by omega
      have : Nat.log2 u < 24 := (Nat.log2_lt hu.ne').mpr hu24
      obtain ⟨v, q, hv, hval, -⟩ := exists_onF32 (k := 0) hu.ne' hu24 (by decide) (by omega)
      exact ⟨v, q, hv, hval⟩
  refine ⟨v, q, ?_, by rw [← hval, zpow_zero, mul_one]⟩
  rw [decode_word32_exact hv hval, if_neg fun h => absurd h.1 Bool.false_ne_true]

theorem fpIntegral_selects {mode : Nat} {neg : Bool} {m : Nat} {k : Int} {x y : ℚ} (hmode : mode < 6) (hm : 0 < m) (hx : x = m * 2 ^ k)
    (hbits : m < 2 ^ 24) (hk : -149 ≤ k) (htop : x < 2 ^ 128) (h : selects (if mode = 5 then 0 else mode) neg 0 x 1 y) :
    (fpIntegral mode (.fin neg m k false)).2 = (if y = x then 0 else 0x10)
      ∧ ∃ z e, Fmt.decode .f32 false (fpIntegral mode (.fin neg m k false)).1.toNat = .fin neg z e false ∧ (z : ℚ) * 2 ^ e = y := by
  have hmode' : (if mode = 5 then 0 else mode) < 5 := by split <;> omega
  obtain rfl := selects_near (qe := 0) hx hmode' (by rwa [zpow_zero])
  have hexact := near_eq_iff_exact (qe := 0) hx (if mode = 5 then 0 else mode) neg 0
  rw [fpIntegral_fin]
  refine ⟨?_, ?_⟩
  · simp only [hexact, flagIf]
    cases (cutAt 0 m k false).exact <;> rfl
  · rw [zpow_zero, mul_one]
    exact decode_word32_integral hm hbits hk (hx ▸ htop) _ neg 0

theorem fpScaled_nan {a b : Num} (h : a.isNan = true ∨ b.isNan = true) : fpScaled a b = (.nan false, a.isSig || b.isSig) := by
  unfold fpScaled
  rw [if_pos h]

theorem fpScaled_inf {a : Num} (h : a.isNan = false) (n : Bool) :
    fpScaled a (.inf n) = (a.scale (if n = true then -300 else 300), false) := by
  rw [fpScaled, if_neg (by simp [h, show (Num.inf n).isNan = false from rfl])]

/-- The power of two is the whole part of b, clamped (R145). -/
theorem fpScaled_fin {a : Num} (h : a.isNan = false) (n : Bool) (m : Nat) (e : Int) :
    fpScaled a (.fin n m e false) =
      (a.scale (max (-300) (min (if n = true then -⌊(m : ℚ) * 2 ^ e⌋ else ⌊(m : ℚ) * 2 ^ e⌋) 300)), false) := by
  have hfloor : ⌊(m : ℚ) * 2 ^ e⌋ = ((cutAt 0 m e false).units : Int) := by
    simpa using cutAt_floor (qe := 0) (rfl : (m : ℚ) * 2 ^ e = m * 2 ^ e)
  rw [fpScaled, if_neg (by simp [h, show (Num.fin n m e false).isNan = false from rfl]), hfloor]
  rw [cut_i8]
  refine Prod.ext (congrArg (fun k => a.scale k) ?_) rfl
  dsimp only
  split <;> omega

theorem Num.scale_value (a : Num) (k : Int) : (a.scale k).value = a.value * 2 ^ k := by
  cases a with
  | fin n m e b => simp only [Num.scale, Num.value, zpow_add₀ (two_ne_zero (α := ℚ)), mul_assoc]
  | _ => simp [Num.scale, Num.value]

theorem Num.scale_isZero (a : Num) (k : Int) : (a.scale k).isZero = a.isZero := by
  match a with
  | .nan _ | .inf _ | .fin _ 0 _ _ | .fin _ (_ + 1) _ _ => rfl

theorem Num.scale_neg (a : Num) (k : Int) : (a.scale k).neg? = a.neg? := by cases a <;> rfl

/-! Tininess of the lane pipe (R141). -/

/-- The significand of a cut at the precision of a value has its leading bit set. -/
theorem cutAt_units_bounds {m : Nat} (hm : m ≠ 0) (k : Int) (w : Nat) :
    2 ^ w ≤ (cutAt (k + Nat.log2 m - w) m k false).units ∧ (cutAt (k + Nat.log2 m - w) m k false).units < 2 ^ (w + 1) := by
  have hpos : (0 : ℚ) < m * 2 ^ k := by positivity
  have hlow : (2 : ℚ) ^ (k + Nat.log2 m) ≤ m * 2 ^ k := by
    have := Int.zpow_log_le_self (b := 2) Nat.one_lt_two hpos
    rwa [log_mul_zpow hm] at this
  have hhigh : (m : ℚ) * 2 ^ k < 2 ^ (k + Nat.log2 m + 1) := by
    have := Int.lt_zpow_succ_log_self (b := 2) Nat.one_lt_two ((m : ℚ) * 2 ^ k)
    rwa [log_mul_zpow hm] at this
  have hfloor := cutAt_floor (qe := k + Nat.log2 m - w) (rfl : (m : ℚ) * 2 ^ k = m * 2 ^ k)
  have hq : (0 : ℚ) < 2 ^ (k + Nat.log2 m - w) := by positivity
  constructor
  · have : ((2 ^ w : Nat) : Int) ≤ ⌊(m : ℚ) * 2 ^ k / 2 ^ (k + Nat.log2 m - w)⌋ := by
      rw [Int.le_floor, le_div_iff₀ hq]
      refine le_trans (le_of_eq ?_) hlow
      push_cast
      rw [← zpow_natCast, ← zpow_add₀ two_ne_zero]
      congr 1
      omega
    omega
  · have : ⌊(m : ℚ) * 2 ^ k / 2 ^ (k + Nat.log2 m - w)⌋ < ((2 ^ (w + 1) : Nat) : Int) := by
      rw [Int.floor_lt, div_lt_iff₀ hq]
      refine lt_of_lt_of_eq hhigh ?_
      push_cast
      rw [← zpow_natCast, ← zpow_add₀ two_ne_zero]
      congr 1
      push_cast
      omega
    omega

/-- Tininess after rounding without a lower bound on the exponent is that of the value selected there. -/
theorem tiny_iff (f : Fmt) {mode : Nat} {neg : Bool} {m : Nat} {k : Int} {y : ℚ} (hm : m ≠ 0) (hmode : mode < 5)
    (hy : y = (cutAt (k + Nat.log2 m - f.mant) m k false).near mode neg 0 * 2 ^ (k + Nat.log2 m - f.mant)) :
    f.tiny mode neg m k false = true ↔ y < 2 ^ f.emin := by
  obtain ⟨hlow, hhigh⟩ := cutAt_units_bounds hm k f.mant
  obtain ⟨hnear, hnear'⟩ := (cutAt (k + Nat.log2 m - f.mant) m k false).near_bounds mode neg 0
  unfold Fmt.tiny
  generalize hu : (cutAt (k + Nat.log2 m - f.mant) m k false).near mode neg 0 = u at *
  generalize k + (Nat.log2 m : Int) = p at *
  have hq : (0 : ℚ) < 2 ^ (p - f.mant) := by positivity
  have hsplit : (2 : ℚ) ^ (p + 1) = (2 ^ (f.mant + 1) : Nat) * 2 ^ (p - f.mant) := by
    push_cast
    rw [← zpow_natCast, ← zpow_add₀ two_ne_zero]
    congr 1
    push_cast
    omega
  simp only [hu, Bool.and_eq_true, decide_eq_true_eq, Bool.or_eq_true, show mode ≠ 5 by omega, ne_eq, not_false_eq_true, true_and]
  rcases lt_trichotomy p (f.emin - 1) with h | h | h
  · refine iff_of_true (.inl h) ?_
    calc y = u * 2 ^ (p - f.mant) := hy
      _ ≤ (2 ^ (f.mant + 1) : Nat) * 2 ^ (p - f.mant) :=
        mul_le_mul_of_nonneg_right (by exact_mod_cast (by omega : u ≤ 2 ^ (f.mant + 1))) hq.le
      _ = 2 ^ (p + 1) := hsplit.symm
      _ < 2 ^ f.emin := zpow_lt_zpow_right₀ one_lt_two (by omega)
  · rw [show f.emin = p + 1 by omega, hsplit, hy, mul_lt_mul_iff_left₀ hq, Nat.cast_lt]
    omega
  · refine iff_of_false (by omega) (not_lt.mpr ?_)
    calc (2 : ℚ) ^ f.emin ≤ 2 ^ p := zpow_le_zpow_right₀ one_le_two (by omega)
      _ = (2 ^ f.mant : Nat) * 2 ^ (p - f.mant) := by
        push_cast
        rw [← zpow_natCast, ← zpow_add₀ two_ne_zero]
        congr 1
        omega
      _ ≤ u * 2 ^ (p - f.mant) := mul_le_mul_of_nonneg_right (by exact_mod_cast hlow.trans hnear) hq.le
      _ = y := hy.symm

/-- UF of the lane pipe: a tiny value that is no multiple of the spacing of the format. -/
theorem ieeeUf_selects {f : Fmt} (hf : f.isInt = false) {mode : Nat} {neg : Bool} {m : Nat} {k : Int} {x y : ℚ} (hm : 0 < m)
    (hmode : mode < 5) (hx : x = m * 2 ^ k) (h : selects mode neg 0 x (2 ^ (Int.log 2 x - f.mant)) y) :
    let q : ℚ := 2 ^ (max (Int.log 2 x) f.emin - f.mant)
    f.ieeeUf mode (some (.fin neg m k false)) = if y < 2 ^ f.emin ∧ x ≠ ⌊x / q⌋ * q then 0x08 else 0 := by
  intro q
  have hlog : Int.log 2 x = k + Nat.log2 m := hx ▸ log_mul_zpow hm.ne' k
  have hcut : f.cut m k false = cutAt (max (k + Nat.log2 m) f.emin - f.mant) m k false := by
    rw [Fmt.cut, hf]
    rfl
  rw [hlog] at h
  have htiny := tiny_iff f hm.ne' hmode (selects_near hx hmode h)
  have hexact := cutAt_exact_iff (qe := max (k + Nat.log2 m) f.emin - f.mant) hx
  simp only [q, hlog, Fmt.ieeeUf, hcut, htiny, flagIf, ne_eq, hexact, hm.ne', not_false_eq_true, true_and, decide_eq_true_eq]
  rfl

/-- RS has no UF there. -/
theorem ieeeUf_rs (f : Fmt) (neg : Bool) (m : Nat) (k : Int) : f.ieeeUf 5 (some (.fin neg m k false)) = 0 := by
  simp [Fmt.ieeeUf, Fmt.tiny, flagIf]

end Sys2Proof.Machine
end

section
/-! SUPPORT. I4X blocks and scale codes (R164, R179 to R181), and with them the exact arithmetic of the lanes. -/

namespace Sys2Proof.Machine

/-! I4X blocks. -/

theorem i4xDecode_small {c : Nat} (h : c ≠ 8) (r : List Nat) :
    i4xDecode (c :: r) = (e4m3Int (signed 4 c) :: (i4xDecode r).1, (i4xDecode r).2) := by
  conv_lhs => unfold i4xDecode
  rw [if_pos h]

theorem i4xDecode_code (a b : Nat) (r : List Nat) :
    i4xDecode (8 :: a :: b :: r) = ((16 * a + b) :: 0 :: 0 :: (i4xDecode r).1, (i4xDecode r).2) := by
  rw [i4xDecode, if_neg (by decide)]

/-- What the E4M3 codes of the integers of a slot hold. -/
theorem decode_e4m3Int : ∀ c < 16, c ≠ 8 → e4m3Int (signed 4 c) < 256 ∧ (signed 4 c = 0 → e4m3Int (signed 4 c) = 0) ∧
    ∃ m k : Nat, Fmt.decode .e4m3 false (e4m3Int (signed 4 c)) = .fin (decide (signed 4 c < 0)) m (-(k : Int)) false
      ∧ m = (signed 4 c).natAbs * 2 ^ k := by
  intro c hc h8
  have : ∀ c : Fin 16, c.val ≠ 8 → e4m3Int (signed 4 c) < 256 ∧ (signed 4 c = 0 → e4m3Int (signed 4 c) = 0) ∧
      ∃ m : Fin 16, ∃ k : Fin 12, Fmt.decode .e4m3 false (e4m3Int (signed 4 c)) = .fin (decide (signed 4 c < 0)) m (-(k : Int)) false
        ∧ (m : Nat) = (signed 4 c).natAbs * 2 ^ (k : Nat) := by decide
  obtain ⟨h1, h2, m, k, h3⟩ := this ⟨c, hc⟩ h8
  exact ⟨h1, h2, m, k, h3⟩

theorem signed_four {c : Nat} (hc : c < 16) : signed 4 c = if c < 8 then (c : Int) else (c : Int) - 16 := by
  decide +revert

theorem value_decode_e4m3Int {c : Nat} (hc : c < 16) (h8 : c ≠ 8) :
    (Fmt.decode .e4m3 false (e4m3Int (signed 4 c))).value = signed 4 c
      ∧ (Fmt.decode .e4m3 false (e4m3Int (signed 4 c))).isNan = false := by
  obtain ⟨-, -, m, k, hdecode, hm⟩ := decode_e4m3Int c hc h8
  refine ⟨?_, by rw [hdecode]; rfl⟩
  have hval := Num.value_of_units (signed 4 c) 0
  rw [zpow_zero, mul_one] at hval
  rw [hdecode, ← hval, Num.value, Num.value, hm, zpow_neg, zpow_natCast, zpow_zero]
  push_cast
  field_simp

/-- The integers from -7 to 7 by the cut of a value at 1. -/
theorem smallInt_fin (n b : Bool) (m : Nat) (e : Int) :
    smallInt (.fin n m e b) = if (cutAt 0 m e false).exact = true ∧ (cutAt 0 m e false).units ≤ 7
      then some (if n = true then -((cutAt 0 m e false).units : Int) else (cutAt 0 m e false).units) else none := by
  unfold smallInt cutAt
  by_cases h : 0 ≤ e
  · simp [h, Cut.exact]
  · simp [h, Cut.exact]

theorem smallInt_iff {x : Num} (hinf : ∀ n, x ≠ .inf n) (v : Int) :
    smallInt x = some v ↔ x.isNan = false ∧ x.value = v ∧ -7 ≤ v ∧ v ≤ 7 := by
  match x with
  | .inf n => exact absurd rfl (hinf n)
  | .nan s => exact ⟨nofun, fun h => absurd h.1 Bool.noConfusion⟩
  | .fin n m e b =>
    rw [smallInt_fin]
    have hexact := near_eq_iff_exact (qe := 0) (rfl : (m : ℚ) * 2 ^ e = m * 2 ^ e) 1 n 0
    constructor
    · intro h
      split at h
      · next hc =>
        obtain ⟨hc, hle⟩ := hc
        have hval := hexact.mpr hc
        rw [Cut.near, if_pos hc, zpow_zero, mul_one] at hval
        have hv := Option.some.inj h
        refine ⟨rfl, ?_, ?_⟩
        · rw [Num.value, mul_assoc, ← hval, ← hv]
          cases n <;> simp
        · split at hv <;> omega
      · cases h
    · rintro ⟨-, hval, hlow, hhigh⟩
      have habs : (m : ℚ) * 2 ^ e = (v.natAbs : ℚ) * 2 ^ (0 : Int) := by
        have : (m : ℚ) * 2 ^ e = |(v : ℚ)| := by
          have hpos : (0 : ℚ) ≤ m * 2 ^ e := by positivity
          rw [← hval, Num.value, mul_assoc, abs_mul, abs_of_nonneg hpos]
          cases n <;> simp
        rw [this, zpow_zero, mul_one, Nat.cast_natAbs, Int.cast_abs]
      obtain ⟨hunits, -, hc⟩ := cutAt_exact habs
      rw [if_pos ⟨hc, by omega⟩, hunits]
      refine congrArg some ?_
      rw [Num.value, mul_assoc] at hval
      have hpos : (0 : ℚ) ≤ m * 2 ^ e := by positivity
      cases n with
      | false =>
        have : (0 : ℚ) ≤ v := by rw [← hval]; simpa using hpos
        have : 0 ≤ v := by exact_mod_cast this
        simp only [Bool.false_eq_true, if_false]
        omega
      | true =>
        have : (v : ℚ) ≤ 0 := by rw [← hval]; simpa using hpos
        have : v ≤ 0 := by exact_mod_cast this
        simp only [if_true]
        omega

theorem decode_e4m3_ne_inf (z : Bool) (c : Nat) (n : Bool) : Fmt.decode .e4m3 z c ≠ .inf n := by
  unfold Fmt.decode
  dsimp only
  repeat' split
  all_goals simp_all [Fmt.isInt, Fmt.hasInf]

theorem round_i4_lt (x : Num) : (Fmt.round .i4 0 false false 0 x).1 < 16 := by
  unfold Fmt.round
  cases x with
  | nan s => exact Nat.zero_lt_succ _
  | inf n => cases n <;> decide
  | fin n m e b =>
    dsimp only
    split
    · exact Nat.zero_lt_succ _
    · exact (BitVec.ofInt 4 _).isLt

theorem i4xTail_eq (x : Num) :
    i4xTail x = if (Fmt.round .i4 0 false false 0 x).1 = 8 then 9 else (Fmt.round .i4 0 false false 0 x).1 := by
  have htail : ∀ t : Fin 16, (BitVec.ofInt 4 (if signed 4 t < -7 then -7 else signed 4 t)).toNat =
      if t.val = 8 then 9 else t.val := by decide
  exact htail ⟨_, round_i4_lt x⟩

theorem i4xEncode_small {c : Nat} {v : Int} (h : smallInt (Fmt.decode .e4m3 false c) = some v) (r : List Nat) :
    i4xEncode (c :: r) = ((v % 16).toNat :: (i4xEncode r).1, (i4xEncode r).2) := by
  conv_lhs => unfold i4xEncode
  simp only [h]
  rfl

theorem i4xEncode_code {c : Nat} (h : smallInt (Fmt.decode .e4m3 false c) = none) (a b : Nat) (r : List Nat) :
    i4xEncode (c :: a :: b :: r) = (8 :: c / 16 :: c % 16 :: (i4xEncode r).1, (i4xEncode r).2 || a % 128 ≠ 0 || b % 128 ≠ 0) := by
  simp only [i4xEncode, h]

theorem i4xEncode_tail {c : Nat} (h : smallInt (Fmt.decode .e4m3 false c) = none) {r : List Nat} (hr : r.length < 2) :
    i4xEncode (c :: r) = (i4xTail (Fmt.decode .e4m3 false c) :: (i4xEncode r).1, true) := by
  match r with
  | [] | [x] => simp only [i4xEncode, h]
  | _ :: _ :: _ => exact absurd hr (by simp)

/-! Scale codes (R179). -/

theorem scaleCode_fin (f : Fmt) (n : Bool) (m : Nat) (k : Int) :
    scaleCode f (.fin n m k false) =
      (if m = 0 then 0 else (max (-127) (min (Int.log 2 ((m : ℚ) * 2 ^ k) - f.emax) 127) + 127).toNat, false) := by
  unfold scaleCode
  dsimp only
  split
  · rfl
  · next hm =>
    rw [log_mul_zpow hm]
    refine Prod.ext (congrArg Int.toNat ?_) rfl
    split
    · omega
    · split <;> omega

theorem fpIntegral_zero (mode : Nat) (n : Bool) (k : Int) : fpIntegral mode (.fin n 0 k false) = (word32 (.zero n), 0) := by
  obtain ⟨hunits, -, hexact⟩ := cutAt_exact (k := k) (m := 0) (u := 0) (q := 0) (by simp)
  rw [fpIntegral_fin, Cut.near, if_pos hexact, hunits, hexact]
  rfl

/-- Settles O20: each function by its cases, roundings by the cut that Table 4 of R166 takes, the order of R144 by a key. -/
theorem exactArithmetic : Obligations.ExactArithmetic := by
  refine ⟨fun a b => ?mul, fun rd xs => ?sum, fun big a b => ?best, fun mode neg m k x y hmode => ?integral, fun a b => ?scaled,
    fun w xs => rfl, fun r hr mode neg m k x y hflushed hmode => ?tiny, fun c a b r hc => ?decoded, fun c a b r hc ha hb => ?encoded,
    fun f emax hf => ?scale⟩
  case mul =>
    refine ⟨Num.mul_nan, ?_, ?_, ?_⟩
    · rintro n (⟨rfl, hz⟩ | ⟨rfl, hz⟩)
      · rw [(Num.mul_inf (Num.isNan_of_isZero hz)).1, if_pos hz]
      · rw [(Num.mul_inf (Num.isNan_of_isZero hz)).2, if_pos hz]
    · rintro n ha hb (⟨rfl, hz⟩ | ⟨rfl, hz⟩)
      · rw [(Num.mul_inf hb).1, if_neg (Bool.eq_false_iff.mp hz)]
        rfl
      · rw [(Num.mul_inf ha).2, if_neg (Bool.eq_false_iff.mp hz), Bool.xor_comm]
        rfl
    · rintro n k m p e f rfl rfl
      exact ⟨_, _, rfl, Num.value_mul n k m p e f⟩
  case sum =>
    exact ⟨Num.sum_infs, Num.sum_nan, fun hn => ⟨fun h h' => Num.sum_inf h h' hn, fun h h' => Num.sum_inf h h' hn⟩, Num.sum_fin⟩
  case best =>
    refine ⟨Num.minMax_nans big, Num.minMax_nan big, fun ha hb hab => ?_, fun xs hxs => ?_⟩
    · rw [Num.below_iff ha hb] at hab
      rw [Num.minMax_values big ha hb, Num.minMax_values big hb ha, decide_eq_true hab, decide_eq_false hab.not_gt]
      cases big <;> exact ⟨rfl, rfl⟩
    · obtain ⟨z, ⟨hnan, hmem, htop⟩, hgo⟩ := fpBest_eq big hxs
      intro go
      rw [show go = _ from hgo]
      refine ⟨rfl, fun hall => ?_, fun ⟨x, hx, hxn⟩ => ?_⟩
      · match z, hnan.mpr hall with
        | .nan _, _ => rfl
      · have hz : z.isNan = false := Bool.eq_false_iff.mpr fun h => Bool.false_ne_true (hxn.symm.trans (hnan.mp h x hx))
        refine ⟨z, hmem hz, hz, rfl, fun y hy hyn => ?_⟩
        rw [Num.below_iff hz hyn, Num.below_iff hyn hz]
        have := htop hz y hy hyn
        split
        · next hbig => exact not_lt.mpr (by rwa [if_pos hbig] at this)
        · next hbig => exact not_lt.mpr (by rwa [if_neg hbig] at this)
  case integral =>
    exact ⟨fun hm hx hbits hk htop h => fpIntegral_selects hmode hm hx hbits hk htop h, fun n => rfl,
      fpIntegral_zero mode neg, fun sig => rfl⟩
  case scaled =>
    refine ⟨fpScaled_nan, ?_, ?_, fun k => ⟨Num.scale_value a k, Num.scale_isZero a k, Num.scale_neg a k, ?_⟩⟩
    · rintro ha n rfl
      exact fpScaled_inf ha n
    · rintro ha n m e rfl
      exact fpScaled_fin ha n m e
    · rintro n rfl
      rfl
  case tiny =>
    refine ⟨?_, fun hm hmode5 hx h => ?_⟩
    · rintro rfl
      exact ieeeUf_rs r.fmt neg m k
    · simp only [floatRows, List.mem_cons, List.not_mem_nil, or_false] at hr
      obtain rfl | rfl | rfl | rfl | rfl | rfl := hr
      · exact ieeeUf_selects (f := .f32) rfl hm hmode5 hx h
      · exact ieeeUf_selects (f := .bf16) rfl hm hmode5 hx h
      · exact ieeeUf_selects (f := .f16) rfl hm hmode5 hx h
      all_goals exact absurd hflushed Bool.false_ne_true
  case decoded =>
    intro v
    have hv : v = signed 4 c := (signed_four hc).symm
    refine ⟨rfl, fun h8 => ?_, i4xDecode_code a b r, rfl, rfl⟩
    obtain ⟨hlt, hzero, -⟩ := decode_e4m3Int c hc h8
    obtain ⟨hval, hnan⟩ := value_decode_e4m3Int hc h8
    rw [hv]
    exact ⟨_, hlt, hzero, hval, hnan, i4xDecode_small h8 r⟩
  case encoded =>
    intro x small lost t
    have hsmall (v : Int) : smallInt x = some v ↔ small v := smallInt_iff (decode_e4m3_ne_inf false c) v
    refine ⟨rfl, fun v hv => i4xEncode_small ((hsmall v).mpr hv) r, fun hnone => ?_⟩
    have hx : smallInt x = none := Option.eq_none_iff_forall_ne_some.mpr fun v hv => hnone v ((hsmall v).mp hv)
    refine ⟨?_, fun hr => ?_⟩
    · rw [i4xEncode_code hx, Bool.or_assoc, ← Bool.decide_or]
      refine Prod.ext rfl (congrArg ((i4xEncode r).2 || ·) (decide_eq_decide.mpr ?_))
      simp only [lost]
      omega
    · rw [i4xEncode_tail hx hr, i4xTail_eq]
  case scale =>
    refine ⟨fun s => rfl, fun n => rfl, fun n m k => ?_⟩
    obtain ⟨rfl, rfl⟩ | ⟨rfl, rfl⟩ | ⟨rfl, rfl⟩ | ⟨rfl, rfl⟩ | ⟨rfl, rfl⟩ | ⟨rfl, rfl⟩ := hf
    all_goals exact scaleCode_fin _ n m k

end Sys2Proof.Machine
end

section
/-! SUPPORT. A fair swap of a warp without a free request slot waits, even where its stack lies on chip (R195, R295). -/

namespace Sys2Proof.Machine

/-- A fair swap asks for its request slots before it looks whether it has any access to make: with more than 1 024 taken, it waits. -/
theorem State.fairSwap_waits {s : State} (hd : s.w.depth ≤ 32) (hf : s.slotsFree 0 = false) (pc : BitVec 48) :
    s.fairSwap pc = .error (.enter s.retry) := by
  have hslots : s.slotsReady (linesOf []) = .error (.enter s.retry) := by
    rw [State.slotsReady, show linesOf [] = 0 from rfl, hf]
    rfl
  have hcheck : s.spillCheck .read (List.range s.w.spilled) = .error (.enter s.retry) := by
    rw [Warp.spilled, Nat.sub_eq_zero_of_le hd]
    unfold State.spillCheck
    simp only [List.range_zero, List.map_nil, hslots]
    rfl
  unfold State.fairSwap
  rw [hcheck]
  rfl

theorem exec_fairSwap_waits {s : State} (hd : s.w.depth ≤ 32) (hf : s.slotsFree 0 = false) :
    exec .fairSwap s = .next ({ s with w := s.w.commitAll.dropHints } : State).retry := by
  obtain ⟨-, -, -, hdepth, -, -, -, -, -, hplace, hkey, hidx⟩ := Warp.committed_path (v := s.w) (.inr rfl)
  refine congrArg Host.Outcome.next ?_
  dsimp only
  rw [State.fairSwap_waits (hdepth.trans_le hd) ((State.slotsFree_withW hplace hkey hidx 0).trans hf)]
  rfl

/-- A path that waits at another unit than the warp. -/
def waitingSibling : Entry := ⟨0x5000, 0xF0, 0x6000, 0, true⟩

/-- A split-phase load of one line, in the first slot of the module. -/
def lineLoad : Op := ⟨0, Place.zero, 0, 0, 0, 0, .ldp 4 0 1 [(0, .lost 0 0)] (0, 0), []⟩

/-- A warp with one waiting sibling path, on chip, whose split-phase loads hold 1 025 request slots. -/
def crowded : State :=
  let s := State.reset.withFetchWord 32 0
  { s with w := { s.w with stack := [waitingSibling], depth := 1 }, ops := List.replicate 1025 lineLoad }

theorem crowded_slots : crowded.slotsFree 0 = false := by
  have hmine : ((crowded.ops.filter fun o => o.place = crowded.w.place).map opSlots).sum = 1025 := by
    have hplace : lineLoad.place = crowded.w.place := by decide
    have hslots : opSlots lineLoad = 1 := by decide
    rw [show crowded.ops = List.replicate 1025 lineLoad from rfl, List.filter_replicate, if_pos (decide_eq_true hplace),
      List.map_replicate, hslots, List.sum_replicate]
    rfl
  unfold State.slotsFree
  dsimp only
  rw [hmine]
  simp
  omega

/-- Refutes O60 by its clause on the fair swap with the entries on chip, which names no request slot. The split-phase loads of `crowded`
hold more than the 1 024 slots of a warp (R295), so the swap, which asks for its slots before its first access, waits: the warp stays at
its unit, and the sibling that should run stays on the stack. The clause ranges over every state, and does not suppose a slot free, as
`Obligations.PathSwaps` does for the same swap. -/
theorem not_unitsComplete : ¬ Obligations.UnitsComplete := by
  rintro ⟨-, -, -, hpaths, -⟩
  obtain ⟨-, hchip, -⟩ := hpaths crowded
  obtain ⟨-, t, ht, ⟨hpc, -⟩, -⟩ := hchip waitingSibling [] (by decide) (by decide) (by decide) rfl rfl rfl (by decide)
  obtain rfl : State.retry { crowded with w := crowded.w.commitAll.dropHints } = t :=
    Host.Outcome.next.inj ((exec_fairSwap_waits (by decide) crowded_slots).symm.trans ht)
  exact absurd hpc (by decide)

end Sys2Proof.Machine
end

section
/-! SUPPORT. A save of the stack whose image meets a poisoned line, which stops its warp (R200, R335, R439). -/

namespace Sys2Proof.Machine

/-- A `stk.save` whose reads of the spill area and whose writes end well (R200): the lanes left of its unit are those that the warp told
before the writes (R268). -/
theorem exec_stkSave_saves {s s1 s2 : State} {d a : BitVec 6} {back : List Nat} (h : s.accepts 22 [] false)
    (hal : (s.w.s a.toNat).toNat % 32 = 0) (hm : s.mayIssue 1)
    (hr : s.read32 ((List.range (s.w.depth - 32)).map s.w.spillAddr) = .ok (s1, back))
    (hw : s1.write32 (((bytesOf 8 s.w.depth ++ bytesOf 8 s.w.crpc.toNat ++ bytesOf 16 0)
      :: (back.map entryOf ++ s.w.stack.reverse).map Entry.bytes).zipIdx.map fun x =>
        (s.w.s a.toNat + BitVec.ofNat 64 (32 * x.2), x.1)) = .ok s2) :
    exec (.stkSave d a) s = .next
      (Eff.leaves { s := s2, writes := [.s d.toNat (BitVec.ofNat 64 (32 * (s.w.depth + 1)))] } s.w).finish := by
  refine congrArg Host.Outcome.next (unit_ok h ?_)
  have haligned : trapIf ((s.w.s a.toNat).toNat % 32 ≠ 0) 0x04 (s.w.s a.toNat) = .ok () := (trapIf_ok _ _ _).mpr (by simp [hal])
  simp only [haligned, (s.memReady_ok 1).mpr hm, Warp.spilled, hr, bind, Except.bind]
  rw [show s.w.chip = s.w.stack.reverse from rfl, hw]

/-- The warp of stall 7 of `brdAtPoison`, at a `stk.save` of an empty stack to its poisoned line: what the stop of the stall commits
writes 0 to `em`, and lane 0 of the unit is left from an earlier page fault. -/
def saveAtPoison : State :=
  { brdAtPoison with
    w := { brdAtPoison.w.setS 2 0x2000 with
      hints := [], depth := 0, stack := [], left := [⟨brdAtPoison.w.pc, 1, false⟩] } }

/-- The header of the image of its stack. -/
def saveAtPoisonHeader : List Byte := bytesOf 8 0 ++ bytesOf 8 saveAtPoison.w.crpc.toNat ++ bytesOf 16 0

/-- The warp owns the lanes left before the write, and no longer after it. -/
theorem saveAtPoison_write : ∃ t, saveAtPoison.write32 [(0x2000, saveAtPoisonHeader)] = .ok t
    ∧ (t.w.left.filter fun x => ¬ saveAtPoison.w.ownsLeft x) = [] ∧ t.w.leftAfter ≠ [] := by
  have hrun : ((saveAtPoison.write32 [(0x2000, saveAtPoisonHeader)]).toOption.map fun t =>
      decide ((t.w.left.filter fun x => ¬ saveAtPoison.w.ownsLeft x) = [] ∧ t.w.leftAfter ≠ [])) = some true := by decide +kernel
  cases hp : saveAtPoison.write32 [(0x2000, saveAtPoisonHeader)] with
  | error e => rw [hp] at hrun; cases hrun
  | ok t => rw [hp] at hrun; exact ⟨t, rfl, of_decide_eq_true (Option.some.inj hrun)⟩

/-- Refutes O10 by the last clause of its `stk.save` part. The header that `saveAtPoison` stores meets a poisoned line, the stall of the
page ends (R335, R439), and the stop of the warp commits its open windows (R404). One of them writes `em`, so the path of the warp after
the writes is not the one whose lanes the unit left (R268): `exec` forgets lane 0, which was left of the unit on the path before them,
while the statement asks the warp after the writes which lanes it owns, and keeps it. The clause ranges over every state; it supposes
neither that the writes meet no poison, nor that no open window names `em`, which a scalar load cannot open (R46). -/
theorem not_stackImages : ¬ Obligations.StackImages := by
  rintro ⟨hsave, -⟩
  have hacc : saveAtPoison.accepts 22 [] false := by unfold State.accepts; decide
  have hva : saveAtPoison.w.s (2 : BitVec 6).toNat = 0x2000 := by decide
  have hmay : saveAtPoison.mayIssue 1 := by unfold State.mayIssue; decide
  obtain ⟨t, hw, howned, hleft⟩ := saveAtPoison_write
  obtain ⟨-, -, hwrites⟩ := hsave saveAtPoison saveAtPoison t (homeLoc 0 0) 3 2 [] hacc
  have hread : saveAtPoison.read32 ((List.range (saveAtPoison.w.depth - 32)).map saveAtPoison.w.spillAddr) = .ok (saveAtPoison, []) := rfl
  have hclaim := hwrites (by rw [hva]; decide) hmay hread (by rw [hva]; exact hw)
  rw [exec_stkSave_saves hacc (by rw [hva]; decide) hmay hread (by rw [hva]; exact hw)] at hclaim
  have hl := congrArg (fun u : State => u.w.left) (Host.Outcome.next.inj hclaim)
  rw [finish_left] at hl
  exact hleft (hl.symm.trans howned)

end Sys2Proof.Machine
end

section
/-! SUPPORT. Cross-lane values: the units of VL2, their integer reductions and scans, the ballot, and sums in FP32 (R202, R204, R205). -/

namespace Sys2Proof.Machine

/-! Members (R202). -/

theorem Warp.members_eq (w : Warp) (m : BitVec 3) : w.members m = w.em &&& (if m = 0 then w.em else w.s (56 + m.toNat)) := by
  have hm : m.toNat = 0 ↔ m = 0 := by rw [← BitVec.toNat_inj]; rfl
  rw [Warp.members, Warp.member, BitVec.and_comm]
  simp only [hm]

/-- No lane is a member exactly when the mask is 0. -/
theorem laneList_eq_nil {c : Mask} : laneList c = [] ↔ c = 0 := by
  constructor
  · intro h
    refine BitVec.eq_of_getLsbD_eq fun l hl => ?_
    have := List.filter_eq_nil_iff.mp h l (List.mem_range.mpr hl)
    simpa [lane] using this
  · rintro rfl
    exact List.filter_eq_nil_iff.mpr fun l _ => by simp [lane]

/-! The units of VL2 that can run. -/

section
variable {s : State} {l : BitVec 4} {d a : BitVec 7} {m : BitVec 3} {pre : State → Except Stop Unit}
  {f : Warp → Mask → (Nat → Word) → (Nat → Word) → (Nat → Word) × BitVec 8}

/-- What a unit of VL2 gives in the lanes of C, from C and the words of va and va + 1. -/
def crossResult (s : State) (d a : BitVec 7) (m : BitVec 3)
    (f : Warp → Mask → (Nat → Word) → (Nat → Word) → (Nat → Word) × BitVec 8) : List RegWrite × BitVec 8 :=
  let c := s.w.members m
  let r := f s.w c (fun j => (s.w.src a.toNat 0).at j) (fun j => (s.w.v (a.toNat + 1)).at j)
  ([.v d.toNat c (Vec.ofFn r.1)], r.2)

theorem crossUnit_single (h : s.VectorReady [] [(d.toNat, 1)] [a.toNat]) (hpre : pre s = .ok ()) :
    crossUnit l d a m false pre f s = s.vectorDone l.toNat [a.toNat] (crossResult s d a m f) := by
  refine (vectorUnit_ready h l.toNat hpre _).trans ?_
  rw [h.accepts.rep List.not_mem_nil, repeatUnit_once]
  rfl

theorem crossUnit_pair (h : s.VectorReady [] [(d.toNat, 1), (a.toNat, 2)] []) (hpre : pre s = .ok ()) :
    crossUnit l d a m true pre f s = s.vectorDone l.toNat [] (crossResult s d a m f) := by
  refine (vectorUnit_ready h l.toNat hpre _).trans ?_
  rw [h.accepts.rep List.not_mem_nil, repeatUnit_once]
  rfl

/-- One that rounds traps at a reserved rounding code (R140, R204). -/
theorem crossUnit_rounds (h : s.VectorReady [] [(d.toNat, 1)] [a.toNat]) :
    crossUnit l d a m false needMode f s =
      if 6 ≤ s.w.fm.toNat / 4096 % 8 then s.trap 0x02 0 else s.vectorDone l.toNat [a.toNat] (crossResult s d a m f) := by
  refine (vectorUnit_rounds h l.toNat _).trans ?_
  rw [h.accepts.rep List.not_mem_nil, repeatUnit_once]
  rfl

end

/-! Integer reductions and scans (R205). -/

theorem foldl_add_words (x : Nat → Word) (ls : List Nat) :
    ls.foldl (fun t j => t + x j) 0 = BitVec.ofNat 32 (ls.map fun j => (x j).toNat).sum := by
  have hstep (t : Nat) (j : Nat) : BitVec.ofNat 32 t + x j = BitVec.ofNat 32 (t + (x j).toNat) := by
    rw [BitVec.ofNat_add, BitVec.ofNat_toNat, BitVec.setWidth_eq]
  rw [List.sum_eq_foldl, List.foldl_map]
  exact List.foldl_hom (BitVec.ofNat 32) (g₁ := fun t j => t + (x j).toNat) (g₂ := fun t j => t + x j) (init := 0) hstep

theorem toInt_minS (a b : Word) : (minS a b).toInt = min a.toInt b.toInt := by
  unfold minS
  split <;> omega

theorem toInt_maxS (a b : Word) : (maxS a b).toInt = max a.toInt b.toInt := by
  unfold maxS
  split <;> omega

theorem reduce_minS (c : Mask) (x : Nat → Word) :
    reduce c x 0x7FFF_FFFF minS = BitVec.ofInt 32 ((laneList c).foldl (fun v j => min v (x j).toInt) (2 ^ 31 - 1)) := by
  rw [← BitVec.ofInt_toInt (x := reduce c x _ _), reduce,
    ← List.foldl_hom BitVec.toInt (g₂ := fun v j => min v (x j).toInt) fun v j => (toInt_minS v (x j)).symm]
  rfl

theorem reduce_maxS (c : Mask) (x : Nat → Word) :
    reduce c x 0x8000_0000 maxS = BitVec.ofInt 32 ((laneList c).foldl (fun v j => max v (x j).toInt) (-2 ^ 31)) := by
  rw [← BitVec.ofInt_toInt (x := reduce c x _ _), reduce,
    ← List.foldl_hom BitVec.toInt (g₂ := fun v j => max v (x j).toInt) fun v j => (toInt_maxS v (x j)).symm]
  rfl

theorem pickLane_eq (c : Mask) (x : Nat → Word) (j : Nat) : pickLane c x j = if j ∈ laneList c then x j else 0 := by
  have hmem : j ∈ laneList c ↔ lane c j = true := by
    simp only [laneList, lanes, List.mem_filter, List.mem_range, and_iff_right_iff_imp, lane]
    exact BitVec.lt_of_getLsbD
  simp only [pickLane, hmem]

theorem decide_toNat_ne_zero (x : Word) : decide (x.toNat ≠ 0) = decide (x ≠ 0) :=
  decide_eq_decide.mpr (not_congr (BitVec.toNat_eq (y := 0)).symm)

theorem bitsOf_low (x n : Nat) : bitsOf x 0 n = x % 2 ^ n := by rw [bitsOf, Nat.pow_zero, Nat.div_one]

/-! The ballot (R205). -/

/-- The mask of the lanes below n that f names. -/
theorem foldl_bits_eq_sum (f : Nat → Bool) {n : Nat} (hn : n ≤ 64) :
    (List.range n).foldl (fun (m : Mask) k => if f k then m ||| (1 <<< k) else m) 0 =
        BitVec.ofNat 64 (((List.range n).filter f).map fun j => 2 ^ j).sum
      ∧ (((List.range n).filter f).map fun j => 2 ^ j).sum < 2 ^ n := by
  induction n with
  | zero => exact ⟨rfl, Nat.one_pos⟩
  | succ n ih =>
    obtain ⟨hmask, hlt⟩ := ih (by omega)
    rw [List.range_succ, List.foldl_append, List.filter_append, List.map_append, List.sum_append, hmask]
    cases hf : f n with
    | false => simp [hf]; omega
    | true =>
      have hor := Nat.two_pow_add_eq_or_of_lt hlt 1
      rw [Nat.mul_one] at hor
      refine ⟨?_, by simp [hf]; omega⟩
      simp only [hf, List.foldl_cons, List.foldl_nil, List.filter_cons_of_pos, List.filter_nil, List.map_cons, List.map_nil,
        List.sum_cons, List.sum_nil, if_true, Nat.add_zero]
      rw [Nat.add_comm, hor, Nat.one_shiftLeft, BitVec.or_comm, BitVec.ofNat_or]
      rfl

/-- The bits of the lanes that f names, summed. -/
theorem maskOf_eq_sum (f : Nat → Bool) : maskOf f = BitVec.ofNat 64 ((lanes.filter f).map fun j => 2 ^ j).sum :=
  (foldl_bits_eq_sum f le_rfl).1

theorem truncate_eq_extract (b : BitVec 64) : b.truncate 32 = b.extractLsb' 0 32 := by
  refine BitVec.eq_of_toNat_eq ?_
  simp

theorem truncate_shift_eq_extract (b : BitVec 64) : (b >>> 32).truncate 32 = b.extractLsb' 32 32 := by
  refine BitVec.eq_of_toNat_eq ?_
  simp

theorem exec_vballot_ready {s : State} {l : BitVec 4} {d a : BitVec 7} {m : BitVec 3} (h : s.VectorReady [] [(d.toNat, 2)] [a.toNat]) :
    let c := s.w.members m
    let b := BitVec.ofNat 64 (((laneList c).filter fun j => ((s.w.src a.toNat 0).at j).toNat ≠ 0).map fun j => 2 ^ j).sum
    exec (.vballot l d a m) s = .next (s.vectorDone l.toNat [a.toNat]
      ([.v d.toNat c (Vec.ofFn fun _ => b.extractLsb' 0 32), .v (d.toNat + 1) c (Vec.ofFn fun _ => b.extractLsb' 32 32)], 0)) := by
  intro c b
  have hb : maskOf (fun j => lane c j && (s.w.src a.toNat 0).at j ≠ 0) = b := by
    rw [maskOf_eq_sum, funext fun j => Bool.and_comm (lane c j) _, ← List.filter_filter]
    simp only [b, decide_toNat_ne_zero]
    rfl
  refine congrArg Host.Outcome.next ((vectorUnit_once h l.toNat _).trans ?_)
  rw [← truncate_eq_extract, ← truncate_shift_eq_extract, ← hb]
  rfl

/-! Sums in FP32 (R204). -/

/-- The sum of an empty set is +0. -/
theorem fpTotal_nil (w : Warp) : fpTotal w [] = (0, 0) := by
  simp [fpTotal, fpSum, Num.sum, Num.zero, Fmt.round, Fmt.sign, Fmt.isInt, Fmt.ieeeUf, flagIf]

/-- A reduction raises the flags of its one result, if it has members. -/
theorem flagsOver_const {ls : List Nat} (h : ls ≠ []) (f : BitVec 8) : flagsOver ls (fun _ => f) = f := by
  induction ls with
  | nil => exact absurd rfl h
  | cons l r ih =>
    rw [flagsOver_cons]
    by_cases hr : r = []
    · rw [hr]
      exact BitVec.or_zero
    · rw [ih hr, BitVec.or_self]

/-! The reductions with an i32 and an f32 variant (R203). -/

section
variable {s : State} {l : BitVec 4} {d a : BitVec 7} {m : BitVec 3} {rounds : Bool} {ints : Mask → (Nat → Word) → Word}
  {floats : Warp → Mask → (Nat → Word) → Word × BitVec 8} (h : s.VectorReady [] [(d.toNat, 1)] [a.toNat])
include h

theorem redUnit_ints {r : Word} (hr : ints (s.w.members m) (fun j => (s.w.src a.toNat 0).at j) = r) :
    redUnit l d a 0 m rounds ints floats s =
      s.vectorDone l.toNat [a.toNat] ([.v d.toNat (s.w.members m) (Vec.ofFn fun _ => r)], 0) :=
  (crossUnit_single h rfl).trans (by rw [← hr]; rfl)

theorem redUnit_floats (hmode : rounds = true → modeOk s.w.fm = true) :
    let c := s.w.members m
    let r := floats s.w c fun j => (s.w.src a.toNat 0).at j
    redUnit l d a 1 m rounds ints floats s = s.vectorDone l.toNat [a.toNat]
      (if c = 0 then ([.v d.toNat c (Vec.ofFn fun _ => 0)], 0) else ([.v d.toNat c (Vec.ofFn fun _ => r.1)], r.2)) := by
  have hpre : (if (1 : BitVec 1) = 1 ∧ rounds then needMode s else .ok ()) = .ok () := by
    split
    · next hr => exact (need_ok _ _).mpr (hmode hr.2)
    · rfl
  refine (crossUnit_single h hpre).trans (congrArg (s.vectorDone l.toNat [a.toNat]) ?_)
  unfold crossResult
  dsimp only
  rw [if_neg (show ¬ (1 : BitVec 1) = 0 by decide)]
  split <;> rfl

theorem redUnit_reserved (hmode : modeOk s.w.fm = false) : redUnit l d a 1 m true ints floats s = s.trap 0x02 0 :=
  (crossUnit_rounds h).trans (if_pos ((modeOk_eq_false_iff _).mp hmode))

/-- The total of the members in each lane of C (R204). -/
theorem exec_vredAdd_f32 :
    let C := laneList (s.w.members m)
    let total := fpTotal s.w (C.map fun j => s.w.f32 ((s.w.src a.toNat 0).at j))
    exec (.vredAdd l d a 1 m) s = .next
      (if 6 ≤ s.w.fm.toNat / 4096 % 8 then s.trap 0x02 0
       else s.vectorDone l.toNat [a.toNat]
        ([.v d.toNat (s.w.members m) (Vec.ofFn fun _ => total.1)], flagsOver C fun _ => total.2)) := by
  intro C total
  refine congrArg Host.Outcome.next ?_
  split
  · next hm => exact redUnit_reserved h ((modeOk_eq_false_iff _).mpr hm)
  · next hm =>
    refine (redUnit_floats h fun _ => (modeOk_iff _).mpr (not_le.mp hm)).trans (congrArg (s.vectorDone l.toNat [a.toNat]) ?_)
    by_cases hc : s.w.members m = 0
    · have hC : C = [] := laneList_eq_nil.mpr hc
      have htotal : total = (0, 0) := by
        rw [show total = fpTotal s.w (C.map _) from rfl, hC]
        exact fpTotal_nil s.w
      rw [if_pos hc, hC, htotal]
      rfl
    · rw [if_neg hc, flagsOver_const (laneList_eq_nil.not.mpr hc)]
      rfl

/-- Running sums, each rounded once (R204, R205). -/
theorem exec_vscanAddf_rounds (v : BitVec 1) :
    let c := s.w.members m
    let sum := fun k => fpTotal s.w ((scanLanes c (v = 1) k).map fun j => s.w.f32 ((s.w.src a.toNat 0).at j))
    exec (.vscanAddf l d a v m) s = .next
      (if 6 ≤ s.w.fm.toNat / 4096 % 8 then s.trap 0x02 0
       else s.vectorDone l.toNat [a.toNat]
        ([.v d.toNat c (Vec.ofFn fun k => (sum k).1)], flagsOver (laneList c) fun k => (sum k).2)) :=
  congrArg Host.Outcome.next (crossUnit_rounds h)

end

/-! The forms without flags (Table 9 of R205). -/

theorem reduce_add (c : Mask) (x : Nat → Word) :
    reduce c x 0 (· + ·) = BitVec.ofNat 32 ((laneList c).map fun j => (x j).toNat).sum := foldl_add_words x _

/-- A register run of a unit without repetition lies in v0 to v119 (R36). -/
theorem State.VectorReady.run_lt {s : State} {runs : List (Nat × Nat)} {srcs : List Nat} (h : s.VectorReady [] runs srcs)
    {r : Nat × Nat} (hr : r ∈ runs) : r.1 < 120 := by
  have hok := h.allotted
  rw [State.regsOk, h.accepts.rep List.not_mem_nil] at hok
  simp only [List.range_one, List.all_cons, List.all_nil, Bool.and_true, Bool.and_eq_true, List.all_eq_true] at hok
  exact of_decide_eq_true (hok.1 r hr).1

section
variable {s : State} {l : BitVec 4} {d a : BitVec 7} {m : BitVec 3} {f : Mask → (Nat → Word) → (Nat → Word) → Nat → Word}
  {g : Nat → Word}

theorem crossPlain_single (h : s.VectorReady [] [(d.toNat, 1)] [a.toNat])
    (hg : ∀ k, f (s.w.members m) (fun j => (s.w.src a.toNat 0).at j) (fun j => (s.w.v (a.toNat + 1)).at j) k = g k) :
    crossPlain l d a m false f s = s.vectorDone l.toNat [a.toNat] ([.v d.toNat (s.w.members m) (Vec.ofFn g)], 0) :=
  (crossUnit_single h rfl).trans (by rw [← funext hg]; rfl)

theorem crossPlain_pair (h : s.VectorReady [] [(d.toNat, 1), (a.toNat, 2)] [])
    (hg : ∀ k, f (s.w.members m) (fun j => (s.w.v a.toNat).at j) (fun j => (s.w.v (a.toNat + 1)).at j) k = g k) :
    crossPlain l d a m true f s = s.vectorDone l.toNat [] ([.v d.toNat (s.w.members m) (Vec.ofFn g)], 0) := by
  have hsrc : s.w.src a.toNat 0 = s.w.v a.toNat := if_pos (h.run_lt (r := (a.toNat, 2)) (by simp))
  refine (crossUnit_pair h rfl).trans ?_
  rw [← funext hg, ← hsrc]
  rfl

theorem exec_crossForm (h : s.VectorReady [] [(d.toNat, 1)] [a.toNat]) : ∀ f ∈ crossForms l d a m,
    exec f.1 s = .next (s.vectorDone l.toNat [a.toNat] ([.v d.toNat (s.w.members m)
      (Vec.ofFn fun k => f.2 (laneList (s.w.members m)) (fun j => (s.w.src a.toNat 0).at j) k)], 0)) := by
  simp only [crossForms, List.forall_mem_cons, List.not_mem_nil, false_imp_iff, implies_true, and_true]
  refine ⟨congrArg Host.Outcome.next ?bcast, congrArg Host.Outcome.next ?add, congrArg Host.Outcome.next ?min,
    congrArg Host.Outcome.next ?max, congrArg Host.Outcome.next ?and, congrArg Host.Outcome.next ?or, congrArg Host.Outcome.next ?xor,
    congrArg Host.Outcome.next ?inclusive, congrArg Host.Outcome.next ?exclusive⟩
  case bcast | and | or | xor => exact crossPlain_single h fun _ => rfl
  case add => exact redUnit_ints h (reduce_add _ _)
  case min => exact redUnit_ints h (reduce_minS _ _)
  case max => exact redUnit_ints h (reduce_maxS _ _)
  case inclusive | exclusive => exact crossPlain_single h fun k => foldl_add_words _ _

theorem exec_pairForm (h : s.VectorReady [] [(d.toNat, 1), (a.toNat, 2)] []) : ∀ f ∈ pairForms l d a m,
    exec f.1 s = .next (s.vectorDone l.toNat [] ([.v d.toNat (s.w.members m)
      (Vec.ofFn fun k => f.2 (laneList (s.w.members m)) (fun j => (s.w.v a.toNat).at j) (fun j => (s.w.v (a.toNat + 1)).at j) k)], 0)) := by
  simp only [pairForms, List.forall_mem_cons, List.not_mem_nil, false_imp_iff, implies_true, and_true]
  refine ⟨congrArg Host.Outcome.next (crossPlain_pair h fun k => ?shfl), congrArg Host.Outcome.next (crossPlain_pair h fun k => ?shflx),
    congrArg Host.Outcome.next (crossPlain_pair h fun k => ?compact)⟩
  case shfl => rw [pickLane_eq, bitsOf_low]; rfl
  case shflx => rw [pickLane_eq, bitsOf_low]; rfl
  case compact =>
    rw [List.countP_eq_length_filter]
    simp only [decide_toNat_ne_zero] <;> rfl

end

/-! The FP32 forms (R204). -/

section
variable {s : State} {l : BitVec 4} {d a : BitVec 7} {m : BitVec 3} (h : s.VectorReady [] [(d.toNat, 1)] [a.toNat])
include h

theorem exec_sumForm : ∀ f ∈ sumForms l d a m,
    let C := laneList (s.w.members m)
    let sum := fun js : List Nat => fpTotal s.w (js.map fun j => s.w.f32 ((s.w.src a.toNat 0).at j))
    exec f.1 s = .next
      (if 6 ≤ s.w.fm.toNat / 4096 % 8 then s.trap 0x02 0
       else s.vectorDone l.toNat [a.toNat] ([.v d.toNat (s.w.members m) (Vec.ofFn fun k => (sum (f.2 C k)).1)],
        flagsOver C fun k => (sum (f.2 C k)).2)) := by
  simp only [sumForms, List.forall_mem_cons, List.not_mem_nil, false_imp_iff, implies_true, and_true]
  exact ⟨exec_vredAdd_f32 h, exec_vscanAddf_rounds h 0, exec_vscanAddf_rounds h 1⟩

/-- The least and the greatest member (R144, R204). -/
theorem exec_vredBest (hC : s.w.members m ≠ 0) :
    let best := fun big => fpBest big ((laneList (s.w.members m)).map fun j => Fmt.decode .f32 false ((s.w.src a.toNat 0).at j).toNat)
    exec (.vredMin l d a 1 m) s = .next (s.vectorDone l.toNat [a.toNat]
        ([.v d.toNat (s.w.members m) (Vec.ofFn fun _ => (best false).1)], (best false).2))
      ∧ exec (.vredMax l d a 1 m) s = .next (s.vectorDone l.toNat [a.toNat]
        ([.v d.toNat (s.w.members m) (Vec.ofFn fun _ => (best true).1)], (best true).2)) := by
  have h0 : (false : Bool) = true → modeOk s.w.fm = true := fun h => absurd h Bool.false_ne_true
  exact ⟨congrArg Host.Outcome.next ((redUnit_floats h h0).trans (by rw [if_neg hC])),
    congrArg Host.Outcome.next ((redUnit_floats h h0).trans (by rw [if_neg hC]))⟩

/-- Without members they write no lane. -/
theorem exec_vredBest_none (hC : s.w.members m = 0) :
    exec (.vredMin l d a 1 m) s = .next (s.vectorDone l.toNat [a.toNat] ([.v d.toNat 0 (Vec.ofFn fun _ => 0)], 0))
      ∧ exec (.vredMax l d a 1 m) s = .next (s.vectorDone l.toNat [a.toNat] ([.v d.toNat 0 (Vec.ofFn fun _ => 0)], 0)) := by
  have h0 : (false : Bool) = true → modeOk s.w.fm = true := fun h => absurd h Bool.false_ne_true
  exact ⟨congrArg Host.Outcome.next ((redUnit_floats h h0).trans (by rw [if_pos hC, hC])),
    congrArg Host.Outcome.next ((redUnit_floats h h0).trans (by rw [if_pos hC, hC]))⟩

end

/-- Settles O26: each form is a unit of VL2, and its values are those of Table 9. -/
theorem crossLaneResults : Obligations.CrossLaneResults := by
  refine ⟨fun s l d a m => ?_, fun s l d a m h => ?_⟩
  · rw [← Warp.members_eq]
    exact ⟨exec_crossForm, exec_pairForm, exec_vballot_ready⟩
  · rw [← Warp.members_eq]
    have hmembers : membersOf (s.w.members m) = [] ↔ s.w.members m = 0 := laneList_eq_nil
    exact ⟨exec_sumForm h, fun hC => (exec_vredBest h (hmembers.not.mp hC)).1, fun hC => (exec_vredBest h (hmembers.not.mp hC)).2,
      fun hC => ⟨_, _, exec_vredBest_none h (hmembers.mp hC)⟩⟩

end Sys2Proof.Machine
end

section
/-! SUPPORT. The best-first list: entries in the order of R206, by insertion, and the unit that merges a list with candidates. -/

namespace Sys2Proof.Machine

/-! The order of entries (R206). -/

/-- A value that is no NaN by its place among the values, both zeros in one place. -/
def Num.rank : Num → Int ×ₗ ℚ
  | .nan _ => toLex (0, 0)
  | .inf n => toLex (if n = true then -1 else 1, 0)
  | .fin n m e b => toLex (0, (Num.fin n m e b).value)

theorem Num.lt_iff_rank {x y : Num} (hx : x.isNan = false) (hy : y.isNan = false) : x.lt y = true ↔ x.rank < y.rank := by
  match x, y with
  | .nan _, _ => exact absurd hx (by decide +revert)
  | .inf _, .nan _ | .fin .., .nan _ => exact absurd hy (by decide +revert)
  | .inf true, .inf true | .inf true, .inf false | .inf false, .inf true | .inf false, .inf false =>
    simp [Num.lt, Num.rank, Prod.Lex.toLex_lt_toLex]
  | .inf true, .fin .. | .inf false, .fin .. | .fin .., .inf true | .fin .., .inf false =>
    simp [Num.lt, Num.rank, Prod.Lex.toLex_lt_toLex]
  | .fin n m e b, .fin k p f c => simp [Num.lt_fin, Num.rank, Prod.Lex.toLex_lt_toLex]

theorem Num.eq_iff_rank {x y : Num} (hx : x.isNan = false) (hy : y.isNan = false) : x.eq y = true ↔ x.rank = y.rank := by
  have hxy := Num.lt_iff_rank hx hy
  have hyx := Num.lt_iff_rank hy hx
  rw [Num.eq, Bool.and_eq_true, decide_eq_true_eq, decide_eq_true_eq, hxy, hyx, not_lt, not_lt, and_comm, ← le_antisymm_iff]

/-- An entry holds a number. -/
def isEntry (x : Word × Word) : Bool := ! (Fmt.decode .f32 false x.1.toNat).isNan

/-- Places in a best-first list: larger values first, then smaller indices. -/
abbrev EntryPlace := (Int ×ₗ ℚ)ᵒᵈ ×ₗ ℕ

/-- The place of an entry. -/
def entryKey (x : Word × Word) : EntryPlace :=
  toLex (OrderDual.toDual (Fmt.decode .f32 false x.1.toNat).rank, x.2.toNat)

section
variable {x y : Word × Word}

theorem isNan_of_isEntry (h : isEntry x = true) : (Fmt.decode .f32 false x.1.toNat).isNan = false := by
  simpa [isEntry] using h

theorem ranksBefore_iff (hx : isEntry x = true) (hy : isEntry y = true) : ranksBefore x y = true ↔ entryKey x < entryKey y := by
  have hx := isNan_of_isEntry hx
  have hy := isNan_of_isEntry hy
  simp only [ranksBefore, entryKey, Prod.Lex.toLex_lt_toLex, Bool.or_eq_true, Bool.and_eq_true, decide_eq_true_eq,
    Num.lt_iff_rank hy hx, Num.eq_iff_rank hx hy, OrderDual.toDual_lt_toDual, OrderDual.toDual_inj]

theorem entryKey_le_iff (hx : isEntry x = true) (hy : isEntry y = true) :
    entryKey x ≤ entryKey y ↔ (Fmt.decode .f32 false y.1.toNat).lt (Fmt.decode .f32 false x.1.toNat) = true
      ∨ (Fmt.decode .f32 false x.1.toNat).eq (Fmt.decode .f32 false y.1.toNat) = true ∧ x.2.toNat ≤ y.2.toNat := by
  have hx := isNan_of_isEntry hx
  have hy := isNan_of_isEntry hy
  simp only [entryKey, Prod.Lex.toLex_le_toLex, Num.lt_iff_rank hy hx, Num.eq_iff_rank hx hy, OrderDual.toDual_lt_toDual,
    OrderDual.toDual_inj]

theorem entryKey_eq_iff (hx : isEntry x = true) (hy : isEntry y = true) :
    entryKey x = entryKey y ↔ (Fmt.decode .f32 false x.1.toNat).eq (Fmt.decode .f32 false y.1.toNat) = true ∧ x.2 = y.2 := by
  simp only [entryKey, toLex_inj, Prod.mk.injEq, OrderDual.toDual_inj, BitVec.toNat_inj,
    Num.eq_iff_rank (isNan_of_isEntry hx) (isNan_of_isEntry hy)]

end

/-- p tells the entries of the place k. -/
def TellsPlace (p : Word × Word → Bool) (k : EntryPlace) : Prop := ∀ y, isEntry y = true → (p y = true ↔ entryKey y = k)

/-! Insertion (R206). -/

theorem rankInsert_perm (x : Word × Word) (l : List (Word × Word)) : (rankInsert x l).Perm (x :: l) := by
  induction l with
  | nil => exact .refl _
  | cons y r ih =>
    unfold rankInsert
    split
    · exact .refl _
    · exact (ih.cons y).trans (.swap x y r)

section
variable {x : Word × Word} {l : List (Word × Word)} (hx : isEntry x = true) (hl : ∀ y ∈ l, isEntry y = true)
  (hs : l.Pairwise fun y z => entryKey y ≤ entryKey z)
include hx hl hs

theorem rankInsert_sorted : (rankInsert x l).Pairwise fun y z => entryKey y ≤ entryKey z := by
  induction l with
  | nil => exact List.pairwise_singleton _ _
  | cons y r ih =>
    obtain ⟨hy, hr⟩ := List.forall_mem_cons.mp hl
    obtain ⟨hyr, hsr⟩ := List.pairwise_cons.mp hs
    unfold rankInsert
    split
    · next hxy =>
      have hlt := (ranksBefore_iff hx hy).mp hxy
      exact List.pairwise_cons.mpr ⟨List.forall_mem_cons.mpr ⟨hlt.le, fun z hz => hlt.le.trans (hyr z hz)⟩, hs⟩
    · next hxy =>
      have hle := not_lt.mp fun h => hxy ((ranksBefore_iff hx hy).mpr h)
      refine List.pairwise_cons.mpr ⟨fun z hz => ?_, ih hr hsr⟩
      obtain rfl | hz := List.mem_cons.mp ((rankInsert_perm x r).mem_iff.mp hz)
      · exact hle
      · exact hyr z hz

/-- An entry stands behind those of its place that the list holds already. -/
theorem filter_rankInsert {p : Word × Word → Bool} {k : EntryPlace} (hp : TellsPlace p k) :
    (rankInsert x l).filter p = l.filter p ++ [x].filter p := by
  induction l with
  | nil => rfl
  | cons y r ih =>
    obtain ⟨hy, hr⟩ := List.forall_mem_cons.mp hl
    obtain ⟨hyr, hsr⟩ := List.pairwise_cons.mp hs
    unfold rankInsert
    split
    · next hxy =>
      have hlt := (ranksBefore_iff hx hy).mp hxy
      cases hpx : p x with
      | false => simp [List.filter_cons, hpx]
      | true =>
        have hnone : (y :: r).filter p = [] := by
          refine List.filter_eq_nil_iff.mpr fun z hz hpz => ?_
          have hlt : entryKey x < entryKey z := hlt.trans_le <| by
            obtain rfl | hz := List.mem_cons.mp hz
            · exact le_rfl
            · exact hyr z hz
          rw [(hp z (hl z hz)).mp hpz, ← (hp x hx).mp hpx] at hlt
          exact lt_irrefl _ hlt
        rw [List.filter_cons_of_pos hpx, hnone, List.filter_cons_of_pos hpx]
        rfl
    · rw [List.filter_cons, List.filter_cons, ih hr hsr]
      split <;> rfl

end

/-- What insertion of a list of entries makes of a best-first list. -/
theorem foldl_rankInsert (xs : List (Word × Word)) (hx : ∀ x ∈ xs, isEntry x = true) (l : List (Word × Word))
    (hl : ∀ y ∈ l, isEntry y = true) (hs : l.Pairwise fun y z => entryKey y ≤ entryKey z) :
    let t := xs.foldl (fun l x => rankInsert x l) l
    t.Perm (l ++ xs) ∧ (t.Pairwise fun y z => entryKey y ≤ entryKey z)
      ∧ ∀ {p k}, TellsPlace p k → t.filter p = l.filter p ++ xs.filter p := by
  induction xs generalizing l with
  | nil => exact ⟨by simp, hs, fun _ => by simp⟩
  | cons x r ih =>
    obtain ⟨hx, hr⟩ := List.forall_mem_cons.mp hx
    have hperm := rankInsert_perm x l
    have hentries : ∀ y ∈ rankInsert x l, isEntry y = true := fun y hy => by
      obtain rfl | hy := List.mem_cons.mp (hperm.mem_iff.mp hy)
      · exact hx
      · exact hl y hy
    obtain ⟨ihperm, ihsorted, ihfilter⟩ := ih hr (rankInsert x l) hentries (rankInsert_sorted hx hl hs)
    refine ⟨ihperm.trans ((hperm.append_right r).trans List.perm_middle.symm), ihsorted, fun hp => ?_⟩
    rw [List.foldl_cons, ihfilter hp, filter_rankInsert hx hl hs hp, List.append_assoc, ← List.filter_append]
    rfl

theorem bestFirst_eq (xs : List (Word × Word)) : bestFirst xs = (xs.filter isEntry).foldl (fun l x => rankInsert x l) [] := by
  have h : (fun x : Word × Word => decide ¬ (Fmt.decode .f32 false x.1.toNat).isNan) = isEntry := funext fun x => by simp [isEntry]
  rw [bestFirst, h]

/-- The best-first list holds the entries that are numbers, in their order, and those of one place as they came (R206). -/
theorem bestFirst_spec (xs : List (Word × Word)) :
    (bestFirst xs).Perm (xs.filter isEntry) ∧ ((bestFirst xs).Pairwise fun y z => entryKey y ≤ entryKey z)
      ∧ ∀ {p k}, TellsPlace p k → (bestFirst xs).filter p = (xs.filter isEntry).filter p := by
  rw [bestFirst_eq]
  exact foldl_rankInsert _ (fun x hx => (List.mem_filter.mp hx).2) [] nofun .nil

/-! The unit (R206). -/

theorem exec_vtopk_merges {s : State} {l : BitVec 4} {d a : BitVec 7} {m : BitVec 3} (h : s.accepts 7 [4] false)
    (hregs : s.regsOk [(d.toNat, 2), (a.toNat, 2)] [] = true)
    (hsettled : ∀ r ∈ s.unitRegs [(d.toNat, 2), (a.toNat, 2)] [], s.pendingLanes r = false) :
    let k := (s.w.hintMod.getD 0).toNat
    let old := (lanes.take k).map fun j => ((s.w.v d.toNat).at j, (s.w.v (d.toNat + 1)).at j)
    let new := (laneList (s.w.members m)).map fun j => ((s.w.v a.toNat).at j, (s.w.v (a.toNat + 1)).at j)
    exec (.vtopk l d a m) s = .next
      (if k = 0 ∨ 64 < k then s.trap 0x02 0
       else s.done (s.w.ran l.toNat .none (listWrites d.toNat k (bestFirst (old ++ new)))) (s.w.pc + 4)) := by
  intro k old new
  have hpending : s.notPending (s.unitRegs [(d.toNat, 2), (a.toNat, 2)] []) = .ok () :=
    (ready_ok _ _).mpr (List.all_eq_true.mpr fun r hr => by simp [hsettled r hr])
  have hbody : execVtopk l d a m s = .next (unitMod 7 [4] false false (fun _ =>
      (need (1 ≤ k && k ≤ 64)).map fun _ =>
        { s := s, writes := listWrites d.toNat k (bestFirst (old ++ new)), la := l.toNat }) s) := by
    refine congrArg Host.Outcome.next ?_
    rw [unitMod_runs h, unitMod_runs h, (need_ok _ _).mpr hregs, hpending]
    rfl
  refine hbody.trans (congrArg Host.Outcome.next ?_)
  rw [unitMod_runs h]
  by_cases hk : k = 0 ∨ 64 < k
  · have hneed : need (1 ≤ k && k ≤ 64) = .error (.trap 0x02 0) := if_neg (by simp; omega)
    rw [if_pos hk, hneed]
    rfl
  · have hneed : need (1 ≤ k && k ≤ 64) = .ok () := (need_ok _ _).mpr (by simp; omega)
    rw [if_neg hk, hneed]
    exact finish_la s l.toNat .none _

/-- Settles O27: the unit merges, and insertion keeps a best-first list in the order of R206. -/
theorem topKMerges : Obligations.TopKMerges := by
  refine ⟨fun s l d a m h hregs hsettled => ?_, fun xs v i => ?_⟩
  · intro k c entry best place
    refine (exec_vtopk_merges h hregs hsettled).trans (congrArg Host.Outcome.next ?_)
    split
    · rfl
    · next hk =>
      have hold : lanes.take k = List.range k := by
        rw [lanes, List.take_range, Nat.min_eq_left (by omega)]
      rw [hold, Warp.members_eq]
      rfl
  · intro num same
    obtain ⟨hperm, hsorted, hstable⟩ := bestFirst_spec xs
    have hentry {x} (hx : x ∈ bestFirst xs) : isEntry x = true := (List.mem_filter.mp (hperm.mem_iff.mp hx)).2
    refine ⟨hperm, hsorted.imp_of_mem fun hx hy h => (entryKey_le_iff (hentry hx) (hentry hy)).mp h, fun hv => ?_⟩
    have hsame : TellsPlace same (entryKey (v, i)) := fun y hy => by
      rw [entryKey_eq_iff hy (by simpa [isEntry] using hv)]
      simp [same, num]
    rw [hstable hsame, List.filter_filter]
    exact List.filter_congr fun x _ => Bool.and_comm _ _

end Sys2Proof.Machine
end

section
/-! SUPPORT. Boundaries: the report and the pre-emption that a warp takes there, and the save of a workgroup that has vacated (R198, R412,
R414, R415). -/

namespace Sys2Proof.Machine

/-! The handler (R407). -/

/-- The warp at the first unit of its handler, which a trap has entered. -/
def Warp.inHandler (w : Warp) (c : BitVec 8) (v : DWord) (e : BitVec 48) : Warp :=
  { w.commitAll with
    hints := [], badHint := none, latch := none, park := .none, left := w.left.filter fun x => ! x.inh, tcause := c, tval := v, epc := e
    inh := true, pre := decide (c = 0x0D), rst := false, abort := false, dh := w.depth, crpcSaved := w.crpc, pc := w.tvec
    issued := w.issued + 1 }

theorem State.trapEntry_inHandler {s : State} (c : BitVec 8) (v : DWord) (e : BitVec 48) (hi : s.w.inh = false) (ht : s.w.tvec ≠ 0) :
    s.trapEntry c v e = { s with w := s.w.inHandler c v e } := by
  have hleft : (fun x : LeftLanes => decide ¬ x.inh) = fun x => ! x.inh := funext fun x => by simp
  rw [State.trapEntry_enters c v e hi ht, hleft]
  rfl

/-! Reports (R198). -/

theorem State.takeReport_nil {s : State} (h : s.w.reports = []) : s.takeReport = s := by
  unfold State.takeReport
  rw [h]

theorem State.takeReport_cons {s : State} {r : Report} {rest : List Report} (h : s.w.reports = r :: rest) :
    s.takeReport = ({ s with w := { s.w with reports := rest } } : State).trap r.cause r.tval := by
  unfold State.takeReport
  rw [h]

theorem exec_asyncReportTrap_idle {s : State} (h : s.w.inh = true ∨ s.w.reports = []) : exec .asyncReportTrap s = .next s := by
  refine congrArg Host.Outcome.next ?_
  split
  · rfl
  · next hi => exact State.takeReport_nil (h.resolve_left hi)

theorem exec_asyncReportTrap_takes {s : State} {r : Report} {rest : List Report} (hi : s.w.inh = false) (ht : s.w.tvec ≠ 0)
    (h : s.w.reports = r :: rest) :
    exec .asyncReportTrap s =
      .next { s with w := ({ s.w with reports := rest } : Warp).inHandler r.cause r.tval s.w.unitPc } := by
  refine congrArg Host.Outcome.next ((if_neg (by simp [hi])).trans ?_)
  rw [State.takeReport_cons h]
  exact State.trapEntry_inHandler (s := { s with w := { s.w with reports := rest } }) r.cause r.tval s.w.unitPc hi ht

/-! Pre-emption of the running warp (R412). -/

theorem State.atWarp_of_eq {s t : State} {f : State → State} (h : s.w.life ≠ .empty) (hf : f s = t) (hp : t.w.place = s.w.place)
    (hl : t.w.life ≠ .empty) : s.atWarp s.w.place f = t := by
  subst hf
  exact s.atWarp_self f h hp hl

section
variable {s : State}

theorem Warp.canPreempt_of {w : Warp} (hl : w.life = .run) (hi : w.inh = false) (hf : w.fence = none) (hc : w.casm = none)
    (hh : w.hints = []) (hb : w.badHint = none) : w.canPreempt = true := by
  simp [Warp.canPreempt, Warp.inProgress, hl, hi, hf, hc, hh, hb]

/-- At a boundary without an arrival pop, with its tagged sends acknowledged and its cluster at rest, the warp takes the trap. -/
theorem exec_preemption_takes (hl : s.w.life = .run) (hi : s.w.inh = false) (ht : s.w.tvec ≠ 0) (hc : s.w.canPreempt = true)
    (hk : s.w.park = .none) (ha : s.w.arrived = false) (hs : s.strongHeld = false) (hq : s.quiesces = false) :
    exec (.preemption s.w.place) s = .next { s.withdraw s.w.place with
      w := ({ s.w with preempt := false, left := (s.w.left.find? s.w.ownsLeft).toList } : Warp).inHandler 0x0D 0 s.w.unitPc } := by
  have hpop : s.popDue = false := by simp [State.popDue, ha]
  have hfirst : s.popFirst = s := if_neg (by simp [hpop])
  have hpre : s.preemptible = true := by simp [State.preemptible, hc, hs, hq]
  have htrap : s.takePreempt = { s.withdraw s.w.place with
      w := ({ s.w with preempt := false, left := (s.w.left.find? s.w.ownsLeft).toList } : Warp).inHandler 0x0D 0 s.w.unitPc } := by
    unfold State.takePreempt
    rw [hk]
    exact State.trapEntry_inHandler (s := { s.withdraw s.w.place with
      w := { s.w with preempt := false, left := (s.w.left.find? s.w.ownsLeft).toList } }) 0x0D 0 s.w.unitPc hi ht
  refine congrArg Host.Outcome.next (State.atWarp_of_eq (by simp [hl]) ?_ (by simp [Warp.inHandler]) (by simp [Warp.inHandler, hl]))
  simp [hl, hc, hfirst, hpre, hpop, htrap]

/-- Inside a handler the request is carried to the next boundary. -/
theorem exec_preemption_carried (hl : s.w.life = .run) (hi : s.w.inh = true) :
    exec (.preemption s.w.place) s = .next { s with w := { s.w with preempt := true } } := by
  have hc : s.w.canPreempt = false := by simp [Warp.canPreempt, hi]
  refine congrArg Host.Outcome.next (State.atWarp_of_eq (by simp [hl]) ?_ rfl (by simp [hl]))
  simp [hl, hc, State.preemptible]

theorem exec_preemption_retired (hl : s.w.life = .retired) : exec (.preemption s.w.place) s = .next s :=
  congrArg Host.Outcome.next (State.atWarp_of_eq (by simp [hl]) (by simp [hl]) rfl (by simp [hl]))

end

/-! The save of a workgroup (R414, R415). -/

/-- What the writes of a save block, with their outcome, make of the state s before them. -/
def State.afterSave (s : State) (g : Group) (l : Launch) : State × Except Bool Unit → State
  | (s1, .ok _) => s1.leaveCore g
  | (_, .error true) => s
  | (s1, .error false) => s1.endNow l 0x0B

section
variable {s : State} {g : Group} {l : Launch} (hg : (s.allGroups.find? fun h => h.key = g.key) = some g)
include hg

theorem exec_workgroupSave_resident (hv : s.vacated g = false) : exec (.workgroupSave g.key) s = .next s := by
  refine congrArg Host.Outcome.next ?_
  simp [hg, hv]

theorem exec_workgroupSave_vacated (hv : s.vacated g = true) (hl : s.launchOf g = some l) {x : State × Except Bool Unit}
    (hput : State.putFors g.key.ld.toNat g.col.toNat (s.queueOf g.key.ld.toNat g.key.queue.toNat).owner.toNat
      (blockAddr (s.queueOf g.key.ld.toNat g.key.queue.toNat) g.block) (s.saveWords g) s = x) :
    exec (.workgroupSave g.key) s = .next (s.afterSave g l x) := by
  refine congrArg Host.Outcome.next ?_
  simp only [hg, hv, hl, if_true, hput]
  rfl

end

/-- No warp of a workgroup that has left its core is left, and its buffers are empty. -/
theorem State.leaveCore_leaves (g : Group) (s : State) :
    (s.leaveCore g).mem = s.mem ∧ (∀ w ∈ (s.leaveCore g).warps, w.key ≠ g.key)
      ∧ ∀ h ∈ (s.leaveCore g).groups, h.key = g.key → h.saved = true ∧ h.abuf = [] ∧ h.wbuf = [] := by
  refine ⟨rfl, fun w hw => of_decide_eq_true (List.mem_filter.mp hw).2, fun h hh hk => ?_⟩
  obtain ⟨h', -, rfl⟩ := List.mem_map.mp hh
  by_cases hk' : h'.key = g.key
  · rw [if_pos hk']
    exact ⟨rfl, rfl, rfl⟩
  · rw [if_neg hk'] at hk
    exact absurd hk hk'

/-- Settles O45: a warp at a boundary enters its handler, and the writes of a save block decide what becomes of the workgroup. -/
theorem preemptionAndSave : Obligations.PreemptionAndSave := by
  intro s s1 r rest g l entered
  refine ⟨exec_asyncReportTrap_idle, exec_asyncReportTrap_takes, fun hl hi ht hf hc hh hb hk ha hs hq => ?_, exec_preemption_carried,
    exec_preemption_retired, fun hg => ?_⟩
  · have hpc : s.w.unitPc = s.w.pc := by simp [Warp.unitPc, hh]
    rw [exec_preemption_takes hl hi ht (Warp.canPreempt_of hl hi hf hc hh hb) hk ha hs hq, hpc]
    rfl
  · have hsave {x} := @exec_workgroupSave_vacated s g l hg (x := x)
    refine ⟨exec_workgroupSave_resident hg, fun hv hl hput => ?_, fun hv hl hput => ?_, fun hv hl hput => ?_⟩
    · exact hsave (x := (s1, .error false)) hv hl hput
    · exact hsave (x := (s1, .error true)) hv hl hput
    · exact ⟨s1.leaveCore g, hsave (x := (s1, .ok ())) hv hl hput, State.leaveCore_leaves g s1⟩

end Sys2Proof.Machine
end

section
/-! SUPPORT. The buffers: what every buffer form checks before it acts, the lanes of an atomic in their order, and what a write keeps
for the passes that have not read (R213 to R215, R217, R238). -/

namespace Sys2Proof.Machine

/-! A unit over registers that can begin (R303, R306). -/

theorem State.UnitReady.notPending {s : State} {acc regs srcs : List Nat} (h : s.UnitReady acc regs srcs) :
    s.notPending regs = .ok () :=
  (ready_ok _ _).mpr (List.all_eq_true.mpr fun r hr => by simp [h.settled r hr])

theorem State.UnitReady.popCheck {s : State} {acc regs srcs : List Nat} (h : s.UnitReady acc regs srcs) :
    s.popCheck srcs 1 = .ok () := by
  refine State.popCheck_ok fun q hq => ?_
  obtain ⟨e, r, hqueue, hvalue⟩ := h.queued q hq
  simp [hqueue, hvalue]

/-! The checks of R213. -/

section
variable {g : Group} {u : BitVec 1} {n : Nat} {os : List (Nat × Nat)} {x : Nat × Nat}

theorem bufCheck_misaligned (h : (os.find? fun o => o.2 % n ≠ 0) = some x) :
    bufCheck g u n os = .error (.trap 0x04 (BitVec.ofNat 64 x.2)) := by
  unfold bufCheck
  rw [h]

theorem bufCheck_aligned (h : (os.all fun o => o.2 % n = 0) = true) :
    bufCheck g u n os =
      (os.find? fun o => ! decide (o.2 + n ≤ g.len u)).elim (.ok ()) fun x => .error (.trap 0x0B (BitVec.ofNat 64 x.2)) := by
  have hnone : (os.find? fun o => o.2 % n ≠ 0) = none :=
    List.find?_eq_none.mpr fun o ho => by simpa using List.all_eq_true.mp h o ho
  have hout : (fun o : Nat × Nat => decide (g.len u < o.2 + n)) = fun o => ! decide (o.2 + n ≤ g.len u) :=
    funext fun o => by rw [← decide_not, decide_eq_decide, Nat.not_le]
  unfold bufCheck
  rw [hnone, hout]
  cases os.find? fun o => ! decide (o.2 + n ≤ g.len u) <;> rfl

theorem bufCheck_outside (ha : (os.all fun o => o.2 % n = 0) = true)
    (h : (os.find? fun o => ! decide (o.2 + n ≤ g.len u)) = some x) :
    bufCheck g u n os = .error (.trap 0x0B (BitVec.ofNat 64 x.2)) := by
  rw [bufCheck_aligned ha, h]
  rfl

theorem bufCheck_ok (h : (os.all fun o => o.2 % n = 0 && decide (o.2 + n ≤ g.len u)) = true) : bufCheck g u n os = .ok () := by
  simp only [List.all_eq_true, Bool.and_eq_true] at h
  have hnone : (os.find? fun o => ! decide (o.2 + n ≤ g.len u)) = none :=
    List.find?_eq_none.mpr fun o ho => by simp [(h o ho).2]
  rw [bufCheck_aligned (List.all_eq_true.mpr fun o ho => (h o ho).1), hnone]
  rfl

end

/-! The shape that the buffer forms share: operands, queues and offsets are checked, then the form acts. -/

/-- The body of a buffer form at s: `c` is what R36 asks of its operands, `e` what it does once every check has passed. -/
def State.bufBody (s : State) (c : Bool) (regs srcs : List Nat) (u : BitVec 1) (n : Nat) (os : List (Nat × Nat)) (e : Eff) :
    Except Stop Eff := do
  need c
  s.notPending regs
  s.popCheck srcs 1
  bufCheck s.wg u n os
  .ok e

/-- A buffer form of n bytes at the offsets `os` of its acting lanes traps as R213 says, or ends as t with its results. -/
structure State.BufferForm (s : State) (ins : Instr) (u : BitVec 1) (n : Nat) (os : List (Nat × Nat)) (t : State) (la : Nat)
    (load : LoadKind) (xs : List RegWrite) : Prop where
  misaligned : ∀ x, (os.find? fun o => o.2 % n ≠ 0) = some x → exec ins s = .next (s.trap 0x04 (BitVec.ofNat 64 x.2))
  outside : (os.all fun o => o.2 % n = 0) = true → ∀ x, (os.find? fun o => ! decide (o.2 + n ≤ s.wg.len u)) = some x →
    exec ins s = .next (s.trap 0x0B (BitVec.ofNat 64 x.2))
  acts : (os.all fun o => o.2 % n = 0 && decide (o.2 + n ≤ s.wg.len u)) = true →
    exec ins s = .next (t.done (t.w.ran la load xs) (s.w.pc + 4))

theorem State.UnitReady.bufferForm {s t : State} {regs srcs : List Nat} (h : s.UnitReady [] regs srcs) {c : Bool} (hc : c = true)
    {ins : Instr} {u : BitVec 1} {n : Nat} {os : List (Nat × Nat)} {la : Nat} {load : LoadKind} {xs : List RegWrite}
    {body : State → Except Stop Eff} (hexec : exec ins s = .next (unit [] false false body s))
    (hbody : body s = s.bufBody c regs srcs u n os { s := t, writes := xs, la := la, load := load }) (ht : t.w = s.w.popped srcs 1) :
    s.BufferForm ins u n os t la load xs := by
  have hchecks : body s = (bufCheck s.wg u n os >>= fun _ => .ok { s := t, writes := xs, la := la, load := load }) := by
    rw [hbody, State.bufBody, (need_ok c 0).mpr hc, h.notPending, h.popCheck]
    rfl
  obtain ⟨q0, q1, q2, q3, hq⟩ := s.w.popped_eq srcs 1
  have hpc : t.w.pc = s.w.pc := by rw [ht, hq]
  have hown : t.w.ownsLeft = s.w.ownsLeft := by
    rw [ht, hq]
    rfl
  refine ⟨fun x hx => ?_, fun ha x hx => ?_, fun hok => ?_⟩
  · rw [hexec, unit_trap h.accepts (by rw [hchecks, bufCheck_misaligned hx]; rfl)]
  · rw [hexec, unit_trap h.accepts (by rw [hchecks, bufCheck_outside ha hx]; rfl)]
  · rw [hexec, unit_ok h.accepts (by rw [hchecks, bufCheck_ok hok]; rfl), finish_la_of_ownsLeft hown, hpc]

/-! What the forms read and write. -/

theorem bufSize_div (w : Nat) : bufSize w / 4 = 2 ^ w := Nat.mul_div_cancel_left _ (by decide)

/-- The words that accesses of n bytes touch, n a multiple of 4. -/
theorem bufWords_eq (r : Nat) (os : List (Nat × Nat)) :
    bufWords (4 * r) (os.map Prod.snd) = os.flatMap fun o => (List.range r).map fun k => o.2 / 4 + k := by
  rw [bufWords, show (4 * r + 3) / 4 = r by omega, List.flatMap_map]

/-- The values read as results of the run at d. -/
theorem oldWrites_eq (d : BitVec 7) (n : Nat) (xs : List (Nat × Nat)) :
    oldWrites d.toNat n xs = runLoads d n (fun k x => BitVec.ofNat 32 (x / 2 ^ (32 * k))) xs := by
  have hmask : (fun l => xs.any fun x => decide (x.1 = l)) = fun l => (xs.map Prod.fst).contains l := by
    funext l
    rw [Bool.eq_iff_iff]
    simp
  have hword : ∀ x k, BitVec.ofNat 32 (bitsOf x (32 * k) 32) = BitVec.ofNat 32 (x / 2 ^ (32 * k)) := fun x k =>
    BitVec.eq_of_toNat_eq (by simp [bitsOf])
  unfold oldWrites runLoads
  simp only [hmask, hword]
  rfl

/-- The bytes that a buffer store gives, by their width. -/
theorem storeBytes_eq {w : Nat} (hw : w < 3) (r : Warp) (v l : Nat) :
    storeBytes (4 + w) r v l =
      (List.range (4 * 2 ^ w)).map fun i =>
        BitVec.ofNat 8 (((if v < 120 then r.v (v + i / 4) else r.src v 0).at l).toNat / 256 ^ (i % 4)) := by
  have hbytes : widthBytes (4 + w) = 4 * 2 ^ w := by interval_cases w <;> rfl
  have hbase : ∀ i, 2 ^ (8 * i) = 256 ^ i := fun i => Nat.pow_mul 2 8 i
  simp only [storeBytes, hbytes, hbase]

/-! `bld` and `bst` (R214). -/

section
variable {s : State} {u : BitVec 1} {d a : BitVec 7} {w : BitVec 2}

theorem exec_bld_form {l : BitVec 4} (hw : w.toNat < 3)
    (h : s.UnitReady [] (a.toNat :: (List.range (2 ^ w.toNat)).map (d.toNat + ·)) [a.toNat]) (hd : s.destOk d.toNat (2 ^ w.toNat) = true)
    (ha : s.srcOk a.toNat = true) :
    s.BufferForm (.bld l u d a w) u (bufSize w.toNat) (s.w.offsets a.toNat s.w.em) { s with w := s.w.popped [a.toNat] 1 } l.toNat .buffer
      (runLoads d (2 ^ w.toNat) (fun k x => BitVec.ofNat 32 (x / 2 ^ (32 * k)))
        ((s.w.offsets a.toNat s.w.em).map fun o => (o.1, s.wg.bufRead u o.2 (bufSize w.toNat)))) := by
  have hw3 : w ≠ 3 := by rintro rfl; exact absurd hw (by decide)
  rw [← oldWrites_eq]
  rw [← bufSize_div] at h hd ⊢
  exact h.bufferForm (Bool.and_eq_true_iff.mpr ⟨hd, ha⟩) (congrArg Host.Outcome.next (if_neg hw3)) rfl rfl

theorem exec_bst_form {g : BitVec 4} (hw : w.toNat < 3)
    (h : s.UnitReady [] (a.toNat :: (List.range (2 ^ w.toNat)).map (d.toNat + ·)) [a.toNat, d.toNat]) (ha : s.srcOk a.toNat = true)
    (hd : (if 2 ^ w.toNat = 1 then s.srcOk d.toNat else s.destOk d.toNat (2 ^ w.toNat)) = true) :
    let os := s.w.offsets a.toNat (s.w.em &&& s.w.guard g)
    s.BufferForm (.bst g u d a w) u (bufSize w.toNat) os
      { s.keepOld u (os.flatMap fun o => (List.range (2 ^ w.toNat)).map fun k => o.2 / 4 + k) with
        w := s.w.popped [a.toNat, d.toNat] 1
        wg := os.foldl (fun g o => g.bufWrite u o.2 (storeBytes (4 + w.toNat) s.w d.toNat o.1)) s.wg }
      0 .none [] := by
  have hw3 : w ≠ 3 := by rintro rfl; exact absurd hw (by decide)
  have hone : 2 ^ w.toNat = 1 ↔ bufSize w.toNat = 4 := by unfold bufSize; omega
  rw [if_congr hone rfl rfl] at hd
  intro os
  rw [← bufWords_eq]
  rw [← bufSize_div] at h hd
  exact h.bufferForm (Bool.and_eq_true_iff.mpr ⟨ha, hd⟩) (congrArg Host.Outcome.next (if_neg hw3)) rfl rfl

end

/-! The buffer atomics (R215). -/

theorem Group.bufRead_lt (g : Group) (u : BitVec 1) (o n : Nat) : g.bufRead u o n < 2 ^ (8 * n) := by
  have h := ofBytes_lt ((List.range n).map fun i => g.buf u (o + i))
  rwa [List.length_map, List.length_range, show 256 = 2 ^ 8 by rfl, ← Nat.pow_mul] at h

/-- An atomic of n bytes at one lane's offset: the workgroup with the new value, and the old value behind those of lower lanes. -/
def bufAtomicStep (u : BitVec 1) (n : Nat) (f : Nat → Nat → Nat) (t : Group × List (Nat × Nat)) (o : Nat × Nat) :
    Group × List (Nat × Nat) :=
  (t.1.bufWrite u o.2 (bytesOf n (f o.1 (t.1.bufRead u o.2 n))), t.2 ++ [(o.1, t.1.bufRead u o.2 n)])

/-- Lane by lane, each seeing the results of lower lanes; of the function only its values at n-byte operands count. -/
theorem foldl_bufAtomicStep {u : BitVec 1} {n : Nat} {f g : Nat → Nat → Nat} (hfg : ∀ k old, old < 2 ^ (8 * n) → f k old = g k old)
    (os : List (Nat × Nat)) (t : Group × List (Nat × Nat)) :
    os.foldl (bufAtomicStep u n g) t = ((bufAtomics u n f os t.1).1, t.2 ++ (bufAtomics u n f os t.1).2) := by
  induction os generalizing t with
  | nil => simp [bufAtomics]
  | cons o os ih =>
    rw [List.foldl_cons, ih, bufAtomicStep, bufAtomics, hfg o.1 _ (t.1.bufRead_lt u o.2 n)]
    simp

/-- An operand of a run: a register, or a pair of them. -/
theorem pairAt_eq (w : Warp) (r n l : Nat) :
    pairAt w r n l = if n = 8 then ((w.v r).at l).toNat + 2 ^ 32 * ((w.v (r + 1)).at l).toNat else ((w.v r).at l).toNat := by
  unfold pairAt
  split <;> rfl

theorem pairAt_lt (v : Warp) (r l : Nat) (w : BitVec 1) : pairAt v r (bufSize w.toNat) l < 2 ^ (8 * bufSize w.toNat) := by
  have hlow := ((v.v r).at l).isLt
  have hhigh := ((v.v (r + 1)).at l).isLt
  have hsize : bufSize w.toNat = 4 ∨ bufSize w.toNat = 8 := by revert w; decide
  rw [pairAt_eq]
  rcases hsize with hn | hn <;> rw [hn]
  · exact hlow
  · rw [if_pos rfl]
    omega

/-- An n-bit value read as signed, written out. -/
theorem signed_of_lt {n x : Nat} (h : x < 2 ^ n) : signed n x = if 2 ^ (n - 1) ≤ x then (x : Int) - (2 ^ n : Nat) else (x : Int) := by
  rw [signed, Nat.mod_eq_of_lt h]

section
variable {s : State} {l : BitVec 4} {u : BitVec 1} {d a : BitVec 7} {w : BitVec 1} {ins : Instr} {cas : Bool}
  {F : Nat → Nat → Nat → Nat → Nat} {f : Nat → Nat → Nat → Nat}

/-- A buffer atomic whose function is f at operands of its size. -/
theorem bufAtomic_form (hexec : ∀ s, exec ins s = .next (bufAtomic l u d a w cas F s))
    (hF : ∀ old x y, old < 2 ^ (8 * bufSize w.toNat) → x < 2 ^ (8 * bufSize w.toNat) → F (bufSize w.toNat) old x y = f old x y)
    (h : s.UnitReady [] (a.toNat :: (List.range (if cas then bufSize w.toNat / 2 else bufSize w.toNat / 4)).map (d.toNat + ·)) [a.toNat])
    (hd : s.destOk d.toNat (if cas then bufSize w.toNat / 2 else bufSize w.toNat / 4) = true) (ha : s.srcOk a.toNat = true) :
    let n := bufSize w.toNat
    let os := s.w.offsets a.toNat s.w.em
    let r := os.foldl (bufAtomicStep u n fun k old => f old (pairAt s.w d.toNat n k) (pairAt s.w (d.toNat + n / 4) n k)) (s.wg, [])
    s.BufferForm ins u n os
      { s.keepOld u (os.flatMap fun o => (List.range (n / 4)).map fun k => o.2 / 4 + k) with w := s.w.popped [a.toNat] 1, wg := r.1 }
      l.toNat .buffer (runLoads d (n / 4) (fun k x => BitVec.ofNat 32 (x / 2 ^ (32 * k))) r.2) := by
  intro n os r
  have hr : r = bufAtomics u n (fun k old => F n old (pairAt s.w d.toNat n k) (pairAt s.w (d.toNat + n / 4) n k)) os s.wg :=
    foldl_bufAtomicStep (fun k old ho => hF old _ _ ho (pairAt_lt s.w d.toNat k w)) os (s.wg, [])
  have hwords : bufWords n (os.map Prod.snd) = os.flatMap fun o => (List.range (n / 4)).map fun k => o.2 / 4 + k := by
    rw [show n / 4 = 2 ^ w.toNat from bufSize_div _]
    exact bufWords_eq _ os
  rw [← oldWrites_eq, ← hwords, hr]
  exact h.bufferForm (Bool.and_eq_true_iff.mpr ⟨hd, ha⟩) (hexec s) rfl rfl

end

/-! What a W word held before a write, kept for passes that have not read it (R217, R238). -/

/-- Words kept where none was kept before. -/
theorem Cells.get_foldl_keep (f : Nat → Word) (ks : List Nat) (c : Cells (Option Word)) (k : Nat) :
    (ks.foldl (fun c k => if (c.get none k).isNone then c.set none k (some (f k)) else c) c).get none k =
      if k ∈ ks ∧ c.get none k = none then some (f k) else c.get none k := by
  induction ks generalizing c with
  | nil => simp
  | cons j ks ih =>
    rw [List.foldl_cons, ih]
    cases hj : c.get none j with
    | none =>
      rw [Option.isNone_none, if_pos rfl, Cells.get_set]
      by_cases hk : k = j
      · subst hk
        simp [hj]
      · simp [hk]
    | some x =>
      rw [Option.isNone_some, if_neg Bool.false_ne_true]
      by_cases hk : k = j
      · subst hk
        simp [hj]
      · simp [hk]

/-- A matrix operation with passes that have not read. -/
def Op.unread (o : Op) : Bool :=
  match o.kind with
  | .matrix _ _ _ _ _ _ left _ _ _ _ => decide (left ≠ 0)
  | _ => false

/-- The operation is one of the running warp's workgroup. -/
def State.ownOp (s : State) (o : Op) : Bool := s.allWarps.any fun w => decide (w.place = o.place ∧ w.key = s.w.key)

/-- The operation once the words ks of the W allotment have been kept with it, if they must be. -/
def State.keptOp (s : State) (ks : List Nat) (o : Op) : Op :=
  if o.unread ∧ s.ownOp o then
    { o with old := ks.foldl (fun c k => if (c.get none k).isNone then c.set none k (some (s.wg.wword k)) else c) o.old }
  else o

theorem State.keepOld_A (s : State) (ks : List Nat) : s.keepOld 0 ks = s := if_pos rfl

theorem State.keepOld_W (s : State) (ks : List Nat) : s.keepOld 1 ks = { s with ops := s.ops.map (s.keptOp ks) } := by
  refine (if_neg (by decide)).trans (congrArg (fun ops => { s with ops := ops }) (List.map_congr_left fun o _ => ?_))
  obtain ⟨id, place, ac, ready, err, order, kind, old⟩ := o
  cases kind with
  | matrix => simp [State.keptOp, Op.unread, State.ownOp]
  | _ => rfl

theorem State.keepOld_ops_only (s : State) (u : BitVec 1) (ks : List Nat) :
    ({ s.keepOld u ks with ops := s.ops } : State) = s ∧ (s.keepOld u ks).ops.length = s.ops.length := by
  have bit : u = 0 ∨ u = 1 := by revert u; decide
  rcases bit with rfl | rfl
  · rw [State.keepOld_A]
    exact ⟨rfl, rfl⟩
  · rw [State.keepOld_W]
    exact ⟨rfl, List.length_map ..⟩

/-- An operation gains kept words and nothing else. -/
theorem State.keptOp_old_only (s : State) (ks : List Nat) (o : Op) : ({ s.keptOp ks o with old := o.old } : Op) = o := by
  unfold State.keptOp
  split <;> rfl

theorem State.get_keptOp (s : State) (ks : List Nat) (o : Op) (k : Nat) :
    (s.keptOp ks o).old.get none k =
      if k ∈ ks ∧ o.old.get none k = none ∧ (∃ x ∈ s.allWarps, x.place = o.place ∧ x.key = s.w.key) ∧ o.unread = true
      then some (s.wg.wword k) else o.old.get none k := by
  have hown : (∃ x ∈ s.allWarps, x.place = o.place ∧ x.key = s.w.key) ↔ s.ownOp o = true := by simp [State.ownOp]
  simp only [hown]
  unfold State.keptOp
  by_cases h : o.unread ∧ s.ownOp o
  · rw [if_pos h, Cells.get_foldl_keep]
    simp only [h, and_true]
  · rw [if_neg h, if_neg fun hk => h ⟨hk.2.2.2, hk.2.2.1⟩]

/-- Settles O36: each form makes the checks of R213 and then acts, an atomic by induction on its lanes; a write keeps what it covers. -/
theorem bufferAccesses : Obligations.BufferAccesses := by
  refine ⟨fun s l g u d a w hw => ?_, fun s l u d a w => ?_, fun s ks j o ho _ => ?_⟩
  · intro n r off fits lds sts regs
    refine ⟨fun h hd ha => ?_, fun h ha hd => ?_⟩
    · have hform := exec_bld_form (l := l) (u := u) hw h hd ha
      refine ⟨hform.misaligned, fun hal => ⟨hform.outside hal, fun hfit => hform.acts ?_⟩⟩
      rw [List.all_eq_true] at hal hfit ⊢
      exact fun o ho => Bool.and_eq_true_iff.mpr ⟨hal o ho, hfit o ho⟩
    · have hform := exec_bst_form (g := g) (u := u) hw h ha hd
      simp only [storeBytes_eq hw] at hform
      exact ⟨hform.misaligned, hform.outside, hform.acts⟩
  · intro n sx word val os forms ha f hf h hd
    have hval : ∀ r k, pairAt s.w r (bufSize w.toNat) k = val r k := fun r k => pairAt_eq s.w r n k
    have hsx : ∀ x, x < 2 ^ (8 * n) → signed (8 * n) x = sx x := fun x hx => signed_of_lt hx
    have hforms : ∀ f ∈ forms, ∃ cas F, (if cas then n / 2 else n / 4) = f.2.1
        ∧ (∀ s, exec f.1 s = .next (bufAtomic l u d a w cas F s))
        ∧ ∀ old x y, old < 2 ^ (8 * n) → x < 2 ^ (8 * n) → F n old x y = f.2.2 old x y := by
      simp only [forms, List.forall_mem_cons, List.not_mem_nil, false_imp_iff, implies_true, and_true]
      refine ⟨⟨false, _, rfl, fun _ => rfl, fun _ _ _ _ _ => rfl⟩, ⟨false, _, rfl, fun _ => rfl, fun old x _ ho hx => ?_⟩,
        ⟨false, _, rfl, fun _ => rfl, fun old x _ ho hx => ?_⟩, ⟨false, _, rfl, fun _ => rfl, fun _ _ _ _ _ => rfl⟩,
        ⟨true, _, rfl, fun _ => rfl, fun _ _ _ _ _ => rfl⟩⟩ <;>
      simp only [hsx _ ho, hsx _ hx]
    obtain ⟨cas, F, hrun, hexec, hF⟩ := hforms f hf
    rw [← hrun] at h hd
    have hform := bufAtomic_form hexec hF h hd ha
    simp only [hval] at hform
    exact ⟨hform.misaligned, hform.outside, hform.acts⟩
  · rw [State.keepOld_W]
    refine ⟨s.keepOld_A ks, fun u => s.keepOld_ops_only u ks, s.keptOp ks o, ?_, s.keptOp_old_only ks o, fun k => s.get_keptOp ks o k⟩
    rw [List.getElem?_map, ho]
    rfl

end Sys2Proof.Machine
end

section
/-! SUPPORT. Matrix instructions: the operands and the tile that they check, the A rows that they take, and the operation that they post
(R226 to R230, R235 to R241). -/

namespace Sys2Proof.Machine

/-! The octets that act, and the tile that an instruction names (R230, R236, R237). -/

theorem mem_octets {m : Mask} {j : Nat} : j ∈ octets m ↔ j < 8 ∧ ∃ i < 8, m.getLsbD (8 * j + i) = true := by
  have hbits : (m.extractLsb' (8 * j) 8).toNat ≠ 0 ↔ ∃ i < 8, m.getLsbD (8 * j + i) = true := by
    rw [Ne, ← BitVec.toNat_zero (w := 8), BitVec.toNat_inj, BitVec.eq_of_getLsbD_eq_iff]
    simp only [BitVec.getLsbD_extractLsb', BitVec.getLsbD_zero, not_forall, exists_prop]
    exact exists_congr fun i => and_congr_right fun hi => by simp [hi]
  unfold octets
  rw [List.mem_filter, List.mem_range, bitsOf_toNat, decide_eq_true_eq, hbits]

/-- An octet acts exactly when a lane does. -/
theorem octets_eq_nil {m : Mask} : octets m = [] ↔ m = 0 := by
  refine ⟨fun h => BitVec.eq_of_getLsbD_eq fun l hl => ?_, fun h => by subst h; decide⟩
  have hnone := List.eq_nil_iff_forall_not_mem.mp h (l / 8)
  rw [mem_octets] at hnone
  rw [show (0 : Mask).getLsbD l = false from BitVec.getLsbD_zero, ← Bool.not_eq_true]
  exact fun hlane => hnone ⟨by omega, l % 8, by omega, by rwa [Nat.div_add_mod]⟩

/-- A tile that meets R230 passes its check: its rows come in octets, so a row for one lane of an octet is a row for each. -/
theorem tileFits_ok {s : State} {c : BitVec 4} {f : Fmt} (h : s.tileMeets c f.width) : tileFits s c f = .ok () := by
  obtain ⟨hshape, hcols, hbits, hrows⟩ := h
  have hoctets : (octets s.w.em).all (fun j => decide (8 * j + 8 ≤ (s.w.tile c.toNat).rows)) = true := by
    refine List.all_eq_true.mpr fun j hj => decide_eq_true ?_
    obtain ⟨hj8, i, hi, hlane⟩ := mem_octets.mp hj
    have hrow := hrows (8 * j + i) (by omega) hlane
    unfold Tile.rows shapeRows at hrow ⊢
    omega
  unfold tileFits needTile
  rw [(trapIf_ok _ _ _).mpr (decide_eq_false hshape), (need_ok _ _).mpr]
  · rfl
  · simp [hcols, hbits, hoctets]

/-- A run of n registers that R36 admits. -/
theorem State.destOk_iff (s : State) (f : Nat) {n : Nat} (hn : 0 < n) : s.destOk f n = true ↔ f + n ≤ 120 ∧ f + n ≤ s.vregs := by
  simp only [State.destOk, Bool.and_eq_true, decide_eq_true_eq]
  omega

/-- Registers that no split-phase load has still to write hold no unit (R303). -/
theorem State.notPending_run {s : State} {d n : Nat} (h : ∀ k < n, s.pendingLanes (d + k) = false) :
    s.notPending ((List.range n).map (d + ·)) = .ok () := by
  refine (ready_ok _ _).mpr (List.all_eq_true.mpr fun r hr => ?_)
  obtain ⟨k, hk, rfl⟩ := List.mem_map.mp hr
  simp [h k (List.mem_range.mp hk)]

/-! The A reuse latch (R239). -/

/-- The latch, when an instruction takes its A rows from it. -/
def Warp.heldLatch (w : Warp) (r : BitVec 1) (a : BitVec 7) : Option Latch :=
  w.latch.filter fun x => r = 1 ∧ x.va = a.toNat ∧ x.fmt.toNat = fmA w.fm ∧ x.block.toNat = fmBlock w.fm

/-- The A rows of an instruction: n registers, from the latch or as they stand. -/
def Warp.aRows (w : Warp) (r : BitVec 1) (a : BitVec 7) (n : Nat) : List Vec :=
  match w.heldLatch r a with
  | some x => x.rows
  | none => (List.range n).map fun k => w.v (a.toNat + k)

/-- The warp with its latch as an instruction leaves it. -/
def Warp.latching (w : Warp) (r : BitVec 1) (a : BitVec 7) (n : Nat) : Warp :=
  { w with latch := if r = 0 then none else some ⟨a.toNat, BitVec.ofNat 4 (fmA w.fm), BitVec.ofNat 2 (fmBlock w.fm), w.aRows r a n⟩ }

/-- An instruction that takes its rows from the latch takes those that the latch holds. -/
theorem Warp.aRows_eq (w : Warp) (r : BitVec 1) (a : BitVec 7) (n : Nat) :
    w.aRows r a n = if (w.heldLatch r a).isSome = true then (w.latch.map Latch.rows).getD []
      else (List.range n).map fun k => w.v (a.toNat + k) := by
  unfold Warp.aRows
  cases hheld : w.heldLatch r a with
  | none => rfl
  | some x =>
    rw [(Option.filter_eq_some_iff.mp hheld).1]
    rfl

/-! `mma`, `mmas` and `mdist` (R236, R237). -/

/-- The KV of an instruction: its hint's payload, or K (R231). -/
def Warp.kvOf (w : Warp) (p : PassShape) : Nat := (w.hintKv.map BitVec.toNat).getD p.k

/-- Operands of a pass that step 1 of R236 admits. -/
def State.PassOperands (s : State) (a : BitVec 7) (p : PassShape) : Prop :=
  a.toNat % 8 = 0 ∧ a.toNat + (16 + p.scaleRegs) ≤ 120 ∧ a.toNat + (16 + p.scaleRegs) ≤ s.vregs
    ∧ 1 ≤ s.w.kvOf p ∧ s.w.kvOf p ≤ p.k

theorem State.not_passOperands {s : State} {a : BitVec 7} {p : PassShape} (h : a.toNat % 8 ≠ 0 ∨ 120 < a.toNat + (16 + p.scaleRegs)
    ∨ s.vregs < a.toNat + (16 + p.scaleRegs) ∨ s.w.kvOf p = 0 ∨ p.k < s.w.kvOf p) : ¬ s.PassOperands a p := by
  rintro ⟨ha, h120, hv, hkv, hk⟩
  omega

/-- They are those that pass both checks of the model. -/
theorem State.passOperands_iff {s : State} {a : BitVec 7} {p : PassShape} :
    s.PassOperands a p ↔ (a.toNat % 8 = 0 && s.destOk a.toNat (16 + p.scaleRegs)) = true
      ∧ (1 ≤ s.w.kvOf p && s.w.kvOf p ≤ p.k) = true := by
  simp only [Bool.and_eq_true, decide_eq_true_eq, s.destOk_iff a.toNat (show 0 < 16 + p.scaleRegs by omega), State.PassOperands,
    and_assoc]

/-- Step 2 of R236 and the post of R237, at s, whose latch then stands as in t. -/
def State.postPass (s t : State) (p : PassShape) (fn : BitVec 3) (c : BitVec 4) (o kv : Nat) (rows : List Vec) : Except Stop Eff := do
  tileFits s c p.c
  trapIf (o % 256 ≠ 0) 0x04 (BitVec.ofNat 64 o)
  trapIf (s.wg.wlen < o + p.bytes) 0x0B (BitVec.ofNat 64 o)
  s.canCharge c
  ready (s.tableLoad < 32 || (match youngest (s.clusterOf (clusterAt s.w.place)).entries s.w.place c with
    | some e => fuses e fn o kv (consulted s.w.fm) s.w.em
    | none => false)) s
  .ok { s := t.issueOp c (.matrix fn c o kv (consulted s.w.fm) s.w.em s.w.em rows s.classAfter 0 false) }

/-- A unit is told by its checks and by what its body does where it runs. -/
theorem unit_congr {acc : List Nat} {rc : Bool} {body body' : State → Except Stop Eff} {s : State} (h : s.accepts 22 acc rc)
    (hb : body s = body' s) : unit acc rc false body s = unit acc rc false body' s := by
  simp only [unit, unitMod_runs h, hb]

section
variable {s : State} {fn : BitVec 3} {r : BitVec 1} {c : BitVec 4} {a : BitVec 7} {b : BitVec 5} {p : PassShape}
  (h : s.accepts 22 [7] false)
include h

/-- A combination of `fm` outside Table 1 of R226. -/
theorem matrixUnit_noShape (hp : passShape s.w.fm = none) : matrixUnit fn r c a b s = s.trap 0x02 0 :=
  unit_trap h (by simp only [hp])

variable (hp : passShape s.w.fm = some p)
include hp

theorem matrixUnit_badOperand (hbad : ¬ s.PassOperands a p) : matrixUnit fn r c a b s = s.trap 0x02 0 := by
  refine unit_trap h ?_
  simp only [hp]
  by_cases hrun : (a.toNat % 8 = 0 && s.destOk a.toNat (16 + p.scaleRegs)) = true
  · have hkv : need (1 ≤ s.w.kvOf p && s.w.kvOf p ≤ p.k) = .error (.trap 0x02 0) :=
      if_neg fun hk => hbad (State.passOperands_iff.mpr ⟨hrun, hk⟩)
    unfold Warp.kvOf at hkv
    rw [(need_ok _ _).mpr hrun, hkv]
    rfl
  · rw [need, if_neg hrun]
    rfl

/-- Once the operands pass and the registers to be read are settled, an instruction leaves its latch, and posts unless EM is 0. -/
theorem matrixUnit_operands (hok : s.PassOperands a p)
    (hsettled : s.w.heldLatch r a = none → ∀ k < 16 + p.scaleRegs, s.pendingLanes (a.toNat + k) = false) :
    matrixUnit fn r c a b s = unit [7] false false (fun _ =>
      if s.w.em = 0 then .ok { s := { s with w := s.w.latching r a (16 + p.scaleRegs) } }
      else s.postPass { s with w := s.w.latching r a (16 + p.scaleRegs) } p fn c (s.w.s b.toNat).toNat (s.w.kvOf p)
        (s.w.aRows r a (16 + p.scaleRegs))) s := by
  obtain ⟨hrun, hkv⟩ := State.passOperands_iff.mp hok
  have hneed := (need_ok _ 0).mpr hkv
  refine unit_congr h ?_
  simp only [hp, (need_ok _ _).mpr hrun, octets_eq_nil, State.postPass, Warp.latching, Warp.aRows_eq]
  unfold Warp.kvOf at hneed ⊢
  rw [hneed]
  generalize hhit : (decide (r = 1) && _) = hit
  have hheld : (s.w.heldLatch r a).isSome = hit := by
    rw [← hhit, Warp.heldLatch]
    cases s.w.latch with
    | none => simp
    | some l => simp [Option.isSome_filter, Bool.decide_and, Bool.and_assoc]
  rw [hheld]
  cases hit with
  | true => rfl
  | false =>
    rw [State.notPending_run (hsettled (Option.not_isSome_iff_eq_none.mp (by simp [hheld])))]
    rfl

end

/-! The checks of step 2 of R236, and the post. -/

section
variable {s t : State} {p : PassShape} {fn : BitVec 3} {c : BitVec 4} {o kv : Nat} {rows : List Vec}
  (htile : s.tileMeets c p.c.width)
include htile

theorem State.postPass_misaligned (ho : o % 256 ≠ 0) :
    s.postPass t p fn c o kv rows = .error (.trap 0x04 (BitVec.ofNat 64 o)) := by
  rw [State.postPass, tileFits_ok htile, decide_eq_true ho]
  rfl

theorem State.postPass_outside (ho : o % 256 = 0) (hlen : s.wg.wlen < o + p.bytes) :
    s.postPass t p fn c o kv rows = .error (.trap 0x0B (BitVec.ofNat 64 o)) := by
  rw [State.postPass, tileFits_ok htile, (trapIf_ok _ _ _).mpr (decide_eq_false (not_not.mpr ho)), decide_eq_true hlen]
  rfl

theorem State.postPass_posts (ho : o % 256 = 0) (hlen : o + p.bytes ≤ s.wg.wlen)
    (hcnt : (s.w.counter c.toNat).cnt ≠ BitVec.allOnes 16) (hload : s.tableLoad < 32) :
    s.postPass t p fn c o kv rows =
      .ok { s := t.charged c (.matrix fn c o kv (consulted s.w.fm) s.w.em s.w.em rows s.classAfter 0 false) } := by
  have hcharge : s.canCharge c = .ok () := (ready_ok _ _).mpr (decide_eq_true hcnt)
  rw [State.postPass, tileFits_ok htile, (trapIf_ok _ _ _).mpr (decide_eq_false (not_not.mpr ho)),
    (trapIf_ok _ _ _).mpr (decide_eq_false (not_lt.mpr hlen)), hcharge, (ready_ok _ _).mpr (by rw [decide_eq_true hload]; rfl)]
  rfl

end

/-! `mtopk` and `mrel` (R240, R241). -/

theorem unitMod_ok {m : Nat} {acc : List Nat} {rc : Bool} {body : State → Except Stop Eff} {s : State} {e : Eff}
    (h : s.accepts m acc rc) (hb : body s = .ok e) : unitMod m acc rc false body s = (e.leaves s.w).finish := by
  rw [unitMod_runs h, hb]

theorem unitMod_trap {m : Nat} {acc : List Nat} {rc : Bool} {body : State → Except Stop Eff} {s : State} {c : BitVec 8} {v : DWord}
    (h : s.accepts m acc rc) (hb : body s = .error (.trap c v)) : unitMod m acc rc false body s = s.trap c v := by
  rw [unitMod_runs h, hb]

theorem exec_mrel {s : State} (h : s.accepts 22 [] false) :
    exec .mrel s = .next (({ s with w := { s.w with latch := none } } : State).computed []) :=
  congrArg Host.Outcome.next ((unit_ok h rfl).trans (finish_computed_of_ownsLeft rfl []))

/-- Entry i of the list of lane j of R240; a lane outside EM and an entry beyond the list hold the filler. -/
def topkEntry (f : Fmt) (m : Mask) (t : Tile) (j i : Nat) : Word × Word :=
  if m.getLsbD j then (tileBest f t j).getD i (0xFF80_0000, 0xFFFF_FFFF) else (0xFF80_0000, 0xFFFF_FFFF)

/-- The lists that the model keeps for all lanes give a lane its own. -/
theorem getD_lists_eq_topkEntry (f : Fmt) (m : Mask) (t : Tile) (i : Nat) {j : Nat} (hj : j < 64) :
    ((lanes.map fun j => if lane m j then tileBest f t j else []).getD j []).getD i (0xFF80_0000, 0xFFFF_FFFF) = topkEntry f m t j i := by
  have hlane : (lanes.map fun j => if lane m j then tileBest f t j else []).getD j [] = if m.getLsbD j then tileBest f t j else [] := by
    simp [lanes, List.getD, hj, lane]
  rw [hlane, topkEntry]
  split <;> rfl

/-- The results of `mtopk` (R240). -/
def topkWrites (d : BitVec 7) (k : Nat) (f : Fmt) (m : Mask) (t : Tile) : List RegWrite :=
  (List.range k).flatMap fun i =>
    [.v (d.toNat + i) m (Vec.ofFn fun j => (topkEntry f m t j i).1), .v (d.toNat + 8 + i) m (Vec.ofFn fun j => (topkEntry f m t j i).2)]

/-- Operands of `mtopk` that step 1 of R236 admits. -/
def State.topkOk (s : State) (d : BitVec 7) : Bool :=
  d.toNat % 8 = 0 && s.destOk d.toNat 16 && fmC s.w.fm ≤ 2 && 1 ≤ (s.w.hintMod.getD 0).toNat && (s.w.hintMod.getD 0).toNat ≤ 8

theorem State.topkOk_iff {s : State} {d : BitVec 7} :
    s.topkOk d = true ↔ d.toNat % 8 = 0 ∧ (d.toNat ≤ 104 ∧ d.toNat + 16 ≤ s.vregs) ∧ fmC s.w.fm ≤ 2
      ∧ 1 ≤ (s.w.hintMod.getD 0).toNat ∧ (s.w.hintMod.getD 0).toNat ≤ 8 := by
  have h104 : d.toNat + 16 ≤ 120 ↔ d.toNat ≤ 104 := by omega
  simp only [State.topkOk, Bool.and_eq_true, decide_eq_true_eq, s.destOk_iff d.toNat (show 0 < 16 by decide), h104, and_assoc]

section
variable {s : State} {l c : BitVec 4} {d : BitVec 7} (h : s.accepts 4 [4] false)
include h

theorem exec_mtopk_badOperand (hbad : ¬ s.topkOk d = true) : exec (.mtopk l c d) s = .next (s.trap 0x02 0) := by
  have hneed : need (s.topkOk d) = .error (.trap 0x02 0) := if_neg hbad
  unfold State.topkOk at hneed
  refine congrArg Host.Outcome.next (unitMod_trap h ?_)
  simp only [hneed]
  rfl

variable (hok : s.topkOk d = true) (hsettled : ∀ i < 16, s.pendingLanes (d.toNat + i) = false)
include hok hsettled

/-- Once the operands pass, an instruction ends at once unless a lane acts; then the tile and the table decide. -/
theorem exec_mtopk_operands :
    exec (.mtopk l c d) s = .next (unitMod 4 [4] false false (fun _ =>
      if s.w.em = 0 then .ok { s := s }
      else tileFits s c ((Fmt.ofCode (fmC s.w.fm)).getD .f32) >>= fun _ => ready (s.tableLoad < 32 && ¬ s.passes (some c)) s >>= fun _ =>
        .ok { s := s.postOp c (.matrix 3 c 0 0 0 s.w.em s.w.em [] s.classAfter 0 false), la := l.toNat
              writes := topkWrites d (s.w.hintMod.getD 0).toNat ((Fmt.ofCode (fmC s.w.fm)).getD .f32) s.w.em (s.w.tile c.toNat) }) s) := by
  have hneed := (need_ok _ 0).mpr hok
  unfold State.topkOk at hneed
  refine congrArg Host.Outcome.next ?_
  simp only [unitMod_runs h, hneed, State.notPending_run hsettled, octets_eq_nil, topkWrites,
    ← Vec.ofFn_congr fun j hj => congrArg Prod.fst (getD_lists_eq_topkEntry _ _ _ _ hj),
    ← Vec.ofFn_congr fun j hj => congrArg Prod.snd (getD_lists_eq_topkEntry _ _ _ _ hj)]
  rfl

theorem exec_mtopk_idle (hem : s.w.em = 0) : exec (.mtopk l c d) s = .next (s.computed []) := by
  rw [exec_mtopk_operands h hok hsettled, unitMod_ok h (if_pos hem)]
  exact congrArg Host.Outcome.next (finish_computed s [])

theorem exec_mtopk_posts (hem : s.w.em ≠ 0) (htile : s.tileMeets c ((Fmt.ofCode (fmC s.w.fm)).getD .f32).width)
    (hload : s.tableLoad < 32) (hpass : s.passes (some c) = false) :
    exec (.mtopk l c d) s = .next ((s.postOp c (.matrix 3 c 0 0 0 s.w.em s.w.em [] s.classAfter 0 false)).done
      (s.w.ran l.toNat .none (topkWrites d (s.w.hintMod.getD 0).toNat ((Fmt.ofCode (fmC s.w.fm)).getD .f32) s.w.em (s.w.tile c.toNat)))
      (s.w.pc + 4)) := by
  have hready : ready (s.tableLoad < 32 && ¬ s.passes (some c)) s = .ok () := (ready_ok _ _).mpr (by simp [hload, hpass])
  rw [exec_mtopk_operands h hok hsettled, unitMod_ok h ((if_neg hem).trans (by rw [tileFits_ok htile, hready]; rfl))]
  exact congrArg Host.Outcome.next (finish_la_of_ownsLeft rfl l.toNat .none _)

end

/-- Settles O37: an instruction checks its operands, then its tile, its panel and the table, and posts what its rows give. -/
theorem matrixPosting : Obligations.MatrixPosting := by
  refine ⟨fun s r c a b h f hf => ?_, fun s l c d => ⟨exec_mrel, fun h => ?_⟩⟩
  · have hexec : exec f.1 s = .next (matrixUnit f.2 r c a b s) := by
      simp only [List.mem_cons, List.not_mem_nil, or_false] at hf
      rcases hf with rfl | rfl | rfl <;> rfl
    rw [hexec]
    refine ⟨fun hp => congrArg Host.Outcome.next (matrixUnit_noShape h hp), fun p hp => ?_⟩
    intro n kv held rows o latch v fin
    refine ⟨fun hbad => congrArg Host.Outcome.next (matrixUnit_badOperand h hp (State.not_passOperands hbad)),
      fun ha h120 hv hkv hk hsettled => ?_⟩
    rw [matrixUnit_operands h hp ⟨ha, h120, hv, hkv, hk⟩ hsettled]
    refine ⟨fun hem => congrArg Host.Outcome.next ?_, fun hem htile => ⟨fun ho => congrArg Host.Outcome.next ?_,
      fun ho hlen => congrArg Host.Outcome.next ?_, fun ho hlen hcnt hload => congrArg Host.Outcome.next ?_⟩⟩
    · exact (unit_ok h (if_pos hem)).trans (finish_la_of_ownsLeft rfl 0 .none [])
    · exact unit_trap h ((if_neg hem).trans (State.postPass_misaligned htile ho))
    · exact unit_trap h ((if_neg hem).trans (State.postPass_outside htile ho hlen))
    · exact (unit_ok h ((if_neg hem).trans (State.postPass_posts htile ho hlen hcnt hload))).trans
        (finish_la_of_ownsLeft rfl 0 .none [])
  · refine ⟨fun hbad => exec_mtopk_badOperand h ?_, fun hd h104 hv hc h1 h8 hsettled => ?_⟩
    · rw [State.topkOk_iff]
      omega
    · have hok : s.topkOk d = true := State.topkOk_iff.mpr ⟨hd, ⟨h104, hv⟩, hc, h1, h8⟩
      exact ⟨exec_mtopk_idle h hok hsettled, exec_mtopk_posts h hok hsettled⟩

end Sys2Proof.Machine
end

section
/-! SUPPORT. The reservation table and its passes: entries, grants, the end of an operation, the elements that a pass writes and the panel
that it reads (R231 to R233, R238, R242 to R245, R450). -/

namespace Sys2Proof.Machine

/-! Creation of an entry (R242, R243). -/

/-- What R243 asks of the entry that an instruction joins. -/
theorem fuses_iff {e : MxEntry} {fn : BitVec 3} {off kv : Nat} {fm : BitVec 19} {m : Mask} :
    fuses e fn off kv fm m = true ↔ e.granted = false ∧ fn ≠ 3 ∧ e.fn = fn ∧ e.off = off ∧ e.kv = kv ∧ e.fm = fm
      ∧ ∀ j ∈ octets m, j ∉ e.octets := by
  simp [fuses, and_assoc]

section
variable {s : State} {o : Op} {fn : BitVec 3} {tile : BitVec 4} {off kv : Nat} {fm : BitVec 19} {m left : Mask} {rows : List Vec}
  {cls : BitVec 3} {fl : BitVec 8}

/-- A posted operation, no older one of its warp waiting, joins the youngest entry of its warp and tile where it fits, or takes a new
one of 32. -/
theorem exec_entryCreation_posted (hfind : s.findOp o.id = some o)
    (hkind : o.kind = .matrix fn tile off kv fm m left rows cls fl false) (holder : s.olderPosted o = false) :
    let cl := clusterAt o.place
    let x := s.clusterOf cl
    let t := s.setKind o.id (.matrix fn tile off kv fm m left rows cls fl true)
    exec (.entryCreation o.id) s = .next
      (((youngest x.entries o.place tile).filter fun e => fuses e fn off kv fm m).elim
        (if 32 ≤ x.entries.length then s
         else t.setCluster cl { x with
           entries := x.entries ++ [⟨o.place, fn, tile, off, kv, fm, [(o.id, m, rows)], cls, s.tick.toNat, false, 0⟩] })
        fun e => t.setCluster cl { x with
          entries := x.entries.map fun y => if y = e then { e with parts := e.parts ++ [(o.id, m, rows)] } else y }) := by
  intro cl x t
  change execEntryCreation o.id s = _
  unfold execEntryCreation
  simp only [hfind, hkind, holder, Bool.false_eq_true, if_false]
  cases (youngest x.entries o.place tile).filter fun e => fuses e fn off kv fm m <;> rfl

end

/-! The grant (R244, R421). -/

theorem State.focus_clusters (s : State) (p : Place) : (s.focus p).clusters = s.clusters := by
  unfold State.focus
  split
  · rfl
  · split <;> rfl

/-- A panel read takes picks and changes nothing else of the state. -/
theorem readPanel_state (old : Cells (Option Word)) (s : State) : ∃ n, (readPanel old s).1 = { s with fresh := n } := by
  induction old generalizing s with
  | nil => exact ⟨_, rfl⟩
  | cons x r ih =>
    obtain ⟨k, v⟩ := x
    obtain ⟨n, hn⟩ := ih s.pick.2
    refine ⟨n, Eq.trans ?_ hn⟩
    rw [readPanel]
    dsimp only
    split <;> rfl

theorem State.passPart_clusters (s : State) (e : MxEntry) (part : Nat × Mask × List Vec) : (s.passPart e part).clusters = s.clusters := by
  unfold State.passPart
  split
  · next o _ =>
    split
    · split
      · rfl
      · split
        · rfl
        · obtain ⟨n, hn⟩ := readPanel_state o.old (s.focus e.place)
          exact (State.focus_clusters _ _).trans ((congrArg State.clusters hn).trans (s.focus_clusters e.place))
    · rfl
  · rfl

/-- A grant charges the cluster, marks the entry, and leaves the rest of the cluster to its passes, which do not touch it. -/
theorem State.clusterOf_grant (c : Cluster) (e : MxEntry) (s : State) :
    (s.grant c e).clusterOf c = { s.clusterOf c with
      c := (s.clusterOf c).c - grantCost e
      entries := (s.clusterOf c).entries.map fun y => if y = e then { y with granted := true, grantedAt := s.tick.toNat } else y } := by
  have hfold : ∀ (ps : List (Nat × Mask × List Vec)) (t : State), (ps.foldl (fun s p => s.passPart e p) t).clusters = t.clusters := by
    intro ps
    induction ps with
    | nil => exact fun _ => rfl
    | cons p ps ih => exact fun t => (ih _).trans (t.passPart_clusters e p)
  unfold State.clusterOf State.grant
  rw [hfold]
  exact s.clusterOf_setCluster c _

theorem exec_arbiterGrant_none {s : State} {c : Cluster} (h : s.selectEntry c = none) : exec (.arbiterGrant c) s = .next s := by
  change Host.Outcome.next (s.arbiterGrant c) = _
  rw [State.arbiterGrant, h]

theorem exec_arbiterGrant_selected {s : State} {c : Cluster} {e : MxEntry} (h : s.selectEntry c = some e) :
    exec (.arbiterGrant c) s = .next (if grantCost e ≤ (s.clusterOf c).c then s.grant c e else s) := by
  change Host.Outcome.next (s.arbiterGrant c) = _
  rw [State.arbiterGrant, h]

/-! The end of an operation (R238, R299). -/

theorem Warp.unparkReady_park_only (w : Warp) : ∃ p, w.unparkReady = { w with park := p } := by
  unfold Warp.unparkReady
  repeat' split
  all_goals exact ⟨_, rfl⟩

/-- The end of an operation of the running warp, as that warp finds it. -/
theorem State.releaseOp_w {s : State} {o : Op} (hplace : o.place = s.w.place) (hlife : s.w.life ≠ .empty) (err : BitVec 3) :
    ∃ p, (s.releaseOp o err).w = { s.w.setCounter o.ac.toNat
      ⟨(s.w.counter o.ac.toNat).cnt - 1, (s.w.counter o.ac.toNat).err ||| o.err ||| err⟩ with park := p } := by
  have hw : (s.releaseOp o err).w = _ := State.mapWarps_w _ hlife
  rw [if_pos hplace.symm] at hw
  rw [hw]
  exact Warp.unparkReady_park_only _

/-- The release of an operation from the list of those outstanding. -/
theorem mem_releaseOp_ops {s : State} {o p : Op} {err : BitVec 3} (hp : p ∈ (s.releaseOp o err).ops) : p.id ≠ o.id := by
  have hp : p ∈ s.ops.filter fun x => x.id ≠ o.id := hp
  exact of_decide_eq_true (List.mem_filter.mp hp).2

/-- The table without the requests of an operation (R242). -/
def State.withoutPart (s : State) (o : Op) : State :=
  s.setCluster (clusterAt o.place)
    { s.clusterOf (clusterAt o.place) with entries := dropPart o.id (s.clusterOf (clusterAt o.place)).entries }

section
variable {s : State} {o : Op} {fn : BitVec 3} {tile : BitVec 4} {off kv : Nat} {fm : BitVec 19} {m left : Mask} {rows : List Vec}
  {cls : BitVec 3} {fl : BitVec 8} {inTable : Bool} (hfind : s.findOp o.id = some o)
  (hkind : o.kind = .matrix fn tile off kv fm m left rows cls fl inTable)
include hfind hkind

/-- An operation ends once its rows are written: `mtopk` is gone, a pass leaves its flags and the tile's dirty bit and is released. -/
theorem exec_passCompletion_eq :
    exec (.passCompletion o.id) s = .next (
      if left ≠ 0 then s
      else if fn = 3 then { s.withoutPart o with ops := s.ops.filter fun y => y.id ≠ o.id }
      else ((s.withoutPart o).mapWarps fun w =>
        if w.place = o.place then { w with fstat := w.fstat ||| fl, dirty := w.dirty ||| (1 <<< tile.toNat) } else w).releaseOp o 0) := by
  change execPassCompletion o.id s = _
  unfold execPassCompletion
  simp only [hfind, hkind]
  rfl

/-- A pass of the running warp that is done leaves its flags, its tile's dirty bit, and its counter (R238). -/
theorem exec_passCompletion_ends (hleft : left = 0) (hfn : fn ≠ 3) (hplace : o.place = s.w.place) (hlife : s.w.life ≠ .empty) :
    ∃ t, exec (.passCompletion o.id) s = .next t ∧ t.mem = s.mem ∧ s.released o 0 t ∧ t.w.fstat = s.w.fstat ||| fl
      ∧ t.w.dirty = s.w.dirty ||| (1 <<< tile.toNat) := by
  refine ⟨_, (exec_passCompletion_eq hfind hkind).trans
    (congrArg Host.Outcome.next ((if_neg (not_not.mpr hleft)).trans (if_neg hfn))), rfl, ?_⟩
  generalize hu : (s.withoutPart o).mapWarps _ = u
  have huw : u.w = { s.w with fstat := s.w.fstat ||| fl, dirty := s.w.dirty ||| (1 <<< tile.toNat) } := by
    rw [← hu, State.mapWarps_w _ (by exact hlife)]
    exact if_pos hplace.symm
  obtain ⟨p, hp⟩ := State.releaseOp_w (s := u) (o := o) (by rw [huw]; exact hplace) (by rw [huw]; exact hlife) 0
  rw [huw] at hp
  rw [State.released, hp]
  exact ⟨⟨fun p hp => mem_releaseOp_ops hp, Warp.counter_setCounter _ _ _⟩, rfl, rfl⟩

end

/-! The elements that a pass writes (R231). -/

theorem Tile.get_put (t : Tile) (i j l : Nat) {n : Nat} (v : Word) (hj : j < 64) (hn : n < 64) :
    (t.put i j v).get l n = if l = i ∧ n = j then BitVec.ofNat 32 (v.toNat % 2 ^ t.bits) else t.get l n := by
  have hkey : 64 * l + n = 64 * i + j ↔ l = i ∧ n = j := by omega
  unfold Tile.get Tile.put
  rw [Cells.get_set, if_congr hkey rfl rfl]

/-- Writes of elements whose values are told by their places. -/
theorem Tile.get_puts (f : Nat → Nat → Word) (ps : List (Nat × Nat)) (hps : ∀ p ∈ ps, p.2 < 64) (t : Tile) (l : Nat) {n : Nat}
    (hn : n < 64) : (t.puts (ps.map fun p => (p.1, p.2, f p.1 p.2))).get l n =
      if (l, n) ∈ ps then BitVec.ofNat 32 ((f l n).toNat % 2 ^ t.bits) else t.get l n := by
  induction ps generalizing t with
  | nil => simp [Tile.puts]
  | cons p ps ih =>
    obtain ⟨i, j⟩ := p
    obtain ⟨hj, hps⟩ := List.forall_mem_cons.mp hps
    change ((t.put i j (f i j)).puts _).get l n = _
    rw [ih hps, Tile.get_put t i j l (f i j) hj hn, show (t.put i j (f i j)).bits = t.bits from rfl]
    by_cases hmem : (l, n) ∈ ps
    · rw [if_pos hmem, if_pos (List.mem_cons_of_mem _ hmem)]
    · rw [if_neg hmem]
      by_cases hhead : l = i ∧ n = j
      · obtain ⟨rfl, rfl⟩ := hhead
        rw [if_pos ⟨rfl, rfl⟩, if_pos List.mem_cons_self]
      · rw [if_neg hhead, if_neg (by simpa [hmem] using hhead)]

/-- The code that a pass gives row l and column n of its tile (R231). -/
def passElement (p : PassShape) (fm : BitVec 19) (fn kv o : Nat) (regs : List Vec) (g : Group) (t : Tile) (l n : Nat) : Nat :=
  let terms := ((aOperand p (fmFtz fm) kv regs l).1.zip (bOperand p (fmFtz fm) kv g o n).1).map fun x => passTerm (fn = 2) x.1 x.2
  let input := if fn = 1 then [] else [p.c.decode (fmFtz fm) (t.get l n).toNat]
  let tail := if kv < p.k then [Machine.Num.zero false] else []
  (p.c.round 0 (fmSat fm) (fmFtz fm) 0 (Num.sum false (terms.map Prod.fst ++ input ++ tail)).1).1

/-- The elements of the rows of a lane set. -/
def rowElements (m : Mask) : List (Nat × Nat) := (laneList m).flatMap fun l => (List.range 32).map fun n => (l, n)

theorem mem_rowElements {m : Mask} {l n : Nat} (hl : l < 64) : (l, n) ∈ rowElements m ↔ m.getLsbD l = true ∧ n < 32 := by
  simp [rowElements, laneList, mem_lanes, lane, hl]

/-- A pass writes the elements of the rows of its lanes, each with its value. -/
theorem runPass_tile (p : PassShape) (fm : BitVec 19) (fn kv o : Nat) (m : Mask) (regs : List Vec) (g : Group) (t : Tile) :
    (runPass p fm fn kv o m regs g t).1 =
      t.puts ((rowElements m).map fun x => (x.1, x.2, BitVec.ofNat 32 (passElement p fm fn kv o regs g t x.1 x.2))) := by
  simp only [runPass, rowElements, passElement, passValue, decide_eq_true_eq, zipIdx_map_range, List.flatMap_map,
    List.map_flatMap, List.map_map, Function.comp_def]

theorem runPass_get (p : PassShape) (fm : BitVec 19) (fn kv o : Nat) (m : Mask) (regs : List Vec) (g : Group) (t : Tile) {l n : Nat}
    (hl : l < 64) (hn : n < 64) :
    (runPass p fm fn kv o m regs g t).1.get l n =
      if m.getLsbD l = true ∧ n < 32 then BitVec.ofNat 32 (passElement p fm fn kv o regs g t l n % 2 ^ 32 % 2 ^ t.bits)
      else t.get l n := by
  have hcols : ∀ x ∈ rowElements m, x.2 < 64 := by
    intro x hx
    obtain ⟨i, -, hx⟩ := List.mem_flatMap.mp hx
    obtain ⟨j, hj, rfl⟩ := List.mem_map.mp hx
    have := List.mem_range.mp hj
    omega
  rw [runPass_tile, Tile.get_puts (fun l n => BitVec.ofNat 32 (passElement p fm fn kv o regs g t l n)) _ hcols t l hn,
    if_congr (mem_rowElements hl) rfl rfl, BitVec.toNat_ofNat]

/-! The panel that a pass reads (R217, R238, R450). -/

theorem Group.abuf_bufWrite_W (g : Group) (o : Nat) (bs : List Byte) : (g.bufWrite 1 o bs).abuf = g.abuf := by
  induction bs generalizing g o with
  | nil => rfl
  | cons b r ih => exact ih _ _

/-- A write of a word of the W buffer and the words read after it. -/
theorem Group.wword_bufWrite (g : Group) (j k : Nat) (x : Word) :
    (g.bufWrite 1 (4 * j) (bytesOf 4 x.toNat)).wword k = if k = j then x else g.wword k := by
  unfold Group.wword
  split
  · next h =>
    rw [h, Group.bufRead_bufWrite_bytesOf, Nat.mod_eq_of_lt (show x.toNat < 256 ^ 4 from x.isLt), BitVec.ofNat_toNat, BitVec.setWidth_eq]
  · next h =>
    have hbytes : (List.range 4).map (fun i => (g.bufWrite 1 (4 * j) (bytesOf 4 x.toNat)).buf 1 (4 * k + i)) =
        (List.range 4).map fun i => g.buf 1 (4 * k + i) := by
      refine List.map_congr_left fun i hi => ?_
      have := List.mem_range.mp hi
      rw [Group.buf_bufWrite_bytesOf, if_neg (by omega)]
    rw [Group.bufRead, hbytes]
    rfl

/-- The first word of a panel that was overwritten is read as it stands, or as it was. -/
theorem readPanel_cons (k : Nat) (v : Option Word) (r : Cells (Option Word)) (s : State) :
    (readPanel ((k, v) :: r) s).2 = (readPanel r s.pick.2).2
      ∨ ∃ x, v = some x ∧ (readPanel ((k, v) :: r) s).2 = (readPanel r s.pick.2).2.bufWrite 1 (4 * k) (bytesOf 4 x.toNat) := by
  rw [readPanel]
  dsimp only
  split
  · next x _ => exact .inr ⟨x, rfl, rfl⟩
  · exact .inl rfl

/-- A panel read leaves the A buffer and finds each word of the W buffer as it stands, or as it was before it was overwritten. -/
theorem readPanel_words (old : Cells (Option Word)) (hwf : Cells.wf none old = true) (s : State) :
    (readPanel old s).2.abuf = s.wg.abuf
      ∧ ∀ k, (readPanel old s).2.wword k = s.wg.wword k ∨ old.get none k = some ((readPanel old s).2.wword k) := by
  induction old generalizing s with
  | nil => exact ⟨rfl, fun _ => .inl rfl⟩
  | cons e r ih =>
    obtain ⟨j, v⟩ := e
    obtain ⟨habove, -, hwf⟩ := (Cells.wf_cons none j v r).mp hwf
    obtain ⟨habuf, hwords⟩ := ih hwf s.pick.2
    have hunlisted : Cells.get none r j = none := Cells.get_unlisted none fun e he => (habove e he).ne'
    have hother : ∀ {k}, k ≠ j → Cells.get none ((j, v) :: r) k = Cells.get none r k := fun hk => if_neg hk.symm
    rcases readPanel_cons j v r s with hread | ⟨x, rfl, hread⟩
    · rw [hread]
      refine ⟨habuf, fun k => ?_⟩
      by_cases hk : k = j
      · subst hk
        exact .inl ((hwords k).resolve_right (by simp [hunlisted]))
      · rw [hother hk]
        exact hwords k
    · rw [hread, Group.abuf_bufWrite_W]
      refine ⟨habuf, fun k => ?_⟩
      rw [Group.wword_bufWrite]
      by_cases hk : k = j
      · subst hk
        exact .inr ((if_pos rfl).trans (congrArg some (if_pos rfl).symm))
      · rw [if_neg hk, hother hk]
        exact hwords k

/-- Settles O38: the table by what `fuses` asks, a grant and an end by what they leave, a pass by its writes, a panel word by word. -/
theorem matrixTable : Obligations.MatrixTable := by
  refine ⟨fun s o fn tile off kv fm m left rows cls fl inTable => ?_,
    fun p fm fn kv o m regs g t l n hl hn => runPass_get p fm fn kv o m regs g t hl hn, fun s old hwf => readPanel_words old hwf s⟩
  intro cl x kind mine joins entered
  refine ⟨fun hfind hkind holder => ?_, fun c => ⟨exec_arbiterGrant_none, fun e he => ?_⟩, fun hfind hkind hplace hlife => ?_⟩
  · have hexec := exec_entryCreation_posted hfind hkind holder
    have halone (hno : ∀ e, mine.getLast? = some e → ¬ joins e) :
        ((youngest x.entries o.place tile).filter fun e => fuses e fn off kv fm m) = none :=
      Option.filter_eq_none_iff.mpr fun e he hf => hno e he (fuses_iff.mp hf)
    refine ⟨fun hno hroom => ?_, fun hno hfull => ?_, fun e he hjoin => ?_⟩
    · exact hexec.trans (by rw [halone hno, Option.elim_none, if_neg (not_le.mpr hroom)]; rfl)
    · exact hexec.trans (by rw [halone hno, Option.elim_none, if_pos hfull])
    · have hyoung : ((youngest x.entries o.place tile).filter fun e => fuses e fn off kv fm m) = some e :=
        Option.filter_eq_some_iff.mpr ⟨he, fuses_iff.mpr hjoin⟩
      exact hexec.trans (by rw [hyoung]; rfl)
  · intro cost
    have hexec := exec_arbiterGrant_selected he
    refine ⟨fun hlow => hexec.trans (congrArg Host.Outcome.next (if_neg (not_le.mpr hlow))),
      fun hcost => ⟨s.grant c e, hexec.trans (congrArg Host.Outcome.next (if_pos hcost)), ?_⟩⟩
    rw [State.clusterOf_grant]
    exact ⟨State.grant_mem c e s, rfl, rfl⟩
  · have hexec := exec_passCompletion_eq hfind hkind
    refine ⟨fun hleft => hexec.trans (congrArg Host.Outcome.next (if_pos hleft)), fun hleft => ?_⟩
    by_cases hfn : fn = 3
    · refine ⟨_, hexec.trans (congrArg Host.Outcome.next ((if_neg (not_not.mpr hleft)).trans (if_pos hfn))), rfl, absurd hfn,
        fun _ => ⟨rfl, fun p hp => ?_⟩⟩
      exact of_decide_eq_true (List.mem_filter.mp hp).2
    · obtain ⟨t, ht, hmem, hreleased, hfstat, hdirty⟩ := exec_passCompletion_ends hfind hkind hleft hfn hplace hlife
      exact ⟨t, ht, hmem, fun _ => ⟨hreleased, hfstat, hdirty⟩, fun h => absurd h hfn⟩

end Sys2Proof.Machine
end
